-- ==== Sys2Proof/Word.lean ====
section
/-! DEFINITION. The word types of the Vrelmos 128 model (R18: little-endian fields, bit 0 least significant). -/

namespace Sys2Proof

abbrev Byte := BitVec 8
abbrev U16 := BitVec 16
abbrev U32 := BitVec 32
abbrev U64 := BitVec 64
/-- One 512-byte scratchpad row, vector register or Canopy row; byte n is bits [8n+7:8n] (R105, R154). -/
abbrev Row := BitVec 4096

end Sys2Proof
end

