-- ==== Sys2Proof/Syntax.lean ====
section
/-! DEFINITION. The commands of the Vrelmos 128: one constructor per row of the table of operations and events. What a
command needs from outside (port values, wire bytes, host memory, physical events, measured times) is its operand. -/

namespace Sys2Proof

/-- A byte of memory at an address. -/
abbrev Cell := Nat × Byte

/-- The two control ports (R8). -/
inductive Port where
  | host
  | spadja
deriving DecidableEq, Repr

/-- What the check code of a store finds when it is read (R148, R149, R431, R442): a physical event. -/
inductive Ecc where
  | clean
  | corrected
  | uncorrectable
deriving DecidableEq, Repr

/-- The operand fields of a tile instruction (R158). -/
structure Fields where
  rd : BitVec 5 := 0
  ra : BitVec 5 := 0
  rb : BitVec 5 := 0
  rc : BitVec 5 := 0
  ext : U32 := 0
deriving DecidableEq, Repr

/-- What physics does to the scratchpad accesses of one instruction: the cycles that waiting fabric writes delay the first of them
(R107), and the physical rows of the tile, by key, whose stored code has gone wrong since, each with whether it can be corrected
(R148, R149). -/
structure Access where
  delay : Nat := 0
  flaws : List (Nat × Bool) := []
deriving DecidableEq, Repr

/-- What comes to a job's fetch from outside: bytes that the host has placed in its memory before, and the DDR4 blocks and Canopy rows,
by address, whose stored code has gone wrong since, each with whether it can be corrected (R431, R442). -/
structure Outside where
  cells : List Cell := []
  flaws : List (Nat × Bool) := []
deriving DecidableEq, Repr

/-- A read or a write of LOOP_MDATA (R479). -/
inductive MdataAccess where
  | read
  | write (v : U32)
deriving DecidableEq, Repr

/-- A requested bridge table change (R403): a filtering database entry (MAC, VID, ports) or a VLAN membership. -/
inductive TableChange where
  | setStatic (mac : Nat) (vid : Nat) (ports : BitVec 6)
  | removeStatic (mac : Nat) (vid : Nat)
  | setVlan (vid : Nat) (ports : BitVec 6)
  | removeVlan (vid : Nat)
deriving DecidableEq, Repr

/-- The statuses a fabric operation can be refused with (R184), and those of a refused append (R286, R287, R312). -/
inductive RefusalStatus where
  | roleStale
  | bankOff
  | guardTimeout
  | invalidDescriptor
  | uncorrectableMemory
  | numericFail
  | resourceRefused
  | linkLost
deriving DecidableEq, Repr

/-- What a transfer does at its target (R132, R180): rows written, or rows read for a remote read. -/
inductive TransferKind where
  | rows (data : List Row)
  | fill (count : Nat) (pattern : U64)
  | signal
  | remoteRead (count : Nat)
deriving DecidableEq, Repr

/-- Where the rows of a remote read go (R129, R180): a handle of logical tile `ltile` of an image, whose placement and epoch the source
tile's egress supplies when it sends them (R102, R185), or, with `mem`, memory from row address `row`. -/
structure ReplyTo where
  image : Nat
  ltile : Nat
  handle : Nat
  row : Nat
  counter : Nat
  mem : Bool := false
deriving DecidableEq, Repr

/-- A transfer header reaching a tile's ingress (R102, R119, R129): the operation's number, the carried epoch, handle, first row,
arrival counter, what it does, the physical tile and the job that issued it, and where a remote read's rows go. -/
structure TransferHdr where
  id : Nat
  epoch : U16
  handle : Nat
  row : Nat
  counter : Nat
  kind : TransferKind
  issuer : Option Nat := none
  job : Option Nat := none
  reply : Option ReplyTo := none
deriving DecidableEq, Repr

/-- A change to a split sequence, sent by module 0 in its order (R310). -/
inductive SplitChange where
  | append (seq d : Nat) (rows : List Row)
  | fork (src dst : Nat) (atToken : Nat)
  | free (seq : Nat)
  | evict (seq : Nat) (pages : List Nat)
deriving DecidableEq, Repr

/-- A module's answer to a ring job (R351): it admits its part, refuses it for a cause, or does not hold the image. -/
inductive RingAnswer where
  | admitted
  | refused (cause : Nat)
  | noImage
deriving DecidableEq, Repr

/-- The flits of a Plaong link (R415). -/
inductive FlitType where
  | data
  | ack
  | nack
  | delay
  | ringControl
deriving DecidableEq, Repr

/-- A flit as R415 lays it out; the payload is 256 bytes for a data flit and empty for a control flit. -/
structure Flit where
  type : FlitType
  seq : BitVec 12
  ackSeq : BitVec 12
  cls : BitVec 2 := 0
  dst : Byte := 0
  src : Byte := 0
  msgSeq : U32 := 0
  payload : List Byte := []
  /-- The CRC-32C of the last block. -/
  crc : U32 := 0
deriving DecidableEq, Repr

/-- The inputs of one Clearing sample (R506, R526, R528): wake inputs, supply in mV, temperature in °C when sampled, seating and
eject pins. -/
structure ClrInputs where
  wake : BitVec 4
  supplyMv : Nat
  tempC : Option Int := none
  seatedN : Bool
  ejectReqN : Bool := true
deriving DecidableEq, Repr

/-- What a start-up stage reports when it completes (R493, R544 to R546): trained channels, tiles that failed the self-test,
slots and sets found valid, time in µs since power-good. -/
structure StageReport where
  channelsTrained : BitVec 4 := 0xF
  failedTiles : List Nat := []
  microseconds : Nat := 0
deriving DecidableEq, Repr

/-- One constructor per row of spec/opcode_table.json. -/
inductive Instr where
  /-- REGISTER_WRITE (R15). -/
  | registerWrite (p : Port) (off : Nat) (size : Nat) (v : U64)
  /-- LOW_WORD_READ_LATCH (R10). -/
  | lowWordReadLatch (p : Port) (off : Nat) (size : Nat)
  /-- SETUP_LOCK (R16). -/
  | setupLock (p : Port)
  /-- DEV_RESET (R541). -/
  | devReset (p : Port) (v : U32)
  /-- SAFE_ENTER_WRITE (R393). -/
  | safeEnterWrite (p : Port)
  /-- SAFE_EXIT_WRITE (R393). -/
  | safeExitWrite (p : Port)
  /-- HB_CHALLENGE (R391). -/
  | hbChallenge (p : Port) (v : U32)
  /-- HB_RESPONSE (R391). -/
  | hbResponse (hub keeper dog : Bool)
  /-- HB_TIMEOUT (R392). -/
  | hbTimeout
  /-- SUPQ_TAIL (R390). -/
  | supqTail (p : Port) (v : U32)
  /-- SUPCQ_HEAD (R390). -/
  | supcqHead (p : Port) (v : U32)
  /-- SQ_TAIL_DB (R360). -/
  | sqTailDb (k : Nat) (size : Nat) (v : U32)
  /-- CQ_HEAD_DB (R360). -/
  | cqHeadDb (k : Nat) (size : Nat) (v : U32)
  /-- ABORT_DB (R380). -/
  | abortDb (k : Nat) (size : Nat) (v : U32)
  /-- SQ_ENABLE (R358). -/
  | sqEnable (p : Port) (k : Nat) (v : U32)
  /-- SQ_DISABLE (R358). -/
  | sqDisable (p : Port) (k : Nat) (v : U32)
  /-- CQ_ENABLE (R358). -/
  | cqEnable (p : Port) (k : Nat) (v : U32)
  /-- CQ_DISABLE (R367). -/
  | cqDisable (p : Port) (k : Nat) (v : U32)
  /-- TIME_INC_WRITE (R398). -/
  | timeIncWrite (p : Port) (v : U64)
  /-- TIME_STEP_WRITE (R399). -/
  | timeStepWrite (p : Port) (v : U64)
  /-- REF_SEL_WRITE (R538). -/
  | refSelWrite (p : Port) (sel : Bool)
  /-- REF_SWITCHOVER_DONE (R538). -/
  | refSwitchoverDone
  /-- TSQ_INFO_READ (R408). -/
  | tsqInfoRead (p : Port) (n : Nat)
  /-- LOOP_MDATA_ACCESS (R479). -/
  | loopMdataAccess (p : Port) (a : MdataAccess)
  /-- MAN_WRITE (R468). -/
  | manWrite (p : Port) (k : Nat) (v : U16)
  /-- GCL_CHANGE (R404). -/
  | gclChange (p : Port) (n : Nat) (v : U32)
  /-- GCL_INSTALL (R404). -/
  | gclInstall (n : Nat)
  /-- PLK_REFORM (R423). -/
  | plkReform (p : Port)
  /-- PLK_LEAVE (R423). -/
  | plkLeave (p : Port)
  /-- LOOP_CLOSE (R470). -/
  | loopClose (p : Port) (k : Nat)
  /-- LOOP_OPEN (R471). -/
  | loopOpen (p : Port) (k : Nat)
  /-- LOOP_SWAP (R472). -/
  | loopSwap (p : Port) (k : Nat)
  /-- INJ_START (R475). -/
  | injStart (p : Port)
  /-- INJ_STOP (R475). -/
  | injStop (p : Port)
  /-- CAP_START (R476). -/
  | capStart (p : Port)
  /-- CAP_STOP (R476). -/
  | capStop (p : Port)
  /-- PIN_ZERO (R479). -/
  | pinZero (p : Port) (k : Nat)
  /-- READ_ID (R387). -/
  | readId (w : List Byte)
  /-- SPADJA_READ (R387). -/
  | spadjaRead (w : List Byte)
  /-- SPADJA_WRITE (R387). -/
  | spadjaWrite (w : List Byte)
  /-- SPADJA_STATUS (R387). -/
  | spadjaStatus (w : List Byte)
  /-- SPADJA_ABORT (R380). -/
  | spadjaAbort (w : List Byte)
  /-- SPADJA_SAFE (R393). -/
  | spadjaSafe (w : List Byte)
  /-- SPADJA_RESET (R541). -/
  | spadjaReset
  /-- GET_ATTEST (R498). -/
  | getAttest (p : Port) (flashErr : Bool)
  /-- GET_CERTS (R497). -/
  | getCerts (p : Port) (flashErr : Bool)
  /-- READ_LOG (R514). -/
  | readLog (p : Port) (flashErr : Bool)
  /-- UPDATE_BEGIN (R499). -/
  | updateBegin (p : Port) (flashErr : Bool)
  /-- UPDATE_DATA (R499). -/
  | updateData (p : Port) (flashErr : Bool)
  /-- UPDATE_END (R499). -/
  | updateEnd (p : Port) (flashErr : Bool)
  /-- SWITCH (R500). -/
  | switch (p : Port) (flashErr : Bool)
  /-- RATCHET (R496). -/
  | ratchet (p : Port) (flashErr : Bool)
  /-- REVOKE (R495). -/
  | revoke (p : Port) (flashErr : Bool)
  /-- SET_INT_KEY (R492). -/
  | setIntKey (p : Port) (flashErr : Bool)
  /-- CAL_EXPORT (R505). -/
  | calExport (p : Port) (flashErr : Bool)
  /-- CAL_WRITE (R504). -/
  | calWrite (p : Port) (flashErr : Bool)
  /-- CAL_IMPORT (R505). -/
  | calImport (p : Port) (flashErr : Bool)
  /-- CAN_TX (R414). -/
  | canTx (p : Port) (flashErr : Bool)
  /-- CAN_TX_ABORT (R414). -/
  | canTxAbort (p : Port) (flashErr : Bool)
  /-- NET_REQ (R403). -/
  | netReq (p : Port) (req : TableChange)
  /-- RUN_GRAPH (R318). -/
  | runGraph (q : Nat) (hm : Outside)
  /-- LOAD_IMAGE (R319). -/
  | loadImage (q : Nat) (hm : Outside)
  /-- UNLOAD_IMAGE (R557). -/
  | unloadImage (q : Nat) (hm : Outside)
  /-- SOLVE (R202). -/
  | solve (q : Nat) (hm : Outside)
  /-- SOLVE_BATCH (R228). -/
  | solveBatch (q : Nat) (hm : Outside)
  /-- ESTIMATE (R238). -/
  | estimate (q : Nat) (hm : Outside)
  /-- SCENARIO_SOLVE (R259). -/
  | scenarioSolve (q : Nat) (hm : Outside)
  /-- ATTEND (R301). -/
  | attend (q : Nat) (hm : Outside)
  /-- KV_APPEND (R287). -/
  | kvAppend (q : Nat) (hm : Outside)
  /-- SEQ_FORK (R290). -/
  | seqFork (q : Nat) (hm : Outside)
  /-- SEQ_FREE (R293). -/
  | seqFree (q : Nat) (hm : Outside)
  /-- SEQ_EVICT (R298). -/
  | seqEvict (q : Nat) (hm : Outside)
  /-- COPY (R363). -/
  | copy (q : Nat) (hm : Outside)
  /-- FILL (R363). -/
  | fill (q : Nat) (hm : Outside)
  /-- FENCE (R365). -/
  | fence (q : Nat) (hm : Outside)
  /-- ABORT (R380). -/
  | abort (q : Nat) (hm : Outside)
  /-- RECORD_START (R345). -/
  | recordStart (q : Nat) (hm : Outside)
  /-- RECORD_STOP (R347). -/
  | recordStop (q : Nat) (hm : Outside)
  /-- RECORD_SWITCH (R347). -/
  | recordSwitch (q : Nat) (hm : Outside)
  /-- REPLAY_CTL (R348). -/
  | replayCtl (q : Nat) (hm : Outside)
  /-- JOB_START_AT_COUNT (R350). -/
  | jobStartAtCount (j : Nat)
  /-- FENCE_RELEASE (R365). -/
  | fenceRelease (j : Nat)
  /-- AFTER_PREV_RELEASE (R365). -/
  | afterPrevRelease (j : Nat)
  /-- ITEM_DISPATCH (R328). -/
  | itemDispatch (t : Nat)
  /-- GRAPH_OUTPUT_COPY (R318). -/
  | graphOutputCopy (j : Nat)
  /-- UNLOAD_IMAGE_FINISH (R557). -/
  | unloadImageFinish (j : Nat)
  /-- COMPLETION_POST (R367). -/
  | completionPost (j : Nat) (writeFails : Bool)
  /-- COAL_TIMER_EXPIRY (R369). -/
  | coalTimerExpiry (k : Nat)
  /-- TRIGGERED_PASS (R370). -/
  | triggeredPass (k : Nat)
  /-- JOB_REEXECUTE (R222). -/
  | jobReexecute (j : Nat)
  /-- RING_JOB_ANSWER (R351). -/
  | ringJobAnswer (m : Nat) (tag : U64) (a : RingAnswer)
  /-- RING_JOB_GO (R351). -/
  | ringJobGo (tag : U64)
  /-- RING_JOB_CANCEL (R351). -/
  | ringJobCancel (tag : U64)
  /-- PROBLEM_START (R218). -/
  | problemStart (j : Nat) (i : Nat)
  /-- ASSEMBLY_DONE (R199). -/
  | assemblyDone (j : Nat) (i : Nat)
  /-- SOLVE_ITERATION (R208). -/
  | solveIteration (j : Nat) (i : Nat) (upset : List (Nat × U64))
  /-- DEADLINE_EXPIRY (R224). -/
  | deadlineExpiry (j : Nat) (i : Nat)
  /-- ADD (R164). -/
  | add (t : Nat) (imm : Bool) (f : Fields)
  /-- SUB (R164). -/
  | sub (t : Nat) (imm : Bool) (f : Fields)
  /-- AND (R164). -/
  | andI (t : Nat) (imm : Bool) (f : Fields)
  /-- OR (R164). -/
  | orI (t : Nat) (imm : Bool) (f : Fields)
  /-- XOR (R164). -/
  | xor (t : Nat) (imm : Bool) (f : Fields)
  /-- SLL (R164). -/
  | sll (t : Nat) (imm : Bool) (f : Fields)
  /-- SRL (R164). -/
  | srl (t : Nat) (imm : Bool) (f : Fields)
  /-- SRA (R164). -/
  | sra (t : Nat) (imm : Bool) (f : Fields)
  /-- SLT (R164). -/
  | slt (t : Nat) (imm : Bool) (f : Fields)
  /-- SLTU (R164). -/
  | sltu (t : Nat) (imm : Bool) (f : Fields)
  /-- MUL (R95). -/
  | mul (t : Nat) (imm : Bool) (f : Fields)
  /-- MULH (R95). -/
  | mulh (t : Nat) (imm : Bool) (f : Fields)
  /-- MULHU (R95). -/
  | mulhu (t : Nat) (imm : Bool) (f : Fields)
  /-- DIV (R94). -/
  | div (t : Nat) (imm : Bool) (f : Fields)
  /-- DIVU (R94). -/
  | divu (t : Nat) (imm : Bool) (f : Fields)
  /-- REM (R94). -/
  | rem (t : Nat) (imm : Bool) (f : Fields)
  /-- REMU (R94). -/
  | remu (t : Nat) (imm : Bool) (f : Fields)
  /-- LIH (R164). -/
  | lih (t : Nat) (f : Fields)
  /-- FADD_S (R164). -/
  | faddS (t : Nat) (f : Fields)
  /-- FSUB_S (R164). -/
  | fsubS (t : Nat) (f : Fields)
  /-- FMUL_S (R164). -/
  | fmulS (t : Nat) (f : Fields)
  /-- FMA_S (R164). -/
  | fmaS (t : Nat) (f : Fields)
  /-- FDIV_S (R164). -/
  | fdivS (t : Nat) (f : Fields)
  /-- FSQRT_S (R164). -/
  | fsqrtS (t : Nat) (f : Fields)
  /-- FMIN_S (R77). -/
  | fminS (t : Nat) (f : Fields)
  /-- FMAX_S (R77). -/
  | fmaxS (t : Nat) (f : Fields)
  /-- FEQ_S (R76). -/
  | feqS (t : Nat) (f : Fields)
  /-- FLT_S (R76). -/
  | fltS (t : Nat) (f : Fields)
  /-- FLE_S (R76). -/
  | fleS (t : Nat) (f : Fields)
  /-- FADD_D (R164). -/
  | faddD (t : Nat) (f : Fields)
  /-- FSUB_D (R164). -/
  | fsubD (t : Nat) (f : Fields)
  /-- FMUL_D (R164). -/
  | fmulD (t : Nat) (f : Fields)
  /-- FMA_D (R164). -/
  | fmaD (t : Nat) (f : Fields)
  /-- FDIV_D (R164). -/
  | fdivD (t : Nat) (f : Fields)
  /-- FSQRT_D (R164). -/
  | fsqrtD (t : Nat) (f : Fields)
  /-- FMIN_D (R77). -/
  | fminD (t : Nat) (f : Fields)
  /-- FMAX_D (R77). -/
  | fmaxD (t : Nat) (f : Fields)
  /-- FEQ_D (R76). -/
  | feqD (t : Nat) (f : Fields)
  /-- FLT_D (R76). -/
  | fltD (t : Nat) (f : Fields)
  /-- FLE_D (R76). -/
  | fleD (t : Nat) (f : Fields)
  /-- FCVT (R164). -/
  | fcvt (t : Nat) (f : Fields)
  /-- BEQ (R165). -/
  | beq (t : Nat) (f : Fields)
  /-- BNE (R165). -/
  | bne (t : Nat) (f : Fields)
  /-- BLT (R165). -/
  | blt (t : Nat) (f : Fields)
  /-- BGE (R165). -/
  | bge (t : Nat) (f : Fields)
  /-- BLTU (R165). -/
  | bltu (t : Nat) (f : Fields)
  /-- BGEU (R165). -/
  | bgeu (t : Nat) (f : Fields)
  /-- JAL (R165). -/
  | jal (t : Nat) (f : Fields)
  /-- JR (R165). -/
  | jr (t : Nat) (f : Fields)
  /-- END (R166). -/
  | endProg (t : Nat) (f : Fields)
  /-- LD (R167). -/
  | ld (t : Nat) (f : Fields) (a : Access)
  /-- ST (R167). -/
  | st (t : Nat) (f : Fields) (a : Access)
  /-- LDT (R132). -/
  | ldt (t : Nat) (f : Fields) (a : Access)
  /-- LDS (R132). -/
  | lds (t : Nat) (f : Fields) (a : Access)
  /-- ACCLD (R167). -/
  | accld (t : Nat) (f : Fields) (a : Access)
  /-- ACCST (R167). -/
  | accst (t : Nat) (f : Fields) (a : Access)
  /-- CWB (R167). -/
  | cwb (t : Nat) (f : Fields)
  /-- VADD (R168). -/
  | vadd (t : Nat) (f : Fields)
  /-- VSUB (R168). -/
  | vsub (t : Nat) (f : Fields)
  /-- VMUL (R168). -/
  | vmul (t : Nat) (f : Fields)
  /-- VFMA (R168). -/
  | vfma (t : Nat) (f : Fields)
  /-- VMIN (R168). -/
  | vmin (t : Nat) (f : Fields)
  /-- VMAX (R168). -/
  | vmax (t : Nat) (f : Fields)
  /-- VCEQ (R168). -/
  | vceq (t : Nat) (f : Fields)
  /-- VCLT (R168). -/
  | vclt (t : Nat) (f : Fields)
  /-- VCLE (R168). -/
  | vcle (t : Nat) (f : Fields)
  /-- VSEL (R168). -/
  | vsel (t : Nat) (f : Fields)
  /-- VAND (R168). -/
  | vand (t : Nat) (f : Fields)
  /-- VOR (R168). -/
  | vor (t : Nat) (f : Fields)
  /-- VXOR (R168). -/
  | vxor (t : Nat) (f : Fields)
  /-- VIADD (R168). -/
  | viadd (t : Nat) (f : Fields)
  /-- VEXP2 (R75). -/
  | vexp2 (t : Nat) (f : Fields)
  /-- VLOG2 (R75). -/
  | vlog2 (t : Nat) (f : Fields)
  /-- VRCP (R75). -/
  | vrcp (t : Nat) (f : Fields)
  /-- VRSQ (R75). -/
  | vrsq (t : Nat) (f : Fields)
  /-- VBCAST (R168). -/
  | vbcast (t : Nat) (f : Fields)
  /-- VEXT (R168). -/
  | vext (t : Nat) (f : Fields)
  /-- VINS (R168). -/
  | vins (t : Nat) (f : Fields)
  /-- VMOV (R168). -/
  | vmov (t : Nat) (f : Fields)
  /-- VRSUM (R73). -/
  | vrsum (t : Nat) (f : Fields)
  /-- VRMAX (R168). -/
  | vrmax (t : Nat) (f : Fields)
  /-- VDOT (R169). -/
  | vdot (t : Nat) (f : Fields)
  /-- VCVT (R170). -/
  | vcvt (t : Nat) (f : Fields)
  /-- CVTB (R171). -/
  | cvtb (t : Nat) (f : Fields)
  /-- DCVB (R171). -/
  | dcvb (t : Nat) (f : Fields)
  /-- MMA (R177). -/
  | mma (t : Nat) (f : Fields) (a : Access) (abft : Bool)
  /-- ACCZ (R173). -/
  | accz (t : Nat) (f : Fields)
  /-- WAITA (R120). -/
  | waita (t : Nat) (f : Fields)
  /-- WAIT_TIMEOUT (R120). -/
  | waitTimeout (t : Nat)
  /-- FPBAR (R86). -/
  | fpbar (t : Nat) (f : Fields)
  /-- EBAR (R178). -/
  | ebar (t : Nat) (f : Fields)
  /-- NOP (R178). -/
  | nop (t : Nat) (f : Fields)
  /-- SEND (R180). -/
  | send (t : Nat) (f : Fields)
  /-- RREAD (R180). -/
  | rread (t : Nat) (f : Fields)
  /-- FILLR (R180). -/
  | fillr (t : Nat) (f : Fields)
  /-- COPYR (R180). -/
  | copyr (t : Nat) (f : Fields)
  /-- SIG (R180). -/
  | sig (t : Nat) (f : Fields)
  /-- RDFLG (R186). -/
  | rdflg (t : Nat) (f : Fields)
  /-- CLRFLG (R186). -/
  | clrflg (t : Nat) (f : Fields)
  /-- TRAPEN (R186). -/
  | trapen (t : Nat) (f : Fields)
  /-- RDMAX (R186). -/
  | rdmax (t : Nat) (f : Fields)
  /-- CLRMAX (R186). -/
  | clrmax (t : Nat) (f : Fields)
  /-- RDBLK (R186). -/
  | rdblk (t : Nat) (f : Fields)
  /-- CLRBLK (R186). -/
  | clrblk (t : Nat) (f : Fields)
  /-- RDID (R186). -/
  | rdid (t : Nat) (f : Fields)
  /-- RDCYC (R186). -/
  | rdcyc (t : Nat) (f : Fields)
  /-- RDTIME (R186). -/
  | rdtime (t : Nat) (f : Fields)
  /-- RDARR (R186). -/
  | rdarr (t : Nat) (f : Fields)
  /-- RICF (R206). -/
  | ricf (t : Nat) (f : Fields)
  /-- RICS (R556). -/
  | rics (t : Nat) (f : Fields)
  /-- PGREQ (R280). -/
  | pgreq (t : Nat) (f : Fields)
  /-- PGAPP (R283). -/
  | pgapp (t : Nat) (f : Fields)
  /-- ILLEGAL_INSTRUCTION (R163). -/
  | illegalInstruction (t : Nat)
  /-- TRAP_DELIVERY_TIMER (R85). -/
  | trapDeliveryTimer (t : Nat)
  /-- GUARD_TIMEOUT (R125). -/
  | guardTimeout (t : Nat) (held : Option Nat)
  /-- CACHE_LINE_ARRIVAL (R135). -/
  | cacheLineArrival (t : Nat)
  /-- TRANSFER_INGRESS (R102). -/
  | transferIngress (t : Nat) (x : TransferHdr)
  /-- TRANSFER_LANDED (R119). -/
  | transferLanded (t : Nat) (x : Nat)
  /-- TRANSFER_ACK (R181). -/
  | transferAck (t : Nat) (x : Nat)
  /-- REFUSAL_RETURN (R184). -/
  | refusalReturn (t : Nat) (x : Nat) (st : RefusalStatus)
  /-- FABRIC_RESEND (R131). -/
  | fabricResend (t : Nat)
  /-- FABRIC_WRITE_PRIORITY (R107). -/
  | fabricWritePriority (t : Nat)
  /-- ROLE_CHANGE_DONE (R101). -/
  | roleChangeDone (t : Nat)
  /-- BANK_DRAIN (R144). -/
  | bankDrain (t : Nat) (b : Nat)
  /-- BANK_GATE (R144). -/
  | bankGate (t : Nat) (b : Nat)
  /-- LIVE_REMAP (R142). -/
  | liveRemap (t : Nat) (h : Nat)
  /-- LIVE_REMAP_RESUME (R142). -/
  | liveRemapResume (t : Nat) (h : Nat) (newBase : Nat)
  /-- TILE_ROW_SPARE (R140). -/
  | tileRowSpare (t : Nat) (bank : Nat) (brow : Nat)
  /-- TILE_RETIRE (R333). -/
  | tileRetire (t : Nat) (reason : Nat)
  /-- TILE_DRAIN (R337). -/
  | tileDrain (t : Nat)
  /-- THROTTLE_STEP (R484). -/
  | throttleStep (region : Nat)
  /-- DUTY_RAISE_STEP (R484). -/
  | dutyRaiseStep (region : Nat)
  /-- PAGE_MOVE (R274). -/
  | pageMove (ppn : Nat) (toCanopy : Bool)
  /-- PAGE_MOVE_DONE (R274). -/
  | pageMoveDone (ppn : Nat)
  /-- WALKER_MISS_RETURN (R278). -/
  | walkerMissReturn (s : Nat) (i : Nat) (uncorrectable : Bool)
  /-- PAGE_COPY_DONE (R292). -/
  | pageCopyDone (s : Nat)
  /-- APPEND_COMMIT (R287). -/
  | appendCommit (s : Nat)
  /-- ATTEND_OUTPUT_WRITE (R303). -/
  | attendOutputWrite (j : Nat) (e : Nat) (uncorrectable : Bool)
  /-- SPLIT_CHANGE_MESSAGE (R310). -/
  | splitChangeMessage (c : SplitChange)
  /-- RING_SPLIT_PARTIAL (R311). -/
  | ringSplitPartial (j : Nat) (row : Nat) (m l : U32) (o : List U32)
  /-- PCIE_LINK_DOWN (R384). -/
  | pcieLinkDown
  /-- PCIE_LINK_UP (R385). -/
  | pcieLinkUp
  /-- FLR (R385). -/
  | flr
  /-- PERST_ASSERT (R541). -/
  | perstAssert
  /-- FIFO_TAKE (R375). -/
  | fifoTake (n : Nat) (j : Nat) (i : Nat)
  /-- FIFO_CUT_THROUGH (R376). -/
  | fifoCutThrough (n : Nat) (j : Nat) (i : Nat) (landed : Nat)
  /-- FIFO_CREDIT_RETURN (R374). -/
  | fifoCreditReturn (n : Nat) (seq : Nat)
  /-- PLAN_ENTRY_BEGIN (R464). -/
  | planEntryBegin
  /-- PLAN_STEP_ACTIVATE (R465). -/
  | planStepActivate (k : Nat)
  /-- FRAME_INGRESS (R402). -/
  | frameIngress (port : Nat) (b : List Byte) (fcsOk : Bool) (stamp : Nat)
  /-- SYNC_TIMEOUT (R400). -/
  | syncTimeout
  /-- TIME_SYNC_STEP (R400). -/
  | timeSyncStep (gm : U64)
  /-- GATE_INTERVAL_END (R404). -/
  | gateIntervalEnd (n : Nat)
  /-- FRAME_LAUNCH (R410). -/
  | frameLaunch (n : Nat)
  /-- LAUNCH_LATE (R411). -/
  | launchLate (n : Nat)
  /-- FRAME_EGRESS (R408). -/
  | frameEgress (n : Nat) (stamp : Nat)
  /-- PPS_IN_EDGE (R521). -/
  | ppsInEdge (stamp : Nat)
  /-- CAN_FRAME_RX (R413). -/
  | canFrameRx (c : Nat) (id : U32) (dlc : Byte) (data : List Byte)
  /-- CAN_FRAME_TX (R414). -/
  | canFrameTx (c : Nat) (b : Nat)
  /-- CAN_BUS_OFF_RECOVERY (R412). -/
  | canBusOffRecovery (c : Nat)
  /-- FLIT_RECEIVE (R416). -/
  | flitReceive (l : Nat) (x : Flit) (crcOk : Bool)
  /-- ACK_TIMEOUT (R417). -/
  | ackTimeout (l : Nat)
  /-- LANE_LOCK_LOSS (R415). -/
  | laneLockLoss (l : Nat)
  /-- RETRY_WINDOW_END (R417). -/
  | retryWindowEnd (l : Nat) (ovr : Bool)
  /-- LINK_TRAINED (R418). -/
  | linkTrained (l : Nat)
  /-- RING_DISCOVER (R418). -/
  | ringDiscover (pos : Nat) (head : Bool)
  /-- DELAY_MEASUREMENT (R420). -/
  | delayMeasurement (l : Nat) (delay16 : Nat) (offset : Int)
  /-- TIME_ALIGN_STEP (R421). -/
  | timeAlignStep (target : U64)
  /-- DDR_REFRESH (R437). -/
  | ddrRefresh (ch : Nat)
  /-- DDR_TEMP_POLL (R433). -/
  | ddrTempPoll (ch : Nat) (hot : Bool) (coolFor1s : Bool)
  /-- DDR_SCRUB_READ (R434). -/
  | ddrScrubRead (ch : Nat) (e : Ecc)
  /-- CANOPY_SCRUB (R443). -/
  | canopyScrub (slice : Nat) (e : Ecc)
  /-- TILE_SCRUB (R443). -/
  | tileScrub (t : Nat) (bank : Nat) (e : Ecc)
  /-- DDR_ROW_SPARE (R446). -/
  | ddrRowSpare (ch : Nat) (bank : Nat) (row : Nat)
  /-- LOOP_TIMER (R461). -/
  | loopTimer (k : Nat)
  /-- ADC_CONVERSION_DONE (R454). -/
  | adcConversionDone (c : Nat) (code : U16)
  /-- PIN_EDGE (R456). -/
  | pinEdge (c : Nat) (rising : Bool) (both : Bool) (ticks : Nat)
  /-- PIN_STOP_TIMEOUT (R456). -/
  | pinStopTimeout (c : Nat)
  /-- PWM_PERIOD_START (R462). -/
  | pwmPeriodStart (c : Nat)
  /-- SENSOR_SAMPLE (R483). -/
  | sensorSample (sensor : Nat) (v : Int)
  /-- SUPPLY_SAMPLE (R523). -/
  | supplySample (vin vhold : Nat)
  /-- WRITE_GUARD_RELEASE (R512). -/
  | writeGuardRelease
  /-- OVERVOLTAGE_STOP (R523). -/
  | overvoltageStop
  /-- SUPPLY_RECOVERY (R523). -/
  | supplyRecovery
  /-- CLEARING_POWER_ON_RESET (R523). -/
  | clearingPowerOnReset
  /-- WATCHDOG_EXPIRY (R482). -/
  | watchdogExpiry
  /-- FIRMWARE_READY (R482). -/
  | firmwareReady
  /-- LOG_RECORD_WRITE (R487). -/
  | logRecordWrite
  /-- LOG_SEAL (R488). -/
  | logSeal
  /-- HUB_RELOAD (R500). -/
  | hubReload
  /-- TRIAL_CONFIRM (R501). -/
  | trialConfirm (kind : Nat)
  /-- CLEARING_SAMPLE (R506). -/
  | clearingSample (x : ClrInputs)
  /-- SLEEP_SEQUENCE (R509). -/
  | sleepSequence
  /-- SLEEP_DELAY_EXPIRY (R509). -/
  | sleepDelayExpiry
  /-- POWER_GOOD (R544). -/
  | powerGood (srisPin : Bool)
  /-- STARTUP_STAGE_DONE (R544). -/
  | startupStageDone (x : StageReport)
  /-- SURPRISE_REMOVAL (R529). -/
  | surpriseRemoval
  /-- DRAIN_TIMEOUT (R528). -/
  | drainTimeout
  /-- EJECT_OK (R528). -/
  | ejectOk
  /-- EXTREF_LOSS (R539). -/
  | extrefLoss
  /-- EXTREF_RESTORE (R539). -/
  | extrefRestore
  /-- CLEARING_POWER_ON (R526). -/
  | clearingPowerOn
  /-- PERST_RELEASE (R547). -/
  | perstRelease
  /-- STREAM_RECOVERY_RESET (R405). -/
  | streamRecoveryReset (f : Nat)
  /-- MSIX_UNMASK (R369). -/
  | msixUnmask (p : Port) (v : Nat)
  /-- PPS_OUT_PULSE (R521). -/
  | ppsOutPulse (high : Bool)
  /-- UNDEFINED_OPCODE_JOB (R4). -/
  | undefinedOpcodeJob (q : Nat) (hm : Outside)
  /-- MBOX_BAD_CMD (R514). -/
  | mboxBadCmd (p : Port) (flashErr : Bool)
deriving DecidableEq, Repr

end Sys2Proof
end

