-- ==== Sys2Proof/Machine/Map.lean ====
section
/-! DEFINITION. Sparse maps from addresses to data in one canonical form: keys strictly rising, no entry equal to what an
unlisted key reads as. Equal maps are equal lists. -/

namespace Sys2Proof.Machine

/-- A sparse map; `dflt k` is what an unlisted key reads as. -/
abbrev SMap (α : Type) := List (Nat × α)

/-- What key `k` holds, where an unlisted key holds `dflt`. -/
def mapGet {α : Type} (dflt : α) : SMap α → Nat → α
  | [], _ => dflt
  | (a, v) :: r, k => if a = k then v else mapGet dflt r k

/-- Remove key `k`. -/
def mapErase {α : Type} : SMap α → Nat → SMap α
  | [], _ => []
  | (a, v) :: r, k => if a = k then mapErase r k else (a, v) :: mapErase r k

/-- List `v` under key `k`. -/
def mapInsert {α : Type} : SMap α → Nat → α → SMap α
  | [], k, v => [(k, v)]
  | (a, w) :: r, k, v =>
    if a = k then (k, v) :: r else if k < a then (k, v) :: (a, w) :: r else (a, w) :: mapInsert r k v

/-- Store `v` at key `k`; a value equal to the default removes the entry, so that the form stays canonical. -/
def mapSet {α : Type} [DecidableEq α] (dflt : α) (m : SMap α) (k : Nat) (v : α) : SMap α :=
  if v = dflt then mapErase m k else mapInsert m k v

/-- What key `k` lists, if anything. -/
def mapFind {α : Type} : SMap α → Nat → Option α
  | [], _ => none
  | (a, v) :: r, k => if a = k then some v else mapFind r k

/-- Every key of the map is at least `lo`, and the keys rise strictly. -/
def mapRising {α : Type} : Nat → SMap α → Bool
  | _, [] => true
  | lo, (a, _) :: r => decide (lo ≤ a) && mapRising (a + 1) r

/-- The canonical form over a default that depends on the key. -/
def mapWf {α : Type} [DecidableEq α] (dflt : Nat → α) (m : SMap α) : Bool :=
  mapRising 0 m && m.all (fun e => decide (e.2 ≠ dflt e.1))

/-- Remove every key for which `p` holds. -/
def mapDrop {α : Type} (p : Nat → Bool) (m : SMap α) : SMap α := m.filter (fun e => !p e.1)

/-- Memory: bytes by address (R18: all addresses are byte addresses). -/
abbrev Memory := SMap Byte

/-- What a byte of DDR4, Canopy or host memory that nothing has written reads as: R544 writes every DDR4 block and Canopy row
to zero; host memory is the model's choice (DESIGN CHOICE, notes/assumptions/11). -/
def memDefault : Byte := 0

def memRead (m : Memory) (a : Nat) : Byte := mapGet memDefault m a

def memWrite (m : Memory) (a : Nat) (b : Byte) : Memory := mapSet memDefault m a b

/-- The canonical form of a memory. -/
def Memory.wf (m : Memory) : Bool := mapWf (fun _ => memDefault) m

/-- `n` bytes from address `a`, rising. -/
def memReadN (m : Memory) (a : Nat) : Nat → List Byte
  | 0 => []
  | n + 1 => memRead m a :: memReadN m (a + 1) n

/-- Bytes stored from address `a`, rising. -/
def memWriteN (m : Memory) (a : Nat) : List Byte → Memory
  | [] => m
  | b :: r => memWriteN (memWrite m a b) (a + 1) r

/-- The little-endian number of a byte list (R18). -/
def leNat : List Byte → Nat
  | [] => 0
  | b :: r => b.toNat + 256 * leNat r

/-- The `n` little-endian bytes of a number (R18). -/
def leBytes : Nat → Nat → List Byte
  | 0, _ => []
  | n + 1, v => BitVec.ofNat 8 v :: leBytes n (v / 256)

/-- The big-endian number of a byte list. -/
def beNat (l : List Byte) : Nat := l.foldl (fun a b => 256 * a + b.toNat) 0

/-- The `n` big-endian bytes of a number. -/
def beBytes (n v : Nat) : List Byte := (leBytes n v).reverse

/-- The little-endian number in `n` bytes from address `a`. -/
def memReadLe (m : Memory) (a n : Nat) : Nat := leNat (memReadN m a n)

/-- Store the `n` little-endian bytes of `v` from address `a`. -/
def memWriteLe (m : Memory) (a n v : Nat) : Memory := memWriteN m a (leBytes n v)

/-- Field [hi:lo] of a number. -/
def bits (v hi lo : Nat) : Nat := v / 2 ^ lo % 2 ^ (hi + 1 - lo)

/-- Field [hi:lo] of a number replaced by the low bits of `x`. -/
def setBits (v hi lo x : Nat) : Nat :=
  v - bits v hi lo * 2 ^ lo + x % 2 ^ (hi + 1 - lo) * 2 ^ lo

/-- Bit `i` of a number. -/
def bit (v i : Nat) : Bool := v / 2 ^ i % 2 = 1

/-- 1 for true, 0 for false. -/
def b2n (b : Bool) : Nat := if b then 1 else 0

/-- The two's complement value of the low `w` bits. -/
def sx (w v : Nat) : Int := if v % 2 ^ w < 2 ^ (w - 1) then (v % 2 ^ w : Nat) else (v % 2 ^ w : Nat) - (2 : Int) ^ w

/-- The low `w` bits of an integer, two's complement. -/
def unsx (w : Nat) (v : Int) : Nat := (v % (2 : Int) ^ w).toNat

/-- A counter of `w` bits that saturates. -/
def satInc (w v n : Nat) : Nat := min (v + n) (2 ^ w - 1)

/-- Replace element `i` of a list, if it has one. -/
def listSet {α : Type} : List α → Nat → α → List α
  | [], _, _ => []
  | _ :: r, 0, v => v :: r
  | x :: r, i + 1, v => x :: listSet r i v

/-- The list 0, 1, …, n - 1. -/
def upto (n : Nat) : List Nat := List.range n

end Sys2Proof.Machine
end

