-- ==== Sys2Proof/Machine/Ecdsa.lean ====
section
/-! DEFINITION. Verification of ECDSA signatures on the curve P-521 (R492, R497; FIPS 186-5). The constants of the curve are those of
the standard that the rules name (PRESUMED, notes/assumptions/42). -/

namespace Sys2Proof.Machine

/-- The prime of the field, the coefficient b (a is −3), the order of the base point and the base point. -/
def ecP : Nat := 2 ^ 521 - 1
def ecB : Nat := 0x51953EB9618E1C9A1F929A21A0B68540EEA2DA725B99B315F3B8B489918EF109E156193951EC7E937B1652C0BD3BB1BF073573DF883D2C34F1EF451FD46B503F00
def ecN : Nat := 0x1FFFFFFFFFFFFFFFFFFFFFFFFFFFFFFFFFFFFFFFFFFFFFFFFFFFFFFFFFFFFFFFFFA51868783BF2F966B7FCC0148F709A5D03BB5C9B8899C47AEBB6FB71E91386409
def ecG : Nat × Nat :=
  (0xC6858E06B70404E9CD9E3ECB662395B4429C648139053FB521F828AF606B4D3DBAA14B5E77EFE75928FE1DC127A2FFA8DE3348B3C1856A429BF97E7E31C2E5BD66,
   0x11839296A789A3BC0045C8A5FB42C7D1BD998F54449579B446817AFBD17273E662C97EE72995EF42640C550B9013FAD0761353C7086A272C24088BE94769FD16650)

/-- `b ^ e` modulo `m` by the low `n` bits of `e`. -/
def powMod (m : Nat) : Nat → Nat → Nat → Nat → Nat
  | 0, _, _, r => r
  | n + 1, b, e, r => powMod m n (b * b % m) (e / 2) (if e % 2 = 1 then r * b % m else r)

/-- The inverse modulo a prime `m`. -/
def invMod (m a : Nat) : Nat := powMod m 521 (a % m) (m - 2) 1

/-- A point of the curve; none is the point at infinity. -/
abbrev EcPoint := Option (Nat × Nat)

/-- The sum of two points. -/
def ecAdd (p q : EcPoint) : EcPoint :=
  match p, q with
  | none, q => q
  | p, none => p
  | some (x, y), some (u, v) =>
    let third (l : Nat) : EcPoint :=
      let w := (l * l + 2 * ecP - x - u) % ecP
      some (w, (l * (x + ecP - w) + ecP - y) % ecP)
    if x = u then
      if (y + v) % ecP = 0 then none else third ((3 * x * x + ecP - 3) % ecP * invMod ecP (2 * y) % ecP)
    else third ((v + ecP - y) * invMod ecP (u + ecP - x) % ecP)

/-- `k` times a point by the low `n` bits of `k`. -/
def ecMul : Nat → Nat → EcPoint → EcPoint → EcPoint
  | 0, _, _, r => r
  | n + 1, k, p, r => ecMul n (k / 2) (ecAdd p p) (if k % 2 = 1 then ecAdd r p else r)

/-- The point that an uncompressed public key of 133 bytes names, if it lies on the curve. -/
def ecKey (key : List Byte) : EcPoint :=
  let x := beNat ((key.drop 1).take 66)
  let y := beNat ((key.drop 67).take 66)
  if key.length = 133 && key.head? = some 4 && decide (x < ecP) && decide (y < ecP) && (y * y + 3 * x) % ecP = (x * x * x + ecB) % ecP then
    some (x, y)
  else none

/-- The signature (r, s), 66 bytes each, big-endian, holds for a message digest under a public key. -/
def ecVerify (key digest sig : List Byte) : Bool :=
  let r := beNat (sig.take 66)
  let s := beNat ((sig.drop 66).take 66)
  match ecKey key with
  | none => false
  | some q =>
    if sig.length ≠ 132 || r = 0 || s = 0 || decide (ecN ≤ r) || decide (ecN ≤ s) then false
    else
      let w := invMod ecN s
      match ecAdd (ecMul 521 (beNat digest * w % ecN) (some ecG) none) (ecMul 521 (r * w % ecN) (some q) none) with
      | none => false
      | some (x, _) => x % ecN = r

end Sys2Proof.Machine
end

