-- ==== Sys2Proof/Config.lean ====
section
/-! DEFINITION. The free values: what the manual leaves open. Each is an uninterpreted constant; nothing can be proved of its
value. A plain counter of the state makes each use a fresh one. -/

namespace Sys2Proof.Config

/-- A 64-bit value that the manual lets vary or does not give, one for each number; each use says which it is.
(DESIGN CHOICE, notes/assumptions/110.) -/
opaque freeU64 : Nat → BitVec 64

/-- A byte that the manual does not give: one that an aborted job may have written (R382; DESIGN CHOICE, notes/assumptions/105). -/
opaque freeByte : Nat → BitVec 8

/-- A truth value that the manual does not fix. -/
opaque freeBool : Nat → Bool

/-- The compiler's layout of a coefficient block (R197): the length of its pattern section. -/
opaque patternLen : List (BitVec 8) → Nat

/-- Whether the block's sizes agree with a template's dimensions (R197). -/
opaque coefSizesAgree : List (BitVec 8) → List (BitVec 8) → Bool

/-- The base value of an entry of a coefficient block (R198), by stage, datum, row and column; none where the pattern marks the
entry absent. Datum numbers are those of `Machine.Datum`. (DESIGN CHOICE, notes/assumptions/107.) -/
opaque coefBase : List (BitVec 8) → Nat → Nat → Nat → Nat → Option (BitVec 64)

/-- The coefficient of an entry on a parameter (R198); none where absent. -/
opaque coefParam : List (BitVec 8) → Nat → Nat → Nat → Nat → Nat → Option (BitVec 64)

/-- The order of the block that the vendor's code factors at a stage, from the template's numbers and the stage (R205).
(DESIGN CHOICE, notes/assumptions/106.) -/
opaque solveOrder : List Nat → Nat → Nat

/-- Value number `idx` that the vendor's code computes within a stage, from the numbers it computes from; the first of them says what
is computed. The order of operations within a stage is the vendor's (R205, R208, R210, R229). (DESIGN CHOICE, notes/assumptions/106.) -/
opaque solveValue : List Nat → Nat → BitVec 64

/-- The flags that the operations within the stages of an iteration raise, and those of the vendor's tests and certificate, from the
numbers they compute from (R63, R80). (DESIGN CHOICE, notes/assumptions/106.) -/
opaque solveFlags : List Nat → BitVec 6

/-- One of those operations gives a NaN (R89). (DESIGN CHOICE, notes/assumptions/106.) -/
opaque solveNan : List Nat → Bool

/-- Numbers of the operation of vendor code that a trap record names (R84, R89), from what the code computes from: 0 its tile among
those at work, 1 its program counter, 2 its ordinal, 3 its element. (DEDUCED, notes/assumptions/116.) -/
opaque vendorOp : List Nat → Nat → Nat

/-- The vendor's code forms c + a × b of one element with one rounding (R208, R210). -/
opaque solveFused : Bool

/-- Forester's choice of BASE_ROW for a handle (R322), by a fresh number and the handle. -/
opaque baseRow : Nat → Nat → Nat

/-- The state digest of a recording (R346) over the data it covers: the manual does not give the order in which they are taken.
(DESIGN CHOICE, notes/assumptions/112.) -/
opaque stateDigest : List Nat → BitVec 128

/-! ### Identity and images (R492, R497, R503): keys, certificates and image contents are the manufacturer's -/

/-- The module's serial number. -/
opaque serial : BitVec 128

/-- BODY_DIGEST of the image of a kind that the module is shipped with. -/
opaque imageDigest : Nat → BitVec 512

/-- The Miohoyth signature of the factory calibration set. -/
opaque factorySig : BitVec 1056

/-- The uncompressed public point of a root key slot. -/
opaque slotKey : Nat → BitVec 1064

/-- The public key that signs factory calibration sets. -/
opaque factoryKey : BitVec 1064

/-- What the ROM measures into MEAS0 (R493): its version and the fuse state; the manual does not give the bytes.
(DEDUCED, notes/assumptions/109.) -/
opaque romState : Nat → BitVec 4 → List (BitVec 8) → Bool → BitVec 512

/-- The public attestation key derived from MEAS0 and MEAS1 (R497). -/
opaque akPublic : List (BitVec 8) → List (BitVec 8) → BitVec 1064

/-- The attestation key's signature of a digest; ECDSA takes a fresh secret number for each. -/
opaque akSign : List (BitVec 8) → List (BitVec 8) → List (BitVec 8) → Nat → BitVec 1056

/-- The attestation key's certificate; 364 bytes are left for it in the blob of R505. -/
opaque akCert : List (BitVec 8) → List (BitVec 8) → BitVec 2912

/-- The Miohoyth certificate and the identity certificate. -/
opaque certChain : List (BitVec 8)

/-- An attestation key certificate verifies under this module's identity key (R505). -/
opaque certVerifies : List (BitVec 8) → Bool

/-! ### The kind 5 image (R491): the manual does not give the layout of its body -/

/-- The words of CLR_CTRL, CLR_FILT and CLR_RULE0 to CLR_RULE15 (0, 1, 2 to 17). (DESIGN CHOICE, notes/assumptions/108.) -/
opaque cfgClearing : List (BitVec 8) → Nat → BitVec 32

/-- The words of the CAN acceptance filters (R424). -/
opaque cfgCanFilter : List (BitVec 8) → Nat → BitVec 32

/-- Static filtering entries (MAC, VID, ports) and VLANs (VID, ports) (R403). -/
opaque cfgFdb : List (BitVec 8) → List (Nat × Nat × Nat)
opaque cfgVlans : List (BitVec 8) → List (Nat × Nat)

end Sys2Proof.Config
end

