-- ==== Sys2Proof/Machine/AttnState.lean ====
section
/-! DEFINITION. The state of the Attend system and of the FIFOs (chapters 07 and 09). -/

namespace Sys2Proof.Machine

/-- Page-information entry (R272). -/
structure PageInfo where
  ref : Nat := 0
  pin : Nat := 0
  canopy : Bool := false
  slot : Nat := 0
  alloc : Bool := false
deriving DecidableEq, Repr

/-- Page-table entry (R275). -/
structure PtEntry where
  p0 : Nat
  p1 : Nat := 0xFFFFF
  evicted : Bool := false
  fill : Nat := 0
  score : Nat := 0
deriving DecidableEq, Repr

/-- Sequence record and its page table (R263, R275, R310). (DEDUCED, notes/assumptions/119.) -/
structure Seq where
  active : Bool := false
  split : Bool := false
  d : Nat := 0
  entries : List PtEntry := []
  /-- Indices whose entry, or whose page-information entry, was found uncorrectable (R448): lookups that reach them are refused
  until the sequence is freed. -/
  lost : List Nat := []
  /-- Modules of the ring when the sequence was created (R310). -/
  ringM : Nat := 1
  /-- Which creation of this number it is: a sequence freed and created anew is another one (R297). -/
  born : Nat := 0
  /-- A module that held pages of it is lost, and its pages with it, until the sequence is freed (R312). -/
  gone : Bool := false
deriving DecidableEq, Repr

/-- A page of a snapshot (R301): index, halves, fill, whether pinned. -/
structure SnapPage where
  idx : Nat
  p0 : Nat
  p1 : Nat
  fill : Nat
  evicted : Bool
  pinned : Bool
deriving DecidableEq, Repr

/-- The partial result of a query row (R311): m, l and the undivided output as FP32 codes, and per page its index, maximum and sum. -/
structure RowPart where
  row : Nat
  m : Nat
  l : Nat
  o : List Nat
  mass : List (Nat × Nat × Nat) := []
deriving DecidableEq, Repr

/-- An entry of the length table (R300) with its snapshot, its tile, and whether its rows have been computed there and, for all but a
split sequence, written. For a split one: its module count, this module's partial results, and per row the final m and l (R305,
R311). -/
structure AttendEntry where
  seq : Nat
  qlen : Nat
  kvLen : Nat
  qPos0 : Nat
  window : Nat
  mask : Nat
  len : Nat
  pages : List SnapPage
  tile : Nat
  row0 : Nat
  done : Bool := false
  born : Nat := 0
  ringM : Nat := 1
  parts : List RowPart := []
  finals : List (Nat × Nat × Nat) := []
  scored : Bool := false
deriving DecidableEq, Repr

/-- An ATTEND job at work: the fields of its record (R300) and its entries; partial results of the ring (R311). -/
structure AttendJob where
  job : Nat
  hq : Nat
  d : Nat
  smScale : Nat
  qAddr : Nat
  oAddr : Nat
  statAddr : Nat
  ringSplit : Bool
  entries : List AttendEntry
  /-- With RING_SPLIT: the rows that have gone through this module, on module 0 those whose result has come back (R311). -/
  ringRows : List Nat := []
deriving DecidableEq, Repr

/-- Who asked for an append: a job, a tile's PGAPP (tile, operation), or module 0 (R282, R283, R310). -/
inductive AppendBy where
  | job (j : Nat)
  | tile (t op : Nat)
  | ring
deriving DecidableEq, Repr

/-- A change or a snapshot that waits for earlier changes of its sequences (R266): a job with the bytes of its record, or an
append of a tile or of module 0 with its input rows, or another change that module 0 sends. -/
inductive Change where
  | job (j : Nat) (raw : List Byte)
  | app (by_ : AppendBy) (seq d : Nat) (rows : List Row)
  | ring (c : SplitChange)
deriving DecidableEq, Repr

/-- An append in progress (R287): who asked, input rows, fresh pages per index and half, and the copy that must complete first:
source and fresh page of each half (R292). -/
structure Append where
  who : AppendBy
  seq : Nat
  d : Nat
  split : Bool
  rows : List Row
  fresh : List (Nat × Nat)
  copy : Option ((Nat × Nat) × (Nat × Nat)) := none
deriving DecidableEq, Repr

/-- A change or snapshot in its turn, whose lookups are out (R278, R279). -/
structure Walk where
  id : Nat
  change : Change
deriving DecidableEq, Repr

/-- A lookup that waits at the walker: the tile and the operation of its PGREQ, the request, and whether it holds a reserved
slot, another slot, or waits for one (R279). One made for a change names its walk instead of an operation; `deadline` says that it
serves a job of a deadline class. -/
structure Lookup where
  tile : Nat
  op : Nat
  seq : Nat
  idx : Nat
  part : Nat
  half : Nat
  handle : Nat
  row : Nat
  counter : Nat
  reserved : Bool
  waiting : Bool
  walk : Option Nat := none
  deadline : Bool := false
deriving DecidableEq, Repr

/-- The Attend system. -/
structure Attn where
  pages : SMap PageInfo := []
  seqs : SMap Seq := []
  /-- Page numbers freed, oldest first; numbers never used yet start at `nextPpn` (R274: the order does not matter). -/
  freeList : List Nat := []
  nextPpn : Nat := 0
  /-- Page numbers of the pool; Canopy slots and DDR4 slots in use. -/
  pool : Nat := 0
  canopyUsed : List Nat := []
  ddrUsed : List Nat := []
  /-- Device addresses of Canopy slot 0 and DDR4 slot 0 (R314). -/
  canopyBase : Nat := 0
  ddrBase : Nat := 0
  canopySlots : Nat := 0
  ddrSlots : Nat := 0
  /-- The look-aside buffer: (sequence, index), most recently used first. -/
  lab : List (Nat × Nat) := []
  lookups : List Lookup := []
  /-- Changes whose lookups are out, in the order of their turns, and the number of the next. -/
  walks : List Walk := []
  nextWalk : Nat := 0
  /-- Page requests that have their entry and wait for a pin (R294). -/
  pinWait : List Lookup := []
  /-- Creations of sequences so far (R297). -/
  births : Nat := 0
  /-- Partial results that came before this module's own (R311): the TAG of their job and the row. -/
  early : List (Nat × RowPart) := []
  /-- Jobs whose entries are dealt to their tiles singly, since entries that share pages did not fit together (R307). -/
  dealtSingly : List Nat := []
  appends : List Append := []
  waiting : List Change := []
  attends : List AttendJob := []
  /-- Pages pinned by transfers of PGREQ: operation number and page (R281). -/
  pgPins : List (Nat × Nat) := []
  /-- Page moves in progress: page, to Canopy, new slot (R274). -/
  moves : List (Nat × Bool × Nat) := []
deriving DecidableEq, Repr

/-- A stream FIFO entry (R373). -/
structure FifoEntry where
  seq : Nat
  bad : Bool
  src : Nat
  tIngress : Nat
  payload : List Byte
  begun : Bool := false
  /-- The frame that it came from, if it entered through bridge port 4 (R346). -/
  frame : List Byte := []
deriving DecidableEq, Repr

/-- A stream FIFO: entries oldest first, the next entry number, consumers waiting in order (job, problem). -/
structure Fifo where
  entries : List FifoEntry := []
  nextSeq : Nat := 0
  waiters : List (Nat × Nat) := []
deriving DecidableEq, Repr

/-- A plan FIFO entry (R378). -/
structure PlanEntry where
  tag : Nat
  status : Nat
  source : Nat
  nu : Nat
  steps : Nat
  mask : Nat
  tMeas : Nat
  seq : Nat
  u : List Nat
  begun : Bool := false
deriving DecidableEq, Repr

/-- The FIFO store (R372). -/
structure Fifos where
  stream : SMap Fifo := []
  plan : List PlanEntry := []
  planSeq : Nat := 0
  /-- Job pushes that wait for a free entry: job, FIFO, payload (R374). -/
  pushes : List (Nat × Nat × List Byte) := []
deriving DecidableEq, Repr

end Sys2Proof.Machine
end

