-- ==== Sys2Proof/Machine/LinkState.lean ====
section
/-! DEFINITION. The state of the Plaong links, and of the scrubbers (chapters 10 and 11) that no register
holds. -/

namespace Sys2Proof.Machine

/-- One Plaong link (R415 to R417): the next sequence number sent, the flits not acknowledged, oldest first, with the times each
was sent again, the next sequence number expected, whether a negative acknowledgement has been sent and not answered, bad retry
windows in a row. The first 128 flits of `replay` have been sent; those behind them wait for a place. -/
structure Link where
  nextSeq : Nat := 0
  replay : List (Flit × Nat) := []
  expect : Nat := 0
  nacked : Bool := false
  badWindows : Nat := 0
deriving DecidableEq, Repr

/-- The links, and the ring as this module sees it. -/
structure Links where
  link : SMap Link := []
  /-- End-to-end message sequence: the next of this module, and the last applied of each source (R415, R419, R422). -/
  msgSeq : Nat := 0
  applied : SMap Nat := []
  /-- Messages of which only the first flits have come, by source. -/
  parts : SMap (List Byte) := []
  /-- The device time at which a link last went down, and at which REFORM was last written (R417). -/
  downAt : Option Nat := none
  reformAt : Option Nat := none
  /-- Formation has ended since reset (R418). -/
  formed : Bool := false
  /-- Broken places: i stands for the one between positions i and i + 1 (R422). -/
  breaks : List Nat := []
  /-- Measurements within ±4 ns in a row while this module aligns (R421). -/
  aligned : Nat := 0
  /-- Modules that align, as module 0 hears of them. -/
  aligning : List Nat := []
deriving DecidableEq, Repr

/-- Scrub pointers: the next burst of each DDR4 channel by its number in ascending address order, passes completed per channel; the
next row of each Canopy slice; the next row of each tile bank under 16·tile + bank (R434, R443). -/
structure Scrub where
  ddr : SMap Nat := []
  passes : SMap Nat := []
  canopy : SMap Nat := []
  tile : SMap Nat := []
  /-- Corrected errors of DDR4 rows, and rows that reported a contained uncorrectable error, by channel, bank and row (R446). -/
  rowErrs : SMap Nat := []
  rowBad : List Nat := []
deriving DecidableEq, Repr

end Sys2Proof.Machine
end

