-- ==== Sys2Proof/Machine/LoopState.lean ====
section
/-! DEFINITION. The state of the loop engine (chapter 12) that no register holds. -/

namespace Sys2Proof.Machine

/-- The states of a section (R457): four samples and the residue. -/
structure SecState where
  x1 : Int := 0
  x2 : Int := 0
  y1 : Int := 0
  y2 : Int := 0
  r : Int := 0
deriving DecidableEq, Repr

/-- A sample under way (R454, R456): the device time of its trigger in ns, the AIN channels still converting, the pulse values
latched for measurement and set-point, the plan's set-point. -/
structure LoopSample where
  instant : Nat
  ains : List Nat := []
  m : Int := 0
  sp : Int := 0
deriving DecidableEq, Repr

/-- A plan FIFO entry begun by the engine, by the order of beginning (R464). -/
structure Begun where
  ord : Nat
  entry : PlanEntry
deriving DecidableEq, Repr

/-- What a loop takes from the plan FIFO: the entry in use, the last step that became active, whether it is exhausted (R464,
R465). -/
structure LoopPlan where
  use : Begun
  step : Nat
  exhausted : Bool := false
deriving DecidableEq, Repr

/-- One loop. -/
structure LoopS where
  secs : SMap SecState := []
  sample : Option LoopSample := none
  /-- A SWAP waits for the next sample (R472). -/
  swap : Bool := false
  /-- The global count at CLOSE or at LOOP_CTRL.ENABLE: the timer starts after it has changed (R461). -/
  armed : Nat := 0
  /-- Ticks of the inner loop since the outer loop closed (R466). -/
  outer : Nat := 0
  /-- The sample number of the repetitive controller (R467). -/
  rcn : Nat := 0
  plan : Option LoopPlan := none
  /-- The newest entry the loop has considered and refused or passed over, by order plus 1. -/
  seen : Nat := 0
  /-- The set-point in use from the plan (R465). -/
  psp : Int := 0
  /-- The trigger instant of the sample that wrote the output register last, and what the register held before (R466). -/
  wrote : Option (Nat × Int) := none
deriving DecidableEq, Repr

/-- A pulse input (R456): level, ticks and high ticks of the period under way, whether one is, the last full period and its high
time. -/
structure PinS where
  high : Bool := false
  acc : Nat := 0
  hacc : Nat := 0
  started : Bool := false
  p : Nat := 0
  h : Nat := 0
  qzero : Nat := 0
deriving DecidableEq, Repr

/-- The loop engine. -/
structure LoopEng where
  loops : SMap LoopS := []
  /-- Coefficient words: LOOP_CDATAn of section s in bank b of loop k under 48k + 24b + 3s + n (R472, R479). -/
  coef : SMap U32 := []
  /-- The three memories of LOOP_MDATA, by word (R479). -/
  inj : SMap U32 := []
  cap : SMap U32 := []
  rc : SMap U32 := []
  /-- AIN channels on which a conversion runs (R454). -/
  converting : List Nat := []
  pins : SMap PinS := []
  /-- Compare values that wait for the next period of their PWM channel (R462). -/
  shadow : SMap Nat := []
  /-- Begun plan entries, oldest first, and the number begun (R464). -/
  begun : List Begun := []
  nextOrd : Nat := 0
  /-- The injection generator (R475): the entry or register, the passes played. -/
  injPos : Nat := 0
  injRep : Nat := 0
  injS : Nat := 0
  /-- Capture (R476): it waits for the injection's START; samples until the next recorded one; nothing recorded yet. -/
  capWait : Bool := false
  capDec : Nat := 0
  capFirst : Bool := false
deriving DecidableEq, Repr

end Sys2Proof.Machine
end

