-- ==== Sys2Proof/Machine/MgmtState.lean ====
section
/-! DEFINITION. The state of the management processor, of Clearing, of start-up and of the non-volatile stores (chapters 13 to
15) that no register holds. -/

namespace Sys2Proof.Machine

/-! ### Volatile state -/

/-- A record of the event log that waits for flash (R487, R490): device time, event code, DATA. -/
structure LogRec where
  time : Nat
  code : Nat
  data : List Byte
deriving DecidableEq, Repr

/-- The repair record (R140, R446, R546): retired tiles; spare rows of tiles, by 8192·tile + 512·bank + addressable row; DDR4 rows
replaced, by channel and spare. -/
structure Repair where
  retired : List Nat := []
  tileRows : SMap Nat := []
  ddrRows : List (Nat × Nat × Nat × Nat) := []
deriving DecidableEq, Repr

/-- A kind's byte of the boot pointer (R491). -/
structure BootPtr where
  slotB : Bool := false
  trial : Bool := false
  tries : Nat := 0
deriving DecidableEq, Repr

/-- The management processor. -/
structure Mgmt where
  /-- MEAS0 to MEAS7 (R494): 64 bytes each; a register that is not listed is zero. -/
  meas : SMap (List Byte) := []
  /-- The event queue, oldest first, and the number of records discarded since the last 0x00F0 record (R490). -/
  log : List LogRec := []
  lost : Nat := 0
  /-- Mailbox commands whose GO is set and that have not been taken, in arrival order; `true` where the flash fails the command
  (R513). -/
  mbox : List (Port × Bool) := []
  /-- Kinds with an update under way, between UPDATE_BEGIN and UPDATE_END (R499). -/
  updating : List Nat := []
  /-- Kinds whose SWITCH waits for its instant (R500). -/
  switching : List Nat := []
  /-- Neither slot of kind 1 is valid: the module stays in the ROM (R493). -/
  romOnly : Bool := false
  /-- The key store is read-locked: the ROM has derived the attestation key and started the firmware (R493). -/
  keyLocked : Bool := false
  /-- Kinds that run from slot B (R498). -/
  runB : List Nat := []
  /-- A heartbeat challenge that the firmware has not answered (R391). -/
  chal : Option U32 := none
  /-- The last PPS_IN stamp (R521). -/
  ppsStamp : Option Nat := none
  /-- Offsets of the calibration set in force (R503): the 24 die sensors, then the supply and module monitors. -/
  trims : SMap Int := []
  /-- A repair record that waits for flash while the write guard holds (R510). -/
  repair : Option Repair := none
  /-- A boot pointer that waits for flash while the write guard holds (R502). -/
  ptr : Option (SMap BootPtr) := none
  /-- C-die regions whose thermal limit condition holds, and the times of their events within the hour (R485). -/
  limits : List Nat := []
  limitTimes : SMap (List Nat) := []
deriving DecidableEq, Repr

/-- A wake input's level and the length of its run of equal samples (R506). -/
structure WakeRun where
  high : Bool := false
  run : Nat := 0
deriving DecidableEq, Repr

/-- Clearing: its filters and counts (R506 to R509, R526, R528). -/
structure Clr where
  wakes : SMap WakeRun := []
  /-- The last 8 supply samples in mV, newest first. -/
  supply : List Nat := []
  /-- The module temperature last sampled, in °C. -/
  temp : Option Int := none
  /-- Consecutive samples for which each rule's condition has held. -/
  holds : SMap Nat := []
  /-- Consecutive samples with SEATED_N low, and with EJECT_REQ_N low. -/
  seatRun : Nat := 0
  ejectRun : Nat := 0
  /-- The module was put to sleep (R509): it is unpowered until a wake decision. -/
  asleep : Bool := false
  /-- Power-up has begun and power-good is awaited (R526). -/
  rising : Bool := false
  /-- This power-up is the first since Clearing's power-on reset, or since a reinsertion, and needs no rule (R526). -/
  fresh : Bool := true
  /-- Records that were still queued when sleep began (R490). -/
  lostKept : Nat := 0
  /-- Clearing and the Spadja port are powered (R526). -/
  on : Bool := false
  /-- The supply cause of the safe state holds (R393, R523, R530). -/
  supplyCause : Bool := false
  /-- Seating must be qualified again before the supply cause can end (R530). -/
  unseated : Bool := false
  /-- A sample has read SEATED_N high since Clearing's power-on reset, or since the module was last powered (R526, R553). -/
  inserted : Bool := false
  /-- The last samples of the input and of the hold-up rail in mV; the 100 ms of the guard's release run (R483, R512). -/
  vin : Nat := 0
  vhold : Nat := 0
  recovering : Bool := false
  /-- The rule that decided the last wake, and the wake inputs, until the wake is logged (R489). -/
  woke : Option (Nat × Nat) := none
deriving DecidableEq, Repr

/-- Start-up and power (R541 to R548). -/
structure Boot where
  /-- All rails are in regulation. -/
  powered : Bool := false
  /-- C-dies, M-die and DDR4 are powered (R523). -/
  compute : Bool := false
  /-- A start-up runs; stage 0 has ended since power-good or DEV_RESET. -/
  running : Bool := false
  stage0Done : Bool := false
  /-- PERST_N is asserted. -/
  perst : Bool := false
  /-- Watchdog expiries in the last 10 minutes, by device time (R482). -/
  expiries : List Nat := []
  /-- Kind 2, 3 or 4 has no valid slot (R493). -/
  fatal : Bool := false
  /-- A DDR4 channel has failed training (R545). -/
  untrained : Bool := false
  /-- Admission stopped for the hub engine's reload (R500). -/
  reloading : Bool := false
  /-- Die sensors that read 130 °C or more (R486). -/
  hot : List Nat := []
  /-- The module goes to sleep: admission has stopped (R509). -/
  sleeping : Bool := false
  /-- The firmware has loaded the calibration set and the configuration since power-good or DEV_RESET (R544). -/
  configured : Bool := false
  /-- EXTREF is lost (R539). -/
  extLost : Bool := false
deriving DecidableEq, Repr

/-! ### Non-volatile stores -/

/-- The fuses (R492, R495, R496): the counter F, the revocation bits, the integrator key digest, the debug-disable bit. -/
structure Fuses where
  f : Nat := 0
  revoked : BitVec 4 := 0
  intKey : Option (List Byte) := none
  debugOff : Bool := false
  /-- The tiles that factory test designated as saplings, four on each C-die. -/
  saplings : List Nat := [64, 65, 66, 67, 132, 133, 134, 135]
  /-- The rows that failed at factory test and their spare rows, under key 8192 t + 512 b + r (R140). -/
  spared : SMap Nat := []
deriving DecidableEq, Repr

/-- The header of an image in flash (R492), and whether everything that cannot change was found good: key digest, signature, body
digest, KIND, SERIAL. -/
structure FlashImg where
  keySlot : Nat
  svn : Nat
  libEpoch : Nat
  version : Nat
  length : Nat
  digest : List Byte
  sound : Bool
deriving DecidableEq, Repr

/-- A slot of an image kind: bytes that are not erased (0xFF), the image found in it at UPDATE_END, staged or not. -/
structure FlashSlot where
  bytes : SMap Byte := []
  img : Option FlashImg := none
  staged : Bool := false
deriving DecidableEq, Repr

/-- A log sector (R487, R488): its records of 64 bytes, and its seal of 256. -/
structure LogSector where
  recs : List (List Byte) := []
  sealBytes : Option (List Byte) := none
deriving DecidableEq, Repr

/-- A calibration set in flash (R503) and whether its digest, and for a factory set its signature, hold. -/
structure CalSet where
  bytes : List Byte
  good : Bool
deriving DecidableEq, Repr

/-- Fuses and NOR flash (R491). -/
structure NonVol where
  fuses : Fuses := {}
  /-- Slots A and B of kind k under 2k and 2k + 1. -/
  slots : SMap FlashSlot := []
  /-- The boot pointer: its generation and each kind's byte. -/
  gen : Nat := 0
  boot : SMap BootPtr := []
  cal : Option CalSet := none
  repair : Repair := {}
  /-- Start-ups since manufacture. -/
  boots : Nat := 0
  /-- The event log: sectors, the current one, the next SEQ, CHAIN of the next record, PREV_SEAL of the next seal. -/
  log : SMap LogSector := []
  logCur : Nat := 0
  logSeq : Nat := 0
  chain : List Byte := List.replicate 16 0
  prevSeal : List Byte := List.replicate 16 0
deriving DecidableEq, Repr

/-! ### The module as it leaves the factory (DESIGN CHOICE, notes/assumptions/41) -/

/-- The module's serial number (R497). -/
def moduleSerial : List Byte := leBytes 16 Config.serial.toNat

/-- Bytes 0 to 191 of the factory calibration set (R503): gain 0x4000, every offset and trim zero. -/
def factoryCalBody : List Byte :=
  leBytes 4 1 ++ leBytes 4 1 ++ moduleSerial ++ List.replicate 8 0 ++ (List.replicate 8 [0, 0, 0, 0x40]).flatten ++ List.replicate 128 0

/-- The factory calibration set. -/
def factoryCal : CalSet :=
  ⟨factoryCalBody ++ sha512 factoryCalBody ++ beBytes 132 Config.factorySig.toNat ++ List.replicate 124 0, true⟩

/-- A valid image of kind `k`. -/
def factoryImg (k : Nat) : FlashSlot :=
  { img := some ⟨0, 0, 0, 0, 0, beBytes 64 (Config.imageDigest k).toNat, true⟩ }

/-- Fuses and flash of a module that has never been started: kinds 1 to 4 in slot A, no configuration, the factory calibration
set. -/
def factoryNv : NonVol :=
  { slots := [(2, factoryImg 1), (4, factoryImg 2), (6, factoryImg 3), (8, factoryImg 4)], cal := some factoryCal }

end Sys2Proof.Machine
end

