-- ==== Sys2Proof/Machine/NetState.lean ====
section
/-! DEFINITION. The state of the bridge and of the time-stamp queues (chapter 10). -/

namespace Sys2Proof.Machine

/-- A frame that waits to leave a port: bytes with check sequence, traffic class, the identifier for the stamp queue when it is
marked for stamping (R408), and, for a frame launched at a time, its launch time, allowed lateness and LATE bit (R410, R411). -/
structure EFrame where
  bytes : List Byte
  tc : Nat
  stamp : Option Nat := none
  launch : Option (Nat × Nat × Bool) := none
  /-- The ingress stamp in integer ns, of a frame that goes to port 4 (R405). -/
  instant : Nat := 0
deriving DecidableEq, Repr

/-- A filtering database entry (R403): MAC, VLAN, ports as a mask, learned or static. -/
structure FdbEntry where
  mac : Nat
  vid : Nat
  ports : Nat
  learned : Bool
deriving DecidableEq, Repr

/-- Sequence recovery of a stream filter (802.1CB, R405): the newest number and the history of the 32 numbers up to it. -/
structure Recovery where
  newest : Nat
  seen : List Nat
deriving DecidableEq, Repr

/-- A gate control list in force (R404): entries of gate states and interval, cycle time, base time; the index of the entry whose
interval runs and the time at which it ends. -/
structure GateList where
  entries : List (Nat × Nat)
  cycle : Nat
  base : Nat
  idx : Nat := 0
  /-- The first cycle start at or after the base time that was still to come when CHANGE was written (R404). -/
  due : Nat := 0
deriving DecidableEq, Repr

/-- One port of the bridge. -/
structure NetPort where
  /-- Frames waiting, in arrival order. -/
  queue : List EFrame := []
  /-- Frames awaiting their launch time (R411). -/
  launches : List EFrame := []
  /-- Transmit stamps: device time in units of 2^-32 ns and identifier, oldest first (R408). -/
  stamps : List (Nat × Nat) := []
  /-- The launched frame in transmission (R410). -/
  sending : Option EFrame := none
  gates : Option GateList := none
  admin : Option GateList := none
deriving DecidableEq, Repr

/-- The bridge. -/
structure Net where
  ports : SMap NetPort := []
  fdb : List FdbEntry := []
  /-- VLAN membership: VID and ports as a mask. -/
  vlans : SMap Nat := []
  recovery : SMap (Option Recovery) := []
  /-- Sequence numbers of the redundancy tags of templates (R409). -/
  tagSeq : SMap Nat := []
  /-- Templates refused at SETUP_LOCK (R409). -/
  badTemplates : List Nat := []
  /-- The 802.1AS servo: Sync intervals in a row measured within ±100 ns, and intervals measured (R400). -/
  inRange : Nat := 0
  measured : Nat := 0
  /-- The Plaong ring forms, or a module leaves it (R418, R423). -/
  forming : Bool := false
  leaving : Bool := false
  /-- This module has measured its offset to module 0 and steps its time forward when no timed work is left (R421). -/
  stepDue : Bool := false
deriving DecidableEq, Repr

end Sys2Proof.Machine
end

