-- ==== Sys2Proof/Machine/Regs.lean ====
section
/-! DEFINITION. The registers of BAR0 (R8): every register table of the manual as data, its fields by name, and what an
unwritten word reads as. -/

namespace Sys2Proof.Machine

/-- The access codes of R15; `rws` is the RW* of R469 (written only while the loop or channel concerned allows it). -/
inductive Acc where
  | ro | rw | rwl | wo | w1c | w1s | rc | rws
deriving DecidableEq, Repr

/-- The reset domains of R540. `other` names registers that the manual assigns to no domain (reset only by the sources of R541
that reset the whole I-die), `fused` those that no reset changes. -/
inductive Dom where
  | clearing | spadja | setup | mgmt | network | loop | host | compute | tile | other | fused
deriving DecidableEq, Repr

/-- One field of a register: bits, access code, reset value. -/
structure FDef where
  hi : Nat
  lo : Nat
  acc : Acc
  rst : Nat
deriving DecidableEq, Repr

/-- A register or an array of registers: first offset, spacing, number, 64 bits wide or 32, held once per port, domain. -/
structure RDef where
  base : Nat
  stride : Nat
  count : Nat
  wide : Bool
  perPort : Bool
  dom : Dom
  fields : List FDef
deriving DecidableEq, Repr

/-- A named field: first offset and spacing of its registers, width of the register, bits. -/
structure Fld where
  base : Nat
  stride : Nat
  wide : Bool
  hi : Nat
  lo : Nat
deriving DecidableEq, Repr


/-! ### Chapter 01 -/

/-- TILE_FMT_UFLOW (R48). -/
def rTileFmtUflow : Nat := 0x40100
def tileFmtUflowBlockUnderflow : Fld := ⟨0x40100, 0x400, false, 31, 0⟩
/-- TILE_FMT_SAT (R48). -/
def rTileFmtSat : Nat := 0x40104
def tileFmtSatBlockSaturate : Fld := ⟨0x40104, 0x400, false, 31, 0⟩
/-- TILE_FMT_STATUS (R48). -/
def rTileFmtStatus : Nat := 0x40108
def tileFmtStatusNanBlock : Fld := ⟨0x40108, 0x400, false, 0, 0⟩
def tileFmtStatusStrict : Fld := ⟨0x40108, 0x400, false, 1, 1⟩
/-- TILE_RUNMAX0 (R48). -/
def rTileRunmax0 : Nat := 0x40120
def tileRunmax0Runmax : Fld := ⟨0x40120, 0x400, false, 31, 0⟩
/-- TILE_RUNMAX1 (R48). -/
def rTileRunmax1 : Nat := 0x40124
def tileRunmax1Runmax : Fld := ⟨0x40124, 0x400, false, 31, 0⟩
/-- TILE_RUNMAX2 (R48). -/
def rTileRunmax2 : Nat := 0x40128
def tileRunmax2Runmax : Fld := ⟨0x40128, 0x400, false, 31, 0⟩
/-- TILE_RUNMAX3 (R48). -/
def rTileRunmax3 : Nat := 0x4012C
def tileRunmax3Runmax : Fld := ⟨0x4012C, 0x400, false, 31, 0⟩
/-- TILE_RUNMAX4 (R48). -/
def rTileRunmax4 : Nat := 0x40130
def tileRunmax4Runmax : Fld := ⟨0x40130, 0x400, false, 31, 0⟩
/-- TILE_RUNMAX5 (R48). -/
def rTileRunmax5 : Nat := 0x40134
def tileRunmax5Runmax : Fld := ⟨0x40134, 0x400, false, 31, 0⟩
/-- TILE_RUNMAX6 (R48). -/
def rTileRunmax6 : Nat := 0x40138
def tileRunmax6Runmax : Fld := ⟨0x40138, 0x400, false, 31, 0⟩
/-- TILE_RUNMAX7 (R48). -/
def rTileRunmax7 : Nat := 0x4013C
def tileRunmax7Runmax : Fld := ⟨0x4013C, 0x400, false, 31, 0⟩

def regTable01p0 : List RDef :=
  [
    ⟨0x40100, 0x400, 136, false, false, .tile, [⟨31, 0, .ro, 0⟩]⟩,
    ⟨0x40104, 0x400, 136, false, false, .tile, [⟨31, 0, .ro, 0⟩]⟩,
    ⟨0x40108, 0x400, 136, false, false, .tile, [⟨0, 0, .w1c, 0⟩, ⟨1, 1, .ro, 0⟩]⟩,
    ⟨0x40120, 0x400, 136, false, false, .tile, [⟨31, 0, .ro, 0⟩]⟩,
    ⟨0x40124, 0x400, 136, false, false, .tile, [⟨31, 0, .ro, 0⟩]⟩,
    ⟨0x40128, 0x400, 136, false, false, .tile, [⟨31, 0, .ro, 0⟩]⟩,
    ⟨0x4012C, 0x400, 136, false, false, .tile, [⟨31, 0, .ro, 0⟩]⟩,
    ⟨0x40130, 0x400, 136, false, false, .tile, [⟨31, 0, .ro, 0⟩]⟩,
    ⟨0x40134, 0x400, 136, false, false, .tile, [⟨31, 0, .ro, 0⟩]⟩,
    ⟨0x40138, 0x400, 136, false, false, .tile, [⟨31, 0, .ro, 0⟩]⟩,
    ⟨0x4013C, 0x400, 136, false, false, .tile, [⟨31, 0, .ro, 0⟩]⟩]

/-- The register tables of chapter 01. -/
def regTable01 : List RDef :=
  regTable01p0

/-! ### Chapter 02 -/

/-- TILE_FP_FLAGS (R82). -/
def rTileFpFlags : Nat := 0x40140
def tileFpFlagsInvalid : Fld := ⟨0x40140, 0x400, false, 0, 0⟩
def tileFpFlagsDivzero : Fld := ⟨0x40140, 0x400, false, 1, 1⟩
def tileFpFlagsOverflow : Fld := ⟨0x40140, 0x400, false, 2, 2⟩
def tileFpFlagsUnderflow : Fld := ⟨0x40140, 0x400, false, 3, 3⟩
def tileFpFlagsInexact : Fld := ⟨0x40140, 0x400, false, 4, 4⟩
def tileFpFlagsIntOverflow : Fld := ⟨0x40140, 0x400, false, 5, 5⟩
/-- TILE_FP_TRAP (R82). -/
def rTileFpTrap : Nat := 0x40144
def tileFpTrapTrapEn : Fld := ⟨0x40144, 0x400, false, 4, 0⟩
def tileFpTrapNanwatchEn : Fld := ⟨0x40144, 0x400, false, 5, 5⟩
def tileFpTrapPending : Fld := ⟨0x40144, 0x400, false, 20, 16⟩
/-- TILE_TRAP_CAUSE (R82). -/
def rTileTrapCause : Nat := 0x40148
def tileTrapCauseTrapped : Fld := ⟨0x40148, 0x400, false, 0, 0⟩
def tileTrapCauseCause : Fld := ⟨0x40148, 0x400, false, 5, 1⟩
def tileTrapCauseNanwatch : Fld := ⟨0x40148, 0x400, false, 6, 6⟩
/-- TILE_TRAP_PC (R82). -/
def rTileTrapPc : Nat := 0x40150
def tileTrapPcPc : Fld := ⟨0x40150, 0x400, false, 31, 0⟩
/-- TILE_TRAP_ORD (R82). -/
def rTileTrapOrd : Nat := 0x40158
def tileTrapOrdOrdinal : Fld := ⟨0x40158, 0x400, true, 63, 0⟩
/-- TILE_TRAP_ELEM (R82). -/
def rTileTrapElem : Nat := 0x40160
def tileTrapElemElement : Fld := ⟨0x40160, 0x400, false, 15, 0⟩
def tileTrapElemLtile : Fld := ⟨0x40160, 0x400, false, 22, 16⟩
/-- TILE_ABFT_STATUS (R82). -/
def rTileAbftStatus : Nat := 0x40168
def tileAbftStatusMismatch : Fld := ⟨0x40168, 0x400, false, 0, 0⟩
/-- TILE_ABFT_COUNT (R82). -/
def rTileAbftCount : Nat := 0x4016C
def tileAbftCountCount : Fld := ⟨0x4016C, 0x400, false, 31, 0⟩

def regTable02p0 : List RDef :=
  [
    ⟨0x40140, 0x400, 136, false, false, .tile, [⟨0, 0, .w1c, 0⟩, ⟨1, 1, .w1c, 0⟩, ⟨2, 2, .w1c, 0⟩, ⟨3, 3, .w1c, 0⟩, ⟨4, 4, .w1c, 0⟩, ⟨5, 5, .w1c, 0⟩]⟩,
    ⟨0x40144, 0x400, 136, false, false, .tile, [⟨4, 0, .ro, 0⟩, ⟨5, 5, .ro, 0⟩, ⟨20, 16, .ro, 0⟩]⟩,
    ⟨0x40148, 0x400, 136, false, false, .tile, [⟨0, 0, .ro, 0⟩, ⟨5, 1, .ro, 0⟩, ⟨6, 6, .ro, 0⟩]⟩,
    ⟨0x40150, 0x400, 136, false, false, .tile, [⟨31, 0, .ro, 0⟩]⟩,
    ⟨0x40158, 0x400, 136, true, false, .tile, [⟨63, 0, .ro, 0⟩]⟩,
    ⟨0x40160, 0x400, 136, false, false, .tile, [⟨15, 0, .ro, 0⟩, ⟨22, 16, .ro, 0⟩]⟩,
    ⟨0x40168, 0x400, 136, false, false, .tile, [⟨0, 0, .w1c, 0⟩]⟩,
    ⟨0x4016C, 0x400, 136, false, false, .tile, [⟨31, 0, .ro, 0⟩]⟩]

/-- The register tables of chapter 02. -/
def regTable02 : List RDef :=
  regTable02p0

/-! ### Chapter 03 -/

/-- TILE_ID (R151). -/
def rTileId : Nat := 0x40000
def tileIdPtile : Fld := ⟨0x40000, 0x400, false, 7, 0⟩
def tileIdDie : Fld := ⟨0x40000, 0x400, false, 8, 8⟩
def tileIdSapling : Fld := ⟨0x40000, 0x400, false, 9, 9⟩
def tileIdLtile : Fld := ⟨0x40000, 0x400, false, 22, 16⟩
def tileIdLvalid : Fld := ⟨0x40000, 0x400, false, 23, 23⟩
/-- TILE_ROLE (R151). -/
def rTileRole : Nat := 0x40004
def tileRoleRole : Fld := ⟨0x40004, 0x400, false, 1, 0⟩
def tileRoleChanging : Fld := ⟨0x40004, 0x400, false, 2, 2⟩
def tileRoleEpoch : Fld := ⟨0x40004, 0x400, false, 31, 16⟩
/-- TILE_STATE (R151). -/
def rTileState : Nat := 0x40008
def tileStateState : Fld := ⟨0x40008, 0x400, false, 2, 0⟩
def tileStateIssueDuty : Fld := ⟨0x40008, 0x400, false, 8, 4⟩
/-- TILE_STALE_COUNT (R151). -/
def rTileStaleCount : Nat := 0x4000C
def tileStaleCountCount : Fld := ⟨0x4000C, 0x400, false, 31, 0⟩
/-- TILE_BANK_PWR (R151). -/
def rTileBankPwr : Nat := 0x40010
def tileBankPwrOn : Fld := ⟨0x40010, 0x400, false, 15, 0⟩
def tileBankPwrDraining : Fld := ⟨0x40010, 0x400, false, 31, 16⟩
/-- TILE_BANK_OFF_COUNT (R151). -/
def rTileBankOffCount : Nat := 0x40014
def tileBankOffCountCount : Fld := ⟨0x40014, 0x400, false, 31, 0⟩
/-- TILE_CACHE_MODE (R151). -/
def rTileCacheMode : Nat := 0x40018
def tileCacheModeGroup0 : Fld := ⟨0x40018, 0x400, false, 0, 0⟩
def tileCacheModeGroup1 : Fld := ⟨0x40018, 0x400, false, 1, 1⟩
/-- TILE_CONFLICT_STATUS (R151). -/
def rTileConflictStatus : Nat := 0x40020
def tileConflictStatusBankConflict : Fld := ⟨0x40020, 0x400, false, 0, 0⟩
def tileConflictStatusBank : Fld := ⟨0x40020, 0x400, false, 7, 4⟩
/-- TILE_CONFLICT_PC (R151). -/
def rTileConflictPc : Nat := 0x40024
def tileConflictPcPc : Fld := ⟨0x40024, 0x400, false, 31, 0⟩
/-- TILE_CONFLICT_COUNT (R151). -/
def rTileConflictCount : Nat := 0x40028
def tileConflictCountCount : Fld := ⟨0x40028, 0x400, false, 31, 0⟩
/-- TILE_GUARD_STATUS (R151). -/
def rTileGuardStatus : Nat := 0x40030
def tileGuardStatusTimeout : Fld := ⟨0x40030, 0x400, false, 0, 0⟩
def tileGuardStatusKind : Fld := ⟨0x40030, 0x400, false, 1, 1⟩
def tileGuardStatusHandle : Fld := ⟨0x40030, 0x400, false, 13, 8⟩
def tileGuardStatusSlot : Fld := ⟨0x40030, 0x400, false, 21, 16⟩
/-- TILE_GUARD_STALLS (R151). -/
def rTileGuardStalls : Nat := 0x40034
def tileGuardStallsCount : Fld := ⟨0x40034, 0x400, false, 31, 0⟩
/-- TILE_SB_STATUS (R151). -/
def rTileSbStatus : Nat := 0x40040
def tileSbStatusBusy : Fld := ⟨0x40040, 0x400, false, 7, 0⟩
/-- TILE_SB_STALLS (R151). -/
def rTileSbStalls : Nat := 0x40044
def tileSbStallsCount : Fld := ⟨0x40044, 0x400, false, 31, 0⟩
/-- TILE_ECC_STATUS (R151). -/
def rTileEccStatus : Nat := 0x40050
def tileEccStatusCorrected : Fld := ⟨0x40050, 0x400, false, 0, 0⟩
def tileEccStatusUncorrectable : Fld := ⟨0x40050, 0x400, false, 1, 1⟩
/-- TILE_ECC_CORR (R151). -/
def rTileEccCorr : Nat := 0x40054
def tileEccCorrCount : Fld := ⟨0x40054, 0x400, false, 31, 0⟩
/-- TILE_ECC_UNCORR (R151). -/
def rTileEccUncorr : Nat := 0x40058
def tileEccUncorrCount : Fld := ⟨0x40058, 0x400, false, 31, 0⟩
/-- TILE_ECC_ADDR (R151). -/
def rTileEccAddr : Nat := 0x4005C
def tileEccAddrBank : Fld := ⟨0x4005C, 0x400, false, 3, 0⟩
def tileEccAddrProw : Fld := ⟨0x4005C, 0x400, false, 13, 4⟩
def tileEccAddrHandle : Fld := ⟨0x4005C, 0x400, false, 21, 16⟩
def tileEccAddrHvalid : Fld := ⟨0x4005C, 0x400, false, 22, 22⟩
/-- TILE_SPARE0 (R151). -/
def rTileSpare0 : Nat := 0x40060
def tileSpare0UsedA : Fld := ⟨0x40060, 0x400, false, 4, 0⟩
def tileSpare0UsedB : Fld := ⟨0x40060, 0x400, false, 12, 8⟩
def tileSpare0UsedC : Fld := ⟨0x40060, 0x400, false, 20, 16⟩
def tileSpare0UsedD : Fld := ⟨0x40060, 0x400, false, 28, 24⟩
/-- TILE_SPARE1 (R151). -/
def rTileSpare1 : Nat := 0x40064
def tileSpare1UsedA : Fld := ⟨0x40064, 0x400, false, 4, 0⟩
def tileSpare1UsedB : Fld := ⟨0x40064, 0x400, false, 12, 8⟩
def tileSpare1UsedC : Fld := ⟨0x40064, 0x400, false, 20, 16⟩
def tileSpare1UsedD : Fld := ⟨0x40064, 0x400, false, 28, 24⟩
/-- TILE_SPARE2 (R151). -/
def rTileSpare2 : Nat := 0x40068
def tileSpare2UsedA : Fld := ⟨0x40068, 0x400, false, 4, 0⟩
def tileSpare2UsedB : Fld := ⟨0x40068, 0x400, false, 12, 8⟩
def tileSpare2UsedC : Fld := ⟨0x40068, 0x400, false, 20, 16⟩
def tileSpare2UsedD : Fld := ⟨0x40068, 0x400, false, 28, 24⟩
/-- TILE_SPARE3 (R151). -/
def rTileSpare3 : Nat := 0x4006C
def tileSpare3UsedA : Fld := ⟨0x4006C, 0x400, false, 4, 0⟩
def tileSpare3UsedB : Fld := ⟨0x4006C, 0x400, false, 12, 8⟩
def tileSpare3UsedC : Fld := ⟨0x4006C, 0x400, false, 20, 16⟩
def tileSpare3UsedD : Fld := ⟨0x4006C, 0x400, false, 28, 24⟩
/-- TILE_HSEL (R151). -/
def rTileHsel : Nat := 0x40200
def tileHselHandle : Fld := ⟨0x40200, 0x400, false, 5, 0⟩
/-- TILE_HENT0 (R151). -/
def rTileHent0 : Nat := 0x40210
def tileHent0Entry : Fld := ⟨0x40210, 0x400, false, 31, 0⟩
/-- TILE_HENT1 (R151). -/
def rTileHent1 : Nat := 0x40214
def tileHent1Entry : Fld := ⟨0x40214, 0x400, false, 31, 0⟩
/-- TILE_HENT2 (R151). -/
def rTileHent2 : Nat := 0x40218
def tileHent2Entry : Fld := ⟨0x40218, 0x400, false, 31, 0⟩
/-- TILE_HENT3 (R151). -/
def rTileHent3 : Nat := 0x4021C
def tileHent3Entry : Fld := ⟨0x4021C, 0x400, false, 31, 0⟩

def regTable03p0 : List RDef :=
  [
    ⟨0x40000, 0x400, 136, false, false, .tile, [⟨7, 0, .ro, 0⟩, ⟨8, 8, .ro, 0⟩, ⟨9, 9, .ro, 0⟩, ⟨22, 16, .ro, 0⟩, ⟨23, 23, .ro, 0⟩]⟩,
    ⟨0x40004, 0x400, 136, false, false, .tile, [⟨1, 0, .ro, 0⟩, ⟨2, 2, .ro, 0⟩, ⟨31, 16, .ro, 0⟩]⟩,
    ⟨0x40008, 0x400, 136, false, false, .tile, [⟨2, 0, .ro, 0⟩, ⟨8, 4, .ro, 16⟩]⟩,
    ⟨0x4000C, 0x400, 136, false, false, .tile, [⟨31, 0, .ro, 0⟩]⟩,
    ⟨0x40010, 0x400, 136, false, false, .tile, [⟨15, 0, .ro, 0⟩, ⟨31, 16, .ro, 0⟩]⟩,
    ⟨0x40014, 0x400, 136, false, false, .tile, [⟨31, 0, .ro, 0⟩]⟩,
    ⟨0x40018, 0x400, 136, false, false, .tile, [⟨0, 0, .ro, 0⟩, ⟨1, 1, .ro, 0⟩]⟩,
    ⟨0x40020, 0x400, 136, false, false, .tile, [⟨0, 0, .w1c, 0⟩, ⟨7, 4, .ro, 0⟩]⟩,
    ⟨0x40024, 0x400, 136, false, false, .tile, [⟨31, 0, .ro, 0⟩]⟩,
    ⟨0x40028, 0x400, 136, false, false, .tile, [⟨31, 0, .ro, 0⟩]⟩,
    ⟨0x40030, 0x400, 136, false, false, .tile, [⟨0, 0, .w1c, 0⟩, ⟨1, 1, .ro, 0⟩, ⟨13, 8, .ro, 0⟩, ⟨21, 16, .ro, 0⟩]⟩,
    ⟨0x40034, 0x400, 136, false, false, .tile, [⟨31, 0, .ro, 0⟩]⟩]
def regTable03p1 : List RDef :=
  [
    ⟨0x40040, 0x400, 136, false, false, .tile, [⟨7, 0, .ro, 0⟩]⟩,
    ⟨0x40044, 0x400, 136, false, false, .tile, [⟨31, 0, .ro, 0⟩]⟩,
    ⟨0x40050, 0x400, 136, false, false, .tile, [⟨0, 0, .w1c, 0⟩, ⟨1, 1, .w1c, 0⟩]⟩,
    ⟨0x40054, 0x400, 136, false, false, .tile, [⟨31, 0, .ro, 0⟩]⟩,
    ⟨0x40058, 0x400, 136, false, false, .tile, [⟨31, 0, .ro, 0⟩]⟩,
    ⟨0x4005C, 0x400, 136, false, false, .tile, [⟨3, 0, .ro, 0⟩, ⟨13, 4, .ro, 0⟩, ⟨21, 16, .ro, 0⟩, ⟨22, 22, .ro, 0⟩]⟩,
    ⟨0x40060, 0x400, 136, false, false, .fused, [⟨4, 0, .ro, 0⟩, ⟨12, 8, .ro, 0⟩, ⟨20, 16, .ro, 0⟩, ⟨28, 24, .ro, 0⟩]⟩,
    ⟨0x40064, 0x400, 136, false, false, .fused, [⟨4, 0, .ro, 0⟩, ⟨12, 8, .ro, 0⟩, ⟨20, 16, .ro, 0⟩, ⟨28, 24, .ro, 0⟩]⟩,
    ⟨0x40068, 0x400, 136, false, false, .fused, [⟨4, 0, .ro, 0⟩, ⟨12, 8, .ro, 0⟩, ⟨20, 16, .ro, 0⟩, ⟨28, 24, .ro, 0⟩]⟩,
    ⟨0x4006C, 0x400, 136, false, false, .fused, [⟨4, 0, .ro, 0⟩, ⟨12, 8, .ro, 0⟩, ⟨20, 16, .ro, 0⟩, ⟨28, 24, .ro, 0⟩]⟩,
    ⟨0x40200, 0x400, 136, false, true, .tile, [⟨5, 0, .rw, 0⟩]⟩,
    ⟨0x40210, 0x400, 136, false, false, .tile, [⟨31, 0, .ro, 0⟩]⟩]
def regTable03p2 : List RDef :=
  [
    ⟨0x40214, 0x400, 136, false, false, .tile, [⟨31, 0, .ro, 0⟩]⟩,
    ⟨0x40218, 0x400, 136, false, false, .tile, [⟨31, 0, .ro, 0⟩]⟩,
    ⟨0x4021C, 0x400, 136, false, false, .tile, [⟨31, 0, .ro, 0⟩]⟩]

/-- The register tables of chapter 03. -/
def regTable03 : List RDef :=
  regTable03p0 ++ regTable03p1 ++ regTable03p2
  ++ (upto 32).map fun n => ⟨0x40300 + 4 * n, 0x400, 136, false, false, .tile, [⟨31, 0, .ro, 0⟩]⟩

/-- TILE_ARRIVALn (R151). -/
def tileArrival (n : Nat) : Fld := ⟨0x40300 + 4 * n, 0x400, false, 31, 0⟩

/-! ### Chapter 05 -/

/-- SOLV_CTRL (R231). -/
def rSolvCtrl : Nat := 0x6000
def solvCtrlWarmEn : Fld := ⟨0x6000, 0x0, false, 0, 0⟩
/-- SOLV_WARM_SIZE (R231). -/
def rSolvWarmSize : Nat := 0x6004
def solvWarmSizeWarmMib : Fld := ⟨0x6004, 0x0, false, 5, 0⟩
/-- SOLV_ACTIVE (R231). -/
def rSolvActive : Nat := 0x6008
def solvActiveProblems : Fld := ⟨0x6008, 0x0, false, 13, 0⟩
/-- SOLV_CNT (R231). -/
def rSolvCnt : Nat := 0x6010
def solvCntCount : Fld := ⟨0x6010, 0x4, false, 31, 0⟩

def regTable05p0 : List RDef :=
  [
    ⟨0x6000, 0x0, 1, false, false, .compute, [⟨0, 0, .rwl, 0⟩]⟩,
    ⟨0x6004, 0x0, 1, false, false, .compute, [⟨5, 0, .rwl, 0⟩]⟩,
    ⟨0x6008, 0x0, 1, false, false, .compute, [⟨13, 0, .ro, 0⟩]⟩,
    ⟨0x6010, 0x4, 9, false, false, .compute, [⟨31, 0, .ro, 0⟩]⟩]

/-- The register tables of chapter 05. -/
def regTable05 : List RDef :=
  regTable05p0

/-! ### Chapter 07 -/

/-- ATTN_CTRL (R313). -/
def rAttnCtrl : Nat := 0x7000
def attnCtrlEnable : Fld := ⟨0x7000, 0x0, false, 0, 0⟩
def attnCtrlGroupLog2 : Fld := ⟨0x7000, 0x0, false, 3, 1⟩
def attnCtrlDecay : Fld := ⟨0x7000, 0x0, false, 7, 4⟩
/-- ATTN_POOL_CANOPY (R313). -/
def rAttnPoolCanopy : Nat := 0x7004
def attnPoolCanopyPages : Fld := ⟨0x7004, 0x0, false, 10, 0⟩
/-- ATTN_POOL_DDR (R313). -/
def rAttnPoolDdr : Nat := 0x7008
def attnPoolDdrPages : Fld := ⟨0x7008, 0x0, false, 19, 0⟩
/-- ATTN_POOL_RSV (R313). -/
def rAttnPoolRsv : Nat := 0x700C
def attnPoolRsvPages : Fld := ⟨0x700C, 0x0, false, 15, 0⟩
/-- ATTN_WALK (R313). -/
def rAttnWalk : Nat := 0x7010
def attnWalkRsvSlots : Fld := ⟨0x7010, 0x0, false, 4, 0⟩
/-- ATTN_STATUS (R313). -/
def rAttnStatus : Nat := 0x7014
def attnStatusPoolEmpty : Fld := ⟨0x7014, 0x0, false, 0, 0⟩
def attnStatusPoolCfgErr : Fld := ⟨0x7014, 0x0, false, 1, 1⟩
def attnStatusLabErr : Fld := ⟨0x7014, 0x0, false, 2, 2⟩
/-- ATTN_FREE (R313). -/
def rAttnFree : Nat := 0x7018
def attnFreePages : Fld := ⟨0x7018, 0x0, false, 20, 0⟩
/-- ATTN_ACTIVE (R313). -/
def rAttnActive : Nat := 0x701C
def attnActiveSequences : Fld := ⟨0x701C, 0x0, false, 12, 0⟩
/-- ATTN_SEQ_SEL (R313). -/
def rAttnSeqSel : Nat := 0x7020
def attnSeqSelSeq : Fld := ⟨0x7020, 0x0, false, 11, 0⟩
/-- ATTN_SEQ_INFO0 (R313). -/
def rAttnSeqInfo0 : Nat := 0x7024
def attnSeqInfo0Active : Fld := ⟨0x7024, 0x0, false, 0, 0⟩
def attnSeqInfo0Split : Fld := ⟨0x7024, 0x0, false, 1, 1⟩
def attnSeqInfo0D : Fld := ⟨0x7024, 0x0, false, 10, 2⟩
def attnSeqInfo0Pages : Fld := ⟨0x7024, 0x0, false, 21, 11⟩
/-- ATTN_SEQ_INFO1 (R313). -/
def rAttnSeqInfo1 : Nat := 0x7028
def attnSeqInfo1Length : Fld := ⟨0x7028, 0x0, false, 31, 0⟩
/-- ATTN_CNT (R313). -/
def rAttnCnt : Nat := 0x7040
def attnCntCount : Fld := ⟨0x7040, 0x4, false, 31, 0⟩

def regTable07p0 : List RDef :=
  [
    ⟨0x7000, 0x0, 1, false, false, .compute, [⟨0, 0, .rwl, 0⟩, ⟨3, 1, .rwl, 0⟩, ⟨7, 4, .rwl, 0⟩]⟩,
    ⟨0x7004, 0x0, 1, false, false, .compute, [⟨10, 0, .rwl, 0⟩]⟩,
    ⟨0x7008, 0x0, 1, false, false, .compute, [⟨19, 0, .rwl, 0⟩]⟩,
    ⟨0x700C, 0x0, 1, false, false, .compute, [⟨15, 0, .rwl, 0⟩]⟩,
    ⟨0x7010, 0x0, 1, false, false, .compute, [⟨4, 0, .rwl, 0⟩]⟩,
    ⟨0x7014, 0x0, 1, false, false, .compute, [⟨0, 0, .w1c, 0⟩, ⟨1, 1, .ro, 0⟩, ⟨2, 2, .w1c, 0⟩]⟩,
    ⟨0x7018, 0x0, 1, false, false, .compute, [⟨20, 0, .ro, 0⟩]⟩,
    ⟨0x701C, 0x0, 1, false, false, .compute, [⟨12, 0, .ro, 0⟩]⟩,
    ⟨0x7020, 0x0, 1, false, true, .compute, [⟨11, 0, .rw, 0⟩]⟩,
    ⟨0x7024, 0x0, 1, false, false, .compute, [⟨0, 0, .ro, 0⟩, ⟨1, 1, .ro, 0⟩, ⟨10, 2, .ro, 0⟩, ⟨21, 11, .ro, 0⟩]⟩,
    ⟨0x7028, 0x0, 1, false, false, .compute, [⟨31, 0, .ro, 0⟩]⟩,
    ⟨0x7040, 0x4, 12, false, false, .compute, [⟨31, 0, .ro, 0⟩]⟩]

/-- The register tables of chapter 07. -/
def regTable07 : List RDef :=
  regTable07p0

/-! ### Chapter 08 -/

/-- FOR_CTRL (R353). -/
def rForCtrl : Nat := 0x4000
def forCtrlDlEn : Fld := ⟨0x4000, 0x0, false, 0, 0⟩
def forCtrlRecEn : Fld := ⟨0x4000, 0x0, false, 1, 1⟩
/-- FOR_STATUS (R353). -/
def rForStatus : Nat := 0x4004
def forStatusShareErr : Fld := ⟨0x4004, 0x0, false, 0, 0⟩
def forStatusGroveShort : Fld := ⟨0x4004, 0x0, false, 1, 1⟩
def forStatusRecGap : Fld := ⟨0x4004, 0x0, false, 2, 2⟩
def forStatusNoSapling : Fld := ⟨0x4004, 0x0, false, 3, 3⟩
def forStatusThermalHold : Fld := ⟨0x4004, 0x0, false, 4, 4⟩
/-- FOR_TILES (R353). -/
def rForTiles : Nat := 0x4008
def forTilesInService : Fld := ⟨0x4008, 0x0, false, 7, 0⟩
def forTilesSaplingsFree : Fld := ⟨0x4008, 0x0, false, 11, 8⟩
def forTilesRetired : Fld := ⟨0x4008, 0x0, false, 23, 16⟩
/-- FOR_RING (R353). -/
def rForRing : Nat := 0x400C
def forRingLeadUs : Fld := ⟨0x400C, 0x0, false, 7, 0⟩
/-- FOR_SHARE (R353). -/
def rForShare : Nat := 0x4010
def forShareDc1 : Fld := ⟨0x4010, 0x4, false, 5, 0⟩
def forShareDc2 : Fld := ⟨0x4010, 0x4, false, 13, 8⟩
def forShareDc3 : Fld := ⟨0x4010, 0x4, false, 21, 16⟩
def forShareDc4 : Fld := ⟨0x4010, 0x4, false, 29, 24⟩
/-- FOR_SLACK (R353). -/
def rForSlack : Nat := 0x4024
def forSlackSlack : Fld := ⟨0x4024, 0x0, false, 5, 0⟩
def forSlackFloor : Fld := ⟨0x4024, 0x0, false, 12, 8⟩
def forSlackBlockUs : Fld := ⟨0x4024, 0x0, false, 23, 16⟩
/-- FOR_CNT (R353). -/
def rForCnt : Nat := 0x4040
def forCntCount : Fld := ⟨0x4040, 0x4, false, 31, 0⟩

def regTable08p0 : List RDef :=
  [
    ⟨0x4000, 0x0, 1, false, false, .compute, [⟨0, 0, .rwl, 0⟩, ⟨1, 1, .rwl, 0⟩]⟩,
    ⟨0x4004, 0x0, 1, false, false, .compute, [⟨0, 0, .ro, 0⟩, ⟨1, 1, .w1c, 0⟩, ⟨2, 2, .w1c, 0⟩, ⟨3, 3, .ro, 0⟩, ⟨4, 4, .ro, 0⟩]⟩,
    ⟨0x4008, 0x0, 1, false, false, .compute, [⟨7, 0, .ro, 0⟩, ⟨11, 8, .ro, 0⟩, ⟨23, 16, .ro, 0⟩]⟩,
    ⟨0x400C, 0x0, 1, false, false, .compute, [⟨7, 0, .rwl, 0x14⟩]⟩,
    ⟨0x4010, 0x4, 5, false, false, .compute, [⟨5, 0, .rwl, 0⟩, ⟨13, 8, .rwl, 0⟩, ⟨21, 16, .rwl, 0⟩, ⟨29, 24, .rwl, 0⟩]⟩,
    ⟨0x4024, 0x0, 1, false, false, .compute, [⟨5, 0, .rwl, 8⟩, ⟨12, 8, .rwl, 8⟩, ⟨23, 16, .rwl, 4⟩]⟩,
    ⟨0x4040, 0x4, 10, false, false, .compute, [⟨31, 0, .ro, 0⟩]⟩]

/-- The register tables of chapter 08. -/
def regTable08 : List RDef :=
  regTable08p0

/-! ### Chapter 09 -/

/-- SQ_BASE (R395). (DEDUCED, notes/assumptions/19.) -/
def rSqBase : Nat := 0x2000
def sqBaseAddr : Fld := ⟨0x2000, 0x20, true, 63, 0⟩
/-- SQ_CFG (R395). -/
def rSqCfg : Nat := 0x2008
def sqCfgEnable : Fld := ⟨0x2008, 0x20, false, 0, 0⟩
def sqCfgLog2size : Fld := ⟨0x2008, 0x20, false, 4, 1⟩
def sqCfgCq : Fld := ⟨0x2008, 0x20, false, 11, 6⟩
def sqCfgTriggered : Fld := ⟨0x2008, 0x20, false, 12, 12⟩
def sqCfgClassMask : Fld := ⟨0x2008, 0x20, false, 20, 16⟩
/-- SQ_STATUS (R395). -/
def rSqStatus : Nat := 0x200C
def sqStatusStopped : Fld := ⟨0x200C, 0x20, false, 0, 0⟩
def sqStatusDbErr : Fld := ⟨0x200C, 0x20, false, 1, 1⟩
def sqStatusFetchErr : Fld := ⟨0x200C, 0x20, false, 2, 2⟩
def sqStatusAbortDone : Fld := ⟨0x200C, 0x20, false, 3, 3⟩
def sqStatusHead : Fld := ⟨0x200C, 0x20, false, 31, 16⟩
/-- SQ_TRIG (R395). -/
def rSqTrig : Nat := 0x2010
def sqTrigSrc : Fld := ⟨0x2010, 0x20, false, 3, 0⟩
def sqTrigPeriodUs : Fld := ⟨0x2010, 0x20, false, 31, 16⟩
/-- SQ_DISCARD (R395). -/
def rSqDiscard : Nat := 0x2014
def sqDiscardCount : Fld := ⟨0x2014, 0x20, false, 31, 0⟩
/-- CQ_BASE (R395). -/
def rCqBase : Nat := 0x2800
def cqBaseAddr : Fld := ⟨0x2800, 0x20, true, 63, 0⟩
/-- CQ_TAILWB (R395). -/
def rCqTailwb : Nat := 0x2808
def cqTailwbAddr : Fld := ⟨0x2808, 0x20, true, 63, 0⟩
/-- CQ_CFG (R395). -/
def rCqCfg : Nat := 0x2810
def cqCfgEnable : Fld := ⟨0x2810, 0x20, false, 0, 0⟩
def cqCfgLog2size : Fld := ⟨0x2810, 0x20, false, 4, 1⟩
def cqCfgVector : Fld := ⟨0x2810, 0x20, false, 10, 5⟩
def cqCfgIrqEn : Fld := ⟨0x2810, 0x20, false, 11, 11⟩
def cqCfgCoalCount : Fld := ⟨0x2810, 0x20, false, 23, 16⟩
def cqCfgCoalUs : Fld := ⟨0x2810, 0x20, false, 31, 24⟩
/-- CQ_STATUS (R395). -/
def rCqStatus : Nat := 0x2814
def cqStatusStopped : Fld := ⟨0x2814, 0x20, false, 0, 0⟩
def cqStatusWbErr : Fld := ⟨0x2814, 0x20, false, 1, 1⟩
def cqStatusPhase : Fld := ⟨0x2814, 0x20, false, 2, 2⟩
def cqStatusDbErr : Fld := ⟨0x2814, 0x20, false, 3, 3⟩
def cqStatusTail : Fld := ⟨0x2814, 0x20, false, 31, 16⟩
/-- CQ_LOST (R395). -/
def rCqLost : Nat := 0x2818
def cqLostCount : Fld := ⟨0x2818, 0x20, false, 31, 0⟩
/-- HOSTQ_CTRL (R395). -/
def rHostqCtrl : Nat := 0x3000
def hostqCtrlDevVector : Fld := ⟨0x3000, 0x0, false, 5, 0⟩
def hostqCtrlDevIrqEn : Fld := ⟨0x3000, 0x0, false, 6, 6⟩
/-- HOSTQ_STATUS (R395). -/
def rHostqStatus : Nat := 0x3004
def hostqStatusLinkUp : Fld := ⟨0x3004, 0x0, false, 0, 0⟩
def hostqStatusLinkLost : Fld := ⟨0x3004, 0x0, false, 1, 1⟩
def hostqStatusFlrSeen : Fld := ⟨0x3004, 0x0, false, 2, 2⟩
def hostqStatusFifoCfgErr : Fld := ⟨0x3004, 0x0, false, 3, 3⟩
/-- STREAM_CFG (R395). -/
def rStreamCfg : Nat := 0x3100
def streamCfgEnable : Fld := ⟨0x3100, 0x10, false, 0, 0⟩
def streamCfgSrc : Fld := ⟨0x3100, 0x10, false, 1, 1⟩
def streamCfgTake : Fld := ⟨0x3100, 0x10, false, 2, 2⟩
def streamCfgFullPolicy : Fld := ⟨0x3100, 0x10, false, 3, 3⟩
def streamCfgEntry64 : Fld := ⟨0x3100, 0x10, false, 14, 8⟩
def streamCfgDepth : Fld := ⟨0x3100, 0x10, false, 21, 16⟩
def streamCfgCt : Fld := ⟨0x3100, 0x10, false, 29, 24⟩
/-- STREAM_CNT0 (R395). -/
def rStreamCnt0 : Nat := 0x3104
def streamCnt0Dropped : Fld := ⟨0x3104, 0x10, false, 15, 0⟩
def streamCnt0Replaced : Fld := ⟨0x3104, 0x10, false, 31, 16⟩
/-- STREAM_CNT1 (R395). -/
def rStreamCnt1 : Nat := 0x3108
def streamCnt1Bad : Fld := ⟨0x3108, 0x10, false, 15, 0⟩
def streamCnt1Skipped : Fld := ⟨0x3108, 0x10, false, 31, 16⟩
/-- PLAN_CFG (R395). -/
def rPlanCfg : Nat := 0x3180
def planCfgEnable : Fld := ⟨0x3180, 0x0, false, 0, 0⟩
def planCfgEntry64 : Fld := ⟨0x3180, 0x0, false, 14, 8⟩
def planCfgDepth : Fld := ⟨0x3180, 0x0, false, 21, 16⟩
def planCfgCt : Fld := ⟨0x3180, 0x0, false, 29, 24⟩
/-- PLAN_CNT (R395). -/
def rPlanCnt : Nat := 0x3184
def planCntPlanReplaced : Fld := ⟨0x3184, 0x0, false, 15, 0⟩
def planCntWritten : Fld := ⟨0x3184, 0x0, false, 31, 16⟩
/-- MSIX_ADDR_LO (R395). -/
def rMsixAddrLo : Nat := 0x3800
def msixAddrLoWord : Fld := ⟨0x3800, 0x10, false, 31, 0⟩
/-- MSIX_ADDR_HI (R395). -/
def rMsixAddrHi : Nat := 0x3804
def msixAddrHiWord : Fld := ⟨0x3804, 0x10, false, 31, 0⟩
/-- MSIX_DATA (R395). -/
def rMsixData : Nat := 0x3808
def msixDataWord : Fld := ⟨0x3808, 0x10, false, 31, 0⟩
/-- MSIX_CTRL (R395). (PRESUMED, notes/assumptions/9.) -/
def rMsixCtrl : Nat := 0x380C
def msixCtrlMask : Fld := ⟨0x380C, 0x10, false, 0, 0⟩
/-- MSIX_PBA (R395). -/
def rMsixPba : Nat := 0x3C00
def msixPbaPending : Fld := ⟨0x3C00, 0x4, false, 31, 0⟩
/-- SUP_CTRL (R396). -/
def rSupCtrl : Nat := 0xF000
def supCtrlMode : Fld := ⟨0xF000, 0x0, false, 0, 0⟩
/-- SUP_STATUS (R396). -/
def rSupStatus : Nat := 0xF004
def supStatusCrcErr : Fld := ⟨0xF004, 0x0, false, 0, 0⟩
def supStatusRdTimeout : Fld := ⟨0xF004, 0x0, false, 1, 1⟩
def supStatusCplPending : Fld := ⟨0xF004, 0x0, false, 2, 2⟩
def supStatusSupLost : Fld := ⟨0xF004, 0x0, false, 3, 3⟩
def supStatusSafe : Fld := ⟨0xF004, 0x0, false, 4, 4⟩
def supStatusQErr : Fld := ⟨0xF004, 0x0, false, 5, 5⟩
def supStatusCrcCount : Fld := ⟨0xF004, 0x0, false, 31, 16⟩
/-- SUP_HB_CFG (R396). -/
def rSupHbCfg : Nat := 0xF008
def supHbCfgTimeoutMs : Fld := ⟨0xF008, 0x0, false, 15, 0⟩
def supHbCfgLostSafe : Fld := ⟨0xF008, 0x0, false, 16, 16⟩
/-- SUP_HB_CHAL (R396). -/
def rSupHbChal : Nat := 0xF00C
def supHbChalChal : Fld := ⟨0xF00C, 0x0, false, 31, 0⟩
/-- SUP_HB_RESP (R396). -/
def rSupHbResp : Nat := 0xF010
def supHbRespResp : Fld := ⟨0xF010, 0x0, true, 31, 0⟩
def supHbRespEcho : Fld := ⟨0xF010, 0x0, true, 63, 32⟩
/-- SUP_HB_COUNT (R396). -/
def rSupHbCount : Nat := 0xF018
def supHbCountCount : Fld := ⟨0xF018, 0x0, false, 31, 0⟩
/-- SUP_SAFE (R396). -/
def rSupSafe : Nat := 0xF01C
def supSafeKey : Fld := ⟨0xF01C, 0x0, false, 31, 0⟩
/-- SUP_SAFE_STATUS (R396). -/
def rSupSafeStatus : Nat := 0xF020
def supSafeStatusSafe : Fld := ⟨0xF020, 0x0, false, 0, 0⟩
def supSafeStatusSafeCause : Fld := ⟨0xF020, 0x0, false, 3, 1⟩
def supSafeStatusEntries : Fld := ⟨0xF020, 0x0, false, 31, 16⟩
/-- SUPQ_TAIL (R396). -/
def rSupqTail : Nat := 0xF024
def supqTailIndex : Fld := ⟨0xF024, 0x0, false, 3, 0⟩
/-- SUPQ_HEAD (R396). -/
def rSupqHead : Nat := 0xF028
def supqHeadIndex : Fld := ⟨0xF028, 0x0, false, 3, 0⟩
/-- SUPCQ_HEAD (R396). -/
def rSupcqHead : Nat := 0xF02C
def supcqHeadIndex : Fld := ⟨0xF02C, 0x0, false, 3, 0⟩
/-- SUPCQ_TAIL (R396). -/
def rSupcqTail : Nat := 0xF030
def supcqTailIndex : Fld := ⟨0xF030, 0x0, false, 3, 0⟩
def supcqTailPhase : Fld := ⟨0xF030, 0x0, false, 4, 4⟩
/-- SUPQ_ENTRY (R396). -/
def rSupqEntry : Nat := 0xF400
def supqEntryWord : Fld := ⟨0xF400, 0x4, false, 31, 0⟩
/-- SUPCQ_ENTRY (R396). -/
def rSupcqEntry : Nat := 0xF800
def supcqEntryWord : Fld := ⟨0xF800, 0x4, false, 31, 0⟩

def regTable09p0 : List RDef :=
  [
    ⟨0x2000, 0x20, 64, true, false, .host, [⟨63, 0, .rw, 0⟩]⟩,
    ⟨0x2008, 0x20, 64, false, false, .host, [⟨0, 0, .rw, 0⟩, ⟨4, 1, .rw, 4⟩, ⟨11, 6, .rw, 0⟩, ⟨12, 12, .rw, 0⟩, ⟨20, 16, .rwl, 1⟩]⟩,
    ⟨0x200C, 0x20, 64, false, false, .host, [⟨0, 0, .ro, 1⟩, ⟨1, 1, .w1c, 0⟩, ⟨2, 2, .w1c, 0⟩, ⟨3, 3, .w1c, 0⟩, ⟨31, 16, .ro, 0⟩]⟩,
    ⟨0x2010, 0x20, 64, false, false, .host, [⟨3, 0, .rw, 0⟩, ⟨31, 16, .rw, 0⟩]⟩,
    ⟨0x2014, 0x20, 64, false, false, .host, [⟨31, 0, .ro, 0⟩]⟩,
    ⟨0x2800, 0x20, 64, true, false, .host, [⟨63, 0, .rw, 0⟩]⟩,
    ⟨0x2808, 0x20, 64, true, false, .host, [⟨63, 0, .rw, 0⟩]⟩,
    ⟨0x2810, 0x20, 64, false, false, .host, [⟨0, 0, .rw, 0⟩, ⟨4, 1, .rw, 4⟩, ⟨10, 5, .rw, 0⟩, ⟨11, 11, .rw, 0⟩, ⟨23, 16, .rw, 0⟩, ⟨31, 24, .rw, 0⟩]⟩,
    ⟨0x2814, 0x20, 64, false, false, .host, [⟨0, 0, .ro, 1⟩, ⟨1, 1, .w1c, 0⟩, ⟨2, 2, .ro, 1⟩, ⟨3, 3, .w1c, 0⟩, ⟨31, 16, .ro, 0⟩]⟩,
    ⟨0x2818, 0x20, 64, false, false, .host, [⟨31, 0, .ro, 0⟩]⟩,
    ⟨0x3000, 0x0, 1, false, false, .host, [⟨5, 0, .rw, 0⟩, ⟨6, 6, .rw, 0⟩]⟩,
    ⟨0x3004, 0x0, 1, false, false, .host, [⟨0, 0, .ro, 0⟩, ⟨1, 1, .w1c, 0⟩, ⟨2, 2, .w1c, 0⟩, ⟨3, 3, .ro, 0⟩]⟩]
def regTable09p1 : List RDef :=
  [
    ⟨0x3100, 0x10, 8, false, false, .host, [⟨0, 0, .rwl, 0⟩, ⟨1, 1, .rwl, 0⟩, ⟨2, 2, .rwl, 0⟩, ⟨3, 3, .rwl, 0⟩, ⟨14, 8, .rwl, 2⟩, ⟨21, 16, .rwl, 2⟩, ⟨29, 24, .rwl, 0⟩]⟩,
    ⟨0x3104, 0x10, 8, false, false, .host, [⟨15, 0, .ro, 0⟩, ⟨31, 16, .ro, 0⟩]⟩,
    ⟨0x3108, 0x10, 8, false, false, .host, [⟨15, 0, .ro, 0⟩, ⟨31, 16, .ro, 0⟩]⟩,
    ⟨0x3180, 0x0, 1, false, false, .host, [⟨0, 0, .rwl, 0⟩, ⟨14, 8, .rwl, 2⟩, ⟨21, 16, .rwl, 2⟩, ⟨29, 24, .rwl, 0⟩]⟩,
    ⟨0x3184, 0x0, 1, false, false, .host, [⟨15, 0, .ro, 0⟩, ⟨31, 16, .ro, 0⟩]⟩,
    ⟨0x3800, 0x10, 64, false, false, .host, [⟨31, 0, .rw, 0⟩]⟩,
    ⟨0x3804, 0x10, 64, false, false, .host, [⟨31, 0, .rw, 0⟩]⟩,
    ⟨0x3808, 0x10, 64, false, false, .host, [⟨31, 0, .rw, 0⟩]⟩,
    ⟨0x380C, 0x10, 64, false, false, .host, [⟨0, 0, .rw, 1⟩]⟩,
    ⟨0x3C00, 0x4, 2, false, false, .host, [⟨31, 0, .ro, 0⟩]⟩,
    ⟨0xF000, 0x0, 1, false, false, .spadja, [⟨0, 0, .rw, 0⟩]⟩,
    ⟨0xF004, 0x0, 1, false, false, .other, [⟨0, 0, .w1c, 0⟩, ⟨1, 1, .w1c, 0⟩, ⟨2, 2, .ro, 0⟩, ⟨3, 3, .w1c, 0⟩, ⟨4, 4, .ro, 0⟩, ⟨5, 5, .w1c, 0⟩, ⟨31, 16, .ro, 0⟩]⟩]
def regTable09p2 : List RDef :=
  [
    ⟨0xF008, 0x0, 1, false, false, .setup, [⟨15, 0, .rwl, 0⟩, ⟨16, 16, .rwl, 0⟩]⟩,
    ⟨0xF00C, 0x0, 1, false, false, .other, [⟨31, 0, .rw, 0⟩]⟩,
    ⟨0xF010, 0x0, 1, true, false, .other, [⟨31, 0, .ro, 0⟩, ⟨63, 32, .ro, 0⟩]⟩,
    ⟨0xF018, 0x0, 1, false, false, .clearing, [⟨31, 0, .ro, 0⟩]⟩,
    ⟨0xF01C, 0x0, 1, false, false, .other, [⟨31, 0, .wo, 0⟩]⟩,
    ⟨0xF020, 0x0, 1, false, false, .clearing, [⟨0, 0, .ro, 0⟩, ⟨3, 1, .ro, 0⟩, ⟨31, 16, .ro, 0⟩]⟩,
    ⟨0xF024, 0x0, 1, false, false, .other, [⟨3, 0, .rw, 0⟩]⟩,
    ⟨0xF028, 0x0, 1, false, false, .other, [⟨3, 0, .ro, 0⟩]⟩,
    ⟨0xF02C, 0x0, 1, false, false, .other, [⟨3, 0, .rw, 0⟩]⟩,
    ⟨0xF030, 0x0, 1, false, false, .other, [⟨3, 0, .ro, 0⟩, ⟨4, 4, .ro, 1⟩]⟩,
    ⟨0xF400, 0x4, 256, false, false, .other, [⟨31, 0, .rw, 0⟩]⟩,
    ⟨0xF800, 0x4, 128, false, false, .other, [⟨31, 0, .ro, 0⟩]⟩]

/-- The register tables of chapter 09. -/
def regTable09 : List RDef :=
  regTable09p0 ++ regTable09p1 ++ regTable09p2

/-! ### Chapter 10 -/

/-- NET_CTRL (R424). -/
def rNetCtrl : Nat := 0xA000
def netCtrlEnable : Fld := ⟨0xA000, 0x0, false, 0, 0⟩
/-- NET_STATUS (R424). -/
def rNetStatus : Nat := 0xA004
def netStatusTmplErr : Fld := ⟨0xA004, 0x0, false, 0, 0⟩
def netStatusLaunchFull : Fld := ⟨0xA004, 0x0, false, 1, 1⟩
def netStatusBufDrop : Fld := ⟨0xA004, 0x0, false, 2, 2⟩
/-- NET_PCPMAP (R424). -/
def rNetPcpmap : Nat := 0xA008
def netPcpmapMap : Fld := ⟨0xA008, 0x0, false, 23, 0⟩
/-- NET_PORT_CFG (R424). -/
def rNetPortCfg : Nat := 0xA100
def netPortCfgEnable : Fld := ⟨0xA100, 0x20, false, 0, 0⟩
def netPortCfgRate : Fld := ⟨0xA100, 0x20, false, 3, 1⟩
def netPortCfgPhyReset : Fld := ⟨0xA100, 0x20, false, 4, 4⟩
/-- NET_PORT_PHYLAT (R424). -/
def rNetPortPhylat : Nat := 0xA104
def netPortPhylatRx : Fld := ⟨0xA104, 0x20, false, 15, 0⟩
def netPortPhylatTx : Fld := ⟨0xA104, 0x20, false, 31, 16⟩
/-- NET_PORT_GCL (R424). -/
def rNetPortGcl : Nat := 0xA108
def netPortGclLen : Fld := ⟨0xA108, 0x20, false, 6, 0⟩
def netPortGclChange : Fld := ⟨0xA108, 0x20, false, 7, 7⟩
/-- NET_PORT_DROP (R424). -/
def rNetPortDrop : Nat := 0xA10C
def netPortDropFrame : Fld := ⟨0xA10C, 0x20, false, 15, 0⟩
def netPortDropLate : Fld := ⟨0xA10C, 0x20, false, 31, 16⟩
/-- NET_PORT_BASE (R424). -/
def rNetPortBase : Nat := 0xA110
def netPortBaseNs : Fld := ⟨0xA110, 0x20, true, 63, 0⟩
/-- NET_PORT_CYCLE (R424). -/
def rNetPortCycle : Nat := 0xA118
def netPortCycleNs : Fld := ⟨0xA118, 0x20, false, 29, 0⟩
/-- NET_FILTER (R405). -/
def rNetFilter : Nat := 0xA200
/-- NET_GCL_ENTRY (R424). -/
def rNetGclEntry : Nat := 0xA400
def netGclEntryGates : Fld := ⟨0xA400, 0x8, true, 7, 0⟩
def netGclEntryInterval : Fld := ⟨0xA400, 0x8, true, 63, 32⟩
/-- NET_CAN_CFG (R424). -/
def rNetCanCfg : Nat := 0xAE00
def netCanCfgEnable : Fld := ⟨0xAE00, 0x100, false, 0, 0⟩
def netCanCfgFd : Fld := ⟨0xAE00, 0x100, false, 1, 1⟩
def netCanCfgListen : Fld := ⟨0xAE00, 0x100, false, 2, 2⟩
def netCanCfgAutoRecover : Fld := ⟨0xAE00, 0x100, false, 3, 3⟩
/-- NET_CAN_BT (R424). -/
def rNetCanBt : Nat := 0xAE04
def netCanBtNbrp : Fld := ⟨0xAE04, 0x100, false, 7, 0⟩
def netCanBtNtseg : Fld := ⟨0xAE04, 0x100, false, 15, 8⟩
def netCanBtDbrp : Fld := ⟨0xAE04, 0x100, false, 23, 16⟩
def netCanBtDtseg : Fld := ⟨0xAE04, 0x100, false, 31, 24⟩
/-- NET_CAN_STATUS (R424). -/
def rNetCanStatus : Nat := 0xAE08
def netCanStatusState : Fld := ⟨0xAE08, 0x100, false, 1, 0⟩
def netCanStatusTec : Fld := ⟨0xAE08, 0x100, false, 9, 2⟩
def netCanStatusRec : Fld := ⟨0xAE08, 0x100, false, 17, 10⟩
/-- NET_CAN_TXSTAT (R424). -/
def rNetCanTxstat : Nat := 0xAE0C
def netCanTxstatPending : Fld := ⟨0xAE0C, 0x100, false, 15, 0⟩
def netCanTxstatAbortFail : Fld := ⟨0xAE0C, 0x100, false, 31, 16⟩
/-- NET_CAN0_FILTVIEW (R424). -/
def rNetCan0Filtview : Nat := 0xAE40
def netCan0FiltviewWord : Fld := ⟨0xAE40, 0x4, false, 31, 0⟩
/-- NET_CAN1_FILTVIEW (R424). -/
def rNetCan1Filtview : Nat := 0xAF40
def netCan1FiltviewWord : Fld := ⟨0xAF40, 0x4, false, 31, 0⟩
/-- NET_TEMPLATE (R409). -/
def rNetTemplate : Nat := 0xB000
/-- TIME_CTRL (R424). -/
def rTimeCtrl : Nat := 0xC000
def timeCtrlDlWaitSync : Fld := ⟨0xC000, 0x0, false, 0, 0⟩
def timeCtrlServoEn : Fld := ⟨0xC000, 0x0, false, 1, 1⟩
/-- TIME_STATUS (R424). -/
def rTimeStatus : Nat := 0xC004
def timeStatusSynced : Fld := ⟨0xC004, 0x0, false, 0, 0⟩
def timeStatusHoldover : Fld := ⟨0xC004, 0x0, false, 1, 1⟩
def timeStatusStepped : Fld := ⟨0xC004, 0x0, false, 2, 2⟩
def timeStatusTsOverflow : Fld := ⟨0xC004, 0x0, false, 12, 8⟩
/-- TIME_INC (R424). -/
def rTimeInc : Nat := 0xC008
def timeIncInc : Fld := ⟨0xC008, 0x0, true, 63, 0⟩
/-- TIME_NOW (R424). -/
def rTimeNow : Nat := 0xC010
def timeNowNs : Fld := ⟨0xC010, 0x0, true, 63, 0⟩
/-- TIME_NOW_FRAC (R424). -/
def rTimeNowFrac : Nat := 0xC018
def timeNowFracFrac : Fld := ⟨0xC018, 0x0, false, 31, 0⟩
/-- TIME_GCOUNT (R424). -/
def rTimeGcount : Nat := 0xC020
def timeGcountCount : Fld := ⟨0xC020, 0x0, true, 63, 0⟩
/-- TIME_STEP (R424). -/
def rTimeStep : Nat := 0xC028
def timeStepNs : Fld := ⟨0xC028, 0x0, true, 63, 0⟩
/-- TIME_TSQ_STAMP (R424). -/
def rTimeTsqStamp : Nat := 0xC100
def timeTsqStampNs : Fld := ⟨0xC100, 0x10, true, 63, 0⟩
/-- TIME_TSQ_INFO (R424). -/
def rTimeTsqInfo : Nat := 0xC108
def timeTsqInfoFrameId : Fld := ⟨0xC108, 0x10, false, 15, 0⟩
def timeTsqInfoValid : Fld := ⟨0xC108, 0x10, false, 16, 16⟩
def timeTsqInfoFrac : Fld := ⟨0xC108, 0x10, false, 31, 24⟩
/-- TIME_TSQ_OVF (R424). -/
def rTimeTsqOvf : Nat := 0xC10C
def timeTsqOvfCount : Fld := ⟨0xC10C, 0x10, false, 31, 0⟩
/-- PLK_CTRL (R424). -/
def rPlkCtrl : Nat := 0xD000
def plkCtrlEnable : Fld := ⟨0xD000, 0x0, false, 0, 0⟩
def plkCtrlHead : Fld := ⟨0xD000, 0x0, false, 1, 1⟩
def plkCtrlReform : Fld := ⟨0xD000, 0x0, false, 2, 2⟩
def plkCtrlLeave : Fld := ⟨0xD000, 0x0, false, 3, 3⟩
/-- PLK_STATUS (R424). -/
def rPlkStatus : Nat := 0xD004
def plkStatusPosition : Fld := ⟨0xD004, 0x0, false, 2, 0⟩
def plkStatusCount : Fld := ⟨0xD004, 0x0, false, 6, 3⟩
def plkStatusClosed : Fld := ⟨0xD004, 0x0, false, 7, 7⟩
def plkStatusRingErr : Fld := ⟨0xD004, 0x0, false, 8, 8⟩
def plkStatusAlignLost : Fld := ⟨0xD004, 0x0, false, 9, 9⟩
def plkStatusReformErr : Fld := ⟨0xD004, 0x0, false, 10, 10⟩
def plkStatusHealed : Fld := ⟨0xD004, 0x0, false, 11, 11⟩
def plkStatusAligning : Fld := ⟨0xD004, 0x0, false, 12, 12⟩
/-- PLK_LINK_STATUS (R424). -/
def rPlkLinkStatus : Nat := 0xD010
def plkLinkStatusUp : Fld := ⟨0xD010, 0x10, false, 0, 0⟩
def plkLinkStatusDegraded : Fld := ⟨0xD010, 0x10, false, 1, 1⟩
def plkLinkStatusDownSeen : Fld := ⟨0xD010, 0x10, false, 2, 2⟩
/-- PLK_LINK_RETRY (R424). -/
def rPlkLinkRetry : Nat := 0xD014
def plkLinkRetryCount : Fld := ⟨0xD014, 0x10, false, 31, 0⟩
/-- PLK_LINK_DELAY (R424). -/
def rPlkLinkDelay : Nat := 0xD018
def plkLinkDelayDelay : Fld := ⟨0xD018, 0x10, false, 23, 0⟩
/-- CAN_TXBUF0 (R414). -/
def rCanTxbuf0 : Nat := 0x1C000
def canTxbuf0Word : Fld := ⟨0x1C000, 0x4, false, 31, 0⟩
/-- CAN_TXBUF1 (R414). -/
def rCanTxbuf1 : Nat := 0x1C800
def canTxbuf1Word : Fld := ⟨0x1C800, 0x4, false, 31, 0⟩
/-- CAN_FILTER (R424). -/
def rCanFilter : Nat := 0x1D000
def canFilterWord : Fld := ⟨0x1D000, 0x4, false, 31, 0⟩

def regTable10p0 : List RDef :=
  [
    ⟨0xA000, 0x0, 1, false, false, .network, [⟨0, 0, .rwl, 0⟩]⟩,
    ⟨0xA004, 0x0, 1, false, false, .network, [⟨0, 0, .ro, 0⟩, ⟨1, 1, .w1c, 0⟩, ⟨2, 2, .w1c, 0⟩]⟩,
    ⟨0xA008, 0x0, 1, false, false, .network, [⟨23, 0, .rwl, 0xFAC688⟩]⟩,
    ⟨0xA100, 0x20, 6, false, false, .network, [⟨0, 0, .rwl, 0⟩, ⟨3, 1, .rwl, 0⟩, ⟨4, 4, .rw, 1⟩]⟩,
    ⟨0xA104, 0x20, 6, false, false, .network, [⟨15, 0, .rwl, 0⟩, ⟨31, 16, .rwl, 0⟩]⟩,
    ⟨0xA108, 0x20, 6, false, false, .network, [⟨6, 0, .rw, 0⟩, ⟨7, 7, .w1s, 0⟩]⟩,
    ⟨0xA10C, 0x20, 6, false, false, .network, [⟨15, 0, .ro, 0⟩, ⟨31, 16, .ro, 0⟩]⟩,
    ⟨0xA110, 0x20, 6, true, false, .network, [⟨63, 0, .rw, 0⟩]⟩,
    ⟨0xA118, 0x20, 6, false, false, .network, [⟨29, 0, .rw, 0⟩]⟩,
    ⟨0xA200, 0x10, 16, false, false, .network, [⟨31, 0, .rwl, 0⟩]⟩,
    ⟨0xA204, 0x10, 16, false, false, .network, [⟨15, 0, .rwl, 0⟩, ⟨27, 16, .rwl, 0⟩, ⟨31, 31, .rwl, 0⟩]⟩,
    ⟨0xA208, 0x10, 16, false, false, .network, [⟨15, 0, .rwl, 0⟩, ⟨18, 16, .rwl, 0⟩, ⟨19, 19, .rwl, 0⟩, ⟨20, 20, .rwl, 0⟩]⟩,
    ⟨0xA20C, 0x10, 16, false, false, .network, [⟨15, 0, .rwl, 0⟩]⟩,
    ⟨0xA400, 0x8, 320, true, false, .network, [⟨7, 0, .rw, 0⟩, ⟨63, 32, .rw, 0⟩]⟩,
    ⟨0xAE00, 0x100, 2, false, false, .network, [⟨0, 0, .rwl, 0⟩, ⟨1, 1, .rwl, 0⟩, ⟨2, 2, .rwl, 0⟩, ⟨3, 3, .rwl, 0⟩]⟩]
def regTable10p1 : List RDef :=
  [
    ⟨0xAE04, 0x100, 2, false, false, .network, [⟨7, 0, .rwl, 0⟩, ⟨15, 8, .rwl, 0⟩, ⟨23, 16, .rwl, 0⟩, ⟨31, 24, .rwl, 0⟩]⟩,
    ⟨0xAE08, 0x100, 2, false, false, .network, [⟨1, 0, .ro, 0⟩, ⟨9, 2, .ro, 0⟩, ⟨17, 10, .ro, 0⟩]⟩,
    ⟨0xAE0C, 0x100, 2, false, false, .network, [⟨15, 0, .ro, 0⟩, ⟨31, 16, .w1c, 0⟩]⟩,
    ⟨0xAE40, 0x4, 16, false, false, .network, [⟨31, 0, .ro, 0⟩]⟩,
    ⟨0xAF40, 0x4, 16, false, false, .network, [⟨31, 0, .ro, 0⟩]⟩,
    ⟨0xB000, 0x40, 64, false, false, .network, [⟨3, 0, .rwl, 0⟩, ⟨10, 8, .rwl, 0⟩, ⟨11, 11, .rwl, 0⟩, ⟨23, 16, .rwl, 0⟩, ⟨24, 24, .rwl, 0⟩]⟩,
    ⟨0xB004, 0x40, 64, false, false, .network, [⟨31, 0, .rwl, 0⟩]⟩,
    ⟨0xB008, 0x40, 64, false, false, .network, [⟨31, 0, .rwl, 0⟩]⟩,
    ⟨0xB00C, 0x40, 64, false, false, .network, [⟨15, 0, .rwl, 0⟩, ⟨23, 16, .rwl, 0⟩, ⟨24, 24, .rwl, 0⟩]⟩,
    ⟨0xB010, 0x40, 64, false, false, .network, [⟨15, 0, .rwl, 0⟩]⟩,
    ⟨0xC000, 0x0, 1, false, false, .network, [⟨0, 0, .rwl, 0⟩, ⟨1, 1, .rwl, 0⟩]⟩,
    ⟨0xC004, 0x0, 1, false, false, .network, [⟨0, 0, .ro, 0⟩, ⟨1, 1, .ro, 0⟩, ⟨2, 2, .ro, 0⟩, ⟨12, 8, .w1c, 0⟩]⟩,
    ⟨0xC008, 0x0, 1, true, false, .network, [⟨63, 0, .rw, 0x0000000280000000⟩]⟩,
    ⟨0xC010, 0x0, 1, true, false, .network, [⟨63, 0, .ro, 0⟩]⟩,
    ⟨0xC018, 0x0, 1, false, true, .network, [⟨31, 0, .ro, 0⟩]⟩,
    ⟨0xC020, 0x0, 1, true, false, .network, [⟨63, 0, .ro, 0⟩]⟩]
def regTable10p2 : List RDef :=
  [
    ⟨0xC028, 0x0, 1, true, false, .network, [⟨63, 0, .rwl, 0⟩]⟩,
    ⟨0xC100, 0x10, 5, true, true, .network, [⟨63, 0, .ro, 0⟩]⟩,
    ⟨0xC108, 0x10, 5, false, false, .network, [⟨15, 0, .rc, 0⟩, ⟨16, 16, .rc, 0⟩, ⟨31, 24, .rc, 0⟩]⟩,
    ⟨0xC10C, 0x10, 5, false, false, .network, [⟨31, 0, .ro, 0⟩]⟩,
    ⟨0xD000, 0x0, 1, false, false, .network, [⟨0, 0, .rwl, 0⟩, ⟨1, 1, .rwl, 0⟩, ⟨2, 2, .w1s, 0⟩, ⟨3, 3, .w1s, 0⟩]⟩,
    ⟨0xD004, 0x0, 1, false, false, .network, [⟨2, 0, .ro, 0⟩, ⟨6, 3, .ro, 1⟩, ⟨7, 7, .ro, 0⟩, ⟨8, 8, .ro, 0⟩, ⟨9, 9, .ro, 0⟩, ⟨10, 10, .w1c, 0⟩, ⟨11, 11, .w1c, 0⟩, ⟨12, 12, .ro, 0⟩]⟩,
    ⟨0xD010, 0x10, 2, false, false, .network, [⟨0, 0, .ro, 0⟩, ⟨1, 1, .w1c, 0⟩, ⟨2, 2, .w1c, 0⟩]⟩,
    ⟨0xD014, 0x10, 2, false, false, .network, [⟨31, 0, .ro, 0⟩]⟩,
    ⟨0xD018, 0x10, 2, false, false, .network, [⟨23, 0, .ro, 0⟩]⟩,
    ⟨0x1C000, 0x4, 512, false, false, .mgmt, [⟨31, 0, .ro, 0⟩]⟩,
    ⟨0x1C800, 0x4, 512, false, false, .mgmt, [⟨31, 0, .ro, 0⟩]⟩,
    ⟨0x1D000, 0x4, 128, false, false, .mgmt, [⟨31, 0, .ro, 0⟩]⟩]

/-- The words of the templates' header bytes (R409). -/
def regTable10p3 : List RDef :=
  (List.range 11).map fun i => ⟨0xB014 + 4 * i, 0x40, 64, false, false, .network, [⟨31, 0, .rwl, 0⟩]⟩

/-- The register tables of chapter 10. -/
def regTable10 : List RDef :=
  regTable10p0 ++ regTable10p1 ++ regTable10p2 ++ regTable10p3

/-! ### Chapter 11 -/

/-- MEM_CTRL (R450). -/
def rMemCtrl : Nat := 0x8000
def memCtrlEccT : Fld := ⟨0x8000, 0x0, false, 1, 0⟩
def memCtrlScrubEn : Fld := ⟨0x8000, 0x0, false, 2, 2⟩
/-- MEM_STATUS (R450). -/
def rMemStatus : Nat := 0x8004
def memStatusTrained : Fld := ⟨0x8004, 0x0, false, 0, 0⟩
def memStatusCorrected : Fld := ⟨0x8004, 0x0, false, 1, 1⟩
def memStatusUncorrectable : Fld := ⟨0x8004, 0x0, false, 2, 2⟩
def memStatusRemapFull : Fld := ⟨0x8004, 0x0, false, 3, 3⟩
def memStatusHotRefresh : Fld := ⟨0x8004, 0x0, false, 7, 4⟩
/-- MEM_SCRUB (R450). -/
def rMemScrub : Nat := 0x8008
def memScrubIntervalUs : Fld := ⟨0x8008, 0x0, false, 15, 0⟩
def memScrubPasses : Fld := ⟨0x8008, 0x0, false, 31, 16⟩
/-- MEM_USER_TOP (R450). -/
def rMemUserTop : Nat := 0x8010
def memUserTopAddr : Fld := ⟨0x8010, 0x0, true, 39, 0⟩
/-- MEM_ERR_ADDR (R450). -/
def rMemErrAddr : Nat := 0x8018
def memErrAddrAddr : Fld := ⟨0x8018, 0x0, true, 39, 0⟩
/-- MEM_ERR_INFO (R450). -/
def rMemErrInfo : Nat := 0x8020
def memErrInfoValid : Fld := ⟨0x8020, 0x0, false, 0, 0⟩
def memErrInfoStore : Fld := ⟨0x8020, 0x0, false, 1, 1⟩
def memErrInfoChannel : Fld := ⟨0x8020, 0x0, false, 3, 2⟩
def memErrInfoKind : Fld := ⟨0x8020, 0x0, false, 7, 4⟩
/-- MEM_CH_CORR (R450). -/
def rMemChCorr : Nat := 0x8100
def memChCorrCount : Fld := ⟨0x8100, 0x10, false, 31, 0⟩
/-- MEM_CH_UNCORR (R450). -/
def rMemChUncorr : Nat := 0x8104
def memChUncorrCount : Fld := ⟨0x8104, 0x10, false, 31, 0⟩
/-- MEM_CH_REMAP (R450). -/
def rMemChRemap : Nat := 0x8108
def memChRemapUsed : Fld := ⟨0x8108, 0x10, false, 6, 0⟩
/-- MEM_CAN_CORR (R450). -/
def rMemCanCorr : Nat := 0x8200
def memCanCorrCount : Fld := ⟨0x8200, 0x0, false, 31, 0⟩
/-- MEM_CAN_UNCORR (R450). -/
def rMemCanUncorr : Nat := 0x8204
def memCanUncorrCount : Fld := ⟨0x8204, 0x0, false, 31, 0⟩
/-- MEM_POISON (R450). -/
def rMemPoison : Nat := 0x8208
def memPoisonCount : Fld := ⟨0x8208, 0x0, false, 31, 0⟩
/-- MEM_COPY_CNT (R450). -/
def rMemCopyCnt : Nat := 0x820C
def memCopyCntCount : Fld := ⟨0x820C, 0x0, false, 31, 0⟩

def regTable11p0 : List RDef :=
  [
    ⟨0x8000, 0x0, 1, false, false, .compute, [⟨1, 0, .rwl, 0⟩, ⟨2, 2, .rwl, 1⟩]⟩,
    ⟨0x8004, 0x0, 1, false, false, .compute, [⟨0, 0, .ro, 0⟩, ⟨1, 1, .w1c, 0⟩, ⟨2, 2, .w1c, 0⟩, ⟨3, 3, .w1c, 0⟩, ⟨7, 4, .ro, 0⟩]⟩,
    ⟨0x8008, 0x0, 1, false, false, .compute, [⟨15, 0, .rwl, 0x100⟩, ⟨31, 16, .ro, 0⟩]⟩,
    ⟨0x8010, 0x0, 1, true, false, .compute, [⟨39, 0, .ro, 0⟩]⟩,
    ⟨0x8018, 0x0, 1, true, false, .compute, [⟨39, 0, .ro, 0⟩]⟩,
    ⟨0x8020, 0x0, 1, false, false, .compute, [⟨0, 0, .ro, 0⟩, ⟨1, 1, .ro, 0⟩, ⟨3, 2, .ro, 0⟩, ⟨7, 4, .ro, 0⟩]⟩,
    ⟨0x8100, 0x10, 4, false, false, .compute, [⟨31, 0, .ro, 0⟩]⟩,
    ⟨0x8104, 0x10, 4, false, false, .compute, [⟨31, 0, .ro, 0⟩]⟩,
    ⟨0x8108, 0x10, 4, false, false, .fused, [⟨6, 0, .ro, 0⟩]⟩,
    ⟨0x8200, 0x0, 1, false, false, .compute, [⟨31, 0, .ro, 0⟩]⟩,
    ⟨0x8204, 0x0, 1, false, false, .compute, [⟨31, 0, .ro, 0⟩]⟩,
    ⟨0x8208, 0x0, 1, false, false, .compute, [⟨31, 0, .ro, 0⟩]⟩]
def regTable11p1 : List RDef :=
  [
    ⟨0x820C, 0x0, 1, false, false, .compute, [⟨31, 0, .ro, 0⟩]⟩]

/-- The register tables of chapter 11. -/
def regTable11 : List RDef :=
  regTable11p0 ++ regTable11p1

/-! ### Chapter 12 -/

/-- LOOP_CTRL (R479). -/
def rLoopCtrl : Nat := 0xE000
def loopCtrlEnable : Fld := ⟨0xE000, 0x0, false, 0, 0⟩
/-- LOOP_STATUS (R479). -/
def rLoopStatus : Nat := 0xE004
def loopStatusTrip : Fld := ⟨0xE004, 0x0, false, 15, 0⟩
def loopStatusSafe : Fld := ⟨0xE004, 0x0, false, 16, 16⟩
/-- LOOP_PLAN (R479). -/
def rLoopPlan : Nat := 0xE008
def loopPlanStepUs : Fld := ⟨0xE008, 0x0, false, 23, 0⟩
def loopPlanPlanEnd : Fld := ⟨0xE008, 0x0, false, 24, 24⟩
/-- LOOP_PLAN_OFS (R479). -/
def rLoopPlanOfs : Nat := 0xE00C
def loopPlanOfsOfsNs : Fld := ⟨0xE00C, 0x0, false, 31, 0⟩
/-- LOOP_PLAN_STAT (R479). -/
def rLoopPlanStat : Nat := 0xE010
def loopPlanStatStep : Fld := ⟨0xE010, 0x0, false, 15, 0⟩
def loopPlanStatSeq : Fld := ⟨0xE010, 0x0, false, 31, 16⟩
/-- LOOP_CNT_PLAN0 (R479). -/
def rLoopCntPlan0 : Nat := 0xE014
def loopCntPlan0Late : Fld := ⟨0xE014, 0x0, false, 15, 0⟩
def loopCntPlan0Exhausted : Fld := ⟨0xE014, 0x0, false, 31, 16⟩
/-- LOOP_CNT_PLAN1 (R479). -/
def rLoopCntPlan1 : Nat := 0xE018
def loopCntPlan1Fallback : Fld := ⟨0xE018, 0x0, false, 15, 0⟩
def loopCntPlan1Nan : Fld := ⟨0xE018, 0x0, false, 31, 16⟩
/-- LOOP_CSEL (R479). -/
def rLoopCsel : Nat := 0xE030
def loopCselLoop : Fld := ⟨0xE030, 0x0, false, 3, 0⟩
def loopCselBank : Fld := ⟨0xE030, 0x0, false, 4, 4⟩
def loopCselSection : Fld := ⟨0xE030, 0x0, false, 7, 5⟩
/-- LOOP_CDATA0 (R479). -/
def rLoopCdata0 : Nat := 0xE034
def loopCdata0B0 : Fld := ⟨0xE034, 0x0, false, 15, 0⟩
def loopCdata0B1 : Fld := ⟨0xE034, 0x0, false, 31, 16⟩
/-- LOOP_CDATA1 (R479). -/
def rLoopCdata1 : Nat := 0xE038
def loopCdata1B2 : Fld := ⟨0xE038, 0x0, false, 15, 0⟩
def loopCdata1A1 : Fld := ⟨0xE038, 0x0, false, 31, 16⟩
/-- LOOP_CDATA2 (R479). -/
def rLoopCdata2 : Nat := 0xE03C
def loopCdata2A2 : Fld := ⟨0xE03C, 0x0, false, 15, 0⟩
def loopCdata2Shift : Fld := ⟨0xE03C, 0x0, false, 18, 16⟩
def loopCdata2Ef : Fld := ⟨0xE03C, 0x0, false, 19, 19⟩
def loopCdata2En : Fld := ⟨0xE03C, 0x0, false, 20, 20⟩
/-- LOOP_MSEL (R479). -/
def rLoopMsel : Nat := 0xE040
def loopMselIndex : Fld := ⟨0xE040, 0x0, false, 12, 0⟩
def loopMselSpace : Fld := ⟨0xE040, 0x0, false, 14, 13⟩
/-- LOOP_MDATA (R479). -/
def rLoopMdata : Nat := 0xE044
def loopMdataData : Fld := ⟨0xE044, 0x0, false, 31, 0⟩
/-- LOOP_INJ_CFG (R479). -/
def rLoopInjCfg : Nat := 0xE050
def loopInjCfgLoop : Fld := ⟨0xE050, 0x0, false, 3, 0⟩
def loopInjCfgPoint : Fld := ⟨0xE050, 0x0, false, 5, 4⟩
def loopInjCfgSrc : Fld := ⟨0xE050, 0x0, false, 6, 6⟩
def loopInjCfgLen : Fld := ⟨0xE050, 0x0, false, 19, 8⟩
def loopInjCfgRepeat : Fld := ⟨0xE050, 0x0, false, 31, 20⟩
/-- LOOP_INJ_CTRL (R479). -/
def rLoopInjCtrl : Nat := 0xE054
def loopInjCtrlStart : Fld := ⟨0xE054, 0x0, false, 0, 0⟩
def loopInjCtrlStop : Fld := ⟨0xE054, 0x0, false, 1, 1⟩
def loopInjCtrlRun : Fld := ⟨0xE054, 0x0, false, 2, 2⟩
/-- LOOP_INJ_AMP (R479). -/
def rLoopInjAmp : Nat := 0xE058
def loopInjAmpAmp : Fld := ⟨0xE058, 0x0, false, 14, 0⟩
def loopInjAmpSeed : Fld := ⟨0xE058, 0x0, false, 30, 16⟩
/-- LOOP_CAP_CFG (R479). -/
def rLoopCapCfg : Nat := 0xE060
def loopCapCfgLoop : Fld := ⟨0xE060, 0x0, false, 3, 0⟩
def loopCapCfgSigs : Fld := ⟨0xE060, 0x0, false, 19, 4⟩
def loopCapCfgDec : Fld := ⟨0xE060, 0x0, false, 27, 20⟩
def loopCapCfgSync : Fld := ⟨0xE060, 0x0, false, 28, 28⟩
/-- LOOP_CAP_CTRL (R479). -/
def rLoopCapCtrl : Nat := 0xE064
def loopCapCtrlStart : Fld := ⟨0xE064, 0x0, false, 0, 0⟩
def loopCapCtrlStop : Fld := ⟨0xE064, 0x0, false, 1, 1⟩
def loopCapCtrlRun : Fld := ⟨0xE064, 0x0, false, 2, 2⟩
def loopCapCtrlFull : Fld := ⟨0xE064, 0x0, false, 3, 3⟩
def loopCapCtrlWords : Fld := ⟨0xE064, 0x0, false, 18, 4⟩
/-- LOOP_CAP_T0 (R479). -/
def rLoopCapT0 : Nat := 0xE068
def loopCapT0T0 : Fld := ⟨0xE068, 0x0, true, 63, 0⟩
/-- ADC_CFG (R479). -/
def rAdcCfg : Nat := 0xE100
def adcCfgEnable : Fld := ⟨0xE100, 0x10, false, 0, 0⟩
/-- ADC_CAL (R479). -/
def rAdcCal : Nat := 0xE104
def adcCalOfs : Fld := ⟨0xE104, 0x10, false, 15, 0⟩
def adcCalGain : Fld := ⟨0xE104, 0x10, false, 31, 16⟩
/-- ADC_DATA (R479). -/
def rAdcData : Nat := 0xE108
def adcDataCode : Fld := ⟨0xE108, 0x10, false, 15, 0⟩
def adcDataValue : Fld := ⟨0xE108, 0x10, false, 31, 16⟩
/-- PIN_CFG (R479). -/
def rPinCfg : Nat := 0xE180
def pinCfgMode : Fld := ⟨0xE180, 0x10, false, 1, 0⟩
def pinCfgEdge : Fld := ⟨0xE180, 0x10, false, 2, 2⟩
def pinCfgQsh : Fld := ⟨0xE180, 0x10, false, 6, 3⟩
def pinCfgZero : Fld := ⟨0xE180, 0x10, false, 7, 7⟩
/-- PIN_SCALE (R479). -/
def rPinScale : Nat := 0xE184
def pinScaleScale : Fld := ⟨0xE184, 0x10, false, 31, 0⟩
/-- PIN_DATA (R479). -/
def rPinData : Nat := 0xE188
def pinDataValue : Fld := ⟨0xE188, 0x10, false, 15, 0⟩
def pinDataStopped : Fld := ⟨0xE188, 0x10, false, 16, 16⟩
def pinDataQerr : Fld := ⟨0xE188, 0x10, false, 17, 17⟩
/-- PIN_COUNT (R479). -/
def rPinCount : Nat := 0xE18C
def pinCountCount : Fld := ⟨0xE18C, 0x10, false, 31, 0⟩
/-- PWM_CFG (R479). -/
def rPwmCfg : Nat := 0xE200
def pwmCfgPer : Fld := ⟨0xE200, 0x10, false, 15, 0⟩
def pwmCfgEnable : Fld := ⟨0xE200, 0x10, false, 16, 16⟩
def pwmCfgPol : Fld := ⟨0xE200, 0x10, false, 17, 17⟩
/-- PWM_SAFE (R479). -/
def rPwmSafe : Nat := 0xE204
def pwmSafeMode : Fld := ⟨0xE204, 0x10, false, 1, 0⟩
def pwmSafeCmp : Fld := ⟨0xE204, 0x10, false, 31, 16⟩
/-- PWM_CMP (R479). -/
def rPwmCmp : Nat := 0xE208
def pwmCmpCmp : Fld := ⟨0xE208, 0x10, false, 15, 0⟩
/-- AOUT_CFG (R479). -/
def rAoutCfg : Nat := 0xE280
def aoutCfgEnable : Fld := ⟨0xE280, 0x10, false, 0, 0⟩
/-- AOUT_SAFE (R479). -/
def rAoutSafe : Nat := 0xE284
def aoutSafeCode : Fld := ⟨0xE284, 0x10, false, 11, 0⟩
/-- AOUT_CODE (R479). -/
def rAoutCode : Nat := 0xE288
def aoutCodeCode : Fld := ⟨0xE288, 0x10, false, 11, 0⟩
/-- LOOPK_CTRL (R479). -/
def rLoopkCtrl : Nat := 0xE400
def loopkCtrlState : Fld := ⟨0xE400, 0x40, false, 1, 0⟩
def loopkCtrlClose : Fld := ⟨0xE400, 0x40, false, 2, 2⟩
def loopkCtrlOpen : Fld := ⟨0xE400, 0x40, false, 3, 3⟩
def loopkCtrlSwap : Fld := ⟨0xE400, 0x40, false, 4, 4⟩
def loopkCtrlAbank : Fld := ⟨0xE400, 0x40, false, 5, 5⟩
def loopkCtrlBumpless : Fld := ⟨0xE400, 0x40, false, 6, 6⟩
def loopkCtrlClampFb : Fld := ⟨0xE400, 0x40, false, 7, 7⟩
def loopkCtrlNsec : Fld := ⟨0xE400, 0x40, false, 10, 8⟩
def loopkCtrlFbPolicy : Fld := ⟨0xE400, 0x40, false, 11, 11⟩
/-- LOOPK_SRC (R479). -/
def rLoopkSrc : Nat := 0xE404
def loopkSrcMsrc : Fld := ⟨0xE404, 0x40, false, 0, 0⟩
def loopkSrcMch : Fld := ⟨0xE404, 0x40, false, 3, 1⟩
def loopkSrcSpsrc : Fld := ⟨0xE404, 0x40, false, 6, 4⟩
def loopkSrcSpch : Fld := ⟨0xE404, 0x40, false, 10, 7⟩
def loopkSrcTrig : Fld := ⟨0xE404, 0x40, false, 11, 11⟩
def loopkSrcTloop : Fld := ⟨0xE404, 0x40, false, 15, 12⟩
def loopkSrcDiv : Fld := ⟨0xE404, 0x40, false, 23, 16⟩
/-- LOOPK_OUT (R479). -/
def rLoopkOut : Nat := 0xE408
def loopkOutKind : Fld := ⟨0xE408, 0x40, false, 1, 0⟩
def loopkOutCh : Fld := ⟨0xE408, 0x40, false, 4, 2⟩
/-- LOOPK_PERIOD (R479). -/
def rLoopkPeriod : Nat := 0xE40C
def loopkPeriodTicks : Fld := ⟨0xE40C, 0x40, false, 19, 0⟩
/-- LOOPK_CLAMP (R479). -/
def rLoopkClamp : Nat := 0xE410
def loopkClampUmin : Fld := ⟨0xE410, 0x40, false, 15, 0⟩
def loopkClampUmax : Fld := ⟨0xE410, 0x40, false, 31, 16⟩
/-- LOOPK_MAN (R479). -/
def rLoopkMan : Nat := 0xE414
def loopkManMan : Fld := ⟨0xE414, 0x40, false, 15, 0⟩
/-- LOOPK_SP (R479). -/
def rLoopkSp : Nat := 0xE418
def loopkSpSp : Fld := ⟨0xE418, 0x40, false, 15, 0⟩
/-- LOOPK_PSCALE (R479). -/
def rLoopkPscale : Nat := 0xE41C
def loopkPscalePscale : Fld := ⟨0xE41C, 0x40, false, 31, 0⟩
/-- LOOPK_SAT (R479). -/
def rLoopkSat : Nat := 0xE420
def loopkSatLimit : Fld := ⟨0xE420, 0x40, false, 15, 0⟩
def loopkSatAction : Fld := ⟨0xE420, 0x40, false, 17, 16⟩
def loopkSatGroup : Fld := ⟨0xE420, 0x40, false, 19, 18⟩
/-- LOOPK_SATC (R479). -/
def rLoopkSatc : Nat := 0xE424
def loopkSatcCount : Fld := ⟨0xE424, 0x40, false, 15, 0⟩
/-- LOOPK_RC (R479). -/
def rLoopkRc : Nat := 0xE428
def loopkRcBase : Fld := ⟨0xE428, 0x40, false, 12, 0⟩
def loopkRcLm1 : Fld := ⟨0xE428, 0x40, false, 25, 13⟩
def loopkRcD : Fld := ⟨0xE428, 0x40, false, 29, 26⟩
def loopkRcEn : Fld := ⟨0xE428, 0x40, false, 31, 31⟩
/-- LOOPK_RCG (R479). -/
def rLoopkRcg : Nat := 0xE42C
def loopkRcgQg : Fld := ⟨0xE42C, 0x40, false, 15, 0⟩
def loopkRcgKr : Fld := ⟨0xE42C, 0x40, false, 31, 16⟩
/-- LOOPK_STATUS (R479). -/
def rLoopkStatus : Nat := 0xE430
def loopkStatusSat : Fld := ⟨0xE430, 0x40, false, 0, 0⟩
def loopkStatusTrip : Fld := ⟨0xE430, 0x40, false, 1, 1⟩
def loopkStatusChangeErr : Fld := ⟨0xE430, 0x40, false, 2, 2⟩
def loopkStatusCfgErr : Fld := ⟨0xE430, 0x40, false, 3, 3⟩
def loopkStatusSecSat : Fld := ⟨0xE430, 0x40, false, 4, 4⟩
/-- LOOPK_OUTVAL (R479). -/
def rLoopkOutval : Nat := 0xE434
def loopkOutvalU : Fld := ⟨0xE434, 0x40, false, 15, 0⟩
def loopkOutvalM : Fld := ⟨0xE434, 0x40, false, 31, 16⟩
/-- LOOPK_CNT (R479). -/
def rLoopkCnt : Nat := 0xE438
def loopkCntTrips : Fld := ⟨0xE438, 0x40, false, 15, 0⟩
def loopkCntRejected : Fld := ⟨0xE438, 0x40, false, 31, 16⟩

def regTable12p0 : List RDef :=
  [
    ⟨0xE000, 0x0, 1, false, false, .loop, [⟨0, 0, .rw, 0⟩]⟩,
    ⟨0xE004, 0x0, 1, false, false, .loop, [⟨15, 0, .w1c, 0⟩, ⟨16, 16, .ro, 0⟩]⟩,
    ⟨0xE008, 0x0, 1, false, false, .loop, [⟨23, 0, .rwl, 0x3E8⟩, ⟨24, 24, .rwl, 0⟩]⟩,
    ⟨0xE00C, 0x0, 1, false, false, .loop, [⟨31, 0, .rwl, 0⟩]⟩,
    ⟨0xE010, 0x0, 1, false, false, .loop, [⟨15, 0, .ro, 0⟩, ⟨31, 16, .ro, 0⟩]⟩,
    ⟨0xE014, 0x0, 1, false, false, .loop, [⟨15, 0, .ro, 0⟩, ⟨31, 16, .ro, 0⟩]⟩,
    ⟨0xE018, 0x0, 1, false, false, .loop, [⟨15, 0, .ro, 0⟩, ⟨31, 16, .ro, 0⟩]⟩,
    ⟨0xE030, 0x0, 1, false, true, .loop, [⟨3, 0, .rw, 0⟩, ⟨4, 4, .rw, 0⟩, ⟨7, 5, .rw, 0⟩]⟩,
    ⟨0xE034, 0x0, 1, false, false, .loop, [⟨15, 0, .rw, 0⟩, ⟨31, 16, .rw, 0⟩]⟩,
    ⟨0xE038, 0x0, 1, false, false, .loop, [⟨15, 0, .rw, 0⟩, ⟨31, 16, .rw, 0⟩]⟩,
    ⟨0xE03C, 0x0, 1, false, false, .loop, [⟨15, 0, .rw, 0⟩, ⟨18, 16, .rw, 0⟩, ⟨19, 19, .rw, 0⟩, ⟨20, 20, .rw, 0⟩]⟩,
    ⟨0xE040, 0x0, 1, false, true, .loop, [⟨12, 0, .rw, 0⟩, ⟨14, 13, .rw, 0⟩]⟩]
def regTable12p1 : List RDef :=
  [
    ⟨0xE044, 0x0, 1, false, false, .loop, [⟨31, 0, .rw, 0⟩]⟩,
    ⟨0xE050, 0x0, 1, false, false, .loop, [⟨3, 0, .rw, 0⟩, ⟨5, 4, .rw, 0⟩, ⟨6, 6, .rw, 0⟩, ⟨19, 8, .rw, 0⟩, ⟨31, 20, .rw, 0⟩]⟩,
    ⟨0xE054, 0x0, 1, false, false, .loop, [⟨0, 0, .w1s, 0⟩, ⟨1, 1, .w1s, 0⟩, ⟨2, 2, .ro, 0⟩]⟩,
    ⟨0xE058, 0x0, 1, false, false, .loop, [⟨14, 0, .rw, 0⟩, ⟨30, 16, .rw, 0⟩]⟩,
    ⟨0xE060, 0x0, 1, false, false, .loop, [⟨3, 0, .rw, 0⟩, ⟨19, 4, .rw, 0⟩, ⟨27, 20, .rw, 0⟩, ⟨28, 28, .rw, 0⟩]⟩,
    ⟨0xE064, 0x0, 1, false, false, .loop, [⟨0, 0, .w1s, 0⟩, ⟨1, 1, .w1s, 0⟩, ⟨2, 2, .ro, 0⟩, ⟨3, 3, .ro, 0⟩, ⟨18, 4, .ro, 0⟩]⟩,
    ⟨0xE068, 0x0, 1, true, false, .loop, [⟨63, 0, .ro, 0⟩]⟩,
    ⟨0xE100, 0x10, 8, false, false, .loop, [⟨0, 0, .rw, 0⟩]⟩,
    ⟨0xE104, 0x10, 8, false, false, .loop, [⟨15, 0, .ro, 0⟩, ⟨31, 16, .ro, 0x4000⟩]⟩,
    ⟨0xE108, 0x10, 8, false, false, .loop, [⟨15, 0, .ro, 0⟩, ⟨31, 16, .ro, 0⟩]⟩,
    ⟨0xE180, 0x10, 8, false, false, .loop, [⟨1, 0, .rws, 0⟩, ⟨2, 2, .rws, 0⟩, ⟨6, 3, .rws, 0⟩, ⟨7, 7, .w1s, 0⟩]⟩,
    ⟨0xE184, 0x10, 8, false, false, .loop, [⟨31, 0, .rws, 0⟩]⟩]
def regTable12p2 : List RDef :=
  [
    ⟨0xE188, 0x10, 8, false, false, .loop, [⟨15, 0, .ro, 0⟩, ⟨16, 16, .ro, 0⟩, ⟨17, 17, .w1c, 0⟩]⟩,
    ⟨0xE18C, 0x10, 8, false, false, .loop, [⟨31, 0, .ro, 0⟩]⟩,
    ⟨0xE200, 0x10, 8, false, false, .loop, [⟨15, 0, .rws, 2⟩, ⟨16, 16, .rws, 0⟩, ⟨17, 17, .rws, 0⟩]⟩,
    ⟨0xE204, 0x10, 8, false, false, .loop, [⟨1, 0, .rw, 0⟩, ⟨31, 16, .rw, 0⟩]⟩,
    ⟨0xE208, 0x10, 8, false, false, .loop, [⟨15, 0, .ro, 0⟩]⟩,
    ⟨0xE280, 0x10, 4, false, false, .loop, [⟨0, 0, .rws, 0⟩]⟩,
    ⟨0xE284, 0x10, 4, false, false, .loop, [⟨11, 0, .rw, 0⟩]⟩,
    ⟨0xE288, 0x10, 4, false, false, .loop, [⟨11, 0, .ro, 0⟩]⟩,
    ⟨0xE400, 0x40, 16, false, false, .loop, [⟨1, 0, .ro, 0⟩, ⟨2, 2, .w1s, 0⟩, ⟨3, 3, .w1s, 0⟩, ⟨4, 4, .w1s, 0⟩, ⟨5, 5, .ro, 0⟩, ⟨6, 6, .rws, 0⟩, ⟨7, 7, .rws, 0⟩, ⟨10, 8, .rws, 0⟩, ⟨11, 11, .rws, 0⟩]⟩,
    ⟨0xE404, 0x40, 16, false, false, .loop, [⟨0, 0, .rws, 0⟩, ⟨3, 1, .rws, 0⟩, ⟨6, 4, .rws, 0⟩, ⟨10, 7, .rws, 0⟩, ⟨11, 11, .rws, 0⟩, ⟨15, 12, .rws, 0⟩, ⟨23, 16, .rws, 0⟩]⟩,
    ⟨0xE408, 0x40, 16, false, false, .loop, [⟨1, 0, .rws, 0⟩, ⟨4, 2, .rws, 0⟩]⟩,
    ⟨0xE40C, 0x40, 16, false, false, .loop, [⟨19, 0, .rws, 0x190⟩]⟩]
def regTable12p3 : List RDef :=
  [
    ⟨0xE410, 0x40, 16, false, false, .loop, [⟨15, 0, .rws, 0x8000⟩, ⟨31, 16, .rws, 0x7FFF⟩]⟩,
    ⟨0xE414, 0x40, 16, false, false, .loop, [⟨15, 0, .rw, 0⟩]⟩,
    ⟨0xE418, 0x40, 16, false, false, .loop, [⟨15, 0, .rw, 0⟩]⟩,
    ⟨0xE41C, 0x40, 16, false, false, .loop, [⟨31, 0, .rws, 0x3F800000⟩]⟩,
    ⟨0xE420, 0x40, 16, false, false, .loop, [⟨15, 0, .rws, 0⟩, ⟨17, 16, .rws, 0⟩, ⟨19, 18, .rws, 0⟩]⟩,
    ⟨0xE424, 0x40, 16, false, false, .loop, [⟨15, 0, .ro, 0⟩]⟩,
    ⟨0xE428, 0x40, 16, false, false, .loop, [⟨12, 0, .rws, 0⟩, ⟨25, 13, .rws, 1⟩, ⟨29, 26, .rws, 0⟩, ⟨31, 31, .rws, 0⟩]⟩,
    ⟨0xE42C, 0x40, 16, false, false, .loop, [⟨15, 0, .rws, 0⟩, ⟨31, 16, .rws, 0⟩]⟩,
    ⟨0xE430, 0x40, 16, false, false, .loop, [⟨0, 0, .ro, 0⟩, ⟨1, 1, .w1c, 0⟩, ⟨2, 2, .w1c, 0⟩, ⟨3, 3, .w1c, 0⟩, ⟨4, 4, .w1c, 0⟩]⟩,
    ⟨0xE434, 0x40, 16, false, false, .loop, [⟨15, 0, .ro, 0⟩, ⟨31, 16, .ro, 0⟩]⟩,
    ⟨0xE438, 0x40, 16, false, false, .loop, [⟨15, 0, .ro, 0⟩, ⟨31, 16, .ro, 0⟩]⟩]

/-- The register tables of chapter 12. -/
def regTable12 : List RDef :=
  regTable12p0 ++ regTable12p1 ++ regTable12p2 ++ regTable12p3

/-! ### Chapter 13 -/

/-- MBOX_CMD (R515). -/
def rMboxCmd : Nat := 0x10000
def mboxCmdOpcode : Fld := ⟨0x10000, 0x0, false, 7, 0⟩
def mboxCmdLength : Fld := ⟨0x10000, 0x0, false, 31, 16⟩
/-- MBOX_CTRL (R515). -/
def rMboxCtrl : Nat := 0x10004
def mboxCtrlGo : Fld := ⟨0x10004, 0x0, false, 0, 0⟩
/-- MBOX_STATUS (R515). -/
def rMboxStatus : Nat := 0x10008
def mboxStatusBusy : Fld := ⟨0x10008, 0x0, false, 0, 0⟩
def mboxStatusDone : Fld := ⟨0x10008, 0x0, false, 1, 1⟩
def mboxStatusResult : Fld := ⟨0x10008, 0x0, false, 15, 8⟩
def mboxStatusRespLen : Fld := ⟨0x10008, 0x0, false, 31, 16⟩
/-- MBOX_REQ (R515). -/
def rMboxReq : Nat := 0x11000
def mboxReqWord : Fld := ⟨0x11000, 0x4, false, 31, 0⟩
/-- MBOX_RESP (R515). -/
def rMboxResp : Nat := 0x15000
def mboxRespWord : Fld := ⟨0x15000, 0x4, false, 31, 0⟩
/-- MGMT_STATUS (R515). -/
def rMgmtStatus : Nat := 0x1E000
def mgmtStatusFwReady : Fld := ⟨0x1E000, 0x0, false, 0, 0⟩
def mgmtStatusCalInvalid : Fld := ⟨0x1E000, 0x0, false, 1, 1⟩
def mgmtStatusCalFactory : Fld := ⟨0x1E000, 0x0, false, 2, 2⟩
def mgmtStatusTrial : Fld := ⟨0x1E000, 0x0, false, 3, 3⟩
def mgmtStatusDebugOff : Fld := ⟨0x1E000, 0x0, false, 4, 4⟩
def mgmtStatusCfgEmpty : Fld := ⟨0x1E000, 0x0, false, 5, 5⟩
def mgmtStatusSvnFuse : Fld := ⟨0x1E000, 0x0, false, 15, 8⟩
def mgmtStatusRevoked : Fld := ⟨0x1E000, 0x0, false, 19, 16⟩
/-- MGMT_THERM (R515). -/
def rMgmtTherm : Nat := 0x1E004
def mgmtThermThrottleC : Fld := ⟨0x1E004, 0x0, false, 7, 0⟩
def mgmtThermLimitC : Fld := ⟨0x1E004, 0x0, false, 15, 8⟩
def mgmtThermTripC : Fld := ⟨0x1E004, 0x0, false, 23, 16⟩
/-- MGMT_SUPPLY0 (R515). -/
def rMgmtSupply0 : Nat := 0x1E008
def mgmtSupply0Vin : Fld := ⟨0x1E008, 0x0, false, 15, 0⟩
def mgmtSupply0Vhold : Fld := ⟨0x1E008, 0x0, false, 31, 16⟩
/-- MGMT_SUPPLY1 (R515). -/
def rMgmtSupply1 : Nat := 0x1E00C
def mgmtSupply1TModule : Fld := ⟨0x1E00C, 0x0, false, 15, 0⟩
def mgmtSupply1Rh : Fld := ⟨0x1E00C, 0x0, false, 31, 16⟩
/-- MGMT_CNT (R515). -/
def rMgmtCnt : Nat := 0x1E010
def mgmtCntWatchdog : Fld := ⟨0x1E010, 0x0, false, 15, 0⟩
def mgmtCntLogLost : Fld := ⟨0x1E010, 0x0, false, 31, 16⟩
/-- MGMT_TEMP (R515). -/
def rMgmtTemp : Nat := 0x1E100
def mgmtTempTemp : Fld := ⟨0x1E100, 0x4, false, 15, 0⟩
def mgmtTempMax : Fld := ⟨0x1E100, 0x4, false, 31, 16⟩
/-- CLR_STATUS (R515). -/
def rClrStatus : Nat := 0x1F000
def clrStatusAwake : Fld := ⟨0x1F000, 0x0, false, 0, 0⟩
def clrStatusWake : Fld := ⟨0x1F000, 0x0, false, 4, 1⟩
def clrStatusSleepReq : Fld := ⟨0x1F000, 0x0, false, 5, 5⟩
def clrStatusLastRule : Fld := ⟨0x1F000, 0x0, false, 9, 6⟩
def clrStatusLastValid : Fld := ⟨0x1F000, 0x0, false, 10, 10⟩
def clrStatusWakes : Fld := ⟨0x1F000, 0x0, false, 31, 16⟩
/-- CLR_CTRL (R515). -/
def rClrCtrl : Nat := 0x1F004
def clrCtrlSleepDelayS : Fld := ⟨0x1F004, 0x0, false, 7, 0⟩
/-- CLR_FILT (R515). -/
def rClrFilt : Nat := 0x1F008
def clrFiltFilt : Fld := ⟨0x1F008, 0x0, false, 15, 0⟩
/-- CLR_GUARD (R515). -/
def rClrGuard : Nat := 0x1F00C
def clrGuardHeld : Fld := ⟨0x1F00C, 0x0, false, 0, 0⟩
def clrGuardTripped : Fld := ⟨0x1F00C, 0x0, false, 1, 1⟩
def clrGuardTrips : Fld := ⟨0x1F00C, 0x0, false, 31, 16⟩
/-- CLR_RULE (R515). -/
def rClrRule : Nat := 0x1F040
def clrRuleRule : Fld := ⟨0x1F040, 0x4, false, 31, 0⟩

def regTable13p0 : List RDef :=
  [
    ⟨0x10000, 0x0, 1, false, true, .mgmt, [⟨7, 0, .rw, 0⟩, ⟨31, 16, .rw, 0⟩]⟩,
    ⟨0x10004, 0x0, 1, false, true, .mgmt, [⟨0, 0, .w1s, 0⟩]⟩,
    ⟨0x10008, 0x0, 1, false, true, .mgmt, [⟨0, 0, .ro, 0⟩, ⟨1, 1, .w1c, 0⟩, ⟨15, 8, .ro, 0⟩, ⟨31, 16, .ro, 0⟩]⟩,
    ⟨0x11000, 0x4, 4096, false, true, .mgmt, [⟨31, 0, .rw, 0⟩]⟩,
    ⟨0x15000, 0x4, 4096, false, true, .mgmt, [⟨31, 0, .ro, 0⟩]⟩,
    ⟨0x1E000, 0x0, 1, false, false, .mgmt, [⟨0, 0, .ro, 0⟩, ⟨1, 1, .ro, 0⟩, ⟨2, 2, .ro, 0⟩, ⟨3, 3, .ro, 0⟩, ⟨4, 4, .ro, 0⟩, ⟨5, 5, .ro, 0⟩, ⟨15, 8, .ro, 0⟩, ⟨19, 16, .ro, 0⟩]⟩,
    ⟨0x1E004, 0x0, 1, false, false, .mgmt, [⟨7, 0, .rwl, 0x73⟩, ⟨15, 8, .ro, 0x7D⟩, ⟨23, 16, .ro, 0x82⟩]⟩,
    ⟨0x1E008, 0x0, 1, false, false, .mgmt, [⟨15, 0, .ro, 0⟩, ⟨31, 16, .ro, 0⟩]⟩,
    ⟨0x1E00C, 0x0, 1, false, false, .mgmt, [⟨15, 0, .ro, 0⟩, ⟨31, 16, .ro, 0⟩]⟩,
    ⟨0x1E010, 0x0, 1, false, false, .mgmt, [⟨15, 0, .ro, 0⟩, ⟨31, 16, .ro, 0⟩]⟩,
    ⟨0x1E100, 0x4, 24, false, false, .mgmt, [⟨15, 0, .ro, 0⟩, ⟨31, 16, .ro, 0x8000⟩]⟩,
    ⟨0x1F000, 0x0, 1, false, false, .clearing, [⟨0, 0, .ro, 0⟩, ⟨4, 1, .ro, 0⟩, ⟨5, 5, .ro, 0⟩, ⟨9, 6, .ro, 0⟩, ⟨10, 10, .ro, 0⟩, ⟨31, 16, .ro, 0⟩]⟩]
def regTable13p1 : List RDef :=
  [
    ⟨0x1F004, 0x0, 1, false, false, .clearing, [⟨7, 0, .ro, 0x0A⟩]⟩,
    ⟨0x1F008, 0x0, 1, false, false, .clearing, [⟨15, 0, .ro, 0x1111⟩]⟩,
    ⟨0x1F00C, 0x0, 1, false, false, .clearing, [⟨0, 0, .ro, 0⟩, ⟨1, 1, .w1c, 0⟩, ⟨31, 16, .ro, 0⟩]⟩,
    ⟨0x1F040, 0x4, 16, false, false, .clearing, [⟨31, 0, .ro, 0⟩]⟩]

/-- The register tables of chapter 13. -/
def regTable13 : List RDef :=
  regTable13p0 ++ regTable13p1

/-! ### Chapter 14 -/

/-- DEV_PWR (R531). -/
def rDevPwr : Nat := 0x40
def devPwrSeated : Fld := ⟨0x40, 0x0, false, 0, 0⟩
def devPwrEjectReq : Fld := ⟨0x40, 0x0, false, 1, 1⟩
def devPwrDraining : Fld := ⟨0x40, 0x0, false, 2, 2⟩
def devPwrEjectOk : Fld := ⟨0x40, 0x0, false, 3, 3⟩
def devPwrUvStop : Fld := ⟨0x40, 0x0, false, 4, 4⟩
def devPwrOvStop : Fld := ⟨0x40, 0x0, false, 5, 5⟩
def devPwrUnseatStop : Fld := ⟨0x40, 0x0, false, 6, 6⟩
def devPwrRefclkSel : Fld := ⟨0x40, 0x0, false, 7, 7⟩
/-- DEV_PWR_CNT (R531). -/
def rDevPwrCnt : Nat := 0x44
def devPwrCntStops : Fld := ⟨0x44, 0x0, false, 15, 0⟩
def devPwrCntEjects : Fld := ⟨0x44, 0x0, false, 31, 16⟩
/-- DEV_PWR_CFG (R531). -/
def rDevPwrCfg : Nat := 0x48
def devPwrCfgDrainMs : Fld := ⟨0x48, 0x0, false, 15, 0⟩
def devPwrCfgEjectEn : Fld := ⟨0x48, 0x0, false, 16, 16⟩

def regTable14p0 : List RDef :=
  [
    ⟨0x40, 0x0, 1, false, false, .clearing, [⟨0, 0, .ro, 0⟩, ⟨1, 1, .ro, 0⟩, ⟨2, 2, .ro, 0⟩, ⟨3, 3, .ro, 0⟩, ⟨4, 4, .w1c, 0⟩, ⟨5, 5, .w1c, 0⟩, ⟨6, 6, .w1c, 0⟩, ⟨7, 7, .ro, 0⟩]⟩,
    ⟨0x44, 0x0, 1, false, false, .clearing, [⟨15, 0, .ro, 0⟩, ⟨31, 16, .ro, 0⟩]⟩,
    ⟨0x48, 0x0, 1, false, false, .setup, [⟨15, 0, .rwl, 0x1F4⟩, ⟨16, 16, .rwl, 1⟩]⟩]

/-- The register tables of chapter 14. -/
def regTable14 : List RDef :=
  regTable14p0

/-! ### Chapter 15 -/

/-- DEV_ID0 (R553). -/
def rDevId0 : Nat := 0x0
def devId0VendorFamily : Fld := ⟨0x0, 0x0, false, 31, 0⟩
/-- DEV_ID1 (R553). -/
def rDevId1 : Nat := 0x4
def devId1Device : Fld := ⟨0x4, 0x0, false, 7, 0⟩
def devId1Stepping : Fld := ⟨0x4, 0x0, false, 15, 8⟩
def devId1HwVersion : Fld := ⟨0x4, 0x0, false, 23, 16⟩
/-- DEV_CTRL (R553). -/
def rDevCtrl : Nat := 0x8
def devCtrlSetupLock : Fld := ⟨0x8, 0x0, false, 0, 0⟩
/-- DEV_STATUS (R553). -/
def rDevStatus : Nat := 0xC
def devStatusStage : Fld := ⟨0xC, 0x0, false, 2, 0⟩
def devStatusReady : Fld := ⟨0xC, 0x0, false, 3, 3⟩
def devStatusLockDone : Fld := ⟨0xC, 0x0, false, 4, 4⟩
def devStatusSelftestRetired : Fld := ⟨0xC, 0x0, false, 5, 5⟩
/-- DEV_ERR_STATUS (R553). -/
def rDevErrStatus : Nat := 0x10
def devErrStatusBadAccess : Fld := ⟨0x10, 0x0, false, 0, 0⟩
def devErrStatusLockedWrite : Fld := ⟨0x10, 0x0, false, 1, 1⟩
def devErrStatusNotReady : Fld := ⟨0x10, 0x0, false, 2, 2⟩
/-- DEV_RESET (R553). -/
def rDevReset : Nat := 0x14
def devResetKey : Fld := ⟨0x14, 0x0, false, 31, 0⟩
/-- DEV_RST_CAUSE (R553). -/
def rDevRstCause : Nat := 0x18
def devRstCauseLast : Fld := ⟨0x18, 0x0, false, 2, 0⟩
def devRstCauseComputeResets : Fld := ⟨0x18, 0x0, false, 31, 16⟩
/-- DEV_BOOT_TIME (R553). -/
def rDevBootTime : Nat := 0x1C
def devBootTimeUs : Fld := ⟨0x1C, 0x0, false, 31, 0⟩
/-- CLK_CTRL (R554). -/
def rClkCtrl : Nat := 0x1000
def clkCtrlRefSel : Fld := ⟨0x1000, 0x0, false, 0, 0⟩
/-- CLK_STATUS (R554). -/
def rClkStatus : Nat := 0x1004
def clkStatusRootLock : Fld := ⟨0x1004, 0x0, false, 0, 0⟩
def clkStatusRefActive : Fld := ⟨0x1004, 0x0, false, 1, 1⟩
def clkStatusSwitching : Fld := ⟨0x1004, 0x0, false, 2, 2⟩
def clkStatusRefLost : Fld := ⟨0x1004, 0x0, false, 3, 3⟩
def clkStatusPcieLock : Fld := ⟨0x1004, 0x0, false, 4, 4⟩
def clkStatusUsxLock : Fld := ⟨0x1004, 0x0, false, 5, 5⟩
def clkStatusPlkLock : Fld := ⟨0x1004, 0x0, false, 6, 6⟩

def regTable15p0 : List RDef :=
  [
    ⟨0x0, 0x0, 1, false, false, .other, [⟨31, 0, .ro, 0x5648494D⟩]⟩,
    ⟨0x4, 0x0, 1, false, false, .other, [⟨7, 0, .ro, 0x80⟩, ⟨15, 8, .ro, 1⟩, ⟨23, 16, .ro, 1⟩]⟩,
    ⟨0x8, 0x0, 1, false, false, .setup, [⟨0, 0, .w1s, 0⟩]⟩,
    ⟨0xC, 0x0, 1, false, false, .other, [⟨2, 0, .ro, 0⟩, ⟨3, 3, .ro, 0⟩, ⟨4, 4, .ro, 0⟩, ⟨5, 5, .w1c, 0⟩]⟩,
    ⟨0x10, 0x0, 1, false, false, .other, [⟨0, 0, .w1c, 0⟩, ⟨1, 1, .w1c, 0⟩, ⟨2, 2, .w1c, 0⟩]⟩,
    ⟨0x14, 0x0, 1, false, false, .other, [⟨31, 0, .wo, 0⟩]⟩,
    ⟨0x18, 0x0, 1, false, false, .other, [⟨2, 0, .ro, 0⟩, ⟨31, 16, .ro, 0⟩]⟩,
    ⟨0x1C, 0x0, 1, false, false, .other, [⟨31, 0, .ro, 0⟩]⟩,
    ⟨0x1000, 0x0, 1, false, false, .setup, [⟨0, 0, .rwl, 0⟩]⟩,
    ⟨0x1004, 0x0, 1, false, false, .other, [⟨0, 0, .ro, 0⟩, ⟨1, 1, .ro, 0⟩, ⟨2, 2, .ro, 0⟩, ⟨3, 3, .w1c, 0⟩, ⟨4, 4, .ro, 0⟩, ⟨5, 5, .ro, 0⟩, ⟨6, 6, .ro, 0⟩]⟩]

/-- The register tables of chapter 15. -/
def regTable15 : List RDef :=
  regTable15p0

/-- Every register of BAR0. -/
def regTable : List RDef :=
  regTable01 ++ regTable02 ++ regTable03 ++ regTable05 ++ regTable07 ++ regTable08 ++ regTable09 ++ regTable10 ++ regTable11 ++ regTable12 ++ regTable13 ++ regTable14 ++ regTable15

/-- The offset lies in one of the registers of the array. -/
def RDef.covers (r : RDef) (off : Nat) : Bool :=
  decide (r.base ≤ off) && decide (off < r.base + (r.count - 1) * r.stride + (if r.wide then 8 else 4)) &&
    (r.count = 1 || decide ((off - r.base) % r.stride < (if r.wide then 8 else 4)))

/-- Which register of the array holds the offset. -/
def RDef.index (r : RDef) (off : Nat) : Nat := if r.count = 1 then 0 else (off - r.base) / r.stride

/-- The first offset of register `i` of the array. -/
def RDef.at (r : RDef) (i : Nat) : Nat := r.base + i * r.stride

/-- The register that the offset lies in; none is an unassigned offset (R12). -/
def findReg (off : Nat) : Option RDef := regTable.find? (fun r => r.covers off)

/-- The reset value of a whole register. -/
def RDef.resetVal (r : RDef) : Nat := r.fields.foldl (fun v f => setBits v f.hi f.lo f.rst) 0

/-- The reset value of the word at a word-aligned offset. (DESIGN CHOICE, notes/assumptions/8.) -/
def resetWord (off : Nat) : U32 :=
  match findReg off with
  | none => 0
  | some r => BitVec.ofNat 32 (if off = r.at (r.index off) then r.resetVal else r.resetVal / 2 ^ 32)

/-- The registers' present contents: a word that is not listed holds its reset value. -/
abbrev Bank := SMap U32

def bankWord (b : Bank) (off : Nat) : U32 := mapGet (resetWord off) b off

def bankSet (b : Bank) (off : Nat) (v : U32) : Bank := mapSet (resetWord off) b off v

/-- The canonical form of a register bank. -/
def Bank.wf (b : Bank) : Bool := mapWf resetWord b

/-- A whole register of 32 or 64 bits. -/
def bankReg (b : Bank) (wide : Bool) (off : Nat) : Nat :=
  if wide then (bankWord b off).toNat + 2 ^ 32 * (bankWord b (off + 4)).toNat else (bankWord b off).toNat

def bankRegSet (b : Bank) (wide : Bool) (off : Nat) (v : Nat) : Bank :=
  if wide then bankSet (bankSet b off (BitVec.ofNat 32 v)) (off + 4) (BitVec.ofNat 32 (v / 2 ^ 32))
  else bankSet b off (BitVec.ofNat 32 v)

/-- The value of a named field of register `i`. -/
def bankFld (b : Bank) (f : Fld) (i : Nat := 0) : Nat := bits (bankReg b f.wide (f.base + i * f.stride)) f.hi f.lo

/-- A named field of register `i` replaced by the low bits of `x`. -/
def bankFldSet (b : Bank) (f : Fld) (i : Nat) (x : Nat) : Bank :=
  bankRegSet b f.wide (f.base + i * f.stride) (setBits (bankReg b f.wide (f.base + i * f.stride)) f.hi f.lo x)

/-- The domain of a field (R540): SETUP_LOCK and every RWL field belong to the set-up domain. -/
def fieldDom (r : RDef) (f : FDef) : Dom := if f.acc = .rwl then .setup else r.dom

/-- A register's value after a reset of the domains for which `p` holds (R541). -/
def RDef.afterReset (r : RDef) (p : Dom → Bool) (v : Nat) : Nat :=
  r.fields.foldl (fun a f => if p (fieldDom r f) then setBits a f.hi f.lo f.rst else a) v

/-- A word of the bank after a reset of the domains for which `p` holds. -/
def wordAfterReset (p : Dom → Bool) (off : Nat) (v : U32) : U32 :=
  match findReg off with
  | none => v
  | some r =>
    if off = r.at (r.index off) then BitVec.ofNat 32 (r.afterReset p v.toNat)
    else BitVec.ofNat 32 (r.afterReset p (v.toNat * 2 ^ 32) / 2 ^ 32)

/-- The bank after a reset of the domains for which `p` holds: each register of them is at its reset value (R541). -/
def bankReset (p : Dom → Bool) (b : Bank) : Bank :=
  (b.map (fun e => (e.1, wordAfterReset p e.1 e.2))).filter (fun e => e.2 ≠ resetWord e.1)

end Sys2Proof.Machine
end

