-- ==== Sys2Proof/Machine/TileState.lean ====
section
/-! DEFINITION. The state of one tile (chapters 01 to 04) that its register window does not hold. -/

namespace Sys2Proof.Machine

/-- A slot of a guarded handle: FULL or EMPTY, and its fill count (R123). -/
structure Slot where
  full : Bool := false
  count : Nat := 0
deriving DecidableEq, Repr

/-- The captured B operand (R154, R176): format code, K, SCALE_B, the rows read, the scale row. -/
structure CapturedB where
  fmt : Nat
  k : Nat
  scaleB : Bool
  rows : List Row
  scaleRow : Row
deriving DecidableEq, Repr

/-- A trap recorded and not yet delivered (R84, R89, R163): the enabled flags, a NaN under the watch, or an illegal
instruction. -/
structure TrapRec where
  pc : U32
  ordinal : Nat
  elem : Nat
  cause : BitVec 5
  nan : Bool
  illegal : Bool
deriving DecidableEq, Repr

/-- What issue stalls on: an arrival wait (R120), the guarded slots that its
accesses touch, each with its handle and whether it is to be overwritten (R124), a cache line (R135). -/
inductive Stall where
  | arrival (counter : Nat) (target : U32) (timeout : U32) (rd : BitVec 5)
  | guard (waits : List (Nat × Nat × Bool))
  | line (group set tag : Nat)
deriving DecidableEq, Repr

/-- A fabric operation in flight from the tile's egress (R129, R181): its number and its acknowledgement counter. -/
structure FabOp where
  id : Nat
  ack : Option Nat
deriving DecidableEq, Repr

/-- A line of a cache set: way, tag, dirty (R135). A set lists its valid lines, most recently used first. -/
structure CLine where
  way : Nat
  tag : Nat
  dirty : Bool
deriving DecidableEq, Repr

/-- Why Forester keeps a tile from work. -/
inductive Service where
  | spare      -- a sapling out of service
  | inService
  | retired
deriving DecidableEq, Repr

/-- An item of work that waits for the tile (R328): its job, its deadline (none for best-effort work), its declared bound in ARITH
cycles. -/
structure Item where
  job : Nat
  deadline : Option Nat
  bound : Nat
deriving DecidableEq, Repr

/-- An entry of the scoreboard (R116): the handle, the lowest and highest logical row, whether it is a write entry, and the last
ARITH cycle in which it is in use. -/
structure SbEntry where
  handle : Nat
  first : Nat
  last : Nat
  write : Bool
  till : Nat
deriving DecidableEq, Repr

/-- The times of a tile's program, in ARITH cycles since it started (R97, R106, R108, R116, R156, R157, R177).
(DESIGN CHOICE, notes/assumptions/120.) -/
structure Pace where
  /-- The earliest cycle in which the next instruction may issue. -/
  cycle : Nat := 0
  /-- The cycle from which each register may be read, by `xKey`, `vKey` and `aKey`; flags and conversions beside them. -/
  ready : SMap Nat := []
  /-- The cycle after each bank last accepted an access of the program. -/
  banks : SMap Nat := []
  /-- The earliest cycle in which the next row access may be presented. -/
  access : Nat := 0
  /-- The accumulator of the array's last MMA, the ends of its and of the previous MMA's computation, and the cycle from which that
  accumulator may be read. -/
  arrayAcc : Nat := 8
  arrayEnd : Nat := 0
  arrayPrev : Nat := 0
  arrayReady : Nat := 0
  /-- The scoreboard, by entry number. -/
  sb : SMap SbEntry := []
deriving DecidableEq, Repr

/-- One tile. Registers, rows, slots, code and handles that are not listed read zero. -/
structure Tile where
  x : SMap U64 := []
  v : SMap Row := []
  acc : SMap Row := []
  capB : Option CapturedB := none
  pc : U32 := 0
  code : SMap U64 := []
  codeLen : Nat := 0
  /-- Physical rows: row `r` of bank `b` under key 528 b + r (R104). -/
  rows : SMap Row := []
  /-- Remap table: the spare row of addressable row `r` of bank `b`, under key 512 b + r; 0 for a row that is not remapped
  (R139). -/
  remap : SMap Nat := []
  handles : SMap (BitVec 128) := []
  slots : SMap Slot := []
  /-- The tile runs vendor code for a problem or for attention, not the code of its image. -/
  vendor : Bool := false
  /-- Instructions issued since program start (R82). -/
  ordinal : Nat := 0
  job : Option Nat := none
  image : Option Nat := none
  groveSize : Nat := 0
  trap : Option TrapRec := none
  stall : Option Stall := none
  /-- Handles paused by a live remap (R142). -/
  paused : List Nat := []
  /-- Transfers held at the ingress (R124), waiting behind the hold places (R127), and admitted. -/
  held : List TransferHdr := []
  backlog : List TransferHdr := []
  admitted : List TransferHdr := []
  inflight : List FabOp := []
  cache : SMap (List CLine) := []
  /-- The role that a role change in progress ends in (R101). -/
  roleTo : Option Nat := none
  /-- The image and logical tile that the role change in progress loads (R319, R334). -/
  loadFor : Option (Nat × Nat) := none
  /-- The job to re-execute, or the tile replaced, when the load is complete (R334, R337). -/
  replaces : Option Nat := none
  service : Service := .spare
  items : List Item := []
  /-- Corrected errors reported by each physical row (R140), and rows that reported an uncorrectable one, by `rowKey`. -/
  rowErrs : SMap Nat := []
  rowBad : List Nat := []
  /-- The demanded duty of thermal control in sixteenths (R329). -/
  demandDuty : Nat := 16
  /-- The duty to which thermal control has lowered the tile (R329). -/
  duty : Nat := 16
  /-- The tile is being drained (R337); the tile that replaces it. -/
  drainTo : Option Nat := none
  /-- The job whose cache lines the tile holds dirty. -/
  dirtyJob : Option Nat := none
  /-- The times of the program. -/
  pace : Pace := {}
  /-- Physical rows whose stored code is wrong and that nothing has read since, by `rowKey` (R148, R149). -/
  flaws : SMap Ecc := []
  /-- Transfers whose hold at a guarded slot TILE_GUARD_STALLS has counted. -/
  guardHeld : List Nat := []
  /-- A live remap of a row that waits for the handle's accepted accesses: handle, bank, addressable row (R142). -/
  sparing : Option (Nat × Nat × Nat) := none
  /-- The tile has failed a checksum and waits for its test in strict mode (R55, R93). -/
  untested : Bool := false
deriving DecidableEq, Repr

end Sys2Proof.Machine
end

