-- ==== Sys2Proof/Machine/JobState.lean ====
section
/-! DEFINITION. Jobs, rings, images and recordings (chapters 08 and 09): the state that no register holds. -/

namespace Sys2Proof.Machine

/-- A submission descriptor (R362). -/
structure Desc where
  opcode : Nat := 0
  cls : Nat := 0
  flags : Nat := 0
  image : Nat := 0
  entry : Nat := 0
  frameT : Nat := 0
  tag : Nat := 0
  deadline : Nat := 0
  startCount : Nat := 0
  seed : Nat := 0
  addr : Nat := 0
  aux : Nat := 0
  count : Nat := 0
  loopMask : Nat := 0
  /-- The 64 bytes as read. -/
  raw : List Byte := []
deriving DecidableEq, Repr

/-- Where a job stands: waiting to start, at work, ended and not posted. -/
inductive JPhase where
  | waiting | running | ended
deriving DecidableEq, Repr

/-- A job fetched and not yet posted. -/
structure Job where
  id : Nat
  /-- The submitting ring 0 to 63; 64 for the supervisor queue (R366). -/
  q : Nat
  desc : Desc
  /-- The completion ring in which a slot is reserved for it (R361): the ring's CQ when the descriptor was fetched. -/
  cq : Nat := 64
  phase : JPhase := .waiting
  /-- What it waits for before it starts: the previous job of its ring (by number), a fence of its ring, its start count, the
  ring's go (R350, R351, R365). -/
  waitPrev : Option Nat := none
  waitFence : Option Nat := none
  waitCount : Bool := false
  waitGo : Bool := false
  /-- Forester has decided on the job (R316, R326). -/
  admitted : Bool := false
  status : Nat := 0
  cause : Nat := 0
  detailIdx : Nat := 0
  /-- The completion flags of R366. -/
  flags : Nat := 0
  /-- The device time at which the job was read from its ring (R326). -/
  readAt : Nat := 0
  /-- The trigger instant of a triggered pass (R371). -/
  instant : Option Nat := none
  /-- Physical tiles at work for the job. -/
  tiles : List Nat := []
  /-- Output copies, dirty lines, page copies and rows still outstanding. -/
  outCopy : Bool := false
  /-- A fault that Forester decides upon: re-execution, or completion with this status (R93, R339, R448). -/
  fault : Option Nat := none
  /-- The status of the job that an AFTER_PREV job waits for, once that has been posted (R365). -/
  prevDone : Option Nat := none
  /-- The job completes when the jobs listed here have been posted (FENCE, UNLOAD_IMAGE). -/
  after : List Nat := []
  /-- The completion is dropped, not posted (R385). -/
  silent : Bool := false
  replayed : Bool := false
  /-- A replayed job (R348): recorded ends by problem (index, iteration, END_CAUSE), FIFO data, and timed-out waits (logical
  tile, ordinal). -/
  stops : List (Nat × Nat × Nat) := []
  fed : List (Nat × List Byte) := []
  timeouts : List (Nat × Nat) := []
  /-- Ring job: the modules that have still to answer, and whether one refused (R351). -/
  ringWait : List Nat := []
  ringRefused : Bool := false
  /-- Its work begins when the substitutes of its tiles are in place (R334, R337). -/
  waitPlace : Bool := false
deriving DecidableEq, Repr

/-- An admitted deadline item of the hub engine (R326): job, problem, class, deadline, resource kind, instance, declared
demand. -/
structure Admitted where
  job : Nat
  prob : Nat
  cls : Nat
  deadline : Nat
  kind : Nat
  inst : Nat
  demand : Nat
deriving DecidableEq, Repr

/-- A pass of a triggered ring in progress: the next entry to fetch, its jobs not yet posted, its trigger instant (R370). -/
structure Pass where
  next : Nat
  instant : Nat
  /-- The event has been taken and the completion slots are reserved; the list is not yet submitted. -/
  waits : Bool := false
deriving DecidableEq, Repr

/-- The part of a submission ring that its registers do not hold. -/
structure SqState where
  tail : Nat := 0
  /-- The ring stopped fetching after DB_ERR or FETCH_ERR (R360). -/
  halted : Bool := false
  /-- A triggered ring is armed with a list of this length (R370). -/
  armed : Option Nat := none
  pass : Option Pass := none
  /-- The last multiple of the period that the global count has reached (R370). -/
  lastTick : Nat := 0
  /-- The last job fetched since ENABLE, and its status once it has completed (R364, R365). -/
  lastJob : Option Nat := none
  lastDone : Option Nat := none
  /-- A FENCE of the ring that has not completed (R365). -/
  fence : Option Nat := none
deriving DecidableEq, Repr

/-- The part of a completion ring that its registers do not hold. -/
structure CqState where
  head : Nat := 0
  /-- Slots reserved for descriptors fetched (R361). -/
  reserved : Nat := 0
  /-- Entries posted since the last signal (R369). -/
  unsignalled : Nat := 0
  /-- Entries lie between head and tail (head = tail is otherwise empty). -/
  used : Nat := 0
deriving DecidableEq, Repr

/-- A tile of an image (R318): role, entry PCs, code, handle list, DIAG mask, image-supplied rows. -/
structure ImgTile where
  role : Nat
  entryPcs : List Nat := []
  code : List U64 := []
  handles : List (BitVec 128) := []
  diag : U64 := 0
  rows : List (Nat × Nat × List Row) := []
deriving DecidableEq, Repr

/-- An ENTRY_IO record (R318). -/
structure EntryIo where
  argTile : Nat := 0xFF
  argHandle : Nat := 0
  argRow : Nat := 0
  argRows : Nat := 0
  argCounter : Nat := 0
  outTile : Nat := 0xFF
  outHandle : Nat := 0
  outRow : Nat := 0
  outRows : Nat := 0
deriving DecidableEq, Repr

/-- A demand record (R320). -/
structure Demand where
  cyc : Nat
  fab : Nat
  canopy : Nat
  ddr : Nat
  plk : Nat
  lookups : Nat
deriving DecidableEq, Repr

/-- A loaded image (R317 to R321): its number, bytes, parts, placement of logical tiles, and the space it holds. -/
structure Image where
  num : Nat
  bytes : List Byte := []
  tiles : List ImgTile := []
  demands : List Demand := []
  entryIo : List EntryIo := []
  /-- Physical tile of each logical tile; none after a loss without substitute (R336). -/
  place : List (Option Nat) := []
  ddrBase : Nat := 0
  ddrBytes : Nat := 0
  canopyBase : Nat := 0
  canopyBytes : Nat := 0
  /-- Offset of the image's copy in the image store and its length. -/
  copyBase : Nat := 0
  copyLen : Nat := 0
  /-- Template records by offset in the image, and the first byte of the COEFFICIENTS section. -/
  templates : List Nat := []
  coefBase : Nat := 0
  coefLen : Nat := 0
  digest : List Byte := []
  /-- The load is still in progress (its tiles change role) or the unload has begun (R557). -/
  loading : Option Nat := none
  unloading : Option Nat := none
deriving DecidableEq, Repr

/-- An abort in progress (R380): its scope (0 a TAG on a ring, 1 rings of a mask, 2 an image, 3 all), the ABORT job that asked
for it, the cause code of its completions, and the jobs whose completions are still to be posted. -/
structure AbortRun where
  scope : Nat
  q : Nat := 0
  tag : Nat := 0
  mask : Nat := 0
  image : Nat := 0
  job : Option Nat := none
  cause : Nat := 0
  /-- No completion is posted (R385). -/
  silent : Bool := false
  left : List Nat := []
deriving DecidableEq, Repr

/-- An entry of a recorded stream (R346): its place in the stream's numbering, type, AUX, LTILE, job ordinal and payload. -/
structure RecEntry where
  entry : Nat
  type : Nat
  aux : Nat
  lt : Nat
  ord : Nat
  payload : List Byte
deriving DecidableEq, Repr

/-- A replay in progress (R348): the REPLAY_CTL job, the image, its options, the stream, the ordinals of jobs still to be replayed
with their descriptors, the job at work with its ordinal, and the results so far. -/
structure Replay where
  ctl : Nat
  image : Nat
  compare : Bool
  halt : Bool
  stream : List RecEntry
  todo : List RecEntry
  /-- The stream ends with END. -/
  complete : Bool
  child : Option (Nat × Nat) := none
  jobs : Nat := 0
  mismatches : Nat := 0
  first : Nat := 0xFFFFFFFFFFFFFFFF
deriving DecidableEq, Repr

/-- A recording in progress (R345 to R347). -/
structure Recording where
  image : Nat
  content : Nat
  bufAddr : Nat
  bufBytes : Nat
  pos : Nat := 0
  entry : Nat := 0
  jobOrd : Nat := 0
  /-- FROM_LOAD: waits for the image's next LOAD_IMAGE. -/
  waitLoad : Bool := false
  /-- The jobs recorded, with their ordinals. -/
  jobs : List (Nat × Nat) := []
deriving DecidableEq, Repr

end Sys2Proof.Machine
end

