-- ==== Sys2Proof/Machine/SolveState.lean ====
section
/-! DEFINITION. The state of the Solve system (chapters 05 and 06): templates, problems, warm-start slots. FP64 values are held
as their codes. -/

namespace Sys2Proof.Machine

abbrev Vec := List Nat
abbrev Mat := List Vec

/-- A template record (R195) and its extension (R235, R249). -/
structure Template where
  id : Nat := 0
  kind : Nat := 0
  method : Nat := 0
  nx : Nat := 0
  nu : Nat := 0
  n : Nat := 0
  ni : Nat := 0
  niTerm : Nat := 0
  np : Nat := 0
  prec : Nat := 0
  grove : Nat := 1
  checkEvery : Nat := 0
  tauExp : Nat := 0
  deltaExp : Nat := 0
  itCapMax : Nat := 0
  asmPlace : Nat := 0
  cycAsm : Nat := 0
  cycIter : Nat := 0
  cycCert : Nat := 0
  signature : Nat := 0
  coefOffset : Nat := 0
  coefBytes : Nat := 0
  /-- Bytes 0 to 63, and the extension's bytes. -/
  raw : List Byte := []
  ext : List Byte := []
deriving DecidableEq, Repr

/-- A problem record (R202, R238, R259). -/
structure ProbRec where
  templateId : Nat := 0
  warmSlot : Nat := 0
  warmShift : Nat := 0
  fallbackKind : Nat := 0
  itCap : Nat := 0
  deadline : Nat := 0
  epsP : Nat := 0
  epsD : Nat := 0
  epsG : Nat := 0
  accP : Nat := 0
  accD : Nat := 0
  accG : Nat := 0
  rho : Nat := 0
  x0Addr : Nat := 0
  paramAddr : Nat := 0
  resultAddr : Nat := 0
  fallbackAddr : Nat := 0
  options : Nat := 0
  x0Src : Nat := 0
  /-- Bytes 106 to 127. -/
  tail : List Byte := []
deriving DecidableEq, Repr

/-- One point of the horizon or of the tree: the equation that leads into it, its cost and its constraint rows (R193, R250).
A terminal point has no input. -/
structure Pt where
  parent : Option Nat
  node : Nat
  stage : Nat
  term : Bool
  a : Mat
  b : Mat
  c : Vec
  h : Mat
  hv : Vec
  cm : Mat
  dm : Mat
  lo : Vec
  hi : Vec
  /-- KIND 1: measurement matrix and weights. -/
  g : Mat := []
  w : Vec := []
deriving DecidableEq, Repr

/-- An iterate: per point the state, the input, the multiplier of the equation into the point and of the rows; the slacks and
multipliers of the finite bounds. -/
structure Iterate where
  x : Mat := []
  u : Mat := []
  pi : Mat := []
  lam : Mat := []
  s : Vec := []
  w : Vec := []
deriving DecidableEq, Repr

/-- A certificate (R219). -/
structure Cert where
  rp : Nat := 0
  rd : Nat := 0
  gap : Nat := 0
  obj : Nat := 0
deriving DecidableEq, Repr

/-- A delivered or best iterate: iteration, iterate, certificate, plan copy (R213, R226). -/
structure Best where
  it : Nat
  iter : Iterate
  cert : Cert
  copy : Nat
deriving DecidableEq, Repr

/-- Mean and square-root covariance of a filter (R239). -/
structure Gauss where
  x : Vec := []
  s : Mat := []
deriving DecidableEq, Repr

/-- The estimator's part of a slot (R239): newest sample handled, filter, prior, gate bits by sample number modulo 256. -/
structure EstSlot where
  ns : Nat
  filter : Gauss
  prior : Gauss
  gates : SMap Nat
deriving DecidableEq, Repr

/-- A warm-start slot entry (R215). -/
structure WarmEntry where
  image : Nat
  slot : Nat
  signature : Nat
  method : Nat
  nodeN : Nat
  iter : Option Iterate
  plan : List Nat
  age : Nat
  est : Option EstSlot := none
deriving DecidableEq, Repr

/-- A measurement sample read from the buffer (R237): presence of its rows and their values; `absent` for a record whose SEQ
differs. -/
structure Sample where
  absent : Bool
  present : Nat
  y : Vec
deriving DecidableEq, Repr

/-- What an estimation problem has done so far (R239 to R246). -/
structure EstRun where
  d : Nat := 0
  filter : Gauss := {}
  prior : Gauss := {}
  /-- Gate bits of the samples, by number modulo 256 (R239). -/
  gates : SMap Nat := []
  samples : List Sample := []
  gated : Nat := 0
  absent : Nat := 0
  nonfinite : Nat := 0
  nisMax : Nat := 0
  /-- The flags that carrying the prior raised (R80). -/
  fl : BitVec 6 := 0
  /-- An operation of it gave a NaN (R89). -/
  nan : Bool := false
  /-- The filter has run. -/
  ran : Bool := false
deriving DecidableEq, Repr

inductive PPhase where
  /-- Waits for its xhat, its slot's turn and its tile. -/
  | queued
  | assembling
  | iterating
  /-- A certificate failed after the internal targets were met: Forester decides (R222). -/
  | suspect
  | ended
deriving DecidableEq, Repr

/-- A problem of a solve-family job. -/
structure Problem where
  job : Nat
  idx : Nat
  image : Nat
  rcd : ProbRec
  t : Template
  phase : PPhase := .queued
  deadline : Option Nat := none
  /-- Tiles reserved by admission; tiles at work. -/
  reserved : List Nat := []
  tiles : List Nat := []
  /-- The stream FIFO entry taken for xhat or the newest sample: payload and T_INGRESS (R373). -/
  taken : Option (List Byte × Nat) := none
  /-- Released under cut-through, its entry not yet complete (R376). -/
  cut : Option (Nat × Nat) := none
  tMeas : Nat := 0
  xhat : Vec := []
  params : Mat := []
  weights : Vec := []
  pts : List Pt := []
  start : Iterate := {}
  cur : Iterate := {}
  it : Nat := 0
  best : Option Best := none
  lastCert : Nat := 0
  warmState : Nat := 0
  warm : Option WarmEntry := none
  pivots : Nat := 0
  warmRejected : Bool := false
  reexec : Bool := false
  /-- The iterate of the first END_CAUSE 3 and the tiles that computed it (R222). -/
  firstFail : Option Iterate := none
  firstTiles : List Nat := []
  est : Option EstRun := none
  /-- The estimator's run as the problem first found it: a re-execution starts from it again (R222). -/
  est0 : Option EstRun := none
  /-- The GENERAL tile that assembles the data (R200). -/
  asm : Option Nat := none
  /-- The sequence map as it was checked at the start, by node (R261). -/
  map : Option (List Nat) := none
  /-- A fault that Forester may answer by re-execution (R223, R448). -/
  fault : Option Nat := none
  /-- Replay: the iteration to stop at and the recorded cause (R225, R348). -/
  replayStop : Option (Nat × Nat) := none
  status : Nat := 0
  cause : Nat := 0
  source : Nat := 0
  certified : Bool := false
deriving DecidableEq, Repr

/-- The Solve system. -/
structure Solv where
  problems : List Problem := []
  warm : List WarmEntry := []
deriving DecidableEq, Repr

end Sys2Proof.Machine
end

