-- ==== Sys2Proof/Machine/State.lean ====
section
/-! DEFINITION. The machine state: the device, its non-volatile stores, and the queue of commands that wait. -/

namespace Sys2Proof.Machine

/-- What a port holds for 64-bit registers accessed as two words (R10): latched high words and held low words by offset. -/
structure PortState where
  latch : SMap U32 := []
  held : SMap U32 := []
deriving DecidableEq, Repr

/-- What the module sends out. -/
inductive OutItem where
  /-- The answer to a port's read. -/
  | readData (p : Port) (size : Nat) (v : U64)
  /-- Bytes driven on the Spadja port. -/
  | spadja (bytes : List Byte)
  /-- An MSI-X message (R369). -/
  | msix (vector : Nat) (addr : U64) (data : U32)
  /-- A frame leaving an external bridge port. -/
  | frame (port : Nat) (bytes : List Byte)
  /-- A CAN frame on the wire. -/
  | can (c : Nat) (id : U32) (dlc : Byte) (data : List Byte)
  /-- A flit on a Plaong link. -/
  | flit (l : Nat) (x : Flit)
deriving DecidableEq, Repr

/-- The regions that the lock-time actions reserve (R551). Device addresses. -/
structure Regions where
  imageStore : Nat := 0
  imageStoreLen : Nat := 0
  /-- First byte of Canopy that no reservation covers. -/
  canopyFree : Nat := 0
  warmBytes : Nat := 0
deriving DecidableEq, Repr

/-- The device. -/
structure Dev where
  /-- Registers of BAR0: words that differ from their reset values. -/
  regs : Bank := []
  /-- The supervisor's own copy of the registers held per port (R152). -/
  supRegs : Bank := []
  host : PortState := {}
  sup : PortState := {}
  hostMem : Memory := []
  /-- Device memory by its 40-bit address (R426): DDR4 from 0, Canopy from 0x80_0000_0000. -/
  mem : Memory := []
  /-- DDR4 blocks and Canopy rows written poisoned, by address (R447). -/
  poison : List Nat := []
  /-- DDR4 blocks and Canopy rows whose stored code is wrong and that nothing has found so since, by address (R431, R442). -/
  flaws : SMap Ecc := []
  /-- Device time in units of 2^-32 ns (R398). -/
  time : Nat := 0
  /-- Nanoseconds that TIME_STEP adds at the next tick (R399). -/
  timeStep : Int := 0
  /-- SYNCED has been set since reset (R400). -/
  synced : Bool := false
  /-- Tiles by physical number. -/
  tiles : SMap Tile := []
  /-- Transfers on the fabric, not yet at their target's ingress: target tile and header. -/
  fabric : List (Nat × TransferHdr) := []
  /-- Acknowledgements and refusals on their way back: issuing tile, operation number (and status). -/
  acks : List (Nat × Nat) := []
  refusals : List (Nat × Nat × RefusalStatus) := []
  nextXfer : Nat := 0
  sqs : SMap SqState := []
  cqs : SMap CqState := []
  /-- Where the fetch round stands: the ring and the descriptors taken from it (R361). -/
  fetchRing : Nat := 0
  fetchCount : Nat := 0
  jobs : List Job := []
  nextJob : Nat := 0
  images : List Image := []
  admitted : List Admitted := []
  recs : List Recording := []
  /-- Aborts whose completions are not all posted (R380). -/
  aborts : List AbortRun := []
  replays : List Replay := []
  mgmt : Mgmt := {}
  clr : Clr := {}
  boot : Boot := {}
  loop : LoopEng := {}
  links : Links := {}
  /-- Where the scrub of each DDR4 channel stands, and of each Canopy slice and tile bank (R434, R443). -/
  scrub : Scrub := {}
  /-- PPS_OUT is high (R521). -/
  ppsHigh : Bool := false
  /-- Seconds of device time that PPS_OUT has marked. -/
  ppsSecond : Nat := 0
  solv : Solv := {}
  attn : Attn := {}
  fifos : Fifos := {}
  net : Net := {}
  regions : Regions := {}
  out : List OutItem := []
  /-- Counts the free values taken (DESIGN CHOICE, notes/assumptions/2). -/
  freeCtr : Nat := 0
deriving DecidableEq, Repr

/-- The machine state. `pending` is the queue of commands that wait, first in, first out. -/
structure State where
  dev : Dev := {}
  /-- Fuses and flash, which no reset changes. -/
  nv : NonVol := {}
  pending : List Instr := []
deriving DecidableEq, Repr

/-- Why the machine stops. No command of this model stops it with a fault: the type is closed and empty of uses (safe). -/
inductive Fault where
  /-- Raised by nobody; the manual describes no state in which the module ceases to take commands (safe). -/
  | none
deriving DecidableEq, Repr

/-- Why a command has no meaning. -/
inductive Refusal where
  /-- An arm of `exec` without a meaning (safe: nothing is claimed of it). -/
  | notModelled (mnemonic : String)
deriving DecidableEq, Repr

/-- The machine after Clearing's power-on reset. (DESIGN CHOICE, notes/assumptions/7.) -/
def State.reset : State := { nv := factoryNv }

end Sys2Proof.Machine
end

