-- ==== Sys2Proof/Machine/Ops.lean ====
section
/-! DEFINITION. The named operations over registers, tiles, rows and jobs that every command uses. -/

namespace Sys2Proof.Machine

/-- The two forms of every meaning: the machine goes on with the device changed. -/
abbrev Out := Host.Outcome State Fault Refusal

/-- A command whose effect is a change of the device. -/
def onDev (f : Dev → Dev) (s : State) : Out := .next { s with dev := f s.dev }

/-! ### Registers -/

/-- Field `f` of register `i`. -/
def Dev.fld (d : Dev) (f : Fld) (i : Nat := 0) : Nat := bankFld d.regs f i

/-- Field `f` of register `i` set to the low bits of `v`. -/
def Dev.setFld (d : Dev) (f : Fld) (v : Nat) (i : Nat := 0) : Dev := { d with regs := bankFldSet d.regs f i v }

/-- A one-bit field as a truth value. -/
def Dev.flag (d : Dev) (f : Fld) (i : Nat := 0) : Bool := d.fld f i ≠ 0

/-- A counter field raised by `n`, saturating at its width. -/
def Dev.incFld (d : Dev) (f : Fld) (i : Nat := 0) (n : Nat := 1) : Dev :=
  d.setFld f (satInc (f.hi + 1 - f.lo) (d.fld f i) n) i

/-- Field `f` set where a condition holds. -/
def Dev.setIf (d : Dev) (c : Bool) (f : Fld) (v : Nat) (i : Nat := 0) : Dev := if c then d.setFld f v i else d

/-- Something leaves the module. (DESIGN CHOICE, notes/assumptions/104.) -/
def Dev.emit (d : Dev) (o : OutItem) : Dev := { d with out := d.out ++ [o] }

/-- Device time in whole nanoseconds (R398). (DESIGN CHOICE, notes/assumptions/5.) -/
def Dev.now (d : Dev) : Nat := d.time / 2 ^ 32

/-- A fresh number for a free value. -/
def Dev.bump (d : Dev) : Dev := { d with freeCtr := d.freeCtr + 1 }

/-- A choice that the manual leaves to Forester: any element of the list (DESIGN CHOICE, notes/assumptions/25). A list of one element leaves no
choice. -/
def choose {α : Type} (d : Dev) (l : List α) : Option α × Dev :=
  match l with
  | [] => (none, d)
  | [x] => (some x, d)
  | _ => (l[(Config.freeU64 d.freeCtr).toNat % l.length]?, d.bump)

/-- `n` different elements chosen one after the other; as many as there are, if fewer. -/
def chooseN (n : Nat) (l : List Nat) (d : Dev) : List Nat × Dev :=
  match n with
  | 0 => ([], d)
  | n + 1 =>
    match choose d l with
    | (none, d) => ([], d)
    | (some x, d) =>
      let r := chooseN n (l.erase x) d
      (x :: r.1, r.2)

/-! ### Tiles -/

/-- The number of physical tiles (R6). -/
def tileCount : Nat := 136

def Dev.tile (d : Dev) (t : Nat) : Tile := mapGet {} d.tiles t

def Dev.setTile (d : Dev) (t : Nat) (x : Tile) : Dev := { d with tiles := mapSet {} d.tiles t x }

/-- Change tile `t`. -/
def Dev.updTile (d : Dev) (t : Nat) (f : Tile → Tile) : Dev := d.setTile t (f (d.tile t))

/-- The states of TILE_STATE (R151). -/
def tsOff : Nat := 0
def tsReady : Nat := 1
def tsRunning : Nat := 2
def tsStopped : Nat := 3
def tsRetired : Nat := 4

/-- Scalar register `r`; x0 reads 0 (R154). -/
def Tile.xr (x : Tile) (r : BitVec 5) : U64 := if r = 0 then 0 else mapGet 0 x.x r.toNat

/-- Write scalar register `r`; a write to x0 is discarded (R154). -/
def Tile.xw (x : Tile) (r : BitVec 5) (v : U64) : Tile := if r = 0 then x else { x with x := mapSet 0 x.x r.toNat v }

def Tile.vr (x : Tile) (r : Nat) : Row := mapGet 0 x.v r

def Tile.vw (x : Tile) (r : Nat) (v : Row) : Tile := { x with v := mapSet 0 x.v r v }

def Tile.ar (x : Tile) (r : Nat) : Row := mapGet 0 x.acc r

def Tile.aw (x : Tile) (r : Nat) (v : Row) : Tile := { x with acc := mapSet 0 x.acc r v }

/-! ### Handles (R110, R113) -/

/-- A handle table entry's fields. -/
structure Hnd where
  valid : Bool
  guarded : Bool
  kind : Nat
  writable : Bool
  ingress : Bool
  egress : Bool
  firstBank : Nat
  bankLog2 : Nat
  rows : Nat
  baseRow : Nat
  slotLog2 : Nat
  slotBase : Nat
  timeout : Nat
  group : Nat
  maddr : Nat
deriving DecidableEq, Repr

/-- The fields of an entry (R113). -/
def hndOf (e : BitVec 128) : Hnd :=
  let n := e.toNat
  { valid := bit n 0, guarded := bit n 1, kind := bits n 3 2, writable := bit n 4, ingress := bit n 5, egress := bit n 6,
    firstBank := bits n 11 8, bankLog2 := bits n 14 12, rows := bits n 29 16, baseRow := bits n 40 32,
    slotLog2 := bits n 51 48, slotBase := bits n 63 56, timeout := bits n 79 64, group := bits n 80 80,
    maddr := bits n 126 96 }

def Tile.hnd (x : Tile) (h : Nat) : Hnd := hndOf (mapGet 0 x.handles h)

/-- The bank of logical row `r` (R110). -/
def Hnd.bank (h : Hnd) (r : Nat) : Nat := h.firstBank + r % 2 ^ h.bankLog2

/-- The addressable bank row of logical row `r` (R110). -/
def Hnd.brow (h : Hnd) (r : Nat) : Nat := h.baseRow + r / 2 ^ h.bankLog2

/-- The physical row that an addressable row stands for (R139). -/
def Tile.prow (x : Tile) (bank brow : Nat) : Nat :=
  let s := mapGet 0 x.remap (512 * bank + brow)
  if s = 0 then brow else s

/-- The key of a physical row in the tile's rows. -/
def rowKey (bank prow : Nat) : Nat := 528 * bank + prow

def Tile.physRow (x : Tile) (bank brow : Nat) : Row := mapGet 0 x.rows (rowKey bank (x.prow bank brow))

/-- A row is written whole, with a right code. -/
def Tile.setPhysRow (x : Tile) (bank brow : Nat) (v : Row) : Tile :=
  { x with rows := mapSet 0 x.rows (rowKey bank (x.prow bank brow)) v, flaws := mapErase x.flaws (rowKey bank (x.prow bank brow)) }

/-- TILE_SPAREn's field for bank `b`. -/
def fldSpare (b : Nat) : Fld := { tileSpare0UsedA with base := rTileSpare0 + 4 * (b / 4), lo := 8 * (b % 4), hi := 8 * (b % 4) + 4 }

/-- Logical row `r` of a LOCAL handle. -/
def Tile.readRow (x : Tile) (h : Hnd) (r : Nat) : Row := x.physRow (h.bank r) (h.brow r)

def Tile.writeRow (x : Tile) (h : Hnd) (r : Nat) (v : Row) : Tile := x.setPhysRow (h.bank r) (h.brow r) v

/-- The slot of logical row `r` (R114, R123). -/
def Hnd.slot (h : Hnd) (r : Nat) : Nat := r / 2 ^ h.slotLog2

def Tile.slot (x : Tile) (h : Hnd) (k : Nat) : Slot := mapGet {} x.slots (h.slotBase + k)

def Tile.setSlot (x : Tile) (h : Hnd) (k : Nat) (v : Slot) : Tile := { x with slots := mapSet {} x.slots (h.slotBase + k) v }

/-- A row write counts toward the slot's fill (R123). -/
def Tile.fillSlot (x : Tile) (h : Hnd) (r : Nat) : Tile :=
  if h.guarded then
    let k := h.slot r
    let s := x.slot h k
    if s.full then x
    else if s.count + 1 = 2 ^ h.slotLog2 then x.setSlot h k ⟨true, 0⟩ else x.setSlot h k ⟨false, s.count + 1⟩
  else x

/-- A read with the drain mark empties the slot (R123). -/
def Tile.drainSlot (x : Tile) (h : Hnd) (r : Nat) : Tile := if h.guarded then x.setSlot h (h.slot r) ⟨false, 0⟩ else x

/-- Store a row through a LOCAL handle and count it toward its slot. -/
def Tile.storeRow (x : Tile) (h : Hnd) (r : Nat) (v : Row) : Tile := (x.writeRow h r v).fillSlot h r

/-- Rows r, r + 1, … stored. -/
def Tile.storeRows (x : Tile) (h : Hnd) (r : Nat) : List Row → Tile
  | [] => x
  | v :: t => (x.storeRow h r v).storeRows h (r + 1) t

/-- `n` row writes that count toward the slots of the rows from `r` on. -/
def Tile.fillSlots (x : Tile) (h : Hnd) (r n : Nat) : Tile := (upto n).foldl (fun x i => x.fillSlot h (r + i)) x

/-- `n` rows from `r`. -/
def Tile.readRows (x : Tile) (h : Hnd) (r : Nat) (n : Nat) : List Row := (upto n).map fun i => x.readRow h (r + i)

/-- The tile takes no work until the firmware has tested it in strict mode (R55, R93, R222). -/
def awaitTest (d : Dev) (t : Nat) : Dev := d.updTile t fun x => { x with untested := true }

/-! ### Device memory by rows -/

/-- The 512-byte row at a device address. -/
def memRow (m : Memory) (a : Nat) : Row := BitVec.ofNat 4096 (memReadLe m a 512)

def memSetRow (m : Memory) (a : Nat) (r : Row) : Memory := memWriteLe m a 512 r.toNat

/-- The first byte of Canopy (R426). -/
def canopyBase : Nat := 0x8000000000

/-! ### Jobs -/

def Dev.job (d : Dev) (j : Nat) : Option Job := d.jobs.find? (fun x => x.id = j)

/-- Change job `j`. -/
def Dev.updJob (d : Dev) (j : Nat) (f : Job → Job) : Dev :=
  { d with jobs := d.jobs.map fun x => if x.id = j then f x else x }

/-- The status codes of R5. -/
def stDone : Nat := 0
def stDeadlineBest : Nat := 1
def stFallback : Nat := 2
def stAborted : Nat := 3
def stInvalid : Nat := 4
def stRoleStale : Nat := 5
def stBankOff : Nat := 6
def stNumeric : Nat := 7
def stGuard : Nat := 8
def stRefused : Nat := 9
def stUncorrectable : Nat := 0xA
def stLinkLost : Nat := 0xB
def stNanTrapped : Nat := 0xC
def stChecksum : Nat := 0xD

/-- The completion flag bits of R366. -/
def cfWarmRejected : Nat := 1
def cfPivot : Nat := 2
def cfReexecuted : Nat := 4
def cfCorrected : Nat := 8
def cfStrict : Nat := 0x10
def cfReplayed : Nat := 0x20
def cfCertPass : Nat := 0x40

/-- A completion flag set in job `j`. -/
def Dev.jobFlag (d : Dev) (j : Option Nat) (f : Nat) : Dev :=
  match j with
  | none => d
  | some j => d.updJob j fun x => { x with flags := x.flags ||| f }

/-- The job's descriptor flags (R362). -/
def Job.strict (j : Job) : Bool := bit j.desc.flags 0
def Job.nanWatch (j : Job) : Bool := bit j.desc.flags 1
def Job.afterPrev (j : Job) : Bool := bit j.desc.flags 2
def Job.routePlan (j : Job) : Bool := bit j.desc.flags 3
def Job.routeFrame (j : Job) : Bool := bit j.desc.flags 4
def Job.ring (j : Job) : Bool := bit j.desc.flags 5

/-- The job at work on tile `t` runs in strict mode (R51). -/
def Dev.tileStrict (d : Dev) (t : Nat) : Bool :=
  match (d.tile t).job with
  | none => false
  | some j => match d.job j with
    | none => false
    | some x => x.strict

/-- The image with a number. -/
def Dev.image (d : Dev) (n : Nat) : Option Image := d.images.find? (fun x => x.num = n)

def Dev.updImage (d : Dev) (n : Nat) (f : Image → Image) : Dev :=
  { d with images := d.images.map fun x => if x.num = n then f x else x }

/-- The physical tile of logical tile `l` of image `n` in the placement table (R185). -/
def Dev.placed (d : Dev) (n l : Nat) : Option Nat :=
  match d.image n with
  | none => none
  | some im => (im.place.getD l none)

/-- The physical tile of logical tile `l` of the image of tile `t` (R185). -/
def Dev.ptile (d : Dev) (t : Nat) (l : Nat) : Option Nat :=
  match (d.tile t).image with
  | none => none
  | some n => d.placed n l

/-- The role epoch of a tile (R102). -/
def Dev.epoch (d : Dev) (t : Nat) : U16 := BitVec.ofNat 16 (d.fld tileRoleEpoch t)

end Sys2Proof.Machine
end

