-- ==== Sys2Proof/Machine/Log.lean ====
section
/-! DEFINITION. Event records on their way to the log (R489, R490). -/

namespace Sys2Proof.Machine

/-- An event is recorded: it waits in a queue of 512 entries; a full queue loses its oldest record (R490).
(DEDUCED, notes/assumptions/84.) -/
def logEvent (d : Dev) (code : Nat) (data : List Byte) : Dev :=
  let r : LogRec := ⟨d.now, code, data⟩
  if d.mgmt.log.length < 512 then { d with mgmt := { d.mgmt with log := d.mgmt.log ++ [r] } }
  else ({ d with mgmt := { d.mgmt with log := d.mgmt.log.drop 1 ++ [r], lost := d.mgmt.lost + 1 } } : Dev).incFld mgmtCntLogLost

/-- The event codes of R489. -/
def lgStartup : Nat := 0x0001
def lgReady : Nat := 0x0002
def lgSafeIn : Nat := 0x0010
def lgSafeOut : Nat := 0x0011
def lgRetired : Nat := 0x0020
def lgSubst : Nat := 0x0021
def lgThermal : Nat := 0x0022
def lgUncorr : Nat := 0x0030
def lgSpared : Nat := 0x0031
def lgTrip : Nat := 0x0040
def lgLinkDown : Nat := 0x0050
def lgHealed : Nat := 0x0051
def lgStaged : Nat := 0x0060
def lgSwitched : Nat := 0x0061
def lgReverted : Nat := 0x0062
def lgRatchet : Nat := 0x0063
def lgRevoked : Nat := 0x0064
def lgCalWritten : Nat := 0x0070
def lgCalExported : Nat := 0x0071
def lgGuardIn : Nat := 0x0080
def lgGuardOut : Nat := 0x0081
def lgWatchdog : Nat := 0x0090
def lgSupLost : Nat := 0x00A0
def lgLost : Nat := 0x00F0
def lgSleep : Nat := 0x00F1
def lgWake : Nat := 0x00F2

/-- The SEV of an event code (R489). -/
def logSev (code : Nat) : Nat :=
  if code = lgSafeIn then 3
  else if [lgStartup, lgReady, lgSleep, lgWake].contains code then 0
  else if [lgRetired, lgThermal, lgUncorr, lgTrip, lgLinkDown, lgWatchdog, lgSupLost].contains code then 2
  else 1

/-- The management firmware runs (R482, R547). -/
def fwReady (d : Dev) : Bool := d.flag mgmtStatusFwReady

end Sys2Proof.Machine
end

