-- ==== Sys2Proof/Machine/Flags.lean ====
section
/-! DEFINITION. Number formats (R20 to R29), the sticky flags of R80, and the one rounding of R23 with every flag it raises. -/

namespace Sys2Proof.Machine

/-- The six sticky flags, bits as TILE_FP_FLAGS has them (R80, R82). -/
abbrev Fl := BitVec 6

def flNone : Fl := 0
def flIV : Fl := 1
def flDZ : Fl := 2
def flOF : Fl := 4
def flUF : Fl := 8
def flIX : Fl := 16
def flIOV : Fl := 32

/-- How a format codes its specials: IEEE infinities and NaNs, the one NaN of f8e4, or numbers only (R25 to R27). -/
inductive Specials where
  | ieee | oneNan | numbers
deriving DecidableEq, Repr

/-- A floating-point format: exponent width, fraction width, bias, specials (R20, R25). -/
structure Fmt where
  ew : Nat
  fw : Nat
  bias : Nat
  sp : Specials
deriving DecidableEq, Repr

def fp64 : Fmt := ⟨11, 52, 1023, .ieee⟩
def fp32 : Fmt := ⟨8, 23, 127, .ieee⟩
def fp16 : Fmt := ⟨5, 10, 15, .ieee⟩
def bf16 : Fmt := ⟨8, 7, 127, .ieee⟩
def f8e4 : Fmt := ⟨4, 3, 7, .oneNan⟩
def f8e5 : Fmt := ⟨5, 2, 15, .ieee⟩
def f6e3 : Fmt := ⟨3, 2, 3, .numbers⟩
def f6e2 : Fmt := ⟨2, 3, 1, .numbers⟩
def f4e2 : Fmt := ⟨2, 1, 1, .numbers⟩

/-- The width of a format. -/
def Fmt.width (f : Fmt) : Nat := 1 + f.ew + f.fw

/-- The sign bit's weight. -/
def Fmt.signBit (f : Fmt) : Nat := 2 ^ (f.ew + f.fw)

/-- The magnitude code of the largest finite value (R21, R25). -/
def Fmt.maxFin (f : Fmt) : Nat :=
  match f.sp with
  | .ieee => (2 ^ f.ew - 1) * 2 ^ f.fw - 1
  | .oneNan => 2 ^ (f.ew + f.fw) - 2
  | .numbers => 2 ^ (f.ew + f.fw) - 1

/-- The magnitude code of infinity, for a format that has one. -/
def Fmt.infCode (f : Fmt) : Nat := (2 ^ f.ew - 1) * 2 ^ f.fw

/-- The canonical NaN (R21, R25, R26): sign clear; f8e4 0x7F, f8e5 0x7E. -/
def Fmt.nan (f : Fmt) : Nat :=
  match f.sp with
  | .ieee => f.infCode + 2 ^ (f.fw - 1)
  | .oneNan => 2 ^ (f.ew + f.fw) - 1
  | .numbers => 0

/-- The exponent of the smallest normal value. -/
def Fmt.emin (f : Fmt) : Int := 1 - (f.bias : Int)

/-- The exponent of the smallest subnormal value. -/
def Fmt.qmin (f : Fmt) : Int := f.emin - (f.fw : Int)

/-- The exponent of the largest finite value (R28). -/
def Fmt.emax (f : Fmt) : Int :=
  match f.sp with
  | .ieee => (2 ^ f.ew : Nat) - 2 - (f.bias : Int)
  | _ => (2 ^ f.ew : Nat) - 1 - (f.bias : Int)

/-- What a code stands for: NaN (signalling or quiet), infinity, or (-1)^neg × m × 2^e. -/
inductive FpNum where
  | nan (signalling : Bool)
  | inf (neg : Bool)
  | fin (neg : Bool) (m : Nat) (e : Int)
deriving DecidableEq, Repr

/-- The value of a code under a format (R20, R21, R25 to R27). The 8-bit formats have no signalling NaN (R26). -/
def decodeNum (f : Fmt) (c : Nat) : FpNum :=
  let neg := bit c (f.ew + f.fw)
  let ex := bits c (f.ew + f.fw - 1) f.fw
  let fr := c % 2 ^ f.fw
  let fin := if ex = 0 then FpNum.fin neg fr f.qmin else FpNum.fin neg (2 ^ f.fw + fr) (f.qmin + (ex : Int) - 1)
  match f.sp with
  | .ieee =>
    if ex = 2 ^ f.ew - 1 then
      if fr = 0 then .inf neg else .nan (decide (8 < f.width) && !bit fr (f.fw - 1))
    else fin
  | .oneNan => if c % f.signBit = f.signBit - 1 then .nan false else fin
  | .numbers => fin

def FpNum.isNan : FpNum → Bool
  | .nan _ => true
  | _ => false

def FpNum.isSnan : FpNum → Bool
  | .nan s => s
  | _ => false

def FpNum.isInf : FpNum → Bool
  | .inf _ => true
  | _ => false

def FpNum.isZero : FpNum → Bool
  | .fin _ 0 _ => true
  | _ => false

def FpNum.neg : FpNum → Bool
  | .nan _ => false
  | .inf n => n
  | .fin n _ _ => n

/-- m / 2^d to nearest, ties to even; `sticky` says that the exact value lies above m by less than one (R23). -/
def roundShift (m : Nat) (d : Int) (sticky : Bool) : Nat :=
  if d ≤ 0 then m * 2 ^ (-d).toNat
  else
    let n := d.toNat
    let q := m / 2 ^ n
    let r := m % 2 ^ n
    let h := 2 ^ (n - 1)
    if h < r || (r = h && (sticky || q % 2 = 1)) then q + 1 else q

/-- m / 2^d is not an integer, or lies above m / 2^d by a sticky part. -/
def shiftLoses (m : Nat) (d : Int) (sticky : Bool) : Bool := sticky || (decide (0 < d) && m % 2 ^ d.toNat ≠ 0)

/-- The exponent of the last place of the rounded value m × 2^e in format `f` with its exponent bounded below. -/
def quantum (f : Fmt) (m : Nat) (e : Int) : Int := max f.qmin ((m.log2 : Int) + e - (f.fw : Int))

/-- The value is tiny (R23): rounded to the format's precision with an unbounded exponent it lies below the smallest normal. -/
def isTiny (f : Fmt) (m : Nat) (e : Int) (sticky : Bool) : Bool :=
  let lead := (m.log2 : Int) + e
  if f.emin ≤ lead then false
  else !(decide (lead = f.emin - 1) && decide (roundShift m (lead - f.fw - e) sticky = 2 ^ (f.fw + 1)))

/-- What a result beyond the range of its format becomes. -/
inductive Beyond where
  | infinity   -- the signed infinity
  | saturate   -- the largest finite value
deriving DecidableEq, Repr

/-- Round (-1)^neg × m × 2^e (plus a sticky part) once to a format (R23): the code and the flags overflow, underflow,
inexact. -/
def roundNum (f : Fmt) (b : Beyond) (neg : Bool) (m : Nat) (e : Int) (sticky : Bool) : Nat × Fl :=
  let sg := if neg then f.signBit else 0
  if m = 0 && !sticky then (sg, flNone)
  else
    let q := quantum f m e
    let k := roundShift m (q - e) sticky
    let code := (q - f.qmin).toNat * 2 ^ f.fw + k
    if f.maxFin < code then
      (sg + (match b with | .infinity => f.infCode | .saturate => f.maxFin), flOF ||| flIX)
    else
      let ix := shiftLoses m (q - e) sticky
      (sg + code, (if ix then flIX else flNone) ||| (if ix && isTiny f m e sticky then flUF else flNone))

/-- An exact dyadic number m × 2^e. -/
structure Dy where
  m : Int
  e : Int
deriving DecidableEq, Repr

def Dy.zero : Dy := ⟨0, 0⟩

/-- Exact addition. -/
def Dy.add (a b : Dy) : Dy :=
  if a.m = 0 then b else if b.m = 0 then a
  else
    let e := min a.e b.e
    ⟨a.m * 2 ^ (a.e - e).toNat + b.m * 2 ^ (b.e - e).toNat, e⟩

def Dy.mul (a b : Dy) : Dy := ⟨a.m * b.m, a.e + b.e⟩

def Dy.neg (a : Dy) : Dy := ⟨-a.m, a.e⟩

/-- a < b. -/
def Dy.lt (a b : Dy) : Bool := decide ((a.add b.neg).m < 0)

/-- The exact value of a finite number; 0 for the specials. -/
def FpNum.dy : FpNum → Dy
  | .fin n m e => ⟨if n then -(m : Int) else m, e⟩
  | _ => .zero

/-- Round an exact value once; an exact zero takes the sign `zneg`. -/
def roundDy (f : Fmt) (b : Beyond) (v : Dy) (zneg : Bool) : Nat × Fl :=
  if v.m = 0 then (if zneg then f.signBit else 0, flNone)
  else roundNum f b (decide (v.m < 0)) v.m.natAbs v.e false

end Sys2Proof.Machine
end

