-- ==== Sys2Proof/Machine/Float.lean ====
section
/-! DEFINITION. Scalar and lane arithmetic: R74 to R78 with the flags of R80, and the conversions of R44 to R47. Every
operation works on codes and answers a code with the flags it raises. -/

namespace Sys2Proof.Machine

/-- A result: the code and the flags raised. -/
abbrev FRes := Nat × Fl

/-- Invalid for a signalling NaN among the operands (R22). -/
def snanFlag (l : List FpNum) : Fl := if l.any FpNum.isSnan then flIV else flNone

/-- Addition (R74, R78). -/
def fadd (f : Fmt) (a b : Nat) : FRes :=
  match decodeNum f a, decodeNum f b with
  | .nan s, y => (f.nan, snanFlag [.nan s, y])
  | x, .nan s => (f.nan, snanFlag [x, .nan s])
  | .inf x, .inf y => if x = y then ((if x then f.signBit else 0) + f.infCode, flNone) else (f.nan, flIV)
  | .inf x, _ => ((if x then f.signBit else 0) + f.infCode, flNone)
  | _, .inf y => ((if y then f.signBit else 0) + f.infCode, flNone)
  | .fin nx mx ex, .fin ny my ey =>
    roundDy f .infinity ((FpNum.fin nx mx ex).dy.add (FpNum.fin ny my ey).dy) (mx = 0 && my = 0 && nx && ny)

/-- The operand with its sign changed (subtraction adds it; NaNs stay NaNs). -/
def fneg (f : Fmt) (a : Nat) : Nat := if bit a (f.ew + f.fw) then a - f.signBit else a + f.signBit

def fsub (f : Fmt) (a b : Nat) : FRes := fadd f a (fneg f b)

/-- Multiplication (R74, R78). -/
def fmul (f : Fmt) (a b : Nat) : FRes :=
  let x := decodeNum f a
  let y := decodeNum f b
  let sg := x.neg != y.neg
  if x.isNan || y.isNan then (f.nan, snanFlag [x, y])
  else if (x.isInf && y.isZero) || (x.isZero && y.isInf) then (f.nan, flIV)
  else if x.isInf || y.isInf then ((if sg then f.signBit else 0) + f.infCode, flNone)
  else roundDy f .infinity (x.dy.mul y.dy) sg

/-- a × b + c with one rounding (R74, R78). -/
def ffma (f : Fmt) (a b c : Nat) : FRes :=
  let x := decodeNum f a
  let y := decodeNum f b
  let z := decodeNum f c
  let sg := x.neg != y.neg
  let bad := (x.isInf && y.isZero) || (x.isZero && y.isInf)
  if x.isNan || y.isNan || z.isNan then (f.nan, snanFlag [x, y, z] ||| (if bad then flIV else flNone))
  else if bad then (f.nan, flIV)
  else if x.isInf || y.isInf then
    if z.isInf && z.neg != sg then (f.nan, flIV) else ((if sg then f.signBit else 0) + f.infCode, flNone)
  else if z.isInf then ((if z.neg then f.signBit else 0) + f.infCode, flNone)
  else roundDy f .infinity ((x.dy.mul y.dy).add z.dy) ((x.isZero || y.isZero) && sg && z.isZero && z.neg)

/-- Division (R74, R78). The quotient is taken to 120 bits beyond the dividend's last place with the rest sticky. -/
def fdiv (f : Fmt) (a b : Nat) : FRes :=
  let x := decodeNum f a
  let y := decodeNum f b
  let sg := x.neg != y.neg
  let s := if sg then f.signBit else 0
  match x, y with
  | .nan _, _ => (f.nan, snanFlag [x, y])
  | _, .nan _ => (f.nan, snanFlag [x, y])
  | .inf _, .inf _ => (f.nan, flIV)
  | .inf _, _ => (s + f.infCode, flNone)
  | _, .inf _ => (s, flNone)
  | .fin _ mx ex, .fin _ my ey =>
    if my = 0 then if mx = 0 then (f.nan, flIV) else (s + f.infCode, flDZ)
    else if mx = 0 then (s, flNone)
    else
      let n := mx * 2 ^ 120
      roundNum f .infinity sg (n / my) (ex - ey - 120) (n % my ≠ 0)

/-- The bits of the integer square root of `n`, from weight 2^i down. -/
def isqrtFrom (n : Nat) : Nat → Nat → Nat
  | 0, r => r
  | i + 1, r =>
    let t := r + 2 ^ i
    isqrtFrom n i (if t * t ≤ n then t else r)

/-- The integer square root. -/
def isqrt (n : Nat) : Nat := isqrtFrom n (n.log2 / 2 + 1) 0

/-- Square root (R74, R78). -/
def fsqrt (f : Fmt) (a : Nat) : FRes :=
  match decodeNum f a with
  | .nan s => (f.nan, if s then flIV else flNone)
  | .inf false => (f.infCode, flNone)
  | .inf true => (f.nan, flIV)
  | .fin neg m e =>
    if m = 0 then (a, flNone)
    else if neg then (f.nan, flIV)
    else
      let odd := e % 2 ≠ 0
      let n := (if odd then 2 * m else m) * 2 ^ 128
      let r := isqrt n
      roundNum f .infinity false r ((if odd then e - 1 else e) / 2 - 64) (r * r ≠ n)

/-- The order of two numbers that are no NaNs; −0 equals +0. -/
def numLt (x y : FpNum) : Bool :=
  match x, y with
  | .inf nx, .inf ny => nx && !ny
  | .inf nx, _ => nx
  | _, .inf ny => !ny
  | _, _ => x.dy.lt y.dy

def numEq (x y : FpNum) : Bool :=
  match x, y with
  | .inf nx, .inf ny => nx = ny
  | .inf _, _ => false
  | _, .inf _ => false
  | _, _ => !x.dy.lt y.dy && !y.dy.lt x.dy

/-- A compare of R76: false for a NaN operand, invalid for a signalling one. -/
def fcmp (f : Fmt) (p : FpNum → FpNum → Bool) (a b : Nat) : Bool × Fl :=
  let x := decodeNum f a
  let y := decodeNum f b
  if x.isNan || y.isNan then (false, snanFlag [x, y]) else (p x y, flNone)

def numLe (x y : FpNum) : Bool := numLt x y || numEq x y

/-- Minimum or maximum (R77): a NaN operand gives the canonical NaN; −0 lies below +0. -/
def fminmax (f : Fmt) (mx : Bool) (a b : Nat) : FRes :=
  let x := decodeNum f a
  let y := decodeNum f b
  if x.isNan || y.isNan then (f.nan, snanFlag [x, y])
  else
    let less := numLt x y || (numEq x y && x.neg && !y.neg)
    (if less then (if mx then b else a) else (if mx then a else b), flNone)

/-! ### Conversions (R44 to R47) -/

/-- Between two floating-point formats: one rounding; a value beyond the range becomes infinity, or the largest finite value
in f8e4. An infinity becomes the target's infinity, and in f8e4 the NaN with invalid (R44). -/
def fconv (src dst : Fmt) (a : Nat) : FRes :=
  match decodeNum src a with
  | .nan s => (dst.nan, if s then flIV else flNone)
  | .inf neg =>
    match dst.sp with
    | .ieee => ((if neg then dst.signBit else 0) + dst.infCode, flNone)
    | _ => (dst.nan, flIV)
  | .fin neg m e => roundNum dst (match dst.sp with | .ieee => .infinity | _ => .saturate) neg m e false

/-- To a two's complement integer of `w` bits: rounded to nearest even; saturates with invalid; a NaN gives 0 with invalid; no
inexact (R44, R45, R46). -/
def fToInt (src : Fmt) (w : Nat) (a : Nat) : Int × Fl :=
  let lo : Int := -(2 ^ (w - 1) : Nat)
  let hi : Int := (2 ^ (w - 1) : Nat) - 1
  match decodeNum src a with
  | .nan _ => (0, flIV)
  | .inf neg => (if neg then lo else hi, flIV)
  | .fin neg m e =>
    let k : Int := (roundShift m (-e) false : Nat)
    let v := if neg then -k else k
    if v < lo then (lo, flIV) else if hi < v then (hi, flIV) else (v, flNone)

/-- From an integer: one rounding (R44). -/
def intToF (dst : Fmt) (v : Int) : FRes := roundDy dst .infinity ⟨v, 0⟩ false

/-- Integer narrowing saturates and raises no flag (R44). -/
def narrowInt (signed : Bool) (w : Nat) (v : Int) : Int :=
  if signed then max (-(2 ^ (w - 1) : Nat)) (min v ((2 ^ (w - 1) : Nat) - 1)) else max 0 (min v ((2 ^ w : Nat) - 1))

/-! ### Special functions (R75, R78): the exact value rounded once. An irrational value is computed to 192 bits and its rest
taken as sticky (DEDUCED, notes/assumptions/10). -/

/-- The number of fraction bits the special functions work with. -/
def spBits : Nat := 192

/-- ln 2 × 2^256, rounded down. -/
def ln2at256 : Nat := 80260960185991308862233904206310070533990667611589946606122867505419956976171

/-- ln 2 × 2^192. -/
def ln2fix : Nat := ln2at256 / 2 ^ (256 - spBits)

/-- The Taylor sum of exp(t) - from term `k` on, `term` being t^k / k!. -/
def expTaylor (t : Nat) : Nat → Nat → Nat → Nat
  | 0, _, _ => 0
  | n + 1, k, term => term + expTaylor t n (k + 1) (term * t / 2 ^ spBits / (k + 1))

/-- 2^x × 2^192 for x = g / 2^192 in [0, 1). -/
def exp2fix (g : Nat) : Nat := expTaylor (g * ln2fix / 2 ^ spBits) 60 0 (2 ^ spBits)

/-- The sum of z^(2i+1) / (2i+1), `p` being z^(2i+1). -/
def atanhSum (z2 : Nat) : Nat → Nat → Nat → Nat
  | 0, _, _ => 0
  | n + 1, k, p => p / k + atanhSum z2 n (k + 2) (p * z2 / 2 ^ spBits)

/-- log2(m / 2^L) × 2^192 for 2^L ≤ m < 2^(L+1). -/
def log2fix (m : Nat) : Nat :=
  let one := 2 ^ m.log2
  let z := (m - one) * 2 ^ spBits / (m + one)
  2 * atanhSum (z * z / 2 ^ spBits) 70 1 z * 2 ^ spBits / ln2fix

/-- exp2 in FP32. -/
def fexp2 (a : Nat) : FRes :=
  match decodeNum fp32 a with
  | .nan s => (fp32.nan, if s then flIV else flNone)
  | .inf true => (0, flNone)
  | .inf false => (fp32.infCode, flNone)
  | .fin neg m e =>
    -- beyond ±256 every result over- or underflows alike
    if m ≠ 0 ∧ 8 ≤ (m.log2 : Int) + e then
      if neg then roundNum fp32 .infinity false 1 (-400) true else roundNum fp32 .infinity false 1 400 false
    else
      let x : Int := (if neg then -1 else 1) * ((m : Int) * 2 ^ (e + spBits).toNat)
      let n := x.fdiv (2 ^ spBits)
      let g := (x.fmod (2 ^ spBits)).toNat
      if g = 0 then roundNum fp32 .infinity false 1 n false
      else roundNum fp32 .infinity false (exp2fix g) (n - spBits) true

/-- log2 in FP32. -/
def flog2 (a : Nat) : FRes :=
  match decodeNum fp32 a with
  | .nan s => (fp32.nan, if s then flIV else flNone)
  | .inf true => (fp32.nan, flIV)
  | .inf false => (fp32.infCode, flNone)
  | .fin neg m e =>
    if m = 0 then (fp32.signBit + fp32.infCode, flDZ)
    else if neg then (fp32.nan, flIV)
    else
      let n : Int := (m.log2 : Int) + e
      if m = 2 ^ m.log2 then roundDy fp32 .infinity ⟨n, 0⟩ false
      else
        let v : Int := n * 2 ^ spBits + (log2fix m : Nat)
        -- the exact value is irrational: the rest is sticky on the side away from zero for positive values, towards it below
        if 0 ≤ v then roundNum fp32 .infinity false v.toNat (-(spBits : Int)) true
        else roundNum fp32 .infinity true ((-v).toNat - 1) (-(spBits : Int)) true

/-- Reciprocal in FP32. -/
def frcp (a : Nat) : FRes :=
  let s := if bit a 31 then fp32.signBit else 0
  match decodeNum fp32 a with
  | .nan sn => (fp32.nan, if sn then flIV else flNone)
  | .inf _ => (s, flNone)
  | .fin neg m e =>
    if m = 0 then (s + fp32.infCode, flDZ)
    else roundNum fp32 .infinity neg (2 ^ 120 / m) (-e - 120) (2 ^ 120 % m ≠ 0)

/-- Reciprocal square root in FP32. -/
def frsqrt (a : Nat) : FRes :=
  let s := if bit a 31 then fp32.signBit else 0
  match decodeNum fp32 a with
  | .nan sn => (fp32.nan, if sn then flIV else flNone)
  | .inf false => (0, flNone)
  | .inf true => (fp32.nan, flIV)
  | .fin neg m e =>
    if m = 0 then (s + fp32.infCode, flDZ)
    else if neg then (fp32.nan, flIV)
    else
      let odd := e % 2 ≠ 0
      let mm := if odd then 2 * m else m
      let ee := (if odd then e - 1 else e) / 2
      let q := 2 ^ 200 / mm
      let r := isqrt q
      roundNum fp32 .infinity false r (-ee - 100) (r * r * mm ≠ 2 ^ 200)

/-! ### Integer division and multiplication (R94, R95) -/

/-- Signed quotient, truncated toward zero; all ones for a zero divisor. -/
def sdiv64 (a b : U64) : U64 :=
  if b = 0 then BitVec.allOnes 64 else BitVec.ofInt 64 (a.toInt.tdiv b.toInt)

/-- Signed remainder with the dividend's sign; the dividend for a zero divisor. -/
def srem64 (a b : U64) : U64 := if b = 0 then a else BitVec.ofInt 64 (a.toInt.tmod b.toInt)

def udiv64 (a b : U64) : U64 := if b = 0 then BitVec.allOnes 64 else BitVec.ofNat 64 (a.toNat / b.toNat)

def urem64 (a b : U64) : U64 := if b = 0 then a else BitVec.ofNat 64 (a.toNat % b.toNat)

def mulhs64 (a b : U64) : U64 := BitVec.ofInt 64 ((a.toInt * b.toInt).fdiv (2 ^ 64))

def mulhu64 (a b : U64) : U64 := BitVec.ofNat 64 (a.toNat * b.toNat / 2 ^ 64)

end Sys2Proof.Machine
end

