-- ==== Sys2Proof/Machine/Blocks.lean ====
section
/-! DEFINITION. Elements packed in rows (R30, R31), block scales (R33, R34), conversion into blocks (R36 to R42) and decoding
(R43). -/

namespace Sys2Proof.Machine

/-- `n` elements of `w` bits from a little-endian bit string: the packing of R30 for 4, 6, 8, 16, 32 and 64 bits. -/
def unpack (w : Nat) : Nat → Nat → List Nat
  | 0, _ => []
  | n + 1, v => v % 2 ^ w :: unpack w n (v / 2 ^ w)

/-- Elements of `w` bits packed into a little-endian bit string. -/
def pack (w : Nat) : List Nat → Nat
  | [] => 0
  | x :: r => x % 2 ^ w + 2 ^ w * pack w r

/-- The elements of `w` bits of one row. -/
def rowElems (w : Nat) (r : Row) : List Nat := unpack w (4096 / w) r.toNat

/-- A row of elements of `w` bits. -/
def rowOf (w : Nat) (l : List Nat) : Row := BitVec.ofNat 4096 (pack w l)

/-- Consecutive rows as one bit string. -/
def rowsNat : List Row → Nat
  | [] => 0
  | r :: t => r.toNat + 2 ^ 4096 * rowsNat t

/-- `n` rows of a bit string. -/
def natRows : Nat → Nat → List Row
  | 0, _ => []
  | n + 1, v => BitVec.ofNat 4096 v :: natRows n (v / 2 ^ 4096)

/-- A list cut into pieces of `n`; the last may be shorter. `fuel` bounds the number of pieces. -/
def chunksAux {α : Type} (n : Nat) : Nat → List α → List (List α)
  | 0, _ => []
  | fuel + 1, l => if l.isEmpty then [] else l.take n :: chunksAux n fuel (l.drop n)

def chunks {α : Type} (n : Nat) (l : List α) : List (List α) := chunksAux n l.length l

/-- What converting one block of 32 answers: the scale, the element codes, the flags each element raised, the numbers that
saturated and that rounded to zero, and whether it became a NaN block. -/
structure BlockRes where
  scale : Nat
  codes : List Nat
  flags : List Fl
  sat : Nat
  under : Nat
  nanBlock : Bool
deriving DecidableEq, Repr

/-- A NaN block (R39): scale 0xFF, every code 0, invalid raised. -/
def nanBlockRes (n : Nat) : BlockRes :=
  ⟨0xFF, List.replicate n 0, List.replicate n flIV, 0, 0, true⟩

/-- floor_log2 of the largest magnitude of a block that holds a non-zero value. -/
def blockLead (xs : List FpNum) : Int :=
  xs.foldl (fun a x => match x with
    | .fin _ m e => if m = 0 then a else max a ((m.log2 : Int) + e)
    | _ => a) (-2000)

/-- One element against scale `e`: its code and flags, whether it saturated, whether a non-zero value became zero (R37, R40,
R41). -/
def blockElem (dst : Fmt) (e : Nat) (x : FpNum) : Nat × Fl × Bool × Bool :=
  match x with
  | .fin neg m ex =>
    let r := roundNum dst .saturate neg m (ex + 127 - (e : Int)) false
    let sat := r.2 &&& flOF ≠ 0
    (r.1, if sat then flIX else r.2, sat, m ≠ 0 && r.1 % dst.signBit = 0)
  | _ => (0, flNone, false, false)

/-- The conversion of R37 of one block; `given` is the given scale, none for AUTO mode (R36). -/
def convBlock (src dst : Fmt) (given : Option Nat) (codes : List Nat) : BlockRes :=
  let xs := codes.map (decodeNum src)
  if xs.any (fun x => x.isNan || x.isInf) then nanBlockRes xs.length
  else if given = some 0xFF then nanBlockRes xs.length
  else if xs.all FpNum.isZero then
    ⟨0x7F, xs.map (fun x => if x.neg then dst.signBit else 0), xs.map (fun _ => flNone), 0, 0, false⟩
  else
    let e := match given with
      | some s => s
      | none => (max 0 (min 254 (blockLead xs - dst.emax + 127))).toNat
    let rs := xs.map (blockElem dst e)
    ⟨e, rs.map (·.1), rs.map (·.2.1), (rs.filter (·.2.2.1)).length, (rs.filter (·.2.2.2)).length, false⟩

/-- The running maximum of R42 after the inputs of a conversion, as an FP32 magnitude. -/
def runmaxStep (src : Fmt) (old : Nat) (codes : List Nat) : Nat :=
  codes.foldl (fun m c =>
    match decodeNum src c with
    | .nan _ => m
    | .inf _ => fp32.infCode
    | .fin _ mm e => max m ((roundNum fp32 .infinity false mm e false).1)) old

/-- An element of a block (or an unblocked f8 element under scale 0x7F) decoded to a long format (R43). -/
def decodeElem (src dst : Fmt) (scale : Nat) (c : Nat) : FRes :=
  if scale = 0xFF then (dst.nan, flNone)
  else match decodeNum src c with
    | .nan _ => (dst.nan, flNone)
    | .inf neg => ((if neg then dst.signBit else 0) + dst.infCode, flNone)
    | .fin neg m e => roundNum dst .infinity neg m (e + scale - 127) false

/-! ### The split of R57 -/

/-- The parts of an FP32 operand: a0 as a number, a1 and a2 by their exact values. -/
structure Split where
  a0 : FpNum
  a1 : Dy
  a2 : Dy
deriving DecidableEq, Repr

/-- Rounded to BF16; beyond the range the largest finite value. -/
def toBf16Num (neg : Bool) (m : Nat) (e : Int) : FpNum := decodeNum bf16 (roundNum bf16 .saturate neg m e false).1

def dyBf16 (v : Dy) : Dy := (toBf16Num (decide (v.m < 0)) v.m.natAbs v.e).dy

/-- R57; a special operand has only its leading part (R61). -/
def splitFp32 (x : FpNum) : Split :=
  match x with
  | .fin neg m e =>
    let a0 := toBf16Num neg m e
    let r1 := x.dy.add a0.dy.neg
    let a1 := dyBf16 r1
    ⟨a0, a1, dyBf16 (r1.add a1.neg)⟩
  | _ => ⟨x, .zero, .zero⟩

end Sys2Proof.Machine
end

