-- ==== Sys2Proof/Machine/Access.lean ====
section
/-! DEFINITION. Job addresses (R356, R426) and the reads and writes that jobs make through them. -/

namespace Sys2Proof.Machine

/-- Where a job address leads (R356). -/
inductive Target where
  | host (a : Nat)
  | dev (a : Nat)
  | fifo (n : Nat)
deriving DecidableEq, Repr

/-- The space and place of a job address; none where its SPACE is RSVD or an unused bit is set (R356). -/
def jobAddr (a : Nat) : Option Target :=
  match bits a 63 62 with
  | 0 => some (.host (bits a 61 0))
  | 1 => if bits a 61 40 = 0 then some (.dev (bits a 39 0)) else none
  | 2 => if bits a 61 3 = 0 then some (.fifo (bits a 2 0)) else none
  | _ => none

/-- The first reserved byte of DDR4 (R426). -/
def Dev.userTop (d : Dev) : Nat := d.fld memUserTopAddr

/-- An address that a job of ring `q` may name for `n` bytes of memory: R356, R426, and SPACE 0b01 alone for the supervisor queue
(R390). -/
def addrOk (d : Dev) (q : Nat) (a n : Nat) : Bool :=
  match jobAddr a with
  | some (.host h) => q != 64 && decide (h + n ≤ 2 ^ 62)
  | some (.dev x) => decide (x + max n 1 ≤ d.userTop)
  | _ => false

/-- A poisoned block or row (R447) of bytes `a` to `a + n - 1`. -/
def poisoned (d : Dev) (a n : Nat) : Bool :=
  d.poison.any fun p => decide (p < a + n) && decide (a < p + (if p < canopyBase then 64 else 512))

/-- The PCIe link is up (R384). -/
def linkUp (d : Dev) : Bool := d.flag hostqStatusLinkUp

/-- First byte of the spare rows of DDR4 (R446). -/
def spareBase : Nat := 0x07FFE00000

/-- Bytes of the page tables (R551). -/
def pageTableBytes : Nat := 128 * 2 ^ 20

/-- Copy `c` of entry `i` of sequence `s`. -/
def ptEntryAddr (s i c : Nat) : Nat :=
  let o := 16384 * s + 16 * i
  spareBase - pageTableBytes + 1024 * (o / 512) + o % 512 + 512 * c

/-- The table of sequence s is written anew when the sequence is next used: the poison of its blocks goes (R447, R448). -/
def clearTable (d : Dev) (s : Nat) : Dev :=
  let a := ptEntryAddr s 0 0
  { d with poison := d.poison.filter fun b => b < a || decide (a + 32768 ≤ b) }

/-- The block or row at `a` is written poisoned, and MEM_POISON counts the write (R447, R450). -/
def poisonWrite (d : Dev) (a : Nat) : Dev :=
  ({ d with poison := if d.poison.contains a then d.poison else d.poison ++ [a] } : Dev).incFld memPoisonCount

/-! ### The DDR4 map (R428) -/

/-- Where a burst of DDR4 lies. -/
structure DdrPlace where
  channel : Nat
  group : Nat
  bank : Nat
  row : Nat
  burst : Nat
deriving DecidableEq, Repr

/-- The place of device address `a` (R428). -/
def ddrPlace (a : Nat) : DdrPlace :=
  { channel := bits a 9 8 ^^^ bits a 19 18, group := bits a 10 10 ^^^ bits a 20 20, bank := bits a 12 11, row := bits a 34 18,
    burst := 4 * bits a 17 13 + bits a 7 6 }

/-- The key of a DDR4 row: channel, bank of eight, row. -/
def ddrRowKey (ch bank row : Nat) : Nat := (8 * ch + bank) * 131072 + row

/-- The bank of a burst, numbered with its group. -/
def DdrPlace.bank8 (p : DdrPlace) : Nat := 4 * p.group + p.bank

/-- A correction in the burst at `a` is counted against its row (R446). -/
def ddrRowError (a : Nat) (d : Dev) : Dev :=
  let k := ddrRowKey (ddrPlace a).channel (ddrPlace a).bank8 (ddrPlace a).row
  { d with scrub := { d.scrub with rowErrs := mapSet 0 d.scrub.rowErrs k (mapGet 0 d.scrub.rowErrs k + 1) } }

/-- The row of the burst at `a` has reported an uncorrectable error that is contained (R446). -/
def ddrRowLost (a : Nat) (d : Dev) : Dev :=
  let k := ddrRowKey (ddrPlace a).channel (ddrPlace a).bank8 (ddrPlace a).row
  { d with scrub := { d.scrub with rowBad := if d.scrub.rowBad.contains k then d.scrub.rowBad else d.scrub.rowBad ++ [k] } }

/-! ### What Canopy holds of the device's own (R448) -/

/-- The bytes an entry takes in the region: its values of 8 bytes and 16 bytes more (DEDUCED, notes/assumptions/22). -/
def warmSize (w : WarmEntry) : Nat :=
  let it := match w.iter with
    | none => 0
    | some i => ((i.x ++ i.u ++ i.pi ++ i.lam).map List.length).foldl (· + ·) 0 + i.s.length + i.w.length
  let es := match w.est with
    | none => 0
    | some e => 2 * (e.filter.x.length + (e.filter.s.map List.length).foldl (· + ·) 0) + 33
  8 * (it + w.plan.length + es) + 16

/-- Warm-start entries whose bytes lie in the row at offset `o` of Canopy are discarded; the entries lie one after the other from the
start of the store (R448; DEDUCED, notes/assumptions/38). -/
def dropWarmAt (o : Nat) : Nat → List WarmEntry → List WarmEntry
  | _, [] => []
  | a, w :: l =>
    let b := a + warmSize w
    if decide (a < o + 512) && decide (o < b) then dropWarmAt o b l else w :: dropWarmAt o b l

/-- Entries that name a page whose page-information entry lies in the row are lost: lookups that reach them are refused (R448). -/
def loseInfo (o : Nat) (d : Dev) : Dev :=
  let first := (o - d.regions.warmBytes) / 8
  let hit (p : Nat) : Bool := decide (first ≤ p) && decide (p < first + 64) && decide (p < d.attn.pool)
  if o < d.regions.warmBytes then d
  else
    let gone (q : Seq) : List Nat := ((q.entries.zip (upto q.entries.length)).filter fun x => hit x.1.p0 || hit x.1.p1).map (·.2)
    { d with attn := { d.attn with seqs := d.attn.seqs.map fun e => (e.1, { e.2 with lost := gone e.2 ++ e.2.lost.filter fun i => !(gone e.2).contains i }) } }

/-- What the loss of a Canopy row means for the structures the device keeps there. -/
def canopyLost (o : Nat) (d : Dev) : Dev :=
  let d : Dev := if o < d.regions.warmBytes then { d with solv := { d.solv with warm := dropWarmAt o 0 d.solv.warm } } else d
  loseInfo o d

/-! ### Uncorrectable errors (R447) -/

/-- Who found an uncorrectable block (R450). -/
def ekJob : Nat := 0
def ekScrub : Nat := 1
def ekMerge : Nat := 2
def ekCopy : Nat := 3
def ekWalker : Nat := 4
def ekFetch : Nat := 5

/-- MEM_ERR_INFO of an event (R450). -/
def errInfo (can : Bool) (ch kind : Nat) : Nat := 1 + 2 * b2n can + 4 * ch + 16 * kind

/-- The block or row at `a` is found uncorrectable: poisoned, recorded if no record stands, counted, logged; what it held of the
device's own is lost (R448). A poisoned block is not found again (DEDUCED, notes/assumptions/37). -/
def foundUncorr (d : Dev) (a kind : Nat) : Dev :=
  let can := decide (canopyBase ≤ a)
  let blk := if can then a / 512 * 512 else a / 64 * 64
  if d.poison.contains blk then d
  else
    let ch := if can then 0 else (ddrPlace a).channel
    let d := poisonWrite d blk
    let d := if d.flag memStatusUncorrectable then d
      else
        let d := ((d.setFld memErrAddrAddr (a / 64 * 64)).setFld memErrInfoValid 1).setFld memErrInfoStore (b2n can)
        (d.setFld memErrInfoChannel ch).setFld memErrInfoKind kind
    let d := d.setFld memStatusUncorrectable 1
    let d := if can then canopyLost (blk - canopyBase) (d.incFld memCanUncorrCount)
      else ddrRowLost a (d.incFld memChUncorrCount ch)
    logEvent d lgUncorr (leBytes 8 (a / 64 * 64) ++ leBytes 4 (errInfo can ch kind))

/-- Symbol errors corrected under ECC_T; 3 is taken as 0 (R431, R450). -/
def eccCorrects (d : Dev) : Nat := match d.fld memCtrlEccT with
  | 1 => 4
  | 2 => 0
  | _ => 8

/-- A wrong code of a DDR4 block or Canopy row is met by a read for job `j` (R432, R443, R447): corrected, counted and the job marked,
Canopy writing the right row back; or found uncorrectable. With ECC_T 2 DDR4 corrects nothing (R431). -/
def meetFlaw (d : Dev) (j : Option Nat) (kind : Nat) (e : Nat × Ecc) : Dev :=
  let can := decide (canopyBase ≤ e.1)
  if e.2 = .corrected && (can || eccCorrects d ≠ 0) then
    let d := if can then ({ d with flaws := mapErase d.flaws e.1 } : Dev).incFld memCanCorrCount
      else ddrRowError e.1 (d.incFld memChCorrCount (ddrPlace e.1).channel)
    (d.setFld memStatusCorrected 1).jobFlag j cfCorrected
  else foundUncorr { d with flaws := mapErase d.flaws e.1 } e.1 kind

/-- Bytes `a` to `a + n - 1` of memory lie in the block or row at `p`. -/
def touchesBlock (a n p : Nat) : Bool := decide (p < a + n) && decide (a < p + (if p < canopyBase then 64 else 512))

/-- The codes of `n` bytes of memory are checked by a read for job `j`. -/
def scanMem (d : Dev) (j : Option Nat) (kind a n : Nat) : Dev :=
  (d.flaws.filter fun e => touchesBlock a n e.1).foldl (fun d e => meetFlaw d j kind e) d

/-- The codes of what job `j` reads at a job address are checked. -/
def scanAddr (d : Dev) (j : Option Nat) (a n : Nat) (kind : Nat := ekJob) : Dev :=
  match jobAddr a with
  | some (.dev x) => scanMem d j kind x n
  | _ => d

/-- The same of several ranges in turn. -/
def scanAll (d : Dev) (j : Nat) (l : List (Nat × Nat)) : Dev := l.foldl (fun d e => if e.2 = 0 then d else scanAddr d (some j) e.1 e.2) d

/-- `n` bytes read by a job: the bytes, or the status the job completes with (R384, R432, R448). -/
def readAddr (d : Dev) (a n : Nat) : Except Nat (List Byte) :=
  match jobAddr a with
  | some (.host h) => if linkUp d then .ok (memReadN d.hostMem h n) else .error stLinkLost
  | some (.dev x) => if poisoned d x n then .error stUncorrectable else .ok (memReadN d.mem x n)
  | _ => .error stInvalid

/-- A check of the address, then the read. -/
def readChecked (d : Dev) (q a n : Nat) : Except Nat (List Byte) :=
  if addrOk d q a n then readAddr d a n else .error stInvalid

/-- A block of `size` bytes at `p` lies wholly in the written range. -/
def coversBlock (a n p size : Nat) : Bool := decide (a ≤ p) && decide (p + size ≤ a + n)

/-- The blocks and rows that `n` bytes cover wholly are written with right codes; those that they cover in part are read first, for the
merge (R436, R447). -/
def mergeScan (d : Dev) (a n : Nat) : Dev :=
  if d.flaws = [] then d
  else
    let part := d.flaws.filter fun e => touchesBlock a n e.1 && !coversBlock a n e.1 (if e.1 < canopyBase then 64 else 512)
    let d := part.foldl (fun d e => meetFlaw d none ekMerge e) d
    { d with flaws := d.flaws.filter fun e => !coversBlock a n e.1 (if e.1 < canopyBase then 64 else 512) }

/-- Bytes written to device memory. A full write clears a block's poison; a merge into a poisoned block is not performed (R436,
R447). The second part says whether every byte was written. -/
def memStore (d : Dev) (a : Nat) (l : List Byte) : Dev × Bool :=
  let n := l.length
  let d := mergeScan d a n
  let size (p : Nat) : Nat := if p < canopyBase then 64 else 512
  let hit := d.poison.filter fun p => decide (p < a + n) && decide (a < p + size p)
  let bad := hit.filter fun p => !coversBlock a n p (size p)
  if hit = [] then ({ d with mem := memWriteN d.mem a l }, true)
  else
    let keep (x : Nat) : Bool := bad.any fun p => decide (p ≤ x) && decide (x < p + size p)
    let mem := (l.zip (upto n)).foldl (fun m e => if keep (a + e.2) then m else memWrite m (a + e.2) e.1) d.mem
    ({ d with mem := mem, poison := d.poison.filter fun p => !(hit.contains p && coversBlock a n p (size p)) }, bad = [])

/-- Bytes written by a job; none of them reaches the host while the link is down (R384). -/
def writeAddr (d : Dev) (a : Nat) (l : List Byte) : Dev × Nat :=
  match jobAddr a with
  | some (.host h) => if linkUp d then ({ d with hostMem := memWriteN d.hostMem h l }, stDone) else (d, stLinkLost)
  | some (.dev x) => let r := memStore d x l; (r.1, if r.2 then stDone else stUncorrectable)
  | _ => (d, stInvalid)

/-- The little-endian field of `n` bytes at offset `o` of a record. -/
def recLe (l : List Byte) (o n : Nat) : Nat := leNat ((l.drop o).take n)

/-- Every byte from offset `o`, `n` of them, is zero. -/
def recZero (l : List Byte) (o n : Nat) : Bool := ((l.drop o).take n).all fun b => decide (b = 0)

/-- The 8-byte values of a byte list. -/
def words64 (l : List Byte) (n : Nat) : List Nat := (upto n).map fun i => recLe l (8 * i) 8

/-- The bytes of 8-byte values. -/
def bytes64 (l : List Nat) : List Byte := l.flatMap fun v => leBytes 8 v

/-- The bytes of 4-byte values. -/
def bytes32 (l : List Nat) : List Byte := l.flatMap fun v => leBytes 4 v

/-- The 512-byte row of bytes, padded with zeros. -/
def rowFromBytes (l : List Byte) : Row := BitVec.ofNat 4096 (leNat (l.take 512))

/-- Bytes cut into rows, the last padded with zeros. -/
def rowsOfBytes (l : List Byte) : Nat → List Row
  | 0 => []
  | n + 1 => rowFromBytes l :: rowsOfBytes (l.drop 512) n

/-- The bytes of a row. -/
def bytesOfRow (r : Row) : List Byte := leBytes 512 r.toNat

/-- A counter field of 16 bits raised by 1 is an instance of `incFld`; this one adds to a counter of a Forester event (R353). -/
def Dev.forCount (d : Dev) (n : Nat) : Dev := d.incFld forCntCount n

end Sys2Proof.Machine
end

