-- ==== Sys2Proof/Machine/Admit.lean ====
section
/-! DEFINITION. Deadline admission (R324 to R332). -/

namespace Sys2Proof.Machine

/-- The resource kinds of R330, numbered as the cause codes of R366. -/
def rkTile : Nat := 1
def rkFabric : Nat := 2
def rkCanopy : Nat := 3
def rkDdr : Nat := 4
def rkPlk : Nat := 5
def rkWalker : Nat := 6

/-- What a job asks of one resource kind: the instances Forester may use, and the demand (R325). -/
structure Use where
  kind : Nat
  cands : List Nat
  demand : Nat
deriving DecidableEq, Repr

/-- The duty floor in sixteenths (R329, R353). -/
def Dev.floorDuty (d : Dev) : Nat := min 16 (max 1 (d.fld forSlackFloor))

/-- BLOCK_US as ARITH cycles (R328). -/
def Dev.blockCycles (d : Dev) : Nat := d.fld forSlackBlockUs * 1200

/-- RSV_SLOTS (R313). -/
def Dev.rsvSlots (d : Dev) : Nat := min 24 (d.fld attnWalkRsvSlots)

/-- The admission rate of a kind in units per ns, as a fraction (R330). -/
def rate (d : Dev) (kind : Nat) : Nat × Nat :=
  match kind with
  | 1 => (12 * d.floorDuty, 160)
  | 2 => (512, 10)
  | 3 => (1600, 1)
  | 4 => (768, 10)
  | 5 => (10, 1)
  | _ => (5 * d.rsvSlots, 1000)

/-- The share of class `c` in sixty-fourths (R330); the walker's slots serve all deadline classes. -/
def share (d : Dev) (kind c : Nat) : Nat :=
  if kind = rkWalker then 64
  else match c with
    | 1 => d.fld forShareDc1 (kind - 1)
    | 2 => d.fld forShareDc2 (kind - 1)
    | 3 => d.fld forShareDc3 (kind - 1)
    | _ => d.fld forShareDc4 (kind - 1)

/-- blocking(r) of R328. -/
def blocking (d : Dev) (kind r : Nat) : Nat :=
  if kind = rkTile then
    d.admitted.foldl (fun m i => if i.kind = kind ∧ i.inst = r then max m i.demand else m) d.blockCycles
  else 0

/-- The comparison of R326 on instance `r`: class `c`, deadline `dj`, demand `q`, at time `now`. -/
def fits (d : Dev) (kind r c dj q now : Nat) : Bool :=
  let rt := rate d kind
  let items := (d.admitted.filter fun i => i.kind = kind && i.inst = r && (i.cls = c || kind = rkWalker)).map
    fun i => (i.deadline, i.demand)
  let s := items ++ [(dj, q)]
  (s.filter fun e => decide (dj ≤ e.1)).all fun e =>
    let need := blocking d kind r + s.foldl (fun a x => if x.1 ≤ e.1 then a + x.2 else a) 0
    decide (need * 64 * rt.2 ≤ rt.1 * share d kind c * (e.1 - now))

/-- Admitted deadline work on tile `t` (R328). -/
def hasDeadlineWork (d : Dev) (t : Nat) : Bool := d.admitted.any fun a => a.kind = rkTile && a.inst = t

/-- A tile that holds admitted deadline work is demanded a duty below the floor: it takes no new deadline work (R329). -/
def thermalHeld (d : Dev) (t : Nat) : Bool := hasDeadlineWork d t && decide ((d.tile t).demandDuty < d.floorDuty)

/-- Admit every use of an item in turn (R326); the kind that fails is the cause. Candidates are tried in an order that Forester
chooses, so any that fits may be taken. -/
def admitUses (d : Dev) (job prob c dj now : Nat) : List Use → Except Nat Dev
  | [] => .ok d
  | u :: l =>
    if u.demand = 0 then admitUses d job prob c dj now l
    else
      match choose d (u.cands.filter fun r => !(u.kind = rkTile && thermalHeld d r) && fits d u.kind r c dj u.demand now) with
      | (none, _) => .error u.kind
      | (some r, d) =>
        admitUses { d with admitted := d.admitted ++ [⟨job, prob, c, dj, u.kind, r, u.demand⟩] } job prob c dj now l

/-- The admitted items of a job end. -/
def releaseJob (d : Dev) (job : Nat) : Dev := { d with admitted := d.admitted.filter fun i => i.job ≠ job }

/-- The admitted items of one problem end. -/
def releaseItem (d : Dev) (job prob : Nat) : Dev :=
  { d with admitted := d.admitted.filter fun i => !(i.job = job && i.prob = prob) }

/-- Work stated in device time cannot be taken before the first synchronisation under DL_WAIT_SYNC (R400). -/
def waitSync (d : Dev) : Bool := d.flag timeCtrlDlWaitSync && !d.synced

/-- The global count (R401). -/
def Dev.gcount (d : Dev) : Nat := d.now / 1000

end Sys2Proof.Machine
end

