-- ==== Sys2Proof/Machine/LinkOut.lean ====
section
/-! DEFINITION. Messages to other modules of the ring: routes, and the flits of a message (R415, R416, R419, R422). -/

namespace Sys2Proof.Machine

def Dev.link (d : Dev) (l : Nat) : Link := mapGet {} d.links.link l

def Dev.updLink (d : Dev) (l : Nat) (f : Link → Link) : Dev :=
  { d with links := { d.links with link := mapSet {} d.links.link l (f (d.link l)) } }

/-- The module count and this module's position. -/
def Dev.modules (d : Dev) : Nat := max 1 (d.fld plkStatusCount)
def Dev.position (d : Dev) : Nat := d.fld plkStatusPosition

/-- The positions from `p` upward, round the ring, that no break cuts off; at most `n` of them. -/
def runUp (m : Nat) (breaks : List Nat) (p : Nat) : Nat → List Nat
  | 0 => []
  | n + 1 => p :: if breaks.contains p then [] else runUp m breaks ((p + 1) % m) n

/-- The positions from `p` downward. -/
def runDown (m : Nat) (breaks : List Nat) (p : Nat) : Nat → List Nat
  | 0 => []
  | n + 1 => p :: let q := (p + m - 1) % m; if breaks.contains q then [] else runDown m breaks q n

/-- The modules that this one can reach, itself included, in ascending order (R422). -/
def reachable (d : Dev) : List Nat :=
  let m := d.modules
  let l := runUp m d.links.breaks d.position m ++ runDown m d.links.breaks d.position m
  (upto m).filter l.contains

/-- The link toward module `t`: fewer hops, link A on a tie; none where the module cannot be reached (R419). Link A leads to the
next position. -/
def route (d : Dev) (t : Nat) : Option Nat :=
  let m := d.modules
  let p := d.position
  let up := (runUp m d.links.breaks p m).contains t
  let down := (runDown m d.links.breaks p m).contains t
  let hops := (t + m - p) % m
  if t = p then none
  else if up && (!down || decide (hops ≤ m - hops)) then some 0
  else if down then some 1
  else none

/-! ### Flits on the wire (R415) -/

/-- The code of a flit's type (DESIGN CHOICE, notes/assumptions/40). -/
def flitType (t : FlitType) : Nat := match t with
  | .data => 0
  | .ack => 1
  | .nack => 2
  | .delay => 3
  | .ringControl => 4

/-- The header block. -/
def flitHeader (f : Flit) : Nat :=
  f.seq.toNat + 2 ^ 12 * f.ackSeq.toNat + 2 ^ 24 * f.cls.toNat + 2 ^ 26 * flitType f.type + 2 ^ 30 * f.dst.toNat + 2 ^ 38 * f.src.toNat

/-- One byte more in the CRC-32C: the reflected polynomial 0x82F63B78. -/
def crc32cByte (c : Nat) (b : Byte) : Nat :=
  (upto 8).foldl (fun r _ => if bit r 0 then r / 2 ^^^ 0x82F63B78 else r / 2) (c ^^^ b.toNat)

/-- The CRC-32C of a flit's blocks before the last: header and payload (R415; the constants are of RFC 3720: PRESUMED,
notes/assumptions/42). -/
def flitCrc (f : Flit) : U32 :=
  BitVec.ofNat 32 ((leBytes 8 (flitHeader f) ++ f.payload).foldl crc32cByte 0xFFFFFFFF ^^^ 0xFFFFFFFF)

/-- A flit in the window of 128 leaves on link `l` with its CRC (R415, R416). -/
def emitFlit (d : Dev) (l : Nat) (f : Flit) : Dev := d.emit (.flit l { f with crc := flitCrc f })

/-- A data flit takes its sequence number and a place in the replay buffer; it leaves at once if it is one of the first 128. -/
def queueFlit (d : Dev) (l : Nat) (f : Flit) : Dev :=
  let k := d.link l
  let f := { f with seq := BitVec.ofNat 12 k.nextSeq, ackSeq := BitVec.ofNat 12 (k.expect + 4095) }
  let d := d.updLink l fun k => { k with nextSeq := (k.nextSeq + 1) % 4096, replay := k.replay ++ [(f, 0)] }
  if k.replay.length < 128 then emitFlit d l f else d

/-- A control flit: it takes no sequence number (DESIGN CHOICE, notes/assumptions/40). -/
def controlFlit (d : Dev) (l : Nat) (type : FlitType) (seq ack dst src what : Nat) : Dev :=
  emitFlit d l { type := type, seq := BitVec.ofNat 12 seq, ackSeq := BitVec.ofNat 12 ack, cls := 2, dst := BitVec.ofNat 8 dst,
                 src := BitVec.ofNat 8 src, msgSeq := BitVec.ofNat 32 what }

/-- The class field of R415 for a job class. -/
def flitClass (cls : Nat) : Nat := if cls = 0 then 1 else 0

/-- A message as bytes: what it is, its length, a TAG, its body, zeros up to whole payloads (DESIGN CHOICE, notes/assumptions/40). -/
def messageBytes (what tag : Nat) (body : List Byte) : List Byte :=
  let l := leBytes 4 what ++ leBytes 4 body.length ++ leBytes 8 tag ++ body
  l ++ List.replicate ((256 - l.length % 256) % 256) 0

/-- Payloads of 256 bytes. -/
def payloads (l : List Byte) : Nat → List (List Byte)
  | 0 => []
  | n + 1 => l.take 256 :: payloads (l.drop 256) n

/-- A message leaves for module `t`; to a module that cannot be reached it is dropped (R422). -/
def sendRing (d : Dev) (t cls what tag : Nat) (body : List Byte) : Dev :=
  match route d t with
  | none => d
  | some l =>
    let b := messageBytes what tag body
    (payloads b (b.length / 256)).foldl (fun d p =>
      let n := d.links.msgSeq + 1
      queueFlit { d with links := { d.links with msgSeq := n } } l
        { type := .data, seq := 0, ackSeq := 0, cls := BitVec.ofNat 2 cls, dst := BitVec.ofNat 8 t, src := BitVec.ofNat 8 d.position,
          msgSeq := BitVec.ofNat 32 n, payload := p }) d

end Sys2Proof.Machine
end

