-- ==== Sys2Proof/Machine/SolveData.lean ====
section
/-! DEFINITION. Problem data: templates and records as bytes, the shape of the horizon or tree, assembly, the certificate
(R193 to R203, R219, R220, R233 to R259). -/

namespace Sys2Proof.Machine

/-! ### Records -/

/-- The bytes of a template's extension (R195). -/
def extBytes (kind : Nat) : Nat := if kind = 1 then 128 else if kind = 2 then 32 else 0

/-- The template record at an offset of an image (R195). -/
def parseTemplate (image : List Byte) (off : Nat) : Template :=
  let l := (image.drop off).take 64
  let f (o n : Nat) : Nat := recLe l o n
  { id := f 0 2, kind := f 2 1, method := f 3 1, nx := f 4 1, nu := f 5 1, n := f 6 2, ni := f 8 1, niTerm := f 9 1,
    np := f 10 1, prec := f 11 1, grove := f 12 1, checkEvery := f 13 1, tauExp := f 14 1, deltaExp := f 15 1,
    itCapMax := f 16 2, asmPlace := f 18 1, cycAsm := f 20 4, cycIter := f 24 4, cycCert := f 28 4, signature := f 32 8,
    coefOffset := f 40 8, coefBytes := f 48 4, raw := l, ext := (image.drop (off + 64)).take (extBytes (f 2 1)) }

/-- t and d of the pivots: the defaults where the template gives 0 (R196). -/
def Template.texp (t : Template) : Nat := if t.tauExp = 0 then (if t.prec = 1 then 20 else 40) else t.tauExp
def Template.dexp (t : Template) : Nat := if t.deltaExp = 0 then (if t.prec = 1 then 20 else 40) else t.deltaExp

/-- The fields of the KIND 1 extension (R235). -/
def Template.ny (t : Template) : Nat := recLe t.ext 0 1
def Template.estMode (t : Template) : Nat := recLe t.ext 1 1
def Template.arrival (t : Template) : Nat := recLe t.ext 2 1
def Template.ng (t : Template) : Nat := recLe t.ext 3 1
def Template.newMax (t : Template) : Nat := recLe t.ext 4 2
def Template.cycFilter (t : Template) : Nat := recLe t.ext 8 4
def Template.groupFirst (t : Template) (g : Nat) : Nat := recLe t.ext (16 + 4 * g) 1
def Template.groupCount (t : Template) (g : Nat) : Nat := recLe t.ext (17 + 4 * g) 1
def Template.gate (t : Template) (g : Nat) : Nat := recLe t.ext (48 + 8 * g) 8

/-- A problem record (R202). -/
def parseProb (l : List Byte) : ProbRec :=
  let f (o n : Nat) : Nat := recLe l o n
  { templateId := f 0 2, warmSlot := f 2 2, warmShift := f 4 1, fallbackKind := f 5 1, itCap := f 6 2, deadline := f 8 8,
    epsP := f 16 8, epsD := f 24 8, epsG := f 32 8, accP := f 40 8, accD := f 48 8, accG := f 56 8, rho := f 64 8,
    x0Addr := f 72 8, paramAddr := f 80 8, resultAddr := f 88 8, fallbackAddr := f 96 8, options := f 104 1,
    x0Src := f 105 1, tail := (l.drop 106).take 22 }

def ProbRec.perStage (r : ProbRec) : Bool := bit r.options 0
def ProbRec.warmUse (r : ProbRec) : Bool := bit r.options 1
def ProbRec.warmStore (r : ProbRec) : Bool := bit r.options 2
def ProbRec.duals (r : ProbRec) : Bool := bit r.options 3
/-- A field of bytes 106 to 127, by its offset in the record (R238, R259). -/
def ProbRec.t (r : ProbRec) (o n : Nat) : Nat := recLe r.tail (o - 106) n

/-! ### FP64 arithmetic on codes: the value and the flags raised -/

def f64Zero : Nat := 0
def f64One : Nat := 0x3FF0000000000000
def f64Inf : Nat := 0x7FF0000000000000
def f64Neg (a : Nat) : Nat := fneg fp64 a
def f64Abs (a : Nat) : Nat := if (decodeNum fp64 a).isNan then fp64.nan else a % 2 ^ 63
def f64Add (a b : Nat) : Nat := (fadd fp64 a b).1
def f64Sub (a b : Nat) : Nat := (fsub fp64 a b).1
def f64Mul (a b : Nat) : Nat := (fmul fp64 a b).1
def f64Div (a b : Nat) : Nat := (fdiv fp64 a b).1
def f64Fma (a b c : Nat) : Nat := (ffma fp64 a b c).1
def f64Sqrt (a : Nat) : Nat := (fsqrt fp64 a).1
def f64Max (a b : Nat) : Nat := (fminmax fp64 true a b).1
def f64Min (a b : Nat) : Nat := (fminmax fp64 false a b).1
/-- a ≤ b; false on a NaN (R76). -/
def f64Le (a b : Nat) : Bool := (fcmp fp64 numLe a b).1
def f64Lt (a b : Nat) : Bool := (fcmp fp64 numLt a b).1
def f64Finite (a : Nat) : Bool := a / 2 ^ 52 % 2048 ≠ 2047
def f64IsNan (a : Nat) : Bool := (decodeNum fp64 a).isNan
/-- Positive and finite. -/
def f64Pos (a : Nat) : Bool := f64Finite a && f64Lt 0 a

/-- An FMA chain over pairs in ascending order. -/
def f64Chain (c : Nat) (l : List (Nat × Nat)) : Nat := l.foldl (fun a p => f64Fma p.1 p.2 a) c

/-! ### FP64 steps that keep the flags they raise (R80) and show a NaN (R89) -/

/-- A computation that gathers flags, and whether an operation gave a NaN. -/
abbrev Calc (α : Type) := StateM (Fl × Bool) α

/-- The result of a computation, every flag it raised, and whether an operation gave a NaN. -/
def Calc.out {α : Type} (c : Calc α) : α × Fl × Bool := c.run (flNone, false)

/-- One rounded operation. -/
def rounded (r : FRes) : Calc Nat := modifyGet fun s => (r.1, s.1 ||| r.2, s.2 || f64IsNan r.1)

def cAdd (a b : Nat) : Calc Nat := rounded (fadd fp64 a b)
def cSub (a b : Nat) : Calc Nat := rounded (fsub fp64 a b)
def cMul (a b : Nat) : Calc Nat := rounded (fmul fp64 a b)
def cDiv (a b : Nat) : Calc Nat := rounded (fdiv fp64 a b)
def cFma (a b c : Nat) : Calc Nat := rounded (ffma fp64 a b c)
def cSqrt (a : Nat) : Calc Nat := rounded (fsqrt fp64 a)
def cMax (a b : Nat) : Calc Nat := rounded (fminmax fp64 true a b)

/-- An FMA chain. -/
def cChain (c : Nat) (l : List (Nat × Nat)) : Calc Nat := l.foldlM (fun a p => cFma p.1 p.2 a) c

/-- `f` of 0 to `n` - 1, in that order. -/
def cUpto {α : Type} (n : Nat) (f : Nat → Calc α) : Calc (List α) := (upto n).mapM f

/-! ### The iteration's precision (R200, R210, R212): FP32 numbers are held as the FP64 codes of the same numbers -/

def narrow (v : Nat) : Nat := (fconv fp64 fp32 v).1
def widen (v : Nat) : Nat := (fconv fp32 fp64 v).1

/-- A value in precision `pr`, a template's PREC. -/
def inPrec (pr v : Nat) : Nat := if pr = 1 then widen (narrow v) else v

/-- An operation of two operands, rounded once in precision `pr`. -/
def prec2 (pr : Nat) (g : Fmt → Nat → Nat → FRes) (a b : Nat) : Nat :=
  if pr = 1 then widen (g fp32 (narrow a) (narrow b)).1 else (g fp64 a b).1

def pAdd (pr a b : Nat) : Nat := prec2 pr fadd a b
def pSub (pr a b : Nat) : Nat := prec2 pr fsub a b
def pMul (pr a b : Nat) : Nat := prec2 pr fmul a b
def pDiv (pr a b : Nat) : Nat := prec2 pr fdiv a b
def pFma (pr a b c : Nat) : Nat :=
  if pr = 1 then widen (ffma fp32 (narrow a) (narrow b) (narrow c)).1 else f64Fma a b c

/-- An FMA chain in precision `pr`. -/
def pChain (pr c : Nat) (l : List (Nat × Nat)) : Nat := l.foldl (fun a p => pFma pr p.1 p.2 a) c

/-- Element i of a vector, [i][j] of a matrix; +0 outside. -/
def vAt (v : Vec) (i : Nat) : Nat := v.getD i 0
def mAt (m : Mat) (i j : Nat) : Nat := (m.getD i []).getD j 0

/-- The factors of row i of a matrix by a vector of `n` elements, and of column i of a matrix of `n` rows. -/
def rowTerms (m : Mat) (i : Nat) (v : Vec) (n : Nat) : List (Nat × Nat) := (upto n).map fun j => (mAt m i j, vAt v j)
def colTerms (m : Mat) (i : Nat) (v : Vec) (n : Nat) : List (Nat × Nat) := (upto n).map fun j => (mAt m j i, vAt v j)

/-- A symmetric matrix given by its lower triangle (R194). -/
def symAt (m : Mat) (i j : Nat) : Nat := if j ≤ i then mAt m i j else mAt m j i

/-! ### Shape -/

/-- A stage datum (R197); the numbers by which `Config.coefBase` knows it. -/
inductive Datum where
  | a | b | c | h | hv | cm | dm | lo | hi | g | w
deriving DecidableEq, Repr

def Datum.num : Datum → Nat
  | .a => 0 | .b => 1 | .c => 2 | .h => 3 | .hv => 4 | .cm => 5 | .dm => 6 | .lo => 7 | .hi => 8 | .g => 9 | .w => 10

/-- Where a point's data come from: its parent; the stage and parameter vector of the equation into it; its own stage and
vector. -/
structure PtSpec where
  parent : Option Nat
  node : Nat
  linkStage : Nat
  linkVec : Nat
  stage : Nat
  vec : Nat
  term : Bool
deriving DecidableEq, Repr

/-- A node of the tree (R250): parent, first stage, last stage, leaf, first parameter vector, first point. -/
structure TreeNode where
  parent : Option Nat
  level : Nat
  s0 : Nat
  s1 : Nat
  leaf : Bool
  vec0 : Nat
  pt0 : Nat
deriving DecidableEq, Repr

/-- The branch points (R249): stage and fan-out. -/
def branches (t : Template) : List (Nat × Nat) :=
  if t.kind = 2 then (upto (recLe t.ext 0 1)).map fun b => (recLe t.ext (8 + 4 * b) 2, recLe t.ext (10 + 4 * b) 1) else []

/-- Points that a node holds. -/
def TreeNode.points (x : TreeNode) : Nat := x.s1 - x.s0 + b2n x.leaf

/-- Parameter vectors that a node has (R250). -/
def TreeNode.vecs (x : TreeNode) : Nat := x.points + b2n x.parent.isSome

/-- The nodes of one level, each child after the other, appended breadth first. -/
def addLevel (n : Nat) (bs : List (Nat × Nat)) (nodes : List TreeNode) (b : Nat) : List TreeNode :=
  let s0 := (bs.getD (b - 1) (0, 1)).1
  let f := (bs.getD (b - 1) (0, 1)).2
  let leaf := b = bs.length
  let s1 := if leaf then n else (bs.getD b (n, 1)).1
  let parents := (upto nodes.length).filter fun i => (nodes.getD i ⟨none, 0, 0, 0, false, 0, 0⟩).level + 1 = b
  (parents.flatMap fun p => List.replicate f p).foldl (fun ns p =>
    let v := match ns.getLast? with
      | some l => (l.vec0 + l.vecs, l.pt0 + l.points)
      | none => (0, 0)
    ns ++ [⟨some p, b, s0, s1, leaf, v.1, v.2⟩]) nodes

/-- The nodes in node order (R250); one node that is root and leaf for KIND 0 and 1. -/
def treeNodes (t : Template) : List TreeNode :=
  let bs := branches t
  let s1 := if bs = [] then t.n else (bs.getD 0 (t.n, 1)).1
  ((upto bs.length).map (· + 1)).foldl (addLevel t.n bs) [⟨none, 0, 0, s1, decide (bs = []), 0, 0⟩]

/-- The points of node `i`, in stage order. -/
def nodeSpecs (nodes : List TreeNode) (perStage : Bool) (i : Nat) : List PtSpec :=
  let x := nodes.getD i ⟨none, 0, 0, 0, false, 0, 0⟩
  let link := b2n x.parent.isSome
  (upto x.points).map fun k =>
    let v := if perStage then x.vec0 + link + k else 0
    let parent := if k = 0 then x.parent.map fun p =>
        let y := nodes.getD p ⟨none, 0, 0, 0, false, 0, 0⟩
        y.pt0 + y.points - 1
      else some (x.pt0 + k - 1)
    { parent := parent, node := i, linkStage := x.s0 + k - 1, linkVec := if perStage then x.vec0 + link + k - 1 else 0,
      stage := x.s0 + k, vec := v, term := x.leaf && k + 1 = x.points }

/-- The points of a problem (R193, R250). -/
def shape (t : Template) (perStage : Bool) : List PtSpec :=
  let nodes := treeNodes t
  (upto nodes.length).flatMap (nodeSpecs nodes perStage)

/-- Parameter vectors a problem supplies (R198, R252). -/
def vecCount (t : Template) (perStage : Bool) : Nat :=
  if !perStage then 1 else ((treeNodes t).map TreeNode.vecs).foldl (· + ·) 0

/-- Leaves of the subtree of node `n`, ascending. -/
def leavesOf (nodes : List TreeNode) (n : Nat) : List Nat :=
  let leaves := (upto nodes.length).filter fun i => (nodes.getD i ⟨none, 0, 0, 0, false, 0, 0⟩).leaf
  let up (i : Nat) : Nat := ((nodes.getD i ⟨none, 0, 0, 0, false, 0, 0⟩).parent).getD i
  (leaves.zip (upto leaves.length)).filterMap fun e =>
    if e.1 = n || up e.1 = n || up (up e.1) = n || up (up (up e.1)) = n || up (up (up (up e.1))) = n then some e.2 else none

/-- Node weights Ω (R253): the sum of the leaves' weights in ascending order, one rounding at a time; with the flags. -/
def nodeSum (nodes : List TreeNode) (w : Vec) (n : Nat) : FRes :=
  match (leavesOf nodes n).map (vAt w) with
  | [] => (0, flNone)
  | x :: r => let v := (r.foldlM cAdd x : Calc Nat).out; (v.1, v.2.1)

def nodeWeight (nodes : List TreeNode) (w : Vec) (n : Nat) : Nat := (nodeSum nodes w n).1

/-- The child of largest Ω of node `n`, the lowest number when equal (R257). -/
def principalChild (nodes : List TreeNode) (w : Vec) (n : Nat) : Option Nat :=
  ((upto nodes.length).filter fun i => (nodes.getD i ⟨none, 0, 0, 0, false, 0, 0⟩).parent = some n).foldl
    (fun b i => match b with
      | none => some i
      | some j => if f64Lt (nodeWeight nodes w j) (nodeWeight nodes w i) then some i else some j) none

/-- The nodes of the principal path from `n` (R257). -/
def principalPath (nodes : List TreeNode) (w : Vec) : Nat → Nat → List Nat
  | 0, n => [n]
  | k + 1, n => match principalChild nodes w n with
    | none => [n]
    | some c => n :: principalPath nodes w k c

/-! ### Assembly (R198, R199, R242, R252, R253) -/

/-- An entry: its value and the flags of its roundings (R199). -/
def entryVal (block : List Byte) (stage : Nat) (q : Datum) (r c : Nat) (p : Vec) (np : Nat) : FRes :=
  match Config.coefBase block stage q.num r c with
  | none => (0, flNone)
  | some b =>
    (upto np).foldl (fun v i => match Config.coefParam block stage q.num r c i with
      | none => v
      | some k => let x := ffma fp64 (vAt p i) k.toNat v.1; (x.1, v.2 ||| x.2)) (b.toNat, flNone)

/-- A vector and a matrix of entries; `low` keeps the lower triangle. -/
def entryVec (block : List Byte) (stage : Nat) (q : Datum) (n : Nat) (p : Vec) (np : Nat) : List FRes :=
  (upto n).map fun i => entryVal block stage q i 0 p np

def entryMat (block : List Byte) (stage : Nat) (q : Datum) (n m : Nat) (low : Bool) (p : Vec) (np : Nat) : List (List FRes) :=
  (upto n).map fun i => (upto (if low then i + 1 else m)).map fun j => entryVal block stage q i j p np

def vals (l : List FRes) : Vec := l.map (·.1)
def valsM (l : List (List FRes)) : Mat := l.map vals
def flagsOf (l : List FRes) : Fl := l.foldl (fun a r => a ||| r.2) flNone
def flagsOfM (l : List (List FRes)) : Fl := l.foldl (fun a r => a ||| flagsOf r) flNone

/-- One point assembled, and the flags raised. The equation into the first point of the horizon does not exist. -/
def assemblePt (t : Template) (block : List Byte) (params : Mat) (s : PtSpec) : Pt × Fl :=
  let p := params.getD s.vec []
  let lp := params.getD s.linkVec []
  let nz := if s.term then t.nx else t.nx + t.nu
  let nr := if s.term then t.niTerm else t.ni
  let e (q : Datum) (n : Nat) := entryVec block s.stage q n p t.np
  let m (q : Datum) (n k : Nat) (low : Bool) := entryMat block s.stage q n k low p t.np
  let link := s.parent.isSome
  let a := if link then entryMat block s.linkStage .a t.nx t.nx false lp t.np else []
  let b := if link then entryMat block s.linkStage .b t.nx t.nu false lp t.np else []
  let c := if link then entryVec block s.linkStage .c t.nx lp t.np else []
  let h := m .h nz nz true
  let hv := e .hv nz
  let cm := m .cm nr t.nx false
  let dm := if s.term then [] else m .dm nr t.nu false
  let lo := e .lo nr
  let hi := e .hi nr
  let ny := if t.kind = 1 then recLe t.ext 0 1 else 0
  let g := m .g ny t.nx false
  let w := e .w ny
  ({ parent := s.parent, node := s.node, stage := s.stage, term := s.term, a := valsM a, b := valsM b, c := vals c,
     h := valsM h, hv := vals hv, cm := valsM cm, dm := valsM dm, lo := vals lo, hi := vals hi, g := valsM g, w := vals w },
   flagsOfM a ||| flagsOfM b ||| flagsOf c ||| flagsOfM h ||| flagsOf hv ||| flagsOfM cm ||| flagsOfM dm ||| flagsOf lo |||
     flagsOf hi ||| flagsOfM g ||| flagsOf w)

/-- Data that R193 requires finite is finite; a bound may be infinite on its own side. -/
def ptFinite (x : Pt) : Bool :=
  let m (l : Mat) : Bool := l.all fun r => r.all f64Finite
  m x.a && m x.b && x.c.all f64Finite && m x.h && x.hv.all f64Finite && m x.cm && m x.dm && m x.g &&
    (x.lo.all fun v => f64Finite v || v = f64Inf + 2 ^ 63) && (x.hi.all fun v => f64Finite v || v = f64Inf)

/-- Any assembled NaN. -/
def ptNan (x : Pt) : Bool :=
  let m (l : Mat) : Bool := l.any fun r => r.any f64IsNan
  m x.a || m x.b || x.c.any f64IsNan || m x.h || x.hv.any f64IsNan || m x.cm || m x.dm || x.lo.any f64IsNan ||
    x.hi.any f64IsNan || m x.g || x.w.any f64IsNan

/-- Noise weights q and measurement weights w of KIND 1 assemble to positive finite values (R234). -/
def ptNoiseOk (t : Template) (x : Pt) : Bool :=
  x.w.all f64Pos && (x.term || (upto t.nu).all fun i => f64Pos (mAt x.h (t.nx + i) (t.nx + i)))

/-- Every H and h entry multiplied by Ω (R253). -/
def weightPt (om : Nat) (x : Pt) : Pt :=
  { x with h := x.h.map fun r => r.map fun v => f64Mul v om, hv := x.hv.map fun v => f64Mul v om }

/-- The flags of those multiplications (R80). -/
def weightFlags (om : Nat) (x : Pt) : Fl := flagsOf ((x.h.flatMap id ++ x.hv).map fun v => fmul fp64 v om)

/-- One measurement row added to a point's cost (R242). -/
def addRow (nx j y : Nat) (x : Pt) : Calc Pt := do
  let s ← cMul (vAt x.w j) (vAt x.w j)
  let g := x.g.getD j []
  let h ← (x.h.zip (upto x.h.length)).mapM fun e => (e.1.zip (upto e.1.length)).mapM fun q =>
    if e.2 < nx ∧ q.2 ≤ e.2 then do
      let sg ← cMul s (vAt g e.2)
      cFma sg (vAt g q.2) q.1
    else pure q.1
  let hv ← (x.hv.zip (upto x.hv.length)).mapM fun e =>
    if e.2 < nx then do
      let sy ← cMul (f64Neg s) y
      cFma sy (vAt g e.2) e.1
    else pure e.1
  pure { x with h := h, hv := hv }

/-- Column `c` of the inverse of a lower triangular matrix by forward substitution (R242). -/
def inverseCol (s : Mat) (n c : Nat) : Calc Vec :=
  (upto n).foldlM (fun (u : Vec) i =>
    if i < c then pure (u ++ [0])
    else do
      let v ← cChain (if i = c then f64One else 0) (((upto i).filter (c ≤ ·)).map fun k => (f64Neg (mAt s i k), vAt u k))
      let q ← cDiv v (mAt s i i)
      pure (u ++ [q])) []

/-- The inverse of a lower triangular matrix, column by column (R242). -/
def lowerInverse (s : Mat) (n : Nat) : Calc Mat := do
  let cols ← cUpto n (inverseCol s n)
  pure ((upto n).map fun i => (upto n).map fun c => mAt cols c i)

/-- The arrival cost added to the first point (R242). -/
def addArrival (nx : Nat) (g : Gauss) (x : Pt) : Calc Pt := do
  let u ← lowerInverse g.s nx
  let ux ← cUpto nx fun i => cChain 0 ((upto (i + 1)).map fun k => (mAt u i k, vAt g.x k))
  let from_ (a : Nat) : List Nat := (upto nx).filter (a ≤ ·)
  let h ← (x.h.zip (upto x.h.length)).mapM fun e => (e.1.zip (upto e.1.length)).mapM fun q =>
    if e.2 < nx ∧ q.2 ≤ e.2 then do
      let v ← cChain 0 ((from_ e.2).map fun c => (mAt u c e.2, mAt u c q.2))
      cAdd q.1 v
    else pure q.1
  let hv ← (x.hv.zip (upto x.hv.length)).mapM fun e =>
    if e.2 < nx then do
      let v ← cChain 0 ((from_ e.2).map fun c => (mAt u c e.2, vAt ux c))
      cSub e.1 v
    else pure e.1
  pure { x with h := h, hv := hv }

/-! ### The certificate (R219, R245, R256) -/

def xOf (i : Iterate) (p : Nat) : Vec := i.x.getD p []
def uOf (i : Iterate) (p : Nat) : Vec := i.u.getD p []
def piOf (i : Iterate) (p : Nat) : Vec := i.pi.getD p []
def lamOf (i : Iterate) (p : Nat) : Vec := i.lam.getD p []

/-- Constraint row i at a point: C x + D u, in precision `pr`. -/
def rowValue (pr : Nat) (t : Template) (x : Pt) (it : Iterate) (p i : Nat) : Nat :=
  let c := pChain pr 0 (rowTerms x.cm i (xOf it p) t.nx)
  if x.term then c else pChain pr c (rowTerms x.dm i (uOf it p) t.nu)

/-- Residuals of the equation into a point: x - A x_p - B u_p - c. -/
def dynRes (pr : Nat) (t : Template) (x : Pt) (it : Iterate) (p : Nat) : List Nat :=
  match x.parent with
  | none => []
  | some q => (upto t.nx).map fun i =>
    let neg (l : List (Nat × Nat)) : List (Nat × Nat) := l.map fun e => (f64Neg e.1, e.2)
    let v := pChain pr (vAt (xOf it p) i) (neg (rowTerms x.a i (xOf it q) t.nx))
    let v := pChain pr v (neg (rowTerms x.b i (uOf it q) t.nu))
    pSub pr v (vAt x.c i)

/-- Violations of the rows of a point. -/
def rowRes (pr : Nat) (t : Template) (x : Pt) (it : Iterate) (p : Nat) : List Nat :=
  (upto x.lo.length).map fun i =>
    let y := rowValue pr t x it p i
    f64Max (f64Max (pSub pr (vAt x.lo i) y) (pSub pr y (vAt x.hi i))) 0

/-- The children of a point: points whose equation it feeds, ascending. -/
def childPts (pts : List Pt) (p : Nat) : List Nat :=
  (upto pts.length).filter fun q => match pts[q]? with
    | some x => x.parent = some p
    | none => false

/-- Stationarity at a point, element by element. -/
def stationarity (pr : Nat) (t : Template) (pts : List Pt) (it : Iterate) (p : Nat) (x : Pt) : List Nat :=
  let nz := if x.term then t.nx else t.nx + t.nu
  let z := if x.term then xOf it p else xOf it p ++ uOf it p
  let kids := childPts pts p
  (upto nz).map fun i =>
    let v := pChain pr 0 ((upto nz).map fun j => (symAt x.h i j, vAt z j))
    let v := pAdd pr v (vAt x.hv i)
    let v := kids.foldl (fun v q =>
      let y := pts.getD q x
      let m := if i < t.nx then y.a else y.b
      pChain pr v (colTerms m (if i < t.nx then i else i - t.nx) (piOf it q) t.nx)) v
    let v := if i < t.nx then
        (if t.kind = 1 && x.parent.isNone then v else pSub pr v (vAt (piOf it p) i))
      else v
    let m := if i < t.nx then x.cm else x.dm
    pChain pr v (colTerms m (if i < t.nx then i else i - t.nx) (lamOf it p) x.lo.length)

/-- One side of the gap: multiplier part times distance to its bound; +0 for a zero part, +∞ at an infinite bound (R219). -/
def gapTerm (pr part bound dist : Nat) : Nat :=
  if part = 0 then 0 else if !f64Finite bound && f64Lt 0 part then f64Inf else pMul pr part (f64Abs dist)

def rowGap (pr : Nat) (t : Template) (x : Pt) (it : Iterate) (p : Nat) : List Nat :=
  (upto x.lo.length).map fun i =>
    let y := rowValue pr t x it p i
    let l := vAt (lamOf it p) i
    pAdd pr (gapTerm pr (f64Max l 0) (vAt x.hi i) (pSub pr (vAt x.hi i) y))
      (gapTerm pr (f64Max (f64Neg l) 0) (vAt x.lo i) (pSub pr y (vAt x.lo i)))

/-- The objective's terms at a point: 1/2 z' H z + h' z. -/
def ptObj (pr : Nat) (t : Template) (x : Pt) (it : Iterate) (p : Nat) : Nat :=
  let z := if x.term then xOf it p else xOf it p ++ uOf it p
  let nz := if x.term then t.nx else t.nx + t.nu
  let hz := (upto nz).map fun i => pChain pr 0 ((upto nz).map fun j => (symAt x.h i j, vAt z j))
  let q := pChain pr 0 ((upto nz).map fun i => (vAt z i, vAt hz i))
  pChain pr (pMul pr 0x3FE0000000000000 q) ((upto nz).map fun i => (vAt x.hv i, vAt z i))

def maxAbs (l : List Nat) : Nat := l.foldl (fun m v => f64Max m (f64Abs v)) 0
def maxOf (l : List Nat) : Nat := l.foldl f64Max 0

/-- The quantities of R219 of an iterate against data, in precision `pr`. Chains run left to right as the formulas are written
(DEDUCED, notes/assumptions/20). -/
def certifyIn (pr : Nat) (t : Template) (pts : List Pt) (xhat : Vec) (it : Iterate) : Cert :=
  let ps := pts.zip (upto pts.length)
  let init := if t.kind = 1 then [] else (upto t.nx).map fun i => pSub pr (vAt (xOf it 0) i) (vAt xhat i)
  { rp := f64Max (maxAbs (init ++ ps.flatMap fun e => dynRes pr t e.1 it e.2)) (maxOf (ps.flatMap fun e => rowRes pr t e.1 it e.2))
    rd := maxAbs (ps.flatMap fun e => stationarity pr t pts it e.2 e.1)
    gap := maxOf (ps.flatMap fun e => rowGap pr t e.1 it e.2)
    obj := ps.foldl (fun a e => pAdd pr a (ptObj pr t e.1 it e.2)) 0 }

/-- The certificate of an iterate against the stored data, in FP64 (R219). -/
def certify (t : Template) (pts : List Pt) (xhat : Vec) (it : Iterate) : Cert := certifyIn 0 t pts xhat it

/-- The iteration's copy of a point's data (R200). -/
def copyPt (pr : Nat) (x : Pt) : Pt :=
  let v (l : Vec) : Vec := l.map (inPrec pr)
  { x with a := x.a.map v, b := x.b.map v, c := v x.c, h := x.h.map v, hv := v x.hv, cm := x.cm.map v, dm := x.dm.map v,
           lo := v x.lo, hi := v x.hi }

/-- The internal residuals (R212): the same quantities on the iteration's copy, in the iteration precision. -/
def internalTest (t : Template) (pts : List Pt) (xhat : Vec) (it : Iterate) : Cert :=
  certifyIn t.prec t (pts.map (copyPt t.prec)) (xhat.map (inPrec t.prec)) it

/-- A quantity of a certificate is a NaN. -/
def Cert.isNan (c : Cert) : Bool := [c.rp, c.rd, c.gap, c.obj].any f64IsNan

/-- The certificate passes the targets (R220). -/
def passTarget (r : ProbRec) (c : Cert) : Bool := f64Le c.rp r.epsP && f64Le c.rd r.epsD && f64Le c.gap r.epsG

/-- The certificate passes the acceptances (R220). -/
def passAccept (r : ProbRec) (c : Cert) : Bool := f64Le c.rp r.accP && f64Le c.rd r.accD && f64Le c.gap r.accG

/-- The score of R213. -/
def score (r : ProbRec) (c : Cert) : Nat :=
  f64Max (f64Max (f64Div c.rp r.accP) (f64Div c.rd r.accD)) (f64Div c.gap r.accG)

/-! ### Starting points (R209, R211) -/

/-- A finite bound's slack: y - lo, hi - y, in row order, lower before upper. -/
def slacks (t : Template) (pts : List Pt) (it : Iterate) : List Nat :=
  (pts.zip (upto pts.length)).flatMap fun e => (upto e.1.lo.length).flatMap fun i =>
    let y := rowValue 0 t e.1 it e.2 i
    (if f64Finite (vAt e.1.lo i) then [f64Sub y (vAt e.1.lo i)] else []) ++
      (if f64Finite (vAt e.1.hi i) then [f64Sub (vAt e.1.hi i) y] else [])

/-- The multipliers of the finite bounds in the same order. -/
def multipliers (pts : List Pt) (it : Iterate) : List Nat :=
  (pts.zip (upto pts.length)).flatMap fun e => (upto e.1.lo.length).flatMap fun i =>
    let l := vAt (lamOf it e.2) i
    (if f64Finite (vAt e.1.lo i) then [f64Max (f64Neg l) 0] else []) ++
      (if f64Finite (vAt e.1.hi i) then [f64Max l 0] else [])

/-- The dynamics followed from `x0` with zero inputs, in precision `pr` (R209, R248). -/
def rollOut (pr : Nat) (t : Template) (pts : List Pt) (x0 : Vec) : Mat :=
  pts.foldl (fun xs x => xs ++ [match x.parent with
    | none => x0
    | some q => (upto t.nx).map fun i =>
      let v := pChain pr 0 (rowTerms x.a i (xs.getD q []) t.nx)
      pAdd pr (pChain pr v ((upto t.nu).map fun j => (mAt x.b i j, 0))) (vAt x.c i)]) []

def coldStart (t : Template) (pts : List Pt) (xhat : Vec) : Iterate :=
  let it : Iterate :=
    { x := rollOut 0 t pts xhat
      u := pts.map fun x => if x.term then [] else List.replicate t.nu 0
      pi := pts.map fun _ => List.replicate t.nx 0
      lam := pts.map fun x => List.replicate x.lo.length 0 }
  if t.method = 1 then it
  else { it with s := (slacks t pts it).map (f64Max f64One), w := (slacks t pts it).map fun _ => f64One }

/-- 2^-8 (R209). -/
def f64Small : Nat := 0x3F70000000000000

def warmStart (t : Template) (pts : List Pt) (it : Iterate) : Iterate :=
  if t.method = 1 then it
  else { it with s := (slacks t pts it).map (f64Max f64Small), w := (multipliers pts it).map (f64Max f64Small) }

/-! ### Plans (R226, R257) -/

/-- The values of a plan in order: per node the inputs, then the states; with DUALS the equations' multipliers and the rows'. -/
def planValues (t : Template) (pts : List Pt) (duals : Bool) (it : Iterate) : List Nat :=
  let ps := pts.zip (upto pts.length)
  let nodes := (treeNodes t).length
  let own (n : Nat) := ps.filter fun e => e.1.node = n
  (upto nodes).flatMap (fun n => (own n).flatMap (fun e => uOf it e.2) ++ (own n).flatMap fun e => xOf it e.2) ++
    if duals then
      (ps.flatMap fun e => if t.kind = 1 && e.1.parent.isNone then [] else piOf it e.2) ++ ps.flatMap fun e => lamOf it e.2
    else []

/-- The number of values of a plan of a template. -/
def planLen (t : Template) (duals : Bool) : Nat :=
  let sp := shape t true
  let nt := (sp.filter fun s => !s.term).length
  sp.length * t.nx + nt * t.nu +
    if duals then (sp.length - b2n (t.kind = 1)) * t.nx + nt * t.ni + (sp.length - nt) * t.niTerm else 0

/-- P of R226: the plan size rounded up to a multiple of 64 bytes; 0 in filter-only mode (R246). -/
def planSize (t : Template) (duals : Bool) : Nat :=
  if t.kind = 1 && recLe t.ext 1 1 = 1 then 0 else (8 * planLen t duals + 63) / 64 * 64

end Sys2Proof.Machine
end

