-- ==== Sys2Proof/Machine/Record.lean ====
section
/-! DEFINITION. Recording (R345 to R347): the entries of a recording and the ranges that a job reads and writes. -/

namespace Sys2Proof.Machine

/-- The template of an image with a number (R195). -/
def imageTemplate (im : Image) (id : Nat) : Option Template :=
  (im.templates.map (parseTemplate im.bytes)).find? fun t => t.id = id

/-- Bytes of the result area (R226, R246, R260). -/
def resultBytes (t : Template) (r : ProbRec) : Nat :=
  let base := 128 + 2 * planSize t r.duals
  if t.kind = 1 then base + 8 * (t.nx + t.nx * (t.nx + 1) / 2)
  else if t.kind = 2 && bit (r.t 106 1) 0 then
    let n := (branches t).headD (0, 1) |>.1
    let c := r.t 108 2
    base + (if c = 0 then n else min c n) * ((8 + 4 * (t.nu + t.nx) + 63) / 64 * 64)
  else base

/-- A record's size in the sample buffer (R237). -/
def sampleBytes (t : Template) : Nat := (16 + 8 * t.ny + 63) / 64 * 64

/-! ### Entries (R346, R347) -/

def Dev.recording (d : Dev) (im : Nat) : Option Recording := d.recs.find? fun r => r.image = im

def Dev.updRec (d : Dev) (im : Nat) (f : Recording → Recording) : Dev :=
  { d with recs := d.recs.map fun r => if r.image = im then f r else r }

/-- The entry types of R346. -/
def reStart : Nat := 0x01
def reJob : Nat := 0x02
def reData : Nat := 0x03
def reDigest : Nat := 0x04
def reFrame : Nat := 0x05
def reFifo : Nat := 0x06
def reStop : Nat := 0x07
def reWait : Nat := 0x08
def reOutput : Nat := 0x09
def reGap : Nat := 0x0A
def reEnd : Nat := 0x0B

/-- The bytes of an entry. -/
def recBytes (d : Dev) (r : Recording) (type aux lt ord : Nat) (payload : List Byte) : List Byte :=
  leBytes 1 type ++ leBytes 1 aux ++ leBytes 2 lt ++ leBytes 4 payload.length ++ leBytes 8 r.entry ++ leBytes 8 ord ++
    leBytes 8 d.now ++ payload ++ List.replicate ((32 - payload.length % 32) % 32) 0

/-- A recording without space, or whose buffer cannot be written, ends with GAP (R347). (DEDUCED, notes/assumptions/67.) -/
def recGap (d : Dev) (r : Recording) : Dev :=
  let w := writeAddr d (r.bufAddr + r.bufBytes - 64) (recBytes d r reGap 0 0 r.jobOrd [])
  let d := if w.2 = stDone then w.1.forCount 8 else w.1
  { d with recs := d.recs.filter fun x => x.image ≠ r.image }.setFld forStatusRecGap 1

/-- One entry written to the active recording of an image. -/
def recPut (d : Dev) (im type aux lt ord : Nat) (payload : List Byte) : Dev :=
  match d.recording im with
  | none => d
  | some r =>
    if r.waitLoad then d
    else
      let b := recBytes d r type aux lt ord payload
      if r.bufBytes < r.pos + b.length + 64 then recGap d r
      else
        let w := writeAddr d (r.bufAddr + r.pos) b
        if w.2 ≠ stDone then recGap d r
        else (w.1.updRec im fun x => { x with pos := x.pos + b.length, entry := x.entry + 1 }).forCount 8

/-- The closing entry of a buffer: END, in the bytes held back if need be (R347). -/
def recEnd (d : Dev) (r : Recording) : Dev :=
  let w := writeAddr d (r.bufAddr + r.pos) (recBytes d r reEnd 0 0 r.jobOrd [])
  if w.2 ≠ stDone then recGap d r else (w.1.updRec r.image fun x => { x with entry := x.entry + 1 }).forCount 8

/-- The data of a matrix. -/
def flat (m : Mat) : List Nat := m.flatMap id

/-- What the state digest covers (R346): warm-start slots of the image, page tables and pages, memory rows of its cached
handles. -/
def stateData (d : Dev) (im : Nat) : List Nat :=
  let warm := (d.solv.warm.filter fun w => w.image = im).flatMap fun w =>
    [w.slot, w.signature, w.method, w.age] ++ w.plan ++ (match w.iter with
      | none => []
      | some i => flat i.x ++ flat i.u ++ flat i.pi ++ flat i.lam ++ i.s ++ i.w) ++ (match w.est with
      | none => []
      | some e => e.ns :: e.filter.x ++ flat e.filter.s ++ e.prior.x ++ flat e.prior.s ++ e.gates.flatMap fun g => [g.1, g.2])
  let seqs := d.attn.seqs.flatMap fun q => [q.1, q.2.d] ++ q.2.entries.flatMap fun e =>
    [b2n e.evicted, e.fill, e.score] ++ [e.p0, e.p1].flatMap fun p =>
      let i : PageInfo := mapGet {} d.attn.pages p
      let a := if i.canopy then d.attn.canopyBase else d.attn.ddrBase
      if i.alloc then [memReadLe d.mem (a + 69632 * i.slot) 69632] else []
  let region := match d.image im with
    | none => []
    | some x => [memReadLe d.mem x.ddrBase x.ddrBytes, memReadLe d.mem x.canopyBase x.canopyBytes]
  warm ++ seqs ++ region

/-- The START entry's payload (R346). -/
def startPayload (d : Dev) (im : Nat) (fromLoad : Bool) : List Byte :=
  let digest := match d.image im with
    | some x => x.digest.take 16
    | none => List.replicate 16 0
  digest ++ leBytes 1 (max 1 (d.fld plkStatusCount)) ++ leBytes 1 (d.fld plkStatusPosition) ++ leBytes 14 0 ++
    leBytes 16 (if fromLoad then 0 else (Config.stateDigest (stateData d im)).toNat)

/-! ### The ranges of a job -/

/-- The input ranges that a problem record names. -/
def probInputs (im : Image) (l : List Byte) : List (Nat × Nat) :=
  let r := parseProb l
  match imageTemplate im r.templateId with
  | none => []
  | some t =>
    (if t.kind = 1 then [(r.x0Addr, 256 * sampleBytes t), (r.t 112 8, 8 * (t.nx + t.nx * (t.nx + 1) / 2))]
      else if r.x0Src = 0 then [(r.x0Addr, 8 * t.nx)] else []) ++
    [(r.paramAddr, 8 * t.np * vecCount t r.perStage)] ++
    (if t.kind = 1 && t.estMode = 1 then [] else [(r.fallbackAddr, 8 * planLen t r.duals)]) ++
    (if t.kind = 2 then [(r.t 112 8, 8 * recLe t.ext 1 1), (r.t 120 8, if r.t 120 8 = 0 then 0 else 2 * (treeNodes t).length)] else [])

/-- The problem records of a job, as they stand in memory. -/
def probRecords (d : Dev) (x : Job) : List (List Byte) :=
  match readAddr d x.desc.addr (128 * x.desc.count) with
  | .ok l => (upto x.desc.count).map fun i => (l.drop (128 * i)).take 128
  | .error _ => []

/-- Bytes of a query row of dimension `dd` (R300). -/
def rowBytesOf (dd : Nat) : Nat := 512 * ((dd + 127) / 128)

/-- Rows that an attend record's length table names. -/
def attendRows (d : Dev) (l : List Byte) : Nat :=
  match readAddr d (recLe l 8 8) (16 * recLe l 0 2) with
  | .ok t => ((upto (recLe l 0 2)).map fun i => recLe t (16 * i + 2) 2 * recLe l 2 1).foldl (· + ·) 0
  | .error _ => 0

/-- Every range that a job names as input (R346). -/
def jobInputs (d : Dev) (x : Job) : List (Nat × Nat) :=
  let a := x.desc.addr
  match x.desc.opcode with
  | 0x01 => [(a, x.desc.count)]
  | 0x10 | 0x11 | 0x12 | 0x13 =>
    (a, 128 * x.desc.count) :: (match d.image x.desc.image with
      | none => []
      | some im => (probRecords d x).flatMap (probInputs im))
  | 0x20 => match readAddr d a 64 with
    | .ok l => [(a, 64), (recLe l 8 8, 16 * recLe l 0 2), (recLe l 16 8, rowBytesOf (32 * recLe l 3 1) * attendRows d l)]
    | .error _ => []
  | 0x21 => match readAddr d a 32 with
    | .ok l => [(a, 32), (recLe l 8 8, rowBytesOf (recLe l 2 2) * 2 * recLe l 4 4)]
    | .error _ => []
  | 0x22 | 0x23 | 0x24 => [(a, 32)]
  | _ => []

/-- Every range that a job names as output; diagnostic handles are left out (R190). -/
def jobOutputs (d : Dev) (x : Job) : List (Nat × Nat) :=
  match x.desc.opcode with
  | 0x01 => match d.image x.desc.image with
    | none => []
    | some im => match im.entryIo[x.desc.entry]? with
      | some io =>
        let diag := ((im.tiles[io.outTile]?).map (·.diag)).getD 0
        if io.outTile = 0xFF || diag.getLsbD io.outHandle then [] else [(x.desc.aux, 512 * io.outRows)]
      | none => []
  | 0x10 | 0x11 | 0x12 | 0x13 => match d.image x.desc.image with
    | none => []
    | some im => (probRecords d x).flatMap fun l =>
      let r := parseProb l
      match imageTemplate im r.templateId with
      | none => []
      | some t => [(r.resultAddr, resultBytes t r)]
  | 0x20 => match readAddr d x.desc.addr 64 with
    | .ok l =>
      let n := attendRows d l
      [(recLe l 24 8, rowBytesOf (32 * recLe l 3 1) * n)] ++ (if recLe l 32 8 = 0 then [] else [(recLe l 32 8, 8 * n)])
    | .error _ => []
  | _ => []

/-- A result area's bytes as replay compares them: T_END is left out (R226). -/
def comparedBytes (op : Nat) (l : List Byte) : List Byte :=
  if 0x10 ≤ op ∧ op ≤ 0x13 then l.take 56 ++ leBytes 8 0 ++ l.drop 64 else l

/-- The payload of an OUTPUT entry: address, length, digest. -/
def outputPayload (d : Dev) (op a n : Nat) : Option (List Byte) :=
  match readAddr d a n with
  | .ok l => some (leBytes 8 a ++ leBytes 8 n ++ sha16 (comparedBytes op l))
  | .error _ => none

/-- Jobs that act on an image as a whole, and those of recording itself, are no jobs of an image's recording.
(DEDUCED, notes/assumptions/71.) -/
def unrecorded : List Nat := [0x02, 0x03, 0x41, 0x50, 0x51]

/-- A job begins: its descriptor and its input go into the recording of its image (R346). -/
def recordJob (d : Dev) (x : Job) : Dev :=
  match d.recording x.desc.image with
  | none => d
  | some r =>
    if r.waitLoad || x.replayed || unrecorded.contains x.desc.opcode then d
    else
      let ord := r.jobOrd
      let d := recPut d r.image reJob 0 0 ord x.desc.raw
      let d := ((jobInputs d x).filter fun e => e.2 ≠ 0).foldl (fun d e => match readAddr d e.1 e.2 with
        | .error _ => d
        | .ok l =>
          if bit r.content 0 then recPut d r.image reData 0 0 ord (leBytes 8 e.1 ++ l)
          else recPut d r.image reDigest 0 0 ord (leBytes 8 e.1 ++ leBytes 8 e.2 ++ sha16 l)) d
      d.updRec r.image fun y => { y with jobOrd := ord + 1, jobs := y.jobs ++ [(x.id, ord)] }

/-- The image and the ordinal under which a job is recorded. -/
def recordedAs (d : Dev) (j : Nat) : Option (Nat × Nat) :=
  d.recs.findSome? fun r => (r.jobs.find? fun e => e.1 = j).map fun e => (r.image, e.2)

/-- Something of a recorded job goes into its recording. -/
def recordOf (d : Dev) (j : Nat) (type aux lt : Nat) (payload : List Byte) : Dev :=
  match recordedAs d j with
  | none => d
  | some e => recPut d e.1 type aux lt e.2 payload

/-- A recorded job has ended with a result: the digests of its output. -/
def recordOutputs (d : Dev) (x : Job) (status : Nat) : Dev :=
  if stFallback < status then d
  else ((jobOutputs d x).filter fun e => e.2 ≠ 0).foldl (fun d e => match outputPayload d x.desc.opcode e.1 e.2 with
    | some p => recordOf d x.id reOutput 0 0 p
    | none => d) d

end Sys2Proof.Machine
end

