-- ==== Sys2Proof/Machine/Rings.lean ====
section
/-! DEFINITION. Submission and completion rings (R357 to R369, R390): what is fetched next, the descriptor and its checks, a
job's waits, message signalling. -/

namespace Sys2Proof.Machine

/-- The number of entries of a ring (R357). -/
def ringSize (n : Nat) : Nat := if n = 0 then 65536 else 2 ^ max 4 n

def Dev.sq (d : Dev) (k : Nat) : SqState := mapGet {} d.sqs k
def Dev.setSq (d : Dev) (k : Nat) (v : SqState) : Dev := { d with sqs := mapSet {} d.sqs k v }
def Dev.updSq (d : Dev) (k : Nat) (f : SqState → SqState) : Dev := d.setSq k (f (d.sq k))
def Dev.cq (d : Dev) (k : Nat) : CqState := mapGet {} d.cqs k
def Dev.updCq (d : Dev) (k : Nat) (f : CqState → CqState) : Dev := { d with cqs := mapSet {} d.cqs k (f (d.cq k)) }

def sqSize (d : Dev) (k : Nat) : Nat := ringSize (d.fld sqCfgLog2size k)
def cqSize (d : Dev) (k : Nat) : Nat := ringSize (d.fld cqCfgLog2size k)

/-- The module is in the safe state (R393). -/
def safeState (d : Dev) : Bool := d.flag supSafeStatusSafe

/-- A slot of a completion ring can be reserved (R361); ring 64 is the supervisor's (R390). A ring is full one entry short of
its size, as R360 says of a submission ring (DEDUCED, notes/assumptions/12). -/
def cqFree (d : Dev) (c : Nat) : Bool :=
  let s := d.cq c
  if c = 64 then decide (s.used + s.reserved < 15)
  else d.flag cqCfgEnable c && decide (s.used + s.reserved + 1 < cqSize d c)

/-- Ring `k` fetches: enabled and not stopped by an error (R358, R360). -/
def sqRunning (d : Dev) (k : Nat) : Bool := d.flag sqCfgEnable k && !(d.sq k).halted

/-- Ring `k` has a descriptor that may be fetched now (R360, R361, R370). -/
def sqEligible (d : Dev) (k : Nat) : Bool :=
  sqRunning d k &&
    if d.flag sqCfgTriggered k then
      match (d.sq k).pass, (d.sq k).armed with
      | some p, some n => !p.waits && decide (p.next < n)
      | _, _ => false
    else d.fld sqStatusHead k != (d.sq k).tail && cqFree d (d.fld sqCfgCq k)

def supEligible (d : Dev) : Bool := d.fld supqHeadIndex != d.fld supqTailIndex && cqFree d 64

/-- The ring whose descriptor is fetched next (R361): the supervisor queue, else the round in ascending ring number, at most 8
from each. Nothing is fetched before LOCK_DONE (R549), nor in the safe state (R393), during a removal (R528), before sleep (R509) or
while the hub engine's reload waits (R500). (DEDUCED, notes/assumptions/50.) -/
def nextFetch (d : Dev) : Option Nat :=
  if !d.flag devStatusLockDone || safeState d || d.flag devPwrDraining || d.boot.sleeping || d.boot.reloading then none
  else if supEligible d then some 64
  else
    let el := (upto 64).filter (sqEligible d)
    match el.find? (fun k => k > d.fetchRing || (k = d.fetchRing && decide (d.fetchCount < 8))) with
    | some k => some k
    | none => el.head?

/-- The job address of the descriptor at the front of ring `q`. -/
def descAddr (d : Dev) (q : Nat) : Nat :=
  d.fld sqBaseAddr q + 64 * (match (d.sq q).pass with
    | some p => p.next
    | none => d.fld sqStatusHead q)

/-- The bytes of the descriptor at the front of ring `q`. -/
def descBytes (d : Dev) (q : Nat) : Except Nat (List Byte) :=
  if q = 64 then
    .ok ((upto 16).flatMap fun i => leBytes 4 (bankWord d.regs (rSupqEntry + 64 * d.fld supqHeadIndex + 4 * i)).toNat)
  else readAddr d (descAddr d q) 64

/-- The code of a descriptor in device memory is checked as it is fetched (R432, R447). -/
def fetchScan (d : Dev) (q : Nat) : Dev := if q = 64 then d else scanAddr d none (descAddr d q) 64 ekFetch

/-- The descriptor to be fetched reads with a correction (R432). -/
def fetchCorrected (d : Dev) (q : Nat) : Bool :=
  q ≠ 64 && match jobAddr (descAddr d q) with
    | some (.dev a) => d.flaws.any fun e => touchesBlock a 64 e.1 && e.2 = .corrected
    | _ => false

/-- The descriptor's fields (R362). -/
def parseDesc (l : List Byte) : Desc :=
  { opcode := recLe l 0 1, cls := recLe l 1 1, flags := recLe l 2 2, image := recLe l 4 1, entry := recLe l 5 1,
    frameT := recLe l 6 1, tag := recLe l 8 8, deadline := recLe l 16 8, startCount := recLe l 24 8, seed := recLe l 32 8,
    addr := recLe l 40 8, aux := recLe l 48 8, count := recLe l 56 4, loopMask := recLe l 60 2, raw := l }

/-- The opcodes of R4. -/
def opRunGraph : Nat := 0x01
def opLoadImage : Nat := 0x02
def opUnloadImage : Nat := 0x03
def opSolve : Nat := 0x10
def opSolveBatch : Nat := 0x11
def opEstimate : Nat := 0x12
def opScenario : Nat := 0x13
def opAttend : Nat := 0x20
def opKvAppend : Nat := 0x21
def opSeqFork : Nat := 0x22
def opSeqFree : Nat := 0x23
def opSeqEvict : Nat := 0x24
def opCopy : Nat := 0x30
def opFill : Nat := 0x31
def opFence : Nat := 0x40
def opAbort : Nat := 0x41
def opRecord : Nat := 0x50
def opReplay : Nat := 0x51

def definedOpcodes : List Nat :=
  [0x01, 0x02, 0x03, 0x10, 0x11, 0x12, 0x13, 0x20, 0x21, 0x22, 0x23, 0x24, 0x30, 0x31, 0x40, 0x41, 0x50, 0x51]

/-- The solve family (R363). -/
def solveFamily (op : Nat) : Bool := decide (0x10 ≤ op ∧ op ≤ 0x13)

/-- Jobs of the Attend system (R313). -/
def attnFamily (op : Nat) : Bool := decide (0x20 ≤ op ∧ op ≤ 0x24)

/-- Jobs that name a loaded image in IMAGE. -/
def needsImage (x : Desc) : Bool :=
  x.opcode = opRunGraph || x.opcode = opUnloadImage || solveFamily x.opcode || (x.opcode = opAbort && x.count % 4 = 2)

/-- Jobs without an image: their IMAGE is 0 (R362, R363). -/
def imageless (x : Desc) : Bool :=
  x.opcode = opCopy || x.opcode = opFill || x.opcode = opFence || x.opcode = opRecord || x.opcode = opReplay ||
    (x.opcode = opAbort && x.count % 4 ≠ 2)

/-- ADDR, AUX and COUNT as R363 lists them per opcode; a field that is not used must be 0. -/
def operandsOk (x : Desc) : Bool :=
  match x.opcode with
  | 0x01 => true
  | 0x02 => x.aux = 0
  | 0x03 => x.addr = 0 && x.aux = 0 && x.count = 0
  | 0x10 => x.aux = 0 && x.count = 1
  | 0x11 | 0x12 | 0x13 => x.aux = 0 && decide (1 ≤ x.count ∧ x.count ≤ 16384)
  | 0x30 => x.count % 64 = 0 && x.addr % 64 = 0 && (bits x.aux 63 62 = 2 || x.aux % 64 = 0)
  | 0x31 => x.count % 64 = 0
  | 0x40 => x.addr = 0 && x.count = 0
  | 0x41 =>
    decide (x.count < 4) &&
      match x.count with
      | 0 => decide (x.aux < 64)
      | 1 => x.addr = 0
      | _ => x.addr = 0 && x.aux = 0
  | _ => x.aux = 0 && x.count = 0

/-- A job of the opcode that names the image has been read and has not ended. -/
def claimedBy (d : Dev) (op n : Nat) : Bool :=
  d.jobs.any fun j => j.desc.opcode = op && j.desc.image = n && j.phase ≠ .ended

/-- The image is loaded, not loading, and no UNLOAD_IMAGE for it has been read (R557). -/
def imageUsable (d : Dev) (n : Nat) : Bool :=
  match d.image n with
  | some im => im.loading.isNone && im.unloading.isNone && !claimedBy d opUnloadImage n
  | none => false

/-- The checks of R364 and of the field ranges of R362 and R363 that need the descriptor alone. -/
def descBad (d : Dev) (q : Nat) (x : Desc) : Bool :=
  let fl := x.flags
  let solve := solveFamily x.opcode
  !definedOpcodes.contains x.opcode || 8 ≤ x.cls || 4 < x.cls || bits fl 15 6 ≠ 0 || recLe x.raw 7 1 ≠ 0 || recLe x.raw 62 2 ≠ 0 ||
    decide (16 < x.image) || decide (63 < x.entry) || decide (63 < x.frameT) || !operandsOk x ||
    (x.opcode ≠ opRunGraph && x.entry ≠ 0) || (imageless x && x.image ≠ 0) ||
    (!solve && (bit fl 3 || bit fl 4 || x.loopMask ≠ 0 || x.frameT ≠ 0)) ||
    (solve && x.deadline ≠ 0) || (bit fl 4 && d.net.badTemplates.contains x.frameT) ||
    (q ≠ 64 && !bit (d.fld sqCfgClassMask q) x.cls) ||
    (if x.opcode = opAbort && x.count % 4 = 2 then (d.image x.image).isNone
     else x.opcode ≠ opLoadImage && (needsImage x || x.image ≠ 0) && !imageUsable d x.image) ||
    (bit fl 2 && ((d.sq q).lastJob.isNone)) ||
    (q ≠ 64 && d.flag sqCfgTriggered q && x.startCount ≠ 0) ||
    (x.opcode = opLoadImage && (x.image = 0 || (d.image x.image).isSome || claimedBy d opLoadImage x.image)) ||
    (bit fl 5 && d.fld plkStatusPosition ≠ 0) ||
    (x.cls ≠ 0 && !solve && x.deadline = 0)

/-- Work that admission as a whole keeps out: RESOURCE_REFUSED with cause 9 (R353, R332, R400, R314). -/
def admissionOff (d : Dev) (x : Desc) : Bool :=
  (x.cls ≠ 0 && (!d.flag forCtrlDlEn || d.flag forStatusShareErr)) ||
    (waitSync d && (x.cls ≠ 0 || x.startCount ≠ 0)) ||
    (attnFamily x.opcode && (!d.flag attnCtrlEnable || d.flag attnStatusPoolCfgErr))

/-! ### Ring jobs (R351, R418, R421, R423) -/

/-- Module 0 takes no ring job: formation failed or is running, a module aligns, or a module leaves. -/
def ringOff (d : Dev) : Bool := d.flag plkStatusRingErr || d.flag plkStatusAligning || d.net.forming || d.net.leaving

/-- The modules of the ring besides this one. -/
def otherModules (d : Dev) : List Nat := (upto (d.fld plkStatusCount)).filter (· ≠ d.fld plkStatusPosition)

/-- What a ring message asks: 0 run the job, 3 go, 4 cancel. -/
def toRing (d : Dev) (what tag : Nat) (bytes : List Byte) : Dev :=
  (otherModules d).foldl (fun d m => sendRing d m 2 what tag bytes) d

/-- A ring job read on module 0 of a ring of several: its start count, and its descriptor to every module (R351). -/
def ringSetup (d : Dev) (j : Nat) : Dev :=
  match d.job j with
  | none => d
  | some x =>
    if !x.ring || d.fld plkStatusCount < 2 then d
    else
      let sc := if x.desc.startCount = 0 then d.now / 1000 + max 1 (d.fld forRingLeadUs) else x.desc.startCount
      let raw := x.desc.raw.take 24 ++ leBytes 8 sc ++ x.desc.raw.drop 32
      let desc : Desc := { x.desc with startCount := sc, raw := raw }
      toRing (d.updJob j fun y => { y with desc := desc, waitGo := true, waitCount := true, ringWait := otherModules d }) 0 x.desc.tag raw

/-! ### A job's end (R383, R327) -/

/-- Job `j` ends with a status; a job that has ended keeps its first status (R383). Its reservations end with it. A ring job
that ends before its go is cancelled on every module (R351). -/
def endJob (d : Dev) (j : Nat) (status : Nat) (cause : Nat := 0) : Dev :=
  let d : Dev := match d.job j with
    | some x =>
      let d := if x.waitGo && decide (x.q < 65) && x.phase ≠ .ended then toRing d 4 x.desc.tag [] else d
      if x.phase = JPhase.running then recordOutputs d x status else d
    | none => d
  releaseJob (d.updJob j fun x => if x.phase = .ended then x else { x with phase := .ended, status := status, cause := cause }) j

/-- A refused job runs nothing (R327). (DEDUCED, notes/assumptions/63.) -/
def refuseJob (d : Dev) (j : Nat) (cause : Nat) : Dev := (endJob d j stRefused cause).forCount 1

/-! ### STOPPED (R395) -/

def updStopped (d : Dev) (q : Nat) : Dev :=
  if 64 ≤ q then d
  else d.setFld sqStatusStopped (b2n (!sqRunning d q && d.jobs.all fun j => j.q ≠ q)) q

def updCqStopped (d : Dev) (c : Nat) : Dev :=
  if c = 64 then d else d.setFld cqStatusStopped (b2n (!d.flag cqCfgEnable c && (d.cq c).reserved = 0)) c

/-! ### Message signalling (R369) -/

/-- MSI-X vector `v` is signalled; a masked vector sets its pending bit. -/
def signalVector (d : Dev) (v : Nat) : Dev :=
  if d.flag msixCtrlMask v then
    { d with regs := bankSet d.regs (rMsixPba + 4 * (v / 32)) (bankWord d.regs (rMsixPba + 4 * (v / 32)) ||| BitVec.ofNat 32 (2 ^ (v % 32))) }
  else if linkUp d then
    d.emit (.msix v (BitVec.ofNat 64 (d.fld msixAddrLoWord v + 2 ^ 32 * d.fld msixAddrHiWord v))
      (BitVec.ofNat 32 (d.fld msixDataWord v)))
  else d

/-- CQ `c` signals its vector and its count starts again. -/
def signalCq (d : Dev) (c : Nat) : Dev :=
  signalVector (d.updCq c fun s => { s with unsignalled := 0 }) (d.fld cqCfgVector c)

/-- A status event of HOSTQ_STATUS signals DEV_VECTOR (R369). -/
def hostEvent (d : Dev) : Dev := if d.flag hostqCtrlDevIrqEn then signalVector d (d.fld hostqCtrlDevVector) else d

/-! ### Fetching -/

/-- Host memory as the host has placed it before the command, and the memory cells that have gone wrong. -/
def placeHost (d : Dev) (hm : Outside) : Dev :=
  { d with hostMem := hm.cells.foldl (fun m c => memWrite m c.1 c.2) d.hostMem,
           flaws := hm.flaws.foldl (fun m e =>
             mapSet .clean m (if e.1 < canopyBase then e.1 / 64 * 64 else e.1 / 512 * 512) (if e.2 then .corrected else .uncorrectable))
             d.flaws }

/-- The descriptor leaves the ring: head, round and slot reservation (R360, R361, R370). -/
def takeDesc (d : Dev) (q : Nat) : Dev :=
  if q = 64 then
    (d.setFld supqHeadIndex (d.fld supqHeadIndex + 1)).updCq 64 fun s => { s with reserved := s.reserved + 1 }
  else
    let d := { d with fetchRing := q, fetchCount := if d.fetchRing = q then (if d.fetchCount < 8 then d.fetchCount + 1 else 1) else 1 }
    match (d.sq q).pass with
    | some p => d.updSq q fun s => { s with pass := some { p with next := p.next + 1 } }
    | none =>
      let d := d.setFld sqStatusHead ((d.fld sqStatusHead q + 1) % sqSize d q) q
      d.updCq (d.fld sqCfgCq q) fun s => { s with reserved := s.reserved + 1 }

/-- A new job of ring `q`: its waits (R350, R365), and the number it is known by. -/
def newJob (d : Dev) (q : Nat) (x : Desc) : Dev × Nat :=
  let id := d.nextJob
  let s := d.sq q
  let inst := s.pass.map (·.instant)
  let late := x.startCount ≠ 0 && decide (x.startCount ≤ d.now / 1000)
  let prev := bit x.flags 2 && s.lastDone.isNone
  let job : Job :=
    { id := id, q := q, desc := x, cq := if q = 64 then 64 else d.fld sqCfgCq q, instant := inst, readAt := d.now,
      waitPrev := if prev then s.lastJob else none,
      waitFence := s.fence,
      waitCount := x.startCount ≠ 0 && !late,
      flags := if bit x.flags 0 then cfStrict else 0 }
  let d := { d with jobs := d.jobs ++ [job], nextJob := id + 1 }
  let d := d.updSq q fun s => { s with lastJob := some id, lastDone := none,
                                       fence := if x.opcode = opFence then some id else s.fence }
  (if 64 ≤ q then d else d.setFld sqStatusStopped 0 q, id)

/-- A job of the descriptor at the front of ring `q`, which has been read (R360 to R365); a corrected read marks it (R432). -/
def openJob (d : Dev) (q : Nat) (x : Desc) : Dev × Nat :=
  let p := newJob (takeDesc (fetchScan d q) q) q x
  (if fetchCorrected d q then p.1.jobFlag (some p.2) cfCorrected else p.1, p.2)

/-- A job covered by an abort (R380). An UNLOAD_IMAGE is no job of its image, but its end (R557). -/
def AbortRun.covers (a : AbortRun) (x : Job) : Bool :=
  a.job ≠ some x.id &&
    match a.scope with
    | 0 => x.q = a.q && x.desc.tag = a.tag
    | 1 => decide (x.q < 64) && bit a.mask x.q
    | 2 => x.desc.image = a.image && x.desc.opcode ≠ opUnloadImage
    | _ => true

/-- A job read while an abort that covers it is in progress is aborted at once (R380). -/
def abortedAtFetch (d : Dev) (j : Nat) : Option Dev :=
  match d.job j with
  | none => none
  | some x => match d.aborts.find? fun a => a.covers x with
    | none => none
    | some a =>
      let d : Dev := { d with aborts := d.aborts.map fun (b : AbortRun) => if b.covers x then { b with left := b.left ++ [j] } else b }
      some (endJob (d.updJob j fun y => { y with silent := a.silent }) j stAborted a.cause)

/-- Work stated in device time (R421). -/
def timedWork (d : Dev) (x : Desc) : Bool :=
  x.cls ≠ 0 || x.startCount ≠ 0 ||
    (solveFamily x.opcode && match readAddr d x.addr (128 * x.count) with
      | .ok l => (upto x.count).any fun i => (parseProb ((l.drop (128 * i)).take 128)).deadline ≠ 0
      | .error _ => false)

/-- The chain that an AFTER_PREV job follows was broken (R365). -/
def chainBroken (d : Dev) (q : Nat) (x : Desc) : Bool :=
  bit x.flags 2 && match (d.sq q).lastDone with
    | some st => st ≠ stDone
    | none => false

/-- A job's work may begin: it waits for no fence, count, go or previous job. -/
def Job.ready (j : Job) : Bool := j.waitPrev.isNone && j.waitFence.isNone && !j.waitCount && !j.waitGo

/-- A job goes on as far as its waits allow: it is admitted when it is read, and it runs once it waits for nothing (R316, R326, R350,
R365). -/
def proceed (adm run : Nat → Dev → Dev) (j : Nat) (d : Dev) : Dev :=
  match d.job j with
  | none => d
  | some x =>
    if x.phase ≠ .waiting then d
    else
      let d := if x.admitted then d else adm j (d.updJob j fun y => { y with admitted := true })
      match d.job j with
      | none => d
      | some y =>
        if y.phase = .waiting && y.ready then run j (recordJob (d.updJob j fun z => { z with phase := .running }) y) else d

/-- A descriptor fetched from ring `q` becomes a job (R360 to R365). `sel` tells whether the descriptor is one of the command's
row. A command whose descriptor is not the next to be fetched changes nothing (DESIGN CHOICE, notes/assumptions/3). The problems of a solve job
that ends as it is read are closed by `adm` (R327, R382). (DEDUCED, notes/assumptions/70.) -/
def fetchJob (q : Nat) (hm : Outside) (sel : Dev → Desc → Bool) (adm run : Nat → Dev → Dev) (d : Dev) : Dev :=
  let d := placeHost d hm
  if nextFetch d ≠ some q then d
  else
    let d0 := d
    let d := fetchScan d q
    match descBytes d q with
    | .error _ => updStopped ((d.setFld sqStatusFetchErr 1 q).updSq q fun s => { s with halted := true }) q
    | .ok raw =>
      let x := parseDesc raw
      if !sel d x || (d.net.stepDue && timedWork d x) then d
      else
        let bad := descBad d q x
        let broken := chainBroken d q x
        let (d, j) := openJob d0 q x
        if bad then endJob d j stInvalid
        else if broken then endJob d j stAborted 0xFE
        else
          let close (d : Dev) : Dev := if solveFamily x.opcode then adm j d else d
          match abortedAtFetch d j with
          | some d => close d
          | none =>
            if admissionOff d x then close (refuseJob d j 9)
            else if bit x.flags 5 && ringOff d then close (refuseJob d j 5)
            else
              let d := ringSetup d j
              let d := if x.startCount ≠ 0 && decide (1000 * x.startCount < d.now) && (d.job j).all (!·.waitGo) then d.forCount 5 else d
              proceed adm run j d

/-- The class and the absolute deadline of a job whose deadline is in its descriptor (R324, R371). -/
def Job.deadline (j : Job) : Option Nat :=
  if j.desc.deadline = 0 then none else some (j.desc.deadline + j.instant.getD 0)

/-- The time from which admission counts (R326, R350). (DEDUCED, notes/assumptions/117.) -/
def Job.admitTime (j : Job) : Nat := max j.readAt (1000 * j.desc.startCount)

end Sys2Proof.Machine
end

