-- ==== Sys2Proof/Machine/Pages.lean ====
section
/-! DEFINITION. Pages, page tables and sequences (R263 to R276, R288 to R299): the walker's changes. -/

namespace Sys2Proof.Machine

/-- A page slot (R268). -/
def pageBytes : Nat := 69632

/-- The code that means no page (R272). -/
def noPage : Nat := 0xFFFFF

def Dev.seq (d : Dev) (s : Nat) : Seq := mapGet {} d.attn.seqs s
def Dev.page (d : Dev) (p : Nat) : PageInfo := mapGet {} d.attn.pages p
def Dev.setPage (d : Dev) (p : Nat) (v : PageInfo) : Dev := { d with attn := { d.attn with pages := mapSet {} d.attn.pages p v } }
def Dev.attnCount (d : Dev) (n : Nat) (k : Nat := 1) : Dev := d.incFld attnCntCount n k

/-- Tokens of a sequence (R275). -/
def Seq.length (s : Seq) : Nat :=
  match s.entries.getLast? with
  | none => 0
  | some e => 256 * (s.entries.length - 1) + e.fill

/-- ATTN_ACTIVE follows the sequence records (R313). -/
def Dev.setSeq (d : Dev) (s : Nat) (v : Seq) : Dev :=
  let d := { d with attn := { d.attn with seqs := mapSet {} d.attn.seqs s v } }
  d.setFld attnActiveSequences (d.attn.seqs.filter fun e => e.2.active).length

/-- Entry `i` of a sequence is lost (R448). -/
def Dev.loseEntry (d : Dev) (s i : Nat) : Dev := d.setSeq s { d.seq s with lost := i :: (d.seq s).lost.erase i }

/-- Page numbers on the free list (R313). -/
def Dev.freePages (d : Dev) : Nat := d.attn.freeList.length + (d.attn.pool - d.attn.nextPpn)

def Dev.updFree (d : Dev) : Dev := d.setFld attnFreePages d.freePages

/-- A change of entry (s, i) invalidates its look-aside buffer entry (R277). -/
def Dev.labDrop (d : Dev) (s : Nat) (i : Nat) : Dev := { d with attn := { d.attn with lab := d.attn.lab.erase (s, i) } }

def Dev.labDropSeq (d : Dev) (s : Nat) : Dev := { d with attn := { d.attn with lab := d.attn.lab.filter fun e => e.1 ≠ s } }

/-- The device address of a page's slot (R268, R314). -/
def pageAddr (d : Dev) (p : Nat) : Nat :=
  let i := d.page p
  (if i.canopy then d.attn.canopyBase else d.attn.ddrBase) + pageBytes * i.slot

/-- The page-information entry of a page is read by the walker for job `j`, which takes a pin (R294, R448). -/
def scanInfo (d : Dev) (j : Option Nat) (p : Nat) : Dev :=
  if p = noPage then d else scanMem d j ekWalker (canopyBase + d.regions.warmBytes + 8 * p) 8

/-- Bytes of device memory written to zero; blocks and rows wholly inside lose their poison (R273, R447). -/
def memZero (d : Dev) (a n : Nat) : Dev :=
  { d with mem := d.mem.filter fun e => decide (e.1 < a) || decide (a + n ≤ e.1)
           poison := d.poison.filter fun p => decide (p < a) || decide (a + n ≤ p)
           flaws := d.flaws.filter fun e => decide (e.1 < a) || decide (a + n ≤ e.1) }

/-- The codes of the blocks and rows that hold the written bytes are right (R436). -/
def rewritten (d : Dev) (as : List Nat) : Dev :=
  if d.flaws = [] then d else { d with flaws := d.flaws.filter fun e => !as.any fun a => touchesBlock a 1 e.1 }

/-- The poison of `n` bytes at `src`, written over `n` clean bytes at `tgt` by the page copy engine: each destination block that takes
a byte of a poisoned one is written poisoned (R445). -/
def carryPoison (d : Dev) (src tgt n : Nat) : Dev :=
  let size (a : Nat) : Nat := if a < canopyBase then 64 else 512
  let hit (o : Nat) : Bool := poisoned d (src + o) (size tgt)
  ((upto (n / size tgt)).map (· * size tgt)).foldl (fun d' o => if hit o then poisonWrite d' (tgt + o) else d') d

/-- `n` bytes, whose codes have been read, copied from slot to slot: what the destination held is written over (R444, R445, R447). -/
def copySlot (d : Dev) (src tgt n : Nat) : Dev :=
  let l := memReadN d.mem src n
  let d := memZero d tgt n
  carryPoison { d with mem := memWriteN d.mem tgt l } src tgt n

/-- The dimensions that half `half` of a sequence of dimension `dd` holds (R271). -/
def halfDims (dd half : Nat) : Nat := if dd ≤ 128 then dd else if half = 0 then 128 else dd - 128

/-- Halves of a page (R271). -/
def halves (dd : Nat) : Nat := if dd ≤ 128 then 1 else 2

/-- The free slots of a store. -/
def freeSlots (used : List Nat) (n : Nat) : List Nat := (upto n).filter fun i => !used.contains i

/-- A page number leaves the free list: REF 1, its slot zeroed, its header written (R269, R273). Forester chooses the store and
the slot (R274). -/
def allocPage (d : Dev) (s idx dd half : Nat) : Dev × Nat :=
  let a := d.attn
  let (p, fl, nx) := match a.freeList with
    | p :: r => (p, r, a.nextPpn)
    | [] => (a.nextPpn, [], a.nextPpn + 1)
  let c := choose d ((freeSlots a.canopyUsed a.canopySlots).map (·, true) ++ (freeSlots a.ddrUsed a.ddrSlots).map (·, false))
  let d := c.2
  let slot := (c.1.getD (0, false)).1
  let canopy := (c.1.getD (0, false)).2
  let a := { a with freeList := fl, nextPpn := nx,
                    canopyUsed := if canopy then a.canopyUsed ++ [slot] else a.canopyUsed,
                    ddrUsed := if canopy then a.ddrUsed else a.ddrUsed ++ [slot] }
  let d := ({ d with attn := a }).setPage p { ref := 1, pin := 0, canopy := canopy, slot := slot, alloc := true }
  let at_ := pageAddr d p
  let d := memZero d at_ pageBytes
  let hdr := [1, halfDims dd half, if dd ≤ 128 then 0 else half + 1, 0, 0, 0, 0, 0, idx % 256, idx / 256, s % 256, s / 256]
  ({ d with mem := memWriteN d.mem (at_ + 132 * 512) (hdr.map (BitVec.ofNat 8)) }.updFree, p)

/-- A page whose REF and PIN are both 0 returns to the free list (R294). -/
def reclaim (d : Dev) (p : Nat) : Dev :=
  let i := d.page p
  if i.alloc && i.ref = 0 && i.pin = 0 then
    let a := d.attn
    let d := { d with attn := { a with freeList := a.freeList ++ [p],
                                       canopyUsed := if i.canopy then a.canopyUsed.erase i.slot else a.canopyUsed,
                                       ddrUsed := if i.canopy then a.ddrUsed else a.ddrUsed.erase i.slot } }
    ((d.setPage p {}).attnCount 4).updFree
  else d

def addRef (d : Dev) (p : Nat) : Dev := if p = noPage then d else d.setPage p { d.page p with ref := (d.page p).ref + 1 }

def dropRef (d : Dev) (p : Nat) : Dev :=
  if p = noPage then d else reclaim (d.setPage p { d.page p with ref := (d.page p).ref - 1 }) p

def pinPage (d : Dev) (p : Nat) : Dev := if p = noPage then d else d.setPage p { d.page p with pin := (d.page p).pin + 1 }

def unpinPage (d : Dev) (p : Nat) : Dev :=
  if p = noPage then d else reclaim (d.setPage p { d.page p with pin := (d.page p).pin - 1 }) p

/-- The pin that a PGREQ holds on its page is released when its transfer ends (R281). -/
def unpinOp (d : Dev) (op : Nat) : Dev :=
  let ps := (d.attn.pgPins.filter fun e => e.1 = op).map (·.2)
  ps.foldl unpinPage { d with attn := { d.attn with pgPins := d.attn.pgPins.filter fun e => e.1 ≠ op } }

/-- FILL of a page's header (R269). -/
def headerFill (d : Dev) (p : Nat) : Nat := memReadLe d.mem (pageAddr d p + 132 * 512 + 4) 2

def setHeaderFill (d : Dev) (p f : Nat) : Dev :=
  if p = noPage then d
  else rewritten { d with mem := memWriteLe d.mem (pageAddr d p + 132 * 512 + 4) 2 f } [pageAddr d p + 132 * 512 + 4]

/-! ### Groups, free, fork, eviction (R264, R289 to R298) -/

/-- The group size (R264). -/
def Dev.groupSize (d : Dev) : Nat := 2 ^ d.fld attnCtrlGroupLog2

/-- A sequence is freed: its references drop and it is inactive in the same change (R293), and what was lost of it is lost no
longer (R448). -/
def seqFree (d : Dev) (s : Nat) : Dev :=
  let q := d.seq s
  if !q.active then d
  else
    let d := q.entries.foldl (fun d e => if e.evicted then d else dropRef (dropRef d e.p0) e.p1) d
    clearTable ((d.setSeq s {}).labDropSeq s) s

/-- The sequences of the group from `s`. -/
def groupOf (d : Dev) (s : Nat) : List Nat := (upto d.groupSize).map (s + ·)

/-- The number of ring modules and this module's position (R418). -/
def Dev.ringCount (d : Dev) : Nat := max 1 (d.fld plkStatusCount)
def Dev.ringPos (d : Dev) : Nat := d.fld plkStatusPosition

/-- The bytes of a ring message for a change that module 0 applies (R310): what, sequence, dimension, then the rows. -/
def changeBytes (what a b c : Nat) (rows : List Row) : List Byte :=
  leBytes 1 what ++ leBytes 2 a ++ leBytes 4 b ++ leBytes 4 c ++ rows.flatMap bytesOfRow

/-- Module 0 sends a change of a split sequence to every other module (R310, R419). -/
def sendChange (d : Dev) (q : Seq) (bytes : List Byte) : Dev :=
  if q.split && d.ringPos = 0 then
    (upto q.ringM).foldl (fun d m => if m = 0 then d else sendRing d m 1 1 0 bytes) d
  else d

/-- A group's sequences are freed (R293, R310). -/
def groupFree (d : Dev) (s : Nat) : Dev :=
  (groupOf d s).foldl (fun d i => sendChange (seqFree d i) (d.seq i) (changeBytes 0x23 i 0 0 [])) d

/-- A fork of `s` to `t` at `l` tokens (R290); none where it is refused. -/
def seqFork (d : Dev) (s t l : Nat) : Option Dev :=
  let q := d.seq s
  if !q.active || (d.seq t).active || decide (q.length < l) then none
  else
    let n := (l + 255) / 256
    let es := (q.entries.take n).map fun e => { e with score := 0 }
    let es := (es.zip (upto n)).map fun x => if x.2 + 1 = n then { x.1 with fill := l - 256 * (n - 1) } else x.1
    let d := es.foldl (fun d e => if e.evicted then d else addRef (addRef d e.p0) e.p1) d
    let n := d.attn.births
    let d : Dev := { d with attn := { d.attn with births := n + 1 } }
    some ((d.setSeq t { active := true, split := q.split, d := q.d, entries := es, ringM := q.ringM, born := n }).labDropSeq t)

/-- The page with the lowest score, then the lowest index, among those that may be evicted (R298). -/
def evictee (q : Seq) (head tail : Nat) : Option Nat :=
  let n := q.entries.length
  let c := (q.entries.zip (upto n)).filter fun x => !x.1.evicted && decide (head ≤ x.2) &&
    decide (x.2 + max tail 1 < n)
  (c.foldl (fun (b : Option (Nat × Nat)) x => match b with
    | none => some (x.1.score, x.2)
    | some y => if x.1.score < y.1 then some (x.1.score, x.2) else some y) none).map (·.2)

/-- Evict pages of a sequence down to the target (R298). -/
def seqEvict (s target head tail : Nat) : Nat → Dev → Dev
  | 0, d => d
  | n + 1, d =>
    let q := d.seq s
    if (q.entries.filter fun e => !e.evicted).length ≤ target then d
    else match evictee q head tail with
      | none => d
      | some i =>
        let e := q.entries.getD i { p0 := noPage }
        let d := (d.setSeq s { q with entries := listSet q.entries i { e with evicted := true, p0 := noPage, p1 := noPage } }).labDrop s i
        seqEvict s target head tail n (dropRef (dropRef d e.p0) e.p1)

/-! ### The walker's look-aside buffer (R277) -/

/-- A lookup of (s, i): whether it hits; the buffer of 256 entries is replaced least recently used. -/
def labLookup (d : Dev) (s i : Nat) : Dev × Bool :=
  let hit := d.attn.lab.contains (s, i)
  let d := { d with attn := { d.attn with lab := ((s, i) :: d.attn.lab.erase (s, i)).take 256 } }
  (d.attnCount (if hit then 0 else 1), hit)

/-- This module holds page index `i` of a sequence (R310). -/
def ownPage (d : Dev) (q : Seq) (i : Nat) : Bool := !q.split || q.ringM ≤ 1 || i % q.ringM = d.ringPos

/-- A module that holds pages of the sequence cannot be reached: fewer modules form the ring than when it was created, or one was
lost since and its pages are gone (R312, R422). -/
def splitLost (d : Dev) (q : Seq) : Bool := q.split && (q.gone || decide (d.ringCount < q.ringM))

/-- `n` modules survive: the split sequences that had pages on a lost one have lost them (R312). -/
def losePages (d : Dev) (n : Nat) : Dev :=
  let mark (q : Seq) : Seq := if q.active && q.split && decide (n < q.ringM) then { q with gone := true } else q
  { d with attn := { d.attn with seqs := d.attn.seqs.map fun e => (e.1, mark e.2) } }

/-! ### The append quantiser (R283 to R286) -/

/-- Rows of one token and kind (R283). -/
def tokenHalves (dd : Nat) : Nat := (dd + 127) / 128

/-- The FP32 values of token `k`, kind 0 K or 1 V, half `c`, in dimensions the page holds. -/
def tokenVals (dd : Nat) (rows : List Row) (k kind c : Nat) : List Nat :=
  (rowElems 32 (rows.getD ((2 * k + kind) * tokenHalves dd + c) 0)).take (halfDims dd c)

/-- Every K and V value of every token is finite (R286). -/
def appendFinite (dd n : Nat) (rows : List Row) : Bool :=
  (upto n).all fun k => (upto 2).all fun kind => (upto (tokenHalves dd)).all fun c =>
    (tokenVals dd rows k kind c).all fun v => v / 2 ^ 23 % 256 ≠ 255

/-- c(m) of R285 for the magnitude of a number times 2^k; none for zero. -/
def scaleOf (v : FpNum) (k : Int := 0) : Option Nat :=
  match v with
  | .fin _ m e => if m = 0 then none else some (max 0 (min 254 (((m.log2 : Int) + e + k) - 8 + 127))).toNat
  | _ => none

/-- The larger of two scale codes, none below every code. -/
def maxCode : Option Nat → Option Nat → Option Nat
  | none, b => b
  | a, none => a
  | some a, some b => some (max a b)

def byteAt (d : Dev) (a : Nat) : Nat := (memRead d.mem a).toNat

/-- Offset in a page of the V element (t, j), and of the V scale of dimension j in block n (R268). -/
def vOff (t j : Nat) : Nat := (64 + j / 2) * 512 + 256 * (j % 2) + t
def vScaleOff (j n : Nat) : Nat := (130 + j / 64) * 512 + 8 * (j % 64) + n
def kOff (t j : Nat) : Nat := (t / 4) * 512 + 128 * (t % 4) + j
def kScaleOff (t b : Nat) : Nat := (128 + t / 128) * 512 + 4 * (t % 128) + b

/-- The scale code that a token opening block `n` fixes for dimension `j` (R285). -/
def openScale (d : Dev) (base p j v : Nat) : Nat :=
  let n := p / 32
  let cprev : Option Nat := if n = 0 then none
    else
      let sc := byteAt d (base + vScaleOff j (n - 1))
      (upto 32).foldl (fun m t =>
        maxCode m (scaleOf (decodeNum f8e4 (byteAt d (base + vOff (32 * (n - 1) + t) j))) ((sc : Int) - 127))) none
  match maxCode (scaleOf (decodeNum fp32 v)) cprev with
  | none => 0x7F
  | some c => min (c + 1) 254

/-- One token written at position `p` of the page at `base`: K blocks under R37 in AUTO mode, V elements against their block's
scale. The saturations and underflows are counted (R284, R285). -/
def writeToken (base p : Nat) (ks vs : List Nat) (d : Dev) : Dev :=
  let blocks := chunks 32 ks
  let kr := blocks.map (convBlock fp32 f8e4 none)
  let m := ((kr.flatMap (·.codes)).zip (upto ks.length)).foldl
    (fun m e => memWrite m (base + kOff p e.2) (BitVec.ofNat 8 e.1)) d.mem
  let m := ((kr.map (·.scale)).zip (upto kr.length)).foldl
    (fun m e => memWrite m (base + kScaleOff p e.2) (BitVec.ofNat 8 e.1)) m
  let vr := (vs.zip (upto vs.length)).map fun e =>
    let sc := if p % 32 = 0 then openScale d base p e.2 e.1 else byteAt d (base + vScaleOff e.2 (p / 32))
    (e.2, sc, blockElem f8e4 sc (decodeNum fp32 e.1))
  let m := vr.foldl (fun m e =>
    let m := if p % 32 = 0 then memWrite m (base + vScaleOff e.1 (p / 32)) (BitVec.ofNat 8 e.2.1) else m
    memWrite m (base + vOff p e.1) (BitVec.ofNat 8 e.2.2.1)) m
  let sat := (kr.map (·.sat)).foldl (· + ·) 0 + (vr.filter fun e => e.2.2.2.2.1).length
  let uf := (kr.map (·.under)).foldl (· + ·) 0 + (vr.filter fun e => e.2.2.2.2.2).length
  let as := (upto ks.length).flatMap (fun j => [base + kOff p j, base + kScaleOff p (j / 32)]) ++
    (upto vs.length).flatMap fun j => [base + vOff p j, base + vScaleOff j (p / 32)]
  ((rewritten { d with mem := m } as).attnCount 6 sat).attnCount 7 uf

end Sys2Proof.Machine
end

