-- ==== Sys2Proof/Machine/PlanOut.lean ====
section
/-! DEFINITION. Plans leaving the Solve system: plan FIFO entries (R378, R379) and launched frames (R409 to R411). -/

namespace Sys2Proof.Machine

/-! ### Ethernet bytes -/

/-- One bit of CRC-32 (IEEE 802.3, reflected). -/
def crc32Bit (c : Nat) : Nat := if c % 2 = 1 then (c / 2) ^^^ 0xEDB88320 else c / 2

def crc32Byte (c : Nat) (b : Byte) : Nat := (upto 8).foldl (fun c _ => crc32Bit c) (c ^^^ b.toNat)

/-- The frame check sequence, in transmission order. -/
def fcs (l : List Byte) : List Byte := leBytes 4 ((l.foldl crc32Byte 0xFFFFFFFF) ^^^ 0xFFFFFFFF)

/-- A frame padded with zeros to 64 bytes with its check sequence (R409). -/
def finishFrame (l : List Byte) : List Byte :=
  let p := l ++ List.replicate (60 - l.length) 0
  p ++ fcs p

/-! ### The plan FIFO -/

def f64to32 (v : Nat) : Nat := (fconv fp64 fp32 v).1

/-- Entry size and depth of a FIFO from its configuration (R395). -/
def entryBytes (n : Nat) : Nat := 64 * min 64 (max 2 n)
def Dev.planEntryBytes (d : Dev) : Nat := entryBytes (d.fld planCfgEntry64)
def Dev.planDepth (d : Dev) : Nat := min 16 (max 2 (d.fld planCfgDepth))
/-- A FIFO works only with ENABLE set and the store's check passed (R372). -/
def Dev.planEnabled (d : Dev) : Bool := d.flag planCfgEnable && !d.flag hostqStatusFifoCfgErr

/-- The inputs u_0 … along the principal path of a plan's values (R257, R378). -/
def planInputs (t : Template) (weights : Vec) (vals : List Nat) : List (List Nat) :=
  let nodes := treeNodes t
  let size (i : Nat) : Nat := let x := nodes.getD i ⟨none, 0, 0, 0, false, 0, 0⟩; (x.s1 - x.s0) * t.nu + x.points * t.nx
  let off (i : Nat) : Nat := (upto i).foldl (fun a k => a + size k) 0
  (principalPath nodes weights nodes.length 0).flatMap fun i =>
    let x := nodes.getD i ⟨none, 0, 0, 0, false, 0, 0⟩
    (upto (x.s1 - x.s0)).map fun k => (vals.drop (off i + k * t.nu)).take t.nu

/-- The header of an entry (R378). -/
def planHeader (p : PlanEntry) : List Byte :=
  leBytes 8 p.tag ++ leBytes 1 p.status ++ leBytes 1 p.source ++ leBytes 1 p.nu ++ leBytes 1 0 ++ leBytes 2 p.steps ++
    leBytes 2 p.mask ++ leBytes 8 p.tMeas ++ leBytes 4 p.seq ++ leBytes 36 0

/-- The plan FIFO takes an entry; a full FIFO loses its oldest entry not begun (R379). -/
def pushPlan (d : Dev) (p : PlanEntry) : Dev :=
  let q := d.fifos.plan
  let full := decide (d.planDepth ≤ q.length)
  let d := if full && q.any fun e => !e.begun then d.incFld planCntPlanReplaced else d
  let q := if full then (match q.find? fun e => !e.begun with
      | some e => q.erase e
      | none => q) else q
  ({ d with fifos := { d.fifos with plan := q ++ [{ p with seq := d.fifos.planSeq % 2 ^ 32 }],
                                    planSeq := d.fifos.planSeq + 1 } }).incFld planCntWritten

/-- Whole steps that fit a number of bytes after the 64-byte header (R378, R409). -/
def stepsFitting (n nu room : Nat) : Nat := min n ((room - 64) / (4 * nu))

/-! ### Frames from templates -/

def Dev.tmpl (d : Dev) (k : Nat) : List Byte :=
  (upto 16).flatMap fun i => leBytes 4 (bankWord d.regs (rNetTemplate + 64 * k + 4 * i)).toNat

/-- A template that SETUP_LOCK refuses (R409). -/
def templateBad (l : List Byte) : Bool :=
  let h := recLe l 14 1
  let ports := (upto 4).filter fun i => bit (recLe l 0 1) i
  decide (h < 14 ∨ 44 < h ∨ 2 < ports.length)

def Dev.port (d : Dev) (n : Nat) : NetPort := mapGet {} d.net.ports n
def Dev.updPort (d : Dev) (n : Nat) (f : NetPort → NetPort) : Dev :=
  { d with net := { d.net with ports := mapSet {} d.net.ports n (f (d.port n)) } }

/-- The launch time a template gives a frame built now (R409): none for MODE 0. -/
def launchTime (d : Dev) (l : List Byte) (tMeas : Nat) : Option Nat :=
  match recLe l 2 1 with
  | 1 => some (tMeas + recLe l 4 4)
  | 2 =>
    let p := 1000 * max 1 (recLe l 12 2)
    let x := d.now + recLe l 4 4
    some ((x + p - 1) / p * p)
  | _ => none

/-- Bytes that wait in the packet buffer. (DEDUCED, notes/assumptions/80.) -/
def bufferUsed (d : Dev) : Nat :=
  d.net.ports.foldl (fun a e => a + ((e.2.queue ++ e.2.launches ++ e.2.sending.toList).map (·.bytes.length)).foldl (· + ·) 0) 0

/-- A frame of class `tc` finds buffer space: 1 MiB, of which 64 KiB serve classes 6 and 7 alone (R403). -/
def bufferRoom (d : Dev) (tc n : Nat) : Bool := decide (bufferUsed d + n ≤ (if 6 ≤ tc then 1048576 else 1048576 - 65536))

/-- A frame that entered by port `ingress` finds no buffer space: discarded, and counted there (R403). -/
def bufferDrop (d : Dev) (ingress : Nat) : Dev := (d.incFld netPortDropFrame ingress).setFld netStatusBufDrop 1

/-- A frame built from a template joins a port: its queue, or the 64 frames that await their launch time (R411). It entered the bridge
by port 4. -/
def enqueueFrame (d : Dev) (n : Nat) (f : EFrame) : Dev :=
  if f.launch.isSome && decide (64 ≤ (d.port n).launches.length) then d.setFld netStatusLaunchFull 1
  else if !bufferRoom d f.tc f.bytes.length then bufferDrop d 4
  else match f.launch with
    | none => d.updPort n fun p => { p with queue := p.queue ++ [f] }
    | some _ => d.updPort n fun p => { p with launches := p.launches ++ [f] }

/-- A plan frame built from template `k` and queued on its ports (R409); none is built in the safe state (R393). -/
def launchPlan (d : Dev) (k : Nat) (p : PlanEntry) (us : List (List Nat)) (n : Nat) : Dev :=
  if safeState d || !d.flag netCtrlEnable then d
  else
    let l := d.tmpl k
    let hl := recLe l 14 1
    let cb := bit (recLe l 15 1) 0
    let seq := mapGet 0 d.net.tagSeq k
    let steps := stepsFitting n p.nu (2048 - 4 - hl - (if cb then 6 else 0))
    let tag := if cb then beBytes 2 0xF1C1 ++ beBytes 2 0 ++ beBytes 2 seq else []
    let body := planHeader { p with steps := steps } ++ bytes32 ((us.take steps).flatMap fun u => u.map f64to32)
    let f : EFrame :=
      { bytes := finishFrame ((l.drop 20).take hl ++ tag ++ body)
        tc := recLe l 1 1 % 8
        stamp := if bit (recLe l 1 1) 3 then some (recLe l 16 2) else none
        launch := (launchTime d l p.tMeas).map fun t => (t, recLe l 8 4, bit (recLe l 3 1) 0) }
    let d := if cb then { d with net := { d.net with tagSeq := mapSet 0 d.net.tagSeq k ((seq + 1) % 65536) } } else d
    (upto 4).foldl (fun d i => if bit (recLe l 0 1) i then enqueueFrame d i f else d) d

/-- A problem's plan goes where its descriptor directs (R227, R378, R409). -/
def routePlan (d : Dev) (x : Desc) (t : Template) (weights : Vec) (vals : List Nat) (status source tMeas : Nat) : Dev :=
  let us := planInputs t weights vals
  let e : PlanEntry := { tag := x.tag, status := status, source := source, nu := t.nu,
                         steps := stepsFitting t.n t.nu d.planEntryBytes, mask := x.loopMask, tMeas := tMeas,
                         seq := d.fifos.planSeq % 2 ^ 32, u := [] }
  let d' := if bit x.flags 3 && d.planEnabled then
      pushPlan d { e with u := (us.take e.steps).flatMap fun u => u.map f64to32 }
    else d
  if bit x.flags 4 then launchPlan d' x.frameT e us t.n else d'

end Sys2Proof.Machine
end

