-- ==== Sys2Proof/Machine/SolveFilter.lean ====
section
/-! DEFINITION. The square-root filter and gating of estimation (R235, R237, R239 to R243). -/

namespace Sys2Proof.Machine

/-- The gate group of a row, if any. -/
def groupOfRow (t : Template) (j : Nat) : Option Nat :=
  (upto t.ng).find? fun g => decide (t.groupFirst g ≤ j) && decide (j < t.groupFirst g + t.groupCount g)

/-- Element [i][j] replaced. -/
def mSet (m : Mat) (i j v : Nat) : Mat := listSet m i (listSet (m.getD i []) j v)

/-- Row i of the triangularisation of R240 over `n` rows and `m` columns. -/
def triRow (n m : Nat) (a : Mat) (i : Nat) : Calc Mat := do
  let cols := (upto m).filter (i ≤ ·)
  let sq ← cChain 0 (cols.map fun c => (mAt a i c, mAt a i c))
  let nrm ← cSqrt sq
  if (decodeNum fp64 nrm).isZero then pure a
  else do
    let aii := mAt a i i
    let sg ← cMul (if f64Le 0 aii then f64One else f64Neg f64One) nrm
    let vi ← cAdd aii sg
    let v : Vec := (upto m).map fun c => if c = i then vi else mAt a i c
    let b1 ← cAdd nrm (f64Abs aii)
    let b2 ← cMul nrm b1
    let beta ← cDiv f64One b2
    let a ← cUpto n fun r =>
      if r < i then pure (a.getD r [])
      else do
        let sum ← cChain 0 (cols.map fun c => (mAt a r c, vAt v c))
        let t ← cMul beta sum
        cUpto m fun c => if c < i then pure (mAt a r c) else cFma (f64Neg t) (vAt v c) (mAt a r c)
    pure (if f64Lt (mAt a i i) 0 then
        (upto n).map fun r => if r < i then a.getD r [] else (upto m).map fun c => if c = i then f64Neg (mAt a r c) else mAt a r c
      else a)

/-- tri(M): the lower triangle of columns 0 to n - 1 (R240). -/
def tri (n m : Nat) (a : Mat) : Calc Mat := do
  let b ← (upto n).foldlM (triRow n m) a
  pure ((upto n).map fun i => (upto n).map fun c => if c ≤ i then mAt b i c else 0)

/-- A prediction of one sample with the stage data of a point's successor equation (R240): A, B, c of the equation, `q` the noise
weights. -/
def predict (nx nu : Nat) (a b : Mat) (c q : Vec) (f : Gauss) : Calc Gauss := do
  let x ← cUpto nx fun i => do
    let v ← cChain 0 (rowTerms a i f.x nx)
    cAdd v (vAt c i)
  let qh ← cUpto nu fun i => do
    let r ← cSqrt (vAt q i)
    cDiv f64One r
  let m ← cUpto nx fun i => do
    let l ← cUpto nx fun j => cChain 0 ((upto nx).map fun k => (mAt a i k, mAt f.s k j))
    let r ← cUpto nu fun j => cChain 0 ((upto nu).map fun k => (mAt b i k, if k = j then vAt qh k else 0))
    pure (l ++ r)
  let s ← tri nx (nx + nu) m
  pure { x := x, s := s }

/-- An update with one measurement row in Potter's form (R240): the filter and nis. Every product and every sum that is no chain is
rounded by itself. -/
def potter (nx : Nat) (g : Vec) (y w : Nat) (s : Gauss × Nat) : Calc (Gauss × Nat) := do
  let w2 ← cMul w w
  let r ← cDiv f64One w2
  let f ← cUpto nx fun j => cChain 0 (colTerms s.1.s j g nx)
  let ff ← cChain 0 ((upto nx).map fun j => (vAt f j, vAt f j))
  let a ← cAdd ff r
  let gx ← cChain 0 ((upto nx).map fun j => (vAt g j, vAt s.1.x j))
  let e ← cSub y gx
  let ee ← cMul e e
  let ea ← cDiv ee a
  let nis ← cAdd s.2 ea
  let k ← cUpto nx fun i => do
    let v ← cChain 0 (rowTerms s.1.s i f nx)
    cDiv v a
  let x ← cUpto nx fun i => do
    let v ← cMul (vAt k i) e
    cAdd (vAt s.1.x i) v
  let ra ← cDiv r a
  let sq ← cSqrt ra
  let g1 ← cAdd f64One sq
  let gam ← cDiv f64One g1
  let sm ← cUpto nx fun i => cUpto nx fun j => do
    let gk ← cMul gam (vAt k i)
    let v ← cMul gk (vAt f j)
    cSub (mAt s.1.s i j) v
  pure ({ x := x, s := sm }, nis)

/-- Row j of a sample holds a finite measurement (R237). -/
def Sample.has (s : Sample) (j : Nat) : Bool := !s.absent && bit s.present j && f64Finite (vAt s.y j)

/-- Rows of a sample applied in ascending order. -/
def applyRows (t : Template) (p : Pt) (s : Sample) (rows : List Nat) (f : Gauss × Nat) : Calc (Gauss × Nat) :=
  rows.foldlM (fun f j => if s.has j then potter t.nx (p.g.getD j []) (vAt s.y j) (vAt p.w j) f else pure f) f

/-- A group of a sample tested on a copy (R241): the filter, its gate bits, groups gated, the largest nis. -/
def gateGroup (t : Template) (p : Pt) (s : Sample) (a : Gauss × Nat × Nat × Nat) (g : Nat) : Calc (Gauss × Nat × Nat × Nat) := do
  let rows := (upto (t.groupCount g)).map (t.groupFirst g + ·)
  if !rows.any s.has then pure a
  else do
    let r ← applyRows t p s rows (a.1, 0)
    let mx ← cMax a.2.2.2 r.2
    let ok ← rounded (let c := fcmp fp64 numLe r.2 (t.gate g); (b2n c.1, c.2))
    pure (if ok = 1 then (r.1, a.2.1, a.2.2.1, mx) else (a.1, a.2.1 + 2 ^ g, a.2.2.1 + 1, mx))

/-- Rows outside every group. -/
def freeRows (t : Template) : List Nat := (upto t.ny).filter fun j => (groupOfRow t j).isNone

/-- The rows of a sample gated and applied (R241), then S triangularised again (R240). -/
def updateGated (t : Template) (p : Pt) (s : Sample) (f : Gauss) (gated mx : Nat) : Calc (Gauss × Nat × Nat × Nat) := do
  let f ← applyRows t p s (freeRows t) (f, 0)
  let r ← (upto t.ng).foldlM (gateGroup t p s) (f.1, 0, gated, mx)
  let sm ← tri t.nx t.nx r.1.s
  pure ({ r.1 with s := sm }, r.2)

/-- The rows of a leaving sample applied under the gate bits already stored for it (R243). -/
def updateStored (t : Template) (p : Pt) (s : Sample) (gates : Nat) (f : Gauss) : Calc Gauss := do
  let rows := (upto t.ny).filter fun j => match groupOfRow t j with
    | none => true
    | some g => !bit gates g
  let free := rows.filter fun j => (groupOfRow t j).isNone
  let grp := (upto t.ng).flatMap fun g => rows.filter fun j => groupOfRow t j = some g
  let r ← applyRows t p s (free ++ grp) (f, 0)
  let sm ← tri t.nx t.nx r.1.s
  pure { r.1 with s := sm }

/-- The noise weights q of a point (R233). -/
def noiseOf (t : Template) (p : Pt) : Vec := (upto t.nu).map fun i => mAt p.h (t.nx + i) (t.nx + i)

/-- One sample later: predicted with the equation that leaves point `k` (R240). -/
def predictFrom (t : Template) (pts : List Pt) (k : Nat) (f : Gauss) : Calc Gauss :=
  match pts[k]?, pts[k + 1]? with
  | some p, some n => predict t.nx t.nu n.a n.b n.c (noiseOf t p) f
  | _, _ => pure f

/-- Every diagonal of S finite and positive, every element finite (R240, R242, R247). -/
def gaussOk (f : Gauss) : Bool :=
  f.x.all f64Finite && (f.s.all fun r => r.all f64Finite) && (upto f.s.length).all fun i => f64Lt 0 (mAt f.s i i)

/-- A filter's mean or covariance holds a NaN. -/
def Gauss.isNan (f : Gauss) : Bool := f.x.any f64IsNan || f.s.any fun r => r.any f64IsNan

/-- The prior carried over the samples that leave the window, each with its gate bits (R243), with the stage data of the window's
first position. -/
def carryPrior (t : Template) (pts : List Pt) (leaving : List (Nat × Sample)) (f : Gauss) : Calc Gauss :=
  leaving.foldlM (fun f e => match pts.head? with
    | none => pure f
    | some p => do
      let u ← updateStored t p e.2 e.1 f
      predictFrom t pts 0 u) f

end Sys2Proof.Machine
end

