-- ==== Sys2Proof/Machine/SolveEnd.lean ====
section
/-! DEFINITION. How a problem ends (R215, R221, R226, R227, R243 to R246, R260, R262). -/

namespace Sys2Proof.Machine

def Dev.prob (d : Dev) (j i : Nat) : Option Problem := d.solv.problems.find? fun p => p.job = j && p.idx = i

def Dev.updProb (d : Dev) (j i : Nat) (f : Problem → Problem) : Dev :=
  { d with solv := { d.solv with problems := d.solv.problems.map fun p => if p.job = j && p.idx = i then f p else p } }

def Dev.solvCount (d : Dev) (n : Nat) (k : Nat := 1) : Dev := d.incFld solvCntCount n k

/-- SOLV_ACTIVE counts problems started and not ended; one that waits for its re-execution has started (R231). -/
def Dev.updActive (d : Dev) : Dev :=
  d.setFld solvActiveProblems
    (d.solv.problems.filter fun p => p.phase = .assembling || p.phase = .iterating || p.phase = .suspect ||
      (p.phase = .queued && p.reexec)).length

/-- The tiles at work on a problem: those that solve it, and the one that assembles it. -/
def Problem.atWork (p : Problem) : List Nat := p.tiles ++ p.asm.toList

/-- The tiles a problem has worked on are free: READY again unless stopped for a fault (R151). -/
def freeTiles (d : Dev) (ts : List Nat) : Dev :=
  ts.foldl (fun d t =>
    let s := d.fld tileStateState t
    let d := if s = tsRunning ∨ s = tsStopped then d.setFld tileStateState tsReady t else d
    d.updTile t fun x => { x with job := none, vendor := false, stall := none }) d

/-! ### Warm-start slots -/

def Dev.warmEntry (d : Dev) (image slot : Nat) : Option WarmEntry :=
  d.solv.warm.find? fun w => w.image = image && w.slot = slot

/-- An entry is stored where the region has space; else nothing is stored and SOLV_CNT_WARMFULL counts (R215). -/
def storeWarm (d : Dev) (w : WarmEntry) : Dev :=
  let others := d.solv.warm.filter fun x => !(x.image = w.image && x.slot = w.slot)
  let used := (others.map warmSize).foldl (· + ·) 0
  -- entries stand in the order of their images and slots
  let first (x : WarmEntry) : Bool := decide (4096 * x.image + x.slot < 4096 * w.image + w.slot)
  if used + warmSize w ≤ d.regions.warmBytes then
    { d with solv := { d.solv with warm := others.takeWhile first ++ w :: others.dropWhile first } }
  else d.solvCount 8

/-- The last stored age rises for a problem that ends without storing (R215). So it does for one that ends DONE and does not ask to
store, which the rule's two cases leave out (DESIGN CHOICE, notes/assumptions/131). -/
def ageWarm (d : Dev) (image slot : Nat) : Dev :=
  { d with solv := { d.solv with warm := d.solv.warm.map fun w =>
      if w.image = image && w.slot = slot then { w with age := w.age + 1 } else w } }

/-- The warm-start store is enabled (R231). -/
def Dev.warmOn (d : Dev) : Bool := d.flag solvCtrlWarmEn

/-- The iterate as a slot keeps it: x, u, π, λ and the deep method's slacks (R215). -/
def storedIter (b : Best) : Iterate := { b.iter with w := [] }

/-- A problem that ends without storing leaves its slot's entry, one older; an estimator's as it was (R215, R244). -/
def slotUnused (d : Dev) (p : Problem) : Dev :=
  if p.rcd.warmSlot = 0xFFFF || !d.warmOn || p.t.kind = 1 then d else ageWarm d p.image p.rcd.warmSlot

/-- What a problem does to its slot when it ends (R215, R243, R244). -/
def slotAtEnd (d : Dev) (p : Problem) (delivered : Option Best) (status : Nat) : Dev :=
  let good := status = stDone || status = stDeadlineBest
  if p.rcd.warmSlot = 0xFFFF || !d.warmOn then d
  else match p.est with
    | some e =>
      if !good then d
      else
        let old := (d.warmEntry p.image p.rcd.warmSlot).bind fun w => if w.signature = p.t.signature then w.iter else none
        let ns := p.rcd.t 108 4
        let xF := match delivered with
          | some b => if p.t.arrival = 1 then { e.filter with x := xOf b.iter p.t.n } else e.filter
          | none => e.filter
        let it := if p.rcd.warmStore && p.t.estMode ≠ 1 then delivered.map storedIter else old
        storeWarm d { image := p.image, slot := p.rcd.warmSlot, signature := p.t.signature, method := p.t.method, nodeN := p.t.n,
                      iter := it, plan := [], age := 1,
                      est := some { ns := ns, filter := xF, prior := e.prior, gates := e.gates } }
    | none =>
      match delivered with
      | some b =>
        if p.rcd.warmStore && good then
          storeWarm d { image := p.image, slot := p.rcd.warmSlot, signature := p.t.signature, method := p.t.method,
                        nodeN := p.t.n, iter := some (storedIter b), plan := planValues p.t p.pts p.rcd.duals b.iter, age := 1 }
        else slotUnused d p
      | none => slotUnused d p

/-! ### The result area (R226, R246, R260) -/

/-- A value that the manual does not state, of 16 bits (DESIGN CHOICE, notes/assumptions/2). -/
def Dev.free16 (d : Dev) : Nat := (Config.freeU64 d.freeCtr).toNat % 65536

/-- Header bytes 64 to 127 (R246). -/
def headerTail (p : Problem) : List Byte :=
  match p.est with
  | none => leBytes 64 0
  | some e =>
    leBytes 2 e.d ++ leBytes 2 e.gated ++ leBytes 2 e.absent ++ leBytes 2 e.nonfinite ++
      leBytes 1 (mapGet 0 e.gates (p.rcd.t 108 4 % 256)) ++ leBytes 7 0 ++ leBytes 8 e.nisMax ++ leBytes 40 0

/-- The result header (R226). -/
def resultHeader (d : Dev) (p : Problem) (status source cause planCopy it : Nat) (c : Cert) : List Byte :=
  let tgt := source ≠ 2 && passTarget p.rcd c && planCopy ≠ 0xFF || (p.est.isSome && p.t.estMode = 1 && status = stDone)
  let acc := source ≠ 2 && passAccept p.rcd c && planCopy ≠ 0xFF || (p.est.isSome && p.t.estMode = 1 && status = stDone)
  leBytes 1 status ++ leBytes 1 source ++ leBytes 1 cause ++
    leBytes 1 (b2n p.warmRejected + 2 * b2n (p.pivots ≠ 0) + 4 * b2n p.reexec + 8 * b2n tgt + 16 * b2n acc) ++
    leBytes 1 planCopy ++ leBytes 1 p.warmState ++ leBytes 2 it ++ leBytes 2 p.lastCert ++ leBytes 2 0 ++
    leBytes 4 p.pivots ++ leBytes 8 c.rp ++ leBytes 8 c.rd ++ leBytes 8 c.gap ++ leBytes 8 c.obj ++
    leBytes 8 p.t.signature ++ leBytes 8 d.now ++ headerTail p

/-- x_F and the lower triangle of S_F row by row (R246). -/
def filterOutput (f : Gauss) : List Nat := f.x ++ (f.s.zip (upto f.s.length)).flatMap fun e => e.1.take (e.2 + 1)

/-- Token records of the root's stages from a plan's values (R260). The state after the root's last stage is that of the principal
path (R257, DEDUCED, notes/assumptions/115). -/
def tokenRecords (t : Template) (weights : Vec) (count source : Nat) (vals : List Nat) : List Byte :=
  let nodes := treeNodes t
  let root := nodes.headD ⟨none, 0, 0, 0, false, 0, 0⟩
  let n := root.s1 - root.s0
  let xs := vals.drop (n * t.nu)
  let child := (principalChild nodes weights 0).getD 0
  let size (i : Nat) : Nat := let x := nodes.getD i root; (x.s1 - x.s0) * t.nu + x.points * t.nx
  let off (i : Nat) : Nat := (upto i).foldl (fun a k => a + size k) 0
  let cx := vals.drop (off child + ((nodes.getD child root).s1 - (nodes.getD child root).s0) * t.nu)
  (upto (if count = 0 then n else min count n)).flatMap fun k =>
    let u := (vals.drop (k * t.nu)).take t.nu
    let x := if k + 1 < n then (xs.drop ((k + 1) * t.nx)).take t.nx else cx.take t.nx
    let b := leBytes 2 k ++ leBytes 2 0 ++ leBytes 1 source ++ leBytes 3 0 ++ bytes32 (u.map f64to32) ++ bytes32 (x.map f64to32)
    b ++ List.replicate ((64 - b.length % 64) % 64) 0

/-- An iterate written to its plan copy (R226). -/
def writePlanCopy (d : Dev) (p : Problem) (it : Iterate) (copy : Nat) : Dev × Nat :=
  writeAddr d (p.rcd.resultAddr + 128 + copy * planSize p.t p.rcd.duals) (bytes64 (planValues p.t p.pts p.rcd.duals it))

/-- A map that R261 refuses: an entry above 4,095, one that is not a multiple of the group size, a group named twice. -/
def seqMapBad (d : Dev) (l : List Nat) : Bool :=
  let u := l.filter (· ≠ 0xFFFF)
  u.any (fun s => decide (4095 < s) || s % d.groupSize ≠ 0) || decide (u.eraseDups.length ≠ u.length)

/-- The raw sequence map, or the status of a failed read; empty where there is none. -/
def readSeqMap (d : Dev) (p : Problem) : Except Nat (List Nat) :=
  let a := p.rcd.t 120 8
  let n := (treeNodes p.t).length
  if p.t.kind ≠ 2 || a = 0 then .ok []
  else match readAddr d a (2 * n) with
    | .error e => .error e
    | .ok l => .ok ((upto n).map fun i => recLe l (2 * i) 2)

/-- The map of a problem as it was checked at its start (R261). One that ends before it starts has its map read and checked then; a map
that is refused names nothing (DEDUCED, notes/assumptions/133). -/
def seqMap (d : Dev) (p : Problem) : List Nat := match p.map with
  | some l => l
  | none => match readSeqMap d p with
    | .ok l => if seqMapBad d l then [] else l
    | .error _ => []

/-- The groups of every non-root node in the map are freed in ascending node number, each as a SEQ_FREE job would, if the problem
asks for it (R262). -/
def freeBranches (d : Dev) (p : Problem) : Dev :=
  if p.t.kind = 2 && bit (p.rcd.t 106 1) 1 then
    (((seqMap d p).drop 1).filter (· ≠ 0xFFFF)).foldl groupFree d
  else d

/-- The completion flags that a problem sets in its job (R227). -/
def jobFlagsOf (p : Problem) (d : Dev) : Dev :=
  let d := if p.warmRejected then d.jobFlag (some p.job) cfWarmRejected else d
  let d := if p.pivots ≠ 0 then d.jobFlag (some p.job) cfPivot else d
  if p.reexec then d.jobFlag (some p.job) cfReexecuted else d

/-- When the last problem of a job has ended, the job ends: DONE, or the status of the lowest-indexed problem that did not end
DONE (R227, R228). -/
def endSolveJob (d : Dev) (j : Nat) : Dev :=
  let ps := d.solv.problems.filter fun p => p.job = j
  if ps = [] || ps.any fun p => p.phase ≠ .ended then d
  else
    let d := { d with solv := { d.solv with problems := d.solv.problems.filter fun p => p.job ≠ j } }
    let d := if ps.all (·.certified) then d.jobFlag (some j) cfCertPass else d
    match ps.find? fun p => p.status ≠ stDone with
    | none => endJob d j stDone
    | some p =>
      let c := if p.status = stRefused then p.cause
        else if p.status = stAborted then ((d.job j).map (·.cause)).getD 0 else 0
      let open_ := (d.job j).any fun x => x.phase ≠ .ended
      let d := endJob (d.updJob j fun x => { x with detailIdx := p.idx }) j p.status c
      if open_ && p.status = stRefused then d.forCount 1 else d

/-- What a problem delivers. -/
inductive Delivery where
  | iterate (b : Best) (source : Nat)
  | fallback
  | none
deriving DecidableEq, Repr

/-- A problem waits at no stream FIFO any more (R375). -/
def leaveFifos (d : Dev) (j i : Nat) : Dev :=
  { d with fifos := { d.fifos with stream := d.fifos.stream.map fun e =>
      (e.1, { e.2 with waiters := e.2.waiters.filter fun w => w ≠ (j, i) }) } }

/-- A problem ends (R221): slot, tokens, header, plan FIFO and frame, branches, counters, tiles; then its job if it was the
last. A deadline's end is recorded (R225, R346). (DEDUCED, notes/assumptions/52.) -/
def endProblem (d : Dev) (j i : Nat) (status cause : Nat) (dl : Delivery) : Dev :=
  match d.prob j i with
  | none => d
  | some p =>
    if p.phase = .ended then d
    else
      let x := (d.job j).map (·.desc)
      let best := match dl with
        | .iterate b _ => some b
        | _ => none
      let source := match dl with
        | .iterate _ s => s
        | _ => 2
      let est1 := p.t.kind = 1 && p.t.estMode = 1
      let copy := match dl with
        | .iterate b _ => if est1 then 0xFF else b.copy
        | .fallback => if est1 then 0xFF else 2
        | .none => 0xFF
      let d := if dl = .fallback && !est1 then scanAll d j [(p.rcd.fallbackAddr, 8 * planLen p.t p.rcd.duals)] else d
      let vals : Option (List Nat) := match dl with
        | .iterate b _ => some (planValues p.t p.pts p.rcd.duals b.iter)
        | .fallback => if est1 then none else (match readAddr d p.rcd.fallbackAddr (8 * planLen p.t p.rcd.duals) with
          | .ok l => some (words64 l (planLen p.t p.rcd.duals))
          | .error _ => none)
        | .none => none
      let base := p.rcd.resultAddr + 128 + 2 * planSize p.t p.rcd.duals
      -- the estimator's slot is written before the header (R244)
      let d := slotAtEnd d p best status
      let d := match p.est with
        | some e => if e.ran then (writeAddr d base (bytes64 (filterOutput e.filter))).1 else d
        | none => d
      let d := match vals with
        | some v => if p.t.kind = 2 && bit (p.rcd.t 106 1) 0 then
            (writeAddr d base (tokenRecords p.t p.weights (p.rcd.t 108 2) source v)).1 else d
        | none => d
      let cert := (best.map (·.cert)).getD {}
      let hdr := resultHeader d p status source cause copy ((best.map (·.it)).getD 0) cert
      let (d, w) := writeAddr d p.rcd.resultAddr hdr
      let status' := if w = stLinkLost then stLinkLost else status
      let d := match x, vals with
        | some x, some v => if est1 then d else routePlan d x p.t p.weights v status source p.tMeas
        | _, _ => d
      let d := if copy ≠ 0xFF then freeBranches d p else d
      let d := if cause = 2 then recordOf d j reStop cause 0 (leBytes 4 i ++ leBytes 2 p.lastCert ++ leBytes 2 0) else d
      let d := if status = stDone then d.solvCount 0 else d
      let d := if status = stDeadlineBest then d.solvCount 1 else d
      let d := if copy = 2 then d.solvCount 2 else d
      let d := if status = stNumeric then d.solvCount 7 else d
      let d := freeTiles d p.atWork
      let d := releaseItem d j i
      let d := d.updProb j i fun q => { q with phase := .ended, status := status', cause := cause, source := source, tiles := [], asm := none,
                                               certified := best.isSome || (est1 && status = stDone) }
      endSolveJob (jobFlagsOf p (leaveFifos d j i)).updActive j

/-- A problem ends with its best iterate if it has one, else with its fallback (R221). -/
def endBestOrFallback (d : Dev) (j i cause : Nat) : Dev :=
  match d.prob j i with
  | none => d
  | some p => match p.best with
    | some b => endProblem d j i stDeadlineBest cause (.iterate b 1)
    | none => endProblem d j i stFallback cause .fallback

/-- END_CAUSE of a fault (R221): traps 5, guard timeout 6, uncorrectable memory and every other fault of the job's parts 7.
(DEDUCED, notes/assumptions/53.) -/
def faultCause (status : Nat) : Nat :=
  if status = stNumeric ∨ status = stNanTrapped then 5 else if status = stGuard then 6 else 7

/-- A fault ends a problem with its fallback (R221, R339). -/
def faultProblem (d : Dev) (j i status : Nat) : Dev := endProblem d j i status (faultCause status) .fallback

/-- A problem of a job that is refused before it starts (R327): header, routed fallback, its branches and its slot (R215, R262). -/
def refuseProblem (d : Dev) (j i cause : Nat) : Dev :=
  match d.prob j i with
  | none => d
  | some p =>
    let hdr := resultHeader d p stRefused 2 0xFF 2 0 {}
    let d := (writeAddr d p.rcd.resultAddr hdr).1
    let d := scanAll d j [(p.rcd.fallbackAddr, if p.t.kind = 1 && p.t.estMode = 1 then 0 else 8 * planLen p.t p.rcd.duals)]
    let d := match readAddr d p.rcd.fallbackAddr (8 * planLen p.t p.rcd.duals), d.job j with
      | .ok l, some x => if p.t.kind = 1 && p.t.estMode = 1 then d
          else routePlan d x.desc p.t p.weights (words64 l (planLen p.t p.rcd.duals)) stRefused 2 d.now
      | _, _ => d
    let d := leaveFifos ((slotUnused (freeBranches d p) p).solvCount 2) j i
    d.updProb j i fun q => { q with phase := .ended, status := stRefused, cause := cause, source := 2 }

/-- A problem whose record is refused (R203): nothing is delivered or written, and it waits at no stream FIFO (R375). -/
def invalidProblem (d : Dev) (j i : Nat) : Dev :=
  leaveFifos ((match d.prob j i with
    | some p => slotUnused d p
    | none => d).updProb j i fun q => { q with phase := .ended, status := stInvalid, cause := 0 }) j i

end Sys2Proof.Machine
end

