-- ==== Sys2Proof/Machine/JobEnd.lean ====
section
/-! DEFINITION. How a job stops and ends: the parts every command that ends or stops a job shares. -/

namespace Sys2Proof.Machine

/-- Tile `t` stops issuing until Forester releases it (R151). -/
def stopTile (d : Dev) (t : Nat) : Dev :=
  if d.fld tileStateState t = tsRunning then d.setFld tileStateState tsStopped t else d

/-- Every tile at work for job `j` stops. -/
def stopJobTiles (d : Dev) (j : Nat) : Dev :=
  (upto tileCount).foldl (fun d t => if (d.tile t).job = some j then stopTile d t else d) d

/-- The statuses after which Forester may re-execute the job (R93, R339, R448). -/
def reexecutable (status : Nat) : Bool := status = stRoleStale || status = stUncorrectable || status = stChecksum

/-- The work of job `j` stops with a fault: one that Forester may re-execute waits for its decision (R222), any other ends the
job. -/
def jobFault (d : Dev) (j : Nat) (status : Nat) : Dev :=
  let d := stopJobTiles d j
  if reexecutable status then
    d.updJob j fun x => if x.phase = .running && x.fault.isNone then { x with fault := some status } else x
  else endJob d j status

/-- The problem at work on tile `t`. -/
def Dev.probOn (d : Dev) (t : Nat) : Option Problem :=
  d.solv.problems.find? fun p => p.atWork.contains t && p.phase ≠ .ended

/-- A problem's deadline has come: it ends with its best, or with its fallback (R224). -/
def deadlineExpiry (j i : Nat) (d : Dev) : Dev :=
  match d.prob j i with
  | none => d
  | some p => match p.deadline with
    | none => d
    | some t =>
      let ran := match d.job j with
        | some x => x.phase = .running
        | none => false
      if p.phase = .ended || d.now < t || !ran then d
      else endBestOrFallback (p.atWork.foldl stopTile d) j i 2

/-- The problem's deadline has come. -/
def Problem.due (d : Dev) (p : Problem) : Bool := p.deadline.any fun t => decide (t ≤ d.now)

/-- A problem's tiles stop; uncorrectable memory and a stale role may be answered by re-execution, every other fault ends the
problem with its fallback (R221, R223, R339). Over a trap the deadline wins (R88). -/
def probFault (d : Dev) (p : Problem) (status : Nat) : Dev :=
  if (status = stNumeric || status = stNanTrapped) && p.due d then deadlineExpiry p.job p.idx d
  else if reexecutable status && !p.reexec then
    (p.atWork.foldl stopTile d).updProb p.job p.idx fun q => { q with phase := .suspect, fault := some status }
  else faultProblem d p.job p.idx status

/-- The same for the problem or the job at work on tile `t`. -/
def tileFault (d : Dev) (t : Nat) (status : Nat) : Dev :=
  let d := stopTile d t
  match d.probOn t with
  | some p => probFault d p status
  | none =>
    match (d.tile t).job with
    | none => d
    | some j => jobFault d j status

/-- The problem or the job at work on tile `t` ends with a fault that Forester does not re-execute (R448: input and memory rows of
CACHED handles). -/
def tileEnd (d : Dev) (t : Nat) (status : Nat) : Dev :=
  let d := stopTile d t
  match d.probOn t with
  | some p => faultProblem d p.job p.idx status
  | none =>
    match (d.tile t).job with
    | none => d
    | some j => endJob (stopJobTiles d j) j status

/-- The state that a program's start and a role change clear (R49, R81). -/
def clearMarks (d : Dev) (t : Nat) (watch : Nat) : Dev :=
  let b := d.regs
  let z (b : Bank) (o : Nat) : Bank := bankSet b (o + 0x400 * t) 0
  let b := [rTileFmtUflow, rTileFmtSat, rTileFmtStatus, rTileRunmax0, rTileRunmax0 + 4, rTileRunmax0 + 8, rTileRunmax0 + 12,
    rTileRunmax0 + 16, rTileRunmax0 + 20, rTileRunmax0 + 24, rTileRunmax0 + 28, rTileFpFlags, rTileFpTrap, rTileTrapCause,
    rTileTrapPc, rTileTrapOrd, rTileTrapOrd + 4, rTileTrapElem].foldl z b
  ({ d with regs := b }).setFld tileFpTrapNanwatchEn watch t

/-- A program of job `j` starts on tile `t` at `pc` (R155, R49, R81, R51). R155 gives the program counter 0 and R318 the entry point's:
the model takes the entry point's program counter, which the image states (DEDUCED, notes/assumptions/125). Lines that an earlier
job left clean are dropped, since other agents may have written their memory between the jobs (R137, R138; DEDUCED,
notes/assumptions/122). -/
def startTile (d : Dev) (t : Nat) (j : Job) (pc : U32) (vendor : Bool) : Dev :=
  let d := clearMarks d t (b2n j.nanWatch)
  let d := d.updTile t fun x => { x with x := [], v := [], acc := [], capB := none, pc := pc, ordinal := 0, trap := none,
                                         stall := none, job := some j.id, vendor := vendor, pace := {},
                                         cache := x.cache.filterMap fun e =>
                                           let l := e.2.filter (·.dirty)
                                           if l = [] then none else some (e.1, l) }
  (d.setFld tileStateState tsRunning t).setFld tileFmtStatusStrict (b2n j.strict) t

/-- The trap pending on tile `t` is delivered (R87, R163): TRAPPED sets, the grove stops, the job completes. -/
def deliverTrap (d : Dev) (t : Nat) : Dev :=
  match (d.tile t).trap with
  | none => d
  | some r =>
    let d := (d.setFld tileTrapCauseTrapped 1 t).setFld tileFpTrapPending 0 t
    let d := d.updTile t fun x => { x with trap := none }
    tileFault d t (if r.illegal then stInvalid else if r.nan then stNanTrapped else stNumeric)

/-- A trap recorded on tile `t` unless one of a lower ordinal is pending (R84, R89). -/
def recordTrap (d : Dev) (t : Nat) (r : TrapRec) : Dev :=
  match (d.tile t).trap with
  | some _ => d
  | none =>
    let d := d.updTile t fun x => { x with trap := some r }
    let d := (d.setFld tileTrapCauseCause r.cause.toNat t).setFld tileTrapCauseNanwatch (b2n r.nan) t
    let d := (d.setFld tileTrapPcPc r.pc.toNat t).setFld tileTrapOrdOrdinal r.ordinal t
    (d.setFld tileTrapElemElement r.elem t).setFld tileTrapElemLtile (d.fld tileIdLtile t) t

/-- The NaN watch trips in vendor code on one of the tiles `ts` (R89): the record says so; which operation and element it was is not
stated, but it is the same in every run (R87; DEDUCED, notes/assumptions/116). -/
def vendorTrap (d : Dev) (ts : List Nat) (key : List Nat) : Dev :=
  let t := ts.getD (Config.vendorOp key 0 % ts.length) tileCount
  if tileCount ≤ t then d
  else
    let d := (d.setFld tileTrapCauseTrapped 1 t).setFld tileTrapCauseNanwatch 1 t
    let d := (d.setFld tileTrapPcPc (Config.vendorOp key 1 % 2 ^ 32 / 8 * 8) t).setFld tileTrapOrdOrdinal (Config.vendorOp key 2 % 2 ^ 64) t
    (d.setFld tileTrapElemElement (Config.vendorOp key 3 % 2 ^ 16) t).setFld tileTrapElemLtile (d.fld tileIdLtile t) t

/-- An illegal instruction (R163): no effect; recorded with CAUSE 0 and delivered, or an earlier pending trap in its place. -/
def illegal (d : Dev) (t : Nat) : Dev :=
  let x := d.tile t
  deliverTrap (recordTrap d t ⟨x.pc, x.ordinal, 0, 0, false, true⟩) t

end Sys2Proof.Machine
end

