-- ==== Sys2Proof/Machine/Riccati.lean ====
section
/-! DEFINITION. The arithmetic of the Riccati unit: block LDLᵀ with static pivot replacement (R206) and substitution (R556), with every
flag. -/

namespace Sys2Proof.Machine

/-- -a × b + c, one rounding (R206). -/
def fnma (f : Fmt) (a b c : Nat) : FRes := ffma f (fneg f a) b c

/-- A chain of -a_k × b_k from `c`, ascending, with every flag. -/
def fnmaChain (f : Fmt) : List (Nat × Nat) → FRes → FRes
  | [], r => r
  | p :: l, r => let s := fnma f p.1 p.2 r.1; fnmaChain f l (s.1, r.2 ||| s.2)

/-- The magnitude of a code, a NaN with its payload: no operation, so no flag. -/
def magCode (f : Fmt) (a : Nat) : Nat := a % f.signBit

/-- The largest of a list of magnitudes, +0 for none; a NaN makes it NaN (R77). -/
def maxMag (f : Fmt) : List Nat → FRes
  | [] => (0, flNone)
  | a :: l => l.foldl (fun m b => let r := fminmax f true m.1 (magCode f b); (r.1, m.2 ||| r.2)) (magCode f a, flNone)

/-- 1.0 of a format. -/
def fone (f : Fmt) : Nat := f.bias * 2 ^ f.fw

/-- 2^-t × v (R206: exact). -/
def scaleDown (f : Fmt) (v t : Nat) : Nat :=
  match decodeNum f v with
  | .fin n m e => (roundNum f .infinity n m (e - t) false).1
  | .nan _ => f.nan
  | _ => v

/-- The factor under construction: rows of W and L, and D, as codes; pivots replaced; the flags of each column, by row; those of σ. -/
structure Ldl where
  w : List (List Nat)
  l : List (List Nat)
  d : List Nat
  replaced : Nat
  flags : List (List Fl)
  sigma : Fl
deriving DecidableEq, Repr

/-- Element [i][k] of a matrix of codes, +0 outside. -/
def mat (m : List (List Nat)) (i k : Nat) : Nat := (m.getD i []).getD k 0

/-- Column `j` of R206 in a block of order `n`. -/
def ldlColumn (f : Fmt) (m : List (List Nat)) (n pos tau delta j : Nat) (s : Ldl) : Ldl :=
  let dj := fnmaChain f ((upto j).map fun k => (mat s.w j k, mat s.l j k)) (mat m j j, flNone)
  let low := fcmp f numLe (magCode f dj.1) tau
  let piv := if low.1 then (if j < pos then delta else delta + f.signBit) else dj.1
  let col := (upto n).map fun i =>
    if i < j then ((0, 0), flNone)
    else if i = j then ((0, 0), dj.2 ||| low.2)
    else
      let w := fnmaChain f ((upto j).map fun k => (mat s.w i k, mat s.l j k)) (mat m i j, flNone)
      let q := fdiv f w.1 piv
      ((w.1, q.1), w.2 ||| q.2)
  { w := (s.w.zip col).map fun p => p.1 ++ [p.2.1.1]
    l := (s.l.zip col).map fun p => p.1 ++ [p.2.1.2]
    d := s.d ++ [piv]
    replaced := s.replaced + b2n low.1
    flags := s.flags ++ [col.map (·.2)]
    sigma := s.sigma }

/-- RICF's computation (R206) on the lower triangle of a block of order `n`. A signalling NaN on the diagonal raises invalid in the
compare of σ with 0 (R76). -/
def ldl (f : Fmt) (m : List (List Nat)) (n pos texp dexp : Nat) : Ldl :=
  let mx := maxMag f ((upto n).map fun i => mat m i i)
  let zero := fcmp f numEq mx.1 0
  let sg := if zero.1 then fone f else mx.1
  (upto n).foldl (fun s j => ldlColumn f m n pos (scaleDown f sg texp) (scaleDown f sg dexp) j s)
    ⟨List.replicate n [], List.replicate n [], [], 0, [], mx.2 ||| zero.2⟩

/-- Element (i, j) of the factor (R205): L[i][j] for j < i, D[i] at j = i. -/
def Ldl.elem (s : Ldl) (i j : Nat) : Nat := if i = j then s.d.getD i 0 else mat s.l i j

/-- Every flag of the factorisation. -/
def Ldl.allFlags (s : Ldl) : Fl := s.flags.foldl (fun a c => c.foldl (· ||| ·) a) s.sigma

/-- Forward substitution with L, then division by D (R556). -/
def forwardSub (f : Fmt) (l : List (List Nat)) (v : List Nat) (n : Nat) : List FRes :=
  let ys := (upto n).foldl (fun (ys : List FRes) i =>
    ys ++ [fnmaChain f ((upto i).map fun k => (mat l i k, (ys.getD k (0, flNone)).1)) (v.getD i 0, flNone)]) []
  (upto n).map fun i =>
    let y := ys.getD i (0, flNone)
    let q := fdiv f y.1 (mat l i i)
    (q.1, y.2 ||| q.2)

/-- Backward substitution with L' (R556): elements from n - 1 down; the list is built from its end. -/
def backwardSub (f : Fmt) (l : List (List Nat)) (v : List Nat) (n : Nat) : List FRes :=
  (upto n).foldl (fun (xs : List FRes) c =>
    let i := n - 1 - c
    fnmaChain f ((upto c).map fun k => (mat l (i + 1 + k) i, (xs.getD k (0, flNone)).1)) (v.getD i 0, flNone) :: xs) []

end Sys2Proof.Machine
end

