-- ==== Sys2Proof/Machine/SolveMethod.lean ====
section
/-! DEFINITION. One iteration of the deep and of the quick method (R205 to R212, R229, R254, R255). The recursion over the stages, its
factors, pivots, substitutions and sums over children are as the rules say; what stands between them within one stage is the
vendor's, in an order that the spec does not state, and its values are free (DESIGN CHOICE, notes/assumptions/106). -/

namespace Sys2Proof.Machine

/-- c + a × b of one element: with one rounding or with two, as the vendor's code has it (DESIGN CHOICE, notes/assumptions/106). -/
def pAxpy (pr a b c : Nat) : Nat := if Config.solveFused then pFma pr a b c else pAdd pr c (pMul pr a b)

/-! ### Elements of an iterate -/

/-- Every element with a number of its own: 64 are set aside per point for each of x, u, π and λ, then come the slacks and the
multipliers or row copies. -/
def Iterate.mapIdx (f : Nat → Nat → Nat) (it : Iterate) : Iterate :=
  let row (b : Nat) (v : Vec) : Vec := (v.zip (upto v.length)).map fun e => f (b + e.2) e.1
  let mat (k : Nat) (m : Mat) : Mat := (m.zip (upto m.length)).map fun e => row (64 * (4 * e.2 + k)) e.1
  let base := 256 * it.x.length
  { x := mat 0 it.x, u := mat 1 it.u, pi := mat 2 it.pi, lam := mat 3 it.lam, s := row base it.s,
    w := row (base + it.s.length) it.w }

/-- Every element of an iterate. -/
def Iterate.elems (it : Iterate) : List Nat :=
  it.x.flatMap id ++ it.u.flatMap id ++ it.pi.flatMap id ++ it.lam.flatMap id ++ it.s ++ it.w

/-- Two vectors or matrices element by element. -/
def zipVec (f : Nat → Nat → Nat) (a b : Vec) : Vec := (a.zip b).map fun e => f e.1 e.2
def zipMat (f : Nat → Nat → Nat) (a b : Mat) : Mat := (a.zip b).map fun e => zipVec f e.1 e.2

/-! ### What the vendor's code computes from (R201) -/

/-- The template, with the exponents that its pivots use (R196). -/
def templateKey (t : Template) : List Nat :=
  [leNat (t.raw.take 14 ++ leBytes 1 t.texp ++ leBytes 1 t.dexp ++ t.raw.drop 16), leNat t.ext]

/-- A point's data. -/
def ptKey (x : Pt) : List Nat :=
  let m (a : Mat) : List Nat := a.flatMap id
  m x.a ++ m x.b ++ x.c ++ m x.h ++ x.hv ++ m x.cm ++ m x.dm ++ x.lo ++ x.hi

/-- A problem as an iteration finds it: template, penalty, data, xhat, the present iterate. -/
def solveKey (p : Problem) : List Nat := templateKey p.t ++ p.rcd.rho :: p.xhat ++ p.pts.flatMap ptKey ++ p.cur.elems

/-- `n` values that the vendor's code computes; `k` says which. -/
def vendorVals (pr k : Nat) (key : List Nat) (n : Nat) : Vec :=
  (upto n).map fun i => inPrec pr (Config.solveValue (k :: key) i).toNat

/-! ### Groves (R229, R255) -/

/-- The share of `n` things, floor(j n / g) to floor((j + 1) n / g) - 1, that holds number `s`. -/
def shareOf (g n s : Nat) : Nat := ((upto g).find? fun j => decide (j * n / g ≤ s) && decide (s < (j + 1) * n / g)).getD 0

/-- The grove tile that holds a point: by its stage, or for a tree by the first leaf below its node. -/
def holder (t : Template) (x : Pt) : Nat :=
  if t.kind = 2 then shareOf t.grove (recLe t.ext 1 1) ((leavesOf (treeNodes t) x.node).headD 0) else shareOf t.grove (t.n + 1) x.stage

/-- Neighbours 2i and 2i + 1 combined. -/
def pairUp {α : Type} (f : α → α → α) : List α → List α
  | a :: b :: r => f a b :: pairUp f r
  | l => l

/-- The binary tree from its leaves to its root, level by level. -/
def treeLevels {α : Type} (f : α → α → α) : Nat → List α → List (List α)
  | 0, l => [l]
  | k + 1, l => l :: treeLevels f k (pairUp f l)

/-- Vectors summed in ascending order. -/
def sumVecs (pr : Nat) : List Vec → Vec
  | [] => []
  | v :: r => r.foldl (zipVec (pAdd pr)) v

/-- What the children of a point add to it. In a tree the contributions of one tile are summed in ascending child order, and those of
different tiles in the binary tree (R254, R255); a stage of another segment adds nothing here (R229). -/
def gather (t : Template) (own : Nat) (kids : List (Nat × Vec)) : Vec :=
  if t.kind ≠ 2 then sumVecs t.prec ((kids.filter fun k => k.1 = own).map (·.2))
  else
    let slots : List (List Vec) := (upto t.grove).map fun j => match (kids.filter fun k => k.1 = j).map (·.2) with
      | [] => []
      | l => [sumVecs t.prec l]
    let join (a b : List Vec) : List Vec := match a ++ b with
      | [] => []
      | l => [sumVecs t.prec l]
    (((treeLevels join t.grove.log2 slots).getLast?.getD []).headD []).headD []

/-- The backward pass: from the last point to the first, each with what its children pass on to it through their links (R208,
R254). -/
def backward {α : Type} (t : Template) (pts : List Pt) (link : α → Vec) (f : Nat → Pt → Vec → α) : List α :=
  (pts.zip (upto pts.length)).foldr (fun e acc =>
    let kids := (childPts pts e.2).filterMap fun q => match acc[q - e.2 - 1]?, pts[q]? with
      | some a, some y => some (holder t y, link a)
      | _, _ => none
    f e.2 e.1 (gather t (holder t e.1) kids) :: acc) []

/-! ### The factorisation (R205 to R207) -/

/-- The codes of the iteration's precision. -/
def prFmt (pr : Nat) : Fmt := if pr = 1 then fp32 else fp64
def codeOf (pr v : Nat) : Nat := if pr = 1 then narrow v else v
def valOf (pr v : Nat) : Nat := if pr = 1 then widen v else v

/-- The order of the block of a point: at most NX + NU, and NX at a terminal point, where the code may factor nothing. -/
def blockOrder (t : Template) (x : Pt) : Nat :=
  let k := Config.solveOrder (templateKey t) x.stage
  if x.term then k % (t.nx + 1) else 1 + k % (t.nx + t.nu)

/-- One RICF of the vendor's code, with POS = n (R206). -/
def vendorFactor (t : Template) (key : List Nat) (n : Nat) : Ldl :=
  let m := vendorVals t.prec 0 key (n * n)
  ldl (prFmt t.prec) ((upto n).map fun i => (upto n).map fun j => codeOf t.prec (m.getD (n * i + j) 0)) n n t.texp t.dexp

/-- Every entry of D and L of a factor of order `n`. -/
def Ldl.entries (s : Ldl) (n : Nat) : List Nat := (upto n).flatMap fun i => (upto (i + 1)).map (s.elem i)

/-- A stage that has been factored: order, factor, and what it passes on to the point it follows from. -/
structure StageFac where
  n : Nat
  fac : Ldl
  link : Vec
deriving DecidableEq, Repr

/-- A factored stage as numbers. -/
def StageFac.key (s : StageFac) : List Nat := s.fac.entries s.n ++ s.link

/-- The lower triangle of a matrix over one point's x and u. -/
def linkSize (t : Template) : Nat := (t.nx + t.nu) * (t.nx + t.nu + 1) / 2

/-- The numbers by which two segments are coupled at their boundary. -/
def coupleSize (t : Template) : Nat := 2 * t.nx * (2 * t.nx + 1)

/-- One stage factored: `bar` are its barrier weights, `sum` what its children pass on. -/
def factorStage (t : Template) (rho : Nat) (bar : Vec) (q : Nat) (x : Pt) (sum : Vec) : StageFac :=
  let key := templateKey t ++ q :: rho :: ptKey x ++ bar ++ sum
  let n := blockOrder t x
  let s := vendorFactor t key n
  ⟨n, s, vendorVals t.prec 1 (key ++ s.entries n) (linkSize t)⟩

/-- The couplings of two neighbouring segments reduced to one. -/
def factorJoin (t : Template) (a b : StageFac) : StageFac :=
  let key := templateKey t ++ a.key ++ b.key
  let n := min 64 (Config.solveOrder (templateKey t) (t.n + 1))
  let s := vendorFactor t (1 :: key) n
  ⟨n, s, vendorVals t.prec 2 (key ++ s.entries n) (coupleSize t)⟩

/-- The factors of the stages, and those of the segments' couplings, level by level (R229). -/
structure Factors where
  stages : List StageFac
  joins : List (List StageFac)
deriving DecidableEq, Repr

/-- A horizon is cut into segments; a tree is not (R229, R255). -/
def segmented (t : Template) : Bool := t.kind ≠ 2 && decide (1 < t.grove)

/-- The points that grove tile `j` holds, by number. -/
def heldBy (t : Template) (pts : List Pt) (j : Nat) : List Nat :=
  (upto pts.length).filter fun q => (pts[q]?).any fun x => holder t x = j

/-- Every stage factored, in the order of the recursion; `bars` are the barrier weights by point. -/
def factorAll (t : Template) (rho : Nat) (pts : List Pt) (bars : List Vec) : Factors :=
  let st := backward t pts (·.link) fun q x sum => factorStage t rho (bars.getD q []) q x sum
  let own (j : Nat) : List Nat := (heldBy t pts j).flatMap fun q => (st[q]?).elim [] StageFac.key
  let leaf (j : Nat) : StageFac :=
    ⟨0, ldl fp64 [] 0 0 0 0, vendorVals t.prec 3 (templateKey t ++ j :: own j) (coupleSize t)⟩
  ⟨st, if segmented t then treeLevels (factorJoin t) t.grove.log2 ((upto t.grove).map leaf) else []⟩

/-- Every factor made, with its order and the grove tile that made it: a coupling is reduced on the tile of lower number. -/
def Factors.all (t : Template) (pts : List Pt) (f : Factors) : List (Nat × Nat × Ldl) :=
  ((pts.zip f.stages).map fun e => (holder t e.1, e.2.n, e.2.fac)) ++
    ((f.joins.zip (upto f.joins.length)).flatMap fun l => (l.1.zip (upto l.1.length)).map fun e => (e.2 * 2 ^ l.2, e.1.n, e.1.fac))

/-! ### The substitution (R208, R210, R229, R254, R556) -/

/-- A stage on the way back: the solution of its block, the flags of RICS, and what it passes on. -/
structure StageSol where
  sol : Vec
  fl : Fl
  link : Vec
deriving DecidableEq, Repr

/-- RICS forward and then backward: L D L' x = v (R556). -/
def ricsBoth (pr n : Nat) (s : Ldl) (v : Vec) : Vec × Fl :=
  let f := prFmt pr
  let l := (upto n).map fun i => (upto n).map (s.elem i)
  let y := forwardSub f l (v.map (codeOf pr)) n
  let z := backwardSub f l (y.map (·.1)) n
  ((z.map (·.1)).map (valOf pr), (y ++ z).foldl (fun a r => a ||| r.2) flNone)

/-- One stage of a solve: `rhs` are the numbers its right-hand side comes from. -/
def solveStage (t : Template) (q : Nat) (x : Pt) (s : StageFac) (rhs : List Nat) (sum : Vec) : StageSol :=
  let key := templateKey t ++ q :: ptKey x ++ s.key ++ rhs ++ sum
  let r := ricsBoth t.prec s.n s.fac (vendorVals t.prec 4 key s.n)
  ⟨r.1, r.2, vendorVals t.prec 5 (key ++ r.1) (t.nx + t.nu)⟩

/-- The boundaries of the segments below those of the level above: `up` are the numbers of this level's segments. -/
def boundaries (t : Template) (up : List Vec) (above : List Vec) : List Vec :=
  (upto up.length).map fun i =>
    vendorVals t.prec 8 (templateKey t ++ i % 2 :: above.getD (i / 2) [] ++ up.getD (i / 2 * 2) [] ++ up.getD (i / 2 * 2 + 1) []) (4 * t.nx)

/-- The slack or multiplier slice of each point: its finite bounds in row order. -/
def boundCount (x : Pt) : Nat := (x.lo.filter f64Finite).length + (x.hi.filter f64Finite).length

def cutBounds : List Pt → Vec → List Vec
  | [], _ => []
  | x :: r, v => v.take (boundCount x) :: cutBounds r (v.drop (boundCount x))

/-- A flat list of the rows' values cut into points. -/
def cutRows : List Pt → Vec → Mat
  | [], _ => []
  | x :: r, v => v.take x.lo.length :: cutRows r (v.drop x.lo.length)

/-- An iterate about a point: its own elements, those of the point it follows and of those that follow it. -/
def aboutPt (pts : List Pt) (it : Iterate) (s w : List Vec) (q : Nat) : List Nat :=
  let one (k : Nat) : List Nat := it.x.getD k [] ++ it.u.getD k [] ++ it.pi.getD k [] ++ it.lam.getD k []
  let up := match (pts[q]?).bind (·.parent) with
    | none => []
    | some k => one k
  one q ++ s.getD q [] ++ w.getD q [] ++ up ++ (childPts pts q).flatMap one

/-- A solve of the linear system: a direction, or the quick method's point; and what RICS computed, with its flags and the grove tile
that ran it. `k` says which solve it is, `target` what it aims at, by bound. -/
def solveSystem (p : Problem) (f : Factors) (k : Nat) (target : Vec) : Iterate × List (Nat × StageSol) :=
  let t := p.t
  let pr := t.prec
  let pts := p.pts.map (copyPt pr)
  let rho := inPrec pr p.rcd.rho
  let s := cutBounds p.pts p.cur.s
  let w := if t.method = 1 then cutRows p.pts p.cur.w else cutBounds p.pts p.cur.w
  let tg := cutBounds p.pts target
  let rhs (q : Nat) : List Nat := k :: rho :: p.xhat ++ aboutPt pts p.cur s w q ++ tg.getD q []
  let none_ : StageFac := ⟨0, ldl fp64 [] 0 0 0 0, []⟩
  let back := backward t pts (·.link) fun q x sum => solveStage t q x (f.stages.getD q none_) (rhs q) sum
  -- the segments' boundary values, up the tree and down again
  let own (j : Nat) : List Nat := (heldBy t pts j).flatMap fun q => (back[q]?).elim [] fun b => b.sol ++ b.link
  let leaves : List Vec := (upto t.grove).map fun j => vendorVals pr 6 (templateKey t ++ j :: own j) (2 * t.nx)
  let levels := treeLevels (fun a b => vendorVals pr 7 (templateKey t ++ a ++ b ++ f.joins.flatMap fun l => l.flatMap StageFac.key) (2 * t.nx))
    t.grove.log2 leaves
  let bounds : List Vec := if segmented t then levels.foldr (boundaries t) [p.xhat] else []
  -- and back up: from the first point to the last
  let vals := (pts.zip (upto pts.length)).foldl (fun (acc : List (List Vec)) e =>
    let x := e.1
    let j := holder t x
    let up := match x.parent.bind fun q => pts[q]? with
      | none => []
      | some y => if segmented t && holder t y ≠ j then [] else ((acc.getD (x.parent.getD 0) []).take 2).flatMap id
    let key := templateKey t ++ e.2 :: ptKey x ++ ((back[e.2]?).elim [] (·.sol)) ++ rhs e.2 ++ up ++ bounds.getD j []
    let nu := if x.term then 0 else t.nu
    let nb := if t.method = 1 then 0 else boundCount x
    acc ++ [[vendorVals pr 9 key t.nx, vendorVals pr 10 key nu, vendorVals pr 11 key t.nx, vendorVals pr 12 key x.lo.length,
      vendorVals pr 13 key nb, vendorVals pr 14 key nb]]) []
  let part (i : Nat) : Mat := vals.map fun v => v.getD i []
  ({ x := part 0, u := part 1, pi := part 2, lam := part 3, s := (part 4).flatMap id, w := (part 5).flatMap id },
    (pts.map (holder t)).zip back)

/-! ### The deep method (R208), in FP64 -/

/-- 1 - 2^-8. -/
def deepEta : Nat := 0x3FEFE00000000000

/-- The largest step for which no element of `v` becomes negative along `dv`; +∞ where none decreases. -/
def largestStep (l : List (Nat × Nat)) : Nat :=
  l.foldl (fun m e => if f64Lt e.2 0 then f64Min m (f64Div (f64Neg e.1) e.2) else m) f64Inf

/-- The multiplier of a row from those of its finite bounds, and the multipliers that remain: the upper bound's less the lower's
(R194). -/
def rowMult (lo hi : Nat) (w : List Nat) : Nat × List Nat :=
  let a := if f64Finite lo then (w.headD 0, w.drop 1) else (0, w)
  let b := if f64Finite hi then (a.2.headD 0, a.2.drop 1) else (0, a.2)
  (f64Sub b.1 a.1, b.2)

/-- The rows' multipliers λ from those of the finite bounds. -/
def lamOfBounds (pts : List Pt) (w : List Nat) : Mat :=
  (pts.foldl (fun (a : Mat × List Nat) x =>
    let r := (x.lo.zip x.hi).foldl (fun (b : Vec × List Nat) e =>
      let m := rowMult e.1 e.2 b.2
      (b.1 ++ [m.1], m.2)) ([], a.2)
    (a.1 ++ [r.1], r.2)) ([], w)).1

/-- mu (R208). -/
def deepMu (c : Iterate) : Nat :=
  let mf := c.s.length
  if mf = 0 then 0 else f64Div (f64Chain 0 (c.s.zip c.w)) (intToF fp64 mf).1

/-- The centring parameter of R208 after the affine direction. -/
def deepSigma (c da : Iterate) (mu aAff : Nat) : Nat :=
  let mf := c.s.length
  if mf = 0 then 0
  else
    let s' := zipVec (fun v dv => pAxpy 0 aAff dv v) c.s da.s
    let w' := zipVec (fun v dv => pAxpy 0 aAff dv v) c.w da.w
    let r := f64Div (f64Div (f64Chain 0 (s'.zip w')) (intToF fp64 mf).1) mu
    f64Mul (f64Mul r r) r

/-- What an iteration did: the next iterate, its factors, the directions it took, what RICS computed, and other numbers that show a
NaN. -/
structure IterRun where
  next : Iterate
  facs : List (Nat × Nat × Ldl)
  dirs : List Iterate
  rics : List (Nat × StageSol)
  seen : List Nat
deriving DecidableEq, Repr

/-- One iteration of the deep method. -/
def deepStep (p : Problem) : IterRun :=
  let c := p.cur
  let mu := deepMu c
  let f := factorAll p.t p.rcd.rho p.pts (cutBounds p.pts (zipVec f64Div c.w c.s))
  let ra := solveSystem p f 0 (c.s.map fun _ => 0)
  let da := ra.1
  let aAff := f64Min f64One (largestStep (c.s.zip da.s ++ c.w.zip da.w))
  let sig := deepSigma c da mu aAff
  let rd := solveSystem p f 1 (zipVec (fun a b => pAxpy 0 (f64Neg a) b (f64Mul sig mu)) da.s da.w)
  let d := rd.1
  let a := f64Min f64One (f64Mul deepEta (largestStep (c.s.zip d.s ++ c.w.zip d.w)))
  let go (v dv : Nat) : Nat := pAxpy 0 a dv v
  let w := zipVec go c.w d.w
  { next := { x := zipMat go c.x d.x, u := zipMat go c.u d.u, pi := zipMat go c.pi d.pi, lam := lamOfBounds p.pts w,
              s := zipVec go c.s d.s, w := w }
    facs := f.all p.t p.pts, dirs := [da, d], rics := ra.2 ++ rd.2, seen := [mu, sig, a] }

/-! ### The quick method (R210), in the template's precision -/

/-- al = 1.625, and 1 - al. -/
def quickAl : Nat := 0x3FFA000000000000
def quickAl' : Nat := 0xBFE4000000000000

/-- C z: every row's value at an iterate, on the iteration's copy of the data. -/
def rowCopies (t : Template) (pts : List Pt) (it : Iterate) : Vec :=
  ((pts.map (copyPt t.prec)).zip (upto pts.length)).flatMap fun e => (upto e.1.lo.length).map (rowValue t.prec t e.1 it e.2)

/-- The rows' bounds in the same order. -/
def rowBounds (t : Template) (pts : List Pt) : List (Nat × Nat) :=
  pts.flatMap fun x => (x.lo.zip x.hi).map fun e => (inPrec t.prec e.1, inPrec t.prec e.2)

def clip (v : Nat) (b : Nat × Nat) : Nat := f64Min (f64Max v b.1) b.2

/-- al × a + (1 - al) × b. -/
def relax (pr a b : Nat) : Nat := pAxpy pr quickAl' b (pMul pr quickAl a)

/-- One iteration of the quick method. Its one factorisation belongs to the first. -/
def quickStep (p : Problem) : IterRun :=
  let c := p.cur
  let t := p.t
  let rho := inPrec t.prec p.rcd.rho
  let f := factorAll t rho (p.pts.map (copyPt t.prec)) []
  let r := solveSystem p f 0 []
  let zt := r.1
  let y := c.lam.flatMap id
  let wr := zipVec (relax t.prec) (rowCopies t p.pts zt) c.w
  let wn := ((zipVec (fun r v => pAdd t.prec r (pDiv t.prec v rho)) wr y).zip (rowBounds t p.pts)).map fun e => clip e.1 e.2
  let y := zipVec (fun v e => pAxpy t.prec rho e v) y (zipVec (pSub t.prec) wr wn)
  { next := { x := zipMat (relax t.prec) zt.x c.x, u := zipMat (relax t.prec) zt.u c.u, pi := zt.pi, lam := cutRows p.pts y,
              s := [], w := wn }
    facs := if p.it = 0 then f.all t p.pts else [], dirs := [{ zt with lam := [] }], rics := r.2, seen := [] }

/-- One iteration of the template's method, with the elements that a hardware upset replaced. -/
def methodStep (p : Problem) (upset : List (Nat × U64)) : IterRun :=
  let r := if p.t.method = 1 then quickStep p else deepStep p
  { r with next := r.next.mapIdx fun i v => match upset.find? fun u => u.1 = i with
      | some u => inPrec p.t.prec u.2.toNat
      | none => v }

/-- The entries of an iteration's factors, as FP64 codes. -/
def IterRun.entries (pr : Nat) (r : IterRun) : List Nat := r.facs.flatMap fun f => (f.2.2.entries f.2.1).map (valOf pr)

/-- Pivots that the RICF calls of the iteration replaced (R206). -/
def IterRun.pivots (r : IterRun) : Nat := (r.facs.map fun f => f.2.2.replaced).foldl (· + ·) 0

/-- An entry of a factor, or an element of a direction, is not finite (R207). -/
def IterRun.fails (pr : Nat) (r : IterRun) : Bool :=
  !(r.entries pr ++ r.dirs.flatMap Iterate.elems ++ r.rics.flatMap (·.2.sol)).all f64Finite

/-- An operation of the iteration gave a NaN, which an armed NaN watch sees (R89). -/
def IterRun.nan (p : Problem) (r : IterRun) : Bool :=
  (r.entries p.t.prec ++ r.dirs.flatMap Iterate.elems ++ r.rics.flatMap (·.2.sol) ++ r.seen ++ r.next.elems).any f64IsNan ||
    Config.solveNan (solveKey p)

/-- The flags that the iteration raises on grove tile `j`: those of RICF and RICS there, and those of the code between (R80). -/
def IterRun.flags (p : Problem) (r : IterRun) (j : Nat) : Fl :=
  ((r.facs.filter fun f => f.1 = j).map fun f => f.2.2.allFlags).foldl (· ||| ·) flNone |||
    ((r.rics.filter fun s => s.1 = j).map (·.2.fl)).foldl (· ||| ·) flNone ||| Config.solveFlags (j :: solveKey p)

/-! ### Where the iterations begin (R209, R211) -/

/-- The quick method's start from z and y: w := clip(C z, lo, hi) (R211). -/
def quickStart (t : Template) (pts : List Pt) (it : Iterate) : Iterate :=
  { it with s := [], w := ((rowCopies t pts it).zip (rowBounds t pts)).map fun e => clip e.1 e.2 }

/-- A cold start of a template's method (R209, R211), on the iteration's copy of the data. -/
def methodCold (t : Template) (pts : List Pt) (x0 : Vec) : Iterate :=
  let c := coldStart t pts x0
  if t.method = 1 then quickStart t pts { c with x := rollOut t.prec t (pts.map (copyPt t.prec)) (x0.map (inPrec t.prec)) } else c

/-- A warm start from a stored iterate, shifted (R209, R211). -/
def methodWarm (t : Template) (pts : List Pt) (it : Iterate) : Iterate :=
  if t.method = 1 then quickStart t pts it else warmStart t pts it

end Sys2Proof.Machine
end

