-- ==== Sys2Proof/Machine/SolveStart.lean ====
section
/-! DEFINITION. Problems of a job: the checks of their records, their admission, their start and their assembly (R199 to R218,
R233 to R261, R325). -/

namespace Sys2Proof.Machine

/-! ### Records and their checks (R203, R238, R252, R259) -/

/-- The kind of problem that a solve-family job carries (R4). (DEDUCED, notes/assumptions/23.) -/
def kindOf (op : Nat) : Nat := if op = opEstimate then 1 else if op = opScenario then 2 else 0

/-- Both tolerances positive and finite, the acceptance not below the target (R203). -/
def tolBad (eps acc : Nat) : Bool := !f64Pos eps || !f64Pos acc || f64Lt acc eps

/-- The penalty (R203). -/
def rhoBad (t : Template) (rho : Nat) : Bool := if t.method = 1 then !f64Pos rho else !(decodeNum fp64 rho).isZero

/-- An address of `n` bytes, aligned to `al`; nothing is named where `n` is 0. -/
def addrBad (d : Dev) (q a n al : Nat) : Bool := a % al ≠ 0 || (n ≠ 0 && !addrOk d q a n)

/-- Every address of a record is aligned and may be named (R203, R356, R426). -/
def addrsBad (d : Dev) (q : Nat) (t : Template) (r : ProbRec) : Bool :=
  addrBad d q r.x0Addr (if t.kind = 1 then 256 * sampleBytes t else if r.x0Src = 0 then 8 * t.nx else 0)
      (if t.kind = 1 then 64 else 8) ||
    addrBad d q r.paramAddr (8 * t.np * vecCount t r.perStage) 8 ||
    addrBad d q r.resultAddr (resultBytes t r) 64 ||
    addrBad d q r.fallbackAddr (if t.kind = 1 && t.estMode = 1 then 0 else 8 * planLen t r.duals) 64 ||
    (t.kind = 1 && addrBad d q (r.t 112 8) (8 * (t.nx + t.nx * (t.nx + 1) / 2)) 8) ||
    (t.kind = 2 && (addrBad d q (r.t 112 8) (8 * recLe t.ext 1 1) 8 ||
      addrBad d q (r.t 120 8) (if r.t 120 8 = 0 then 0 else 2 * (treeNodes t).length) 8))

/-- The RSVD bits and the fields that each kind reads in its own way (R202, R238, R252, R259). -/
def kindFieldsBad (t : Template) (r : ProbRec) : Bool :=
  bits r.options 7 4 ≠ 0 ||
    match t.kind with
    | 0 => !recZero r.tail 0 22
    | 1 => r.t 106 2 ≠ 0 || r.t 120 8 ≠ 0 || r.warmSlot = 0xFFFF || r.warmShift ≠ 0
    | _ => bits (r.t 106 1) 7 2 ≠ 0 || r.t 107 1 ≠ 0 || r.t 110 2 ≠ 0 || !r.perStage

/-- A record that R203 refuses, its template being present. The rule's list does not name X0_SRC above 8, the end of the range that R202
gives it, and WARM_SLOT from 4,096 to 0xFFFE, which R202 leaves out: both are refused with the rest (DESIGN CHOICE,
notes/assumptions/132). -/
def recordBad (d : Dev) (q : Nat) (t : Template) (r : ProbRec) : Bool :=
  r.itCap = 0 || decide (t.itCapMax < r.itCap) || tolBad r.epsP r.accP || tolBad r.epsD r.accD || tolBad r.epsG r.accG ||
    rhoBad t r.rho || decide (1 < r.fallbackKind) || decide (8 < r.x0Src) ||
    (decide (4095 < r.warmSlot) && r.warmSlot ≠ 0xFFFF) || kindFieldsBad t r || addrsBad d q t r

/-- Leaf weights at PROB_ADDR (R253). -/
def leafWeights (d : Dev) (t : Template) (r : ProbRec) : Except Nat Vec :=
  if t.kind ≠ 2 then .ok []
  else
    let n := recLe t.ext 1 1
    match readAddr d (r.t 112 8) (8 * n) with
    | .ok l => .ok (words64 l n)
    | .error e => .error e

/-- The problem of record `i` of a job, refused where R203 says so. In a triggered pass a DEADLINE counts from the trigger
instant (R371); a replayed problem has none (R348). -/
def makeProblem (d : Dev) (j : Job) (im : Image) (l : List Byte) (i : Nat) : Problem :=
  let r := parseProb l
  let dl := if r.deadline = 0 || j.replayed then none else some (r.deadline + j.instant.getD 0)
  match imageTemplate im r.templateId with
  | none => { job := j.id, idx := i, image := im.num, rcd := r, t := {}, deadline := dl, phase := .ended, status := stInvalid }
  | some t =>
    let bad := t.kind ≠ kindOf j.desc.opcode || recordBad d j.q t r
    { job := j.id, idx := i, image := im.num, rcd := r, t := t, deadline := dl,
      phase := if bad then .ended else .queued, status := if bad then stInvalid else stDone,
      weights := match leafWeights d t r with
        | .ok w => w
        | .error _ => [],
      replayStop := (j.stops.find? fun s => s.1 = i).map (·.2) }

/-! ### Admission (R214, R236, R325, R326, R336) -/

/-- The worst-case cycles of a problem (R214, R236). -/
def probBound (t : Template) (r : ProbRec) : Nat :=
  t.cycAsm + (if t.kind = 1 then t.newMax * t.cycFilter else 0) + r.itCap * t.cycIter +
    ((if t.checkEvery = 0 then 0 else r.itCap / t.checkEvery) + 1) * t.cycCert

/-- The tile that new work of logical tile `l` goes to: its tile, the tile that a drain puts in its place, or the substitute being
prepared (R334, R337). -/
def Dev.workTile (d : Dev) (im : Image) (l : Nat) : Option Nat :=
  match im.place.getD l none with
  | some t => some ((d.tile t).drainTo.getD t)
  | none => (upto tileCount).find? fun t => (d.tile t).loadFor = some (im.num, l) && (d.tile t).replaces.isSome

/-- The work tiles of an image in a role. -/
def roleTiles (d : Dev) (im : Image) (role : Nat) : List Nat :=
  ((upto im.tiles.length).filter fun l => (im.tiles.getD l { role := 0 }).role = role).filterMap (d.workTile im)

/-- The SOLVE tiles of an image. -/
def solveTiles (d : Dev) (im : Image) : List Nat := roleTiles d im 2

/-- Room for a problem on `n` different tiles, each with the whole bound. -/
def admitGrove (d : Dev) (j i c dj now bound : Nat) (cands : List Nat) : Nat → Except Nat Dev
  | 0 => .ok d
  | n + 1 =>
    let used := (d.admitted.filter fun a => a.job = j && a.prob = i && a.kind = rkTile).map (·.inst)
    match admitUses d j i c dj now [⟨rkTile, cands.filter fun t => !used.contains t, bound⟩] with
    | .error e => .error e
    | .ok d => admitGrove d j i c dj now bound cands n

/-- A problem is admitted, or refused with its cause (R326, R327). Best-effort problems need only their tiles (R331, R336). -/
def admitProblem (x : Job) (im : Image) (d : Dev) (i : Nat) : Dev :=
  match d.prob x.id i with
  | none => d
  | some p =>
    if p.phase = .ended then d
    else
      let cands := solveTiles d im
      if (waitSync d && p.deadline.isSome) then refuseProblem d x.id i 9
      else if cands.length < p.t.grove || (p.t.asmPlace = 1 && roleTiles d im 1 = []) then refuseProblem d x.id i 8
      else if x.desc.cls = 0 || x.replayed then d
      else
        let c := x.desc.cls
        let now := x.admitTime
        let dj := p.deadline.getD 0
        let data := 512 * recLe p.t.raw 52 4
        let uses : List Use :=
          [⟨rkCanopy, [0], if 3 * 2 ^ 20 < data then data else 0⟩,
           ⟨rkDdr, [0], resultBytes p.t p.rcd + 8 * planLen p.t p.rcd.duals⟩]
        match admitGrove d x.id i c dj now (probBound p.t p.rcd) cands p.t.grove with
        | .error k => refuseProblem (releaseItem d x.id i) x.id i k
        | .ok d' =>
          match admitUses d' x.id i c dj now uses with
          | .error k => refuseProblem (releaseItem d x.id i) x.id i k
          | .ok d' =>
            let ts := (d'.admitted.filter fun a => a.job = x.id && a.prob = i && a.kind = rkTile).map (·.inst)
            d'.updProb x.id i fun p => { p with reserved := ts }

/-- The problems of a job's records, as they stand in memory (R202). -/
def listProblems (d : Dev) (x : Job) (im : Image) : Except Nat (List Problem) :=
  match readChecked d x.q x.desc.addr (128 * x.desc.count) with
  | .error st => .error st
  | .ok l => .ok ((upto x.desc.count).map fun i => makeProblem d x im ((l.drop (128 * i)).take 128) i)

/-- The problems of a job that has ended before they have: refused with the job, each with its header and its fallback routed, or
aborted (R327, R382). (DEDUCED, notes/assumptions/118.) -/
def closeSolve (j : Nat) (d : Dev) : Dev :=
  match d.job j with
  | none => d
  | some x =>
    if !solveFamily x.desc.opcode || x.phase ≠ .ended then d
    else
      let ps := match d.image x.desc.image with
        | none => []
        | some im => match listProblems d x im with
          | .ok l => l
          | .error _ => []
      let d : Dev := if d.solv.problems.any fun p => p.job = j then d
        else { d with solv := { d.solv with problems := d.solv.problems ++ ps } }
      (d.solv.problems.filter fun p => p.job = j && p.phase ≠ .ended).foldl (fun d p =>
        if x.status = stRefused then refuseProblem (releaseItem d j p.idx) j p.idx x.cause
        else endProblem d j p.idx stAborted 8 .none) d

/-- The job's problem records are read and checked, and its problems admitted (R203, R324, R326). -/
def admitSolve (j : Nat) (d : Dev) : Dev :=
  match d.job j with
  | none => d
  | some x =>
    if x.phase = .ended then closeSolve j d
    else match d.image x.desc.image with
    | none => endJob d j stInvalid
    | some im =>
      match listProblems d x im with
      | .error st => endJob d j st
      | .ok ps =>
        let d := scanAll d j ((x.desc.addr, 128 * x.desc.count) :: ps.filterMap fun p =>
          if p.t.kind = 2 then some (p.rcd.t 112 8, 8 * recLe p.t.ext 1 1) else none)
        if x.desc.cls ≠ 0 && !x.replayed && ps.any fun p => p.deadline.isNone then endJob d j stInvalid
        else
          let d := { d with solv := { d.solv with problems := d.solv.problems ++ ps } }
          let d := (upto x.desc.count).foldl (admitProblem x im) d
          let d := if x.desc.cls ≠ 0 && d.solv.problems.any fun p => p.job = j && p.phase = .queued then d.forCount 0 else d
          endSolveJob d j

/-- A problem that takes its xhat or newest sample from a stream FIFO waits there (R375); a replayed one is fed from the
recording (R348). -/
def waitFifo (x : Job) (d : Dev) (p : Problem) : Dev :=
  if p.phase ≠ .queued || p.rcd.x0Src = 0 then d
  else
    let n := p.rcd.x0Src - 1
    if x.replayed then
      match (x.fed.filter fun e => e.1 = n)[((d.solv.problems.filter fun q => q.job = p.job && q.idx < p.idx && q.rcd.x0Src = n + 1).length)]? with
      | some e => d.updProb p.job p.idx fun q => { q with taken := some (e.2, d.now) }
      | none => d
    else
      let f : Fifo := mapGet {} d.fifos.stream n
      { d with fifos := { d.fifos with stream := mapSet {} d.fifos.stream n { f with waiters := f.waiters ++ [(p.job, p.idx)] } } }

/-- The job's problems may start. -/
def runSolve (j : Nat) (d : Dev) : Dev :=
  match d.job j with
  | none => d
  | some x => (d.solv.problems.filter fun p => p.job = j).foldl (waitFifo x) d

/-! ### Warm start (R209, R211, R215, R216, R258) -/

/-- The point that follows `p` on the way to a leaf: the next of its node, then the principal child's first (R258). -/
def nextPt (t : Template) (w : Vec) (sp : List PtSpec) (p : Nat) : Option Nat :=
  match sp[p]? with
  | none => none
  | some x =>
    if x.term then none
    else match sp[p + 1]? with
      | some y => if y.node = x.node then some (p + 1) else
          (principalChild (treeNodes t) w x.node).bind fun c => sp.findIdx? fun y => y.node = c
      | none => none

/-- `s` stages later, stopping at the last point that has inputs, or at the terminal point. -/
def laterPt (t : Template) (w : Vec) (sp : List PtSpec) (inputs : Bool) : Nat → Nat → Nat
  | 0, p => p
  | s + 1, p => match nextPt t w sp p with
    | none => p
    | some q =>
      if inputs && (match sp[q]? with
        | some y => y.term
        | none => true) then p else laterPt t w sp inputs s q

/-- A stored iterate shifted by `s` stages. The equation into a node's first point is not shifted (R258). For multipliers R215 does not
say what repeats beyond the stored horizon: those of the rows repeat stage N - 1, as inputs do, a terminal point keeping its own, and
those of the equations repeat the last, as states do (DESIGN CHOICE, notes/assumptions/130). -/
def shiftIterate (t : Template) (w : Vec) (s : Nat) (it : Iterate) : Iterate :=
  let sp := shape t true
  let ps := sp.zip (upto sp.length)
  let state (p : Nat) : Nat := laterPt t w sp false s p
  let input (e : PtSpec × Nat) : Nat := if e.1.term then e.2 else laterPt t w sp true s e.2
  let first (e : PtSpec × Nat) : Bool := match e.1.parent with
    | none => false
    | some q => match sp[q]? with
      | some y => y.node ≠ e.1.node
      | none => false
  { x := ps.map fun e => it.x.getD (state e.2) []
    u := ps.map fun e => if e.1.term then [] else it.u.getD (input e) []
    pi := ps.map fun e => it.pi.getD (if first e then e.2 else state e.2) []
    lam := ps.map fun e => it.lam.getD (input e) [] }

/-- The shift of an entry in use: WARM_SHIFT × age (R215); a KIND 1 entry shifts by its new samples. -/
def warmShiftOf (p : Problem) (w : WarmEntry) : Nat :=
  if p.t.kind = 1 then (p.est.map (·.d)).getD 0 else p.rcd.warmShift * w.age

/-- The slot's entry as the problem finds it: none where the slot is empty or counts as empty, and whether its signature
differs (R215, R216). -/
def findWarm (d : Dev) (p : Problem) : Option WarmEntry :=
  if !d.warmOn || p.rcd.warmSlot = 0xFFFF then none
  else match d.warmEntry p.image p.rcd.warmSlot with
    | none => none
    | some w => if p.t.kind ≠ 1 && decide (p.t.n ≤ p.rcd.warmShift * w.age) then none else some w

/-- The slot that a problem names is read: what stands there is checked, and an entry found uncorrectable is discarded (R443, R448). -/
def scanWarm (d : Dev) (p : Problem) : Dev :=
  if d.flaws = [] then d
  else
    let before := (d.solv.warm.takeWhile fun w => !(w.image = p.image && w.slot = p.rcd.warmSlot)).map warmSize
    match d.warmEntry p.image p.rcd.warmSlot with
    | some w => scanMem d (some p.job) ekJob (canopyBase + before.foldl (· + ·) 0) (warmSize w)
    | none => d

/-- The template's signature is the entry's. -/
def warmFits (p : Problem) (w : WarmEntry) : Bool := w.signature = p.t.signature

/-- WARM_STATE of a KIND 0 or 2 problem (R216). -/
def warmStateOf (d : Dev) (p : Problem) : Nat :=
  if !d.warmOn || !p.rcd.warmUse || p.rcd.warmSlot = 0xFFFF then 0
  else match findWarm d p with
    | none => 2
    | some w => if warmFits p w then 1 else 3

/-! ### Estimation at problem start (R239, R243) -/

/-- The newest sample's number. -/
def Problem.newest (p : Problem) : Nat := p.rcd.t 108 4

/-- A sample as the buffer holds it (R237). -/
def readSample (d : Dev) (p : Problem) (n : Nat) : Except Nat Sample :=
  -- a newest record that comes through a FIFO takes its place before any record is read
  let gone := p.rcd.x0Src ≠ 0 && n % 256 = p.newest % 256 && n ≠ p.newest
  match readAddr d (p.rcd.x0Addr + n % 256 * sampleBytes p.t) (sampleBytes p.t) with
  | .error e => .error e
  | .ok l =>
    .ok { absent := gone || decide (recLe l 0 4 ≠ n % 2 ^ 32), present := recLe l 4 4,
          y := (upto p.t.ny).map fun j => recLe l (16 + 8 * j) 8 }

/-- Samples `a`, `a + 1`, …, `n` of them, modulo 2^32. -/
def readSamples (d : Dev) (p : Problem) (a n : Nat) : Except Nat (List Sample) :=
  (upto n).foldl (fun r k => match r with
    | .error e => .error e
    | .ok l => match readSample d p ((a + k) % 2 ^ 32) with
      | .error e => .error e
      | .ok s => .ok (l ++ [s])) (.ok [])

/-- The mean and the lower triangle of a square root, row by row. -/
def gaussOf (n : Nat) (l : List Nat) : Gauss :=
  { x := l.take n
    s := (upto n).map fun i => (upto n).map fun c => if c ≤ i then l.getD (n + i * (i + 1) / 2 + c) 0 else 0 }

/-- x̄ and S̄ at PRIOR_ADDR (R238). -/
def readPrior (d : Dev) (p : Problem) : Except Nat Gauss :=
  let n := p.t.nx + p.t.nx * (p.t.nx + 1) / 2
  match readAddr d (p.rcd.t 112 8) (8 * n) with
  | .error e => .error e
  | .ok l => .ok (gaussOf p.t.nx (words64 l n))

/-- The entry the estimator goes on from: present, of this signature, and not too far behind (R239); with its WARM_STATE, and the shift
d, which a slot that holds no n_s leaves open (DESIGN CHOICE, notes/assumptions/2). -/
def estWarm (d : Dev) (p : Problem) : Option EstSlot × Nat × Nat :=
  match findWarm d p with
  | none => (none, 2, d.free16)
  | some w =>
    let k := match w.est with
      | some e => (p.newest + 2 ^ 32 - e.ns) % 2 ^ 32
      | none => d.free16
    if !warmFits p w then (none, 3, k)
    else match w.est with
      | none => (none, 2, k)
      | some e => if p.t.newMax < k then (none, 2, k) else (some e, 1, k)

/-! ### The filter over samples (R237, R239 to R241) -/

/-- The window position of sample `n`, clamped to the window. -/
def Problem.posOf (p : Problem) (n : Nat) : Nat := p.t.n - (p.newest + 2 ^ 32 - n) % 2 ^ 32

/-- One new sample predicted, gated and applied (R239 to R241). -/
def filterSample (p : Problem) (pts : List Pt) (e : EstRun) (x : Nat × Sample) : Calc EstRun := do
  let k := p.posOf x.1
  let f ← predictFrom p.t pts (k - 1) e.filter
  match pts[k]? with
  | none => pure e
  | some pt => do
    let r ← updateGated p.t pt x.2 f e.gated e.nisMax
    pure { e with filter := r.1, gates := mapSet 0 e.gates (x.1 % 256) r.2.1, gated := r.2.2.1, nisMax := r.2.2.2,
                  absent := e.absent + b2n x.2.absent }

/-- Sample numbers from `a`, `n` of them. -/
def sampleNums (a n : Nat) : List Nat := (upto n).map fun i => (a + i) % 2 ^ 32

/-! ### Stored problem data (R198 to R200, R252, R253) -/

/-- The coefficient block of a template (R195). -/
def coefBlock (d : Dev) (p : Problem) : List Byte :=
  match d.image p.image with
  | none => []
  | some im => (im.bytes.drop p.t.coefOffset).take p.t.coefBytes

/-- The points assembled from the parameters, weighted for KIND 2, each with the flags raised. -/
def assemble (block : List Byte) (t : Template) (perStage : Bool) (params : Mat) (weights : Vec) : List (Pt × Fl) :=
  let nodes := treeNodes t
  (shape t perStage).map fun s =>
    let e := assemblePt t block params s
    if t.kind = 2 then
      let om := nodeSum nodes weights e.1.node
      (weightPt om.1 e.1, e.2 ||| om.2 ||| weightFlags om.1 e.1)
    else e

/-- Parameters as vectors. -/
def paramVecs (t : Template) (perStage : Bool) (l : List Byte) : Mat :=
  (upto (vecCount t perStage)).map fun v => (upto t.np).map fun i => recLe l (8 * (v * t.np + i)) 8

/-- Flags merged into a tile's register (R80). -/
def mergeFlags (d : Dev) (t : Nat) (fl : Fl) : Dev :=
  { d with regs := bankSet d.regs (rTileFpFlags + 0x400 * t) (bankWord d.regs (rTileFpFlags + 0x400 * t) ||| BitVec.ofNat 32 fl.toNat) }

/-- The flags of a problem's grove tiles, by their number in the grove. -/
def mergeTiles (d : Dev) (p : Problem) (fl : Nat → Fl) : Dev :=
  (p.tiles.zip (upto p.tiles.length)).foldl (fun d e => mergeFlags d e.1 (fl e.2)) d

/-- The flags of work on points: each counts on the tile that assembles the problem, or, inline, on the grove tile that holds the point
(R80, R200, R229; DEDUCED, notes/assumptions/134). -/
def mergePts (d : Dev) (p : Problem) (l : List (Pt × Fl)) : Dev := match p.asm with
  | some t => mergeFlags d t (l.foldl (fun a e => a ||| e.2) flNone)
  | none => mergeTiles d p fun j => (l.filter fun e => holder p.t e.1 = j).foldl (fun a e => a ||| e.2) flNone

/-! ### Tiles for a problem (R217, R322, R328, R329) -/

/-- Tile `t` is at rest and may take work; one that waits for its test may not (R55). -/
def tileFree (d : Dev) (t : Nat) : Bool :=
  d.fld tileStateState t = tsReady && !d.flag tileRoleChanging t && (d.tile t).job.isNone && (d.tile t).drainTo.isNone &&
    !(d.tile t).untested

/-- An earlier problem on the same slot has not ended (R217); so counts an earlier job of the ring whose records have not yet
been read. -/
def slotBusy (d : Dev) (p : Problem) : Bool :=
  p.rcd.warmSlot ≠ 0xFFFF &&
    (d.solv.problems.any (fun q => q.image = p.image && q.rcd.warmSlot = p.rcd.warmSlot && q.phase ≠ .ended &&
        (decide (q.job < p.job) || (q.job = p.job && decide (q.idx < p.idx)))) ||
      match d.job p.job with
      | none => false
      | some x => d.jobs.any fun y => y.q = x.q && decide (y.id < x.id) && solveFamily y.desc.opcode && !y.admitted &&
          y.phase = .waiting && y.desc.image = p.image)

/-- The problem waits for nothing but a tile. -/
def probReady (d : Dev) (p : Problem) : Bool :=
  p.phase = .queued && (p.rcd.x0Src = 0 || p.taken.isSome || p.cut.isSome) && !slotBusy d p &&
    match d.job p.job with
    | some x => x.phase = .running && x.fault.isNone
    | none => false

/-- The place of an item in the order of admission. -/
def admOrder (d : Dev) (j i : Nat) : Nat :=
  (d.admitted.findIdx? fun a => a.kind = rkTile && a.job = j && a.prob = i).getD d.admitted.length

/-- Ready deadline work reserved on tile `t` that runs before an item of deadline and place `dl`: by deadline, then in the order of
admission (R328). -/
def sooner (d : Dev) (t : Nat) (dl : Option (Nat × Nat)) : Bool :=
  let before (a n : Nat) : Bool := match dl with
    | none => true
    | some b => decide (a < b.1) || (a = b.1 && decide (n < b.2))
  (d.solv.problems.any fun q => q.reserved.contains t && probReady d q && (match q.deadline with
    | some a => before a (admOrder d q.job q.idx)
    | none => false)) ||
    ((d.tile t).items.any fun i => match i.deadline with
      | some a => before a (admOrder d i.job 0)
      | none => false)

/-- The SOLVE tiles a problem starts on now, of those Forester may choose (R322); the tile under suspicion is left out (R222). -/
def pickSolve (d : Dev) (p : Problem) : Option (List Nat × Dev) :=
  let dl := if p.reserved = [] then none else p.deadline.map fun t => (t, admOrder d p.job p.idx)
  if p.reserved ≠ [] then
    if p.reserved.all fun t => tileFree d t && !sooner d t dl then some (p.reserved, d) else none
  else match d.image p.image with
    | none => none
    | some im =>
      let c := (solveTiles d im).filter fun t => tileFree d t && !sooner d t none && !p.firstTiles.contains t &&
        (!hasDeadlineWork d t || decide (probBound p.t p.rcd ≤ d.blockCycles))
      if c.length < p.t.grove then none else some (chooseN p.t.grove c d)

/-- With them, the GENERAL tile that assembles the data where the template asks for one: one tile, at rest and with no deadline work
ready (R200; DESIGN CHOICE, notes/assumptions/134). -/
def pickTiles (d : Dev) (p : Problem) : Option (List Nat × Option Nat × Dev) :=
  match pickSolve d p with
  | none => none
  | some (ts, d) =>
    if p.t.asmPlace = 0 then some (ts, none, d)
    else match choose d (((d.image p.image).elim [] fun im => roleTiles d im 1).filter fun t => tileFree d t && !sooner d t none) with
      | (some t, d) => some (ts, some t, d)
      | (none, _) => none

/-! ### PROBLEM_START -/

/-- What a problem reads when it starts, by address and length. -/
def inputRanges (p : Problem) : List (Nat × Nat) :=
  [(p.rcd.x0Addr, if p.t.kind = 1 || p.rcd.x0Src ≠ 0 then 0 else 8 * p.t.nx),
   (p.rcd.paramAddr, 8 * p.t.np * vecCount p.t p.rcd.perStage)] ++
    (if p.t.kind = 2 then [(p.rcd.t 112 8, 8 * recLe p.t.ext 1 1), (p.rcd.t 120 8, if p.rcd.t 120 8 = 0 then 0 else 2 * (treeNodes p.t).length)]
     else if p.t.kind = 1 then [(p.rcd.t 112 8, 8 * (p.t.nx + p.t.nx * (p.t.nx + 1) / 2))] else [])

/-- Where the records of `n` samples from `a` lie (R237). -/
def sampleRanges (p : Problem) (a n : Nat) : List (Nat × Nat) :=
  (sampleNums a n).map fun k => (p.rcd.x0Addr + k % 256 * sampleBytes p.t, sampleBytes p.t)

/-- What a problem reads when it starts: xhat, parameters, leaf weights. -/
structure Inputs where
  xhat : Vec
  params : Mat
  weights : Vec
  map : List Nat

def readInputs (d : Dev) (p : Problem) : Except Nat Inputs := do
  let x ← if p.t.kind = 1 || p.rcd.x0Src ≠ 0 then .ok [] else (readAddr d p.rcd.x0Addr (8 * p.t.nx)).map fun l => words64 l p.t.nx
  let l ← if p.t.np = 0 then .ok [] else readAddr d p.rcd.paramAddr (8 * p.t.np * vecCount p.t p.rcd.perStage)
  let w ← leafWeights d p.t p.rcd
  let m ← readSeqMap d p
  .ok ⟨x, paramVecs p.t p.rcd.perStage l, w, m⟩

/-- The estimator's run as it begins: prior and filter from the slot, or from PRIOR_ADDR (R239, R243). Of the samples that leave the
window, those newer than n_s are gated first, as the filter gates them. -/
def startEst (d : Dev) (p : Problem) (pts : List Pt) : Except Nat (EstRun × Nat) := do
  let w := estWarm d p
  let k := w.2.2
  let given ← readPrior d p
  match w.1 with
  | none => .ok ({ d := k, filter := given, prior := given }, w.2.1)
  | some e =>
    let first := (e.ns + 2 ^ 32 - p.t.n) % 2 ^ 32
    let old ← readSamples d p first k
    let m := k - (p.t.n + 1)
    let early ← readSamples d p ((e.ns + 1) % 2 ^ 32) m
    let g := (((sampleNums (e.ns + 1) m).zip early).foldlM (filterSample p pts) { filter := e.filter } : Calc EstRun).out.1
    let leaving := ((upto k).zip old).map fun q =>
      (mapGet 0 (if q.1 ≤ p.t.n then e.gates else g.gates) ((first + q.1) % 256), q.2)
    let c := if p.t.arrival = 0 then (given, flNone, false) else (carryPrior p.t pts leaving e.prior).out
    .ok ({ d := k, filter := e.filter, prior := c.1, gates := e.gates, fl := c.2.1, nan := c.2.2 }, 1)

/-- The sample records that the estimator's start reads. -/
def startSamples (d : Dev) (p : Problem) : List (Nat × Nat) := match (estWarm d p).1 with
  | none => []
  | some e =>
    let k := (p.newest + 2 ^ 32 - e.ns) % 2 ^ 32
    sampleRanges p ((e.ns + 2 ^ 32 - p.t.n) % 2 ^ 32) k

/-- The stored plan written to FALLBACK_ADDR (R218, R248): the stored iterate shifted, or for KIND 1 the prior propagated. -/
def writeFallback (d : Dev) (p : Problem) (pts : List Pt) : Dev :=
  if p.rcd.fallbackKind ≠ 1 || (p.t.kind = 1 && p.t.estMode = 1) then d
  else
    let plan : Option Iterate :=
      if p.t.kind = 1 then
        match p.est with
        | some e => if p.warmState = 1 then some (coldStart p.t pts e.prior.x) else none
        | none => none
      else match findWarm d p with
        | some w => if warmFits p w then w.iter.map (shiftIterate p.t p.weights (p.rcd.warmShift * w.age)) else none
        | none => none
    match plan with
    | none => d
    | some it => (writeAddr d p.rcd.fallbackAddr (bytes64 (planValues p.t pts p.rcd.duals it))).1

/-- A problem whose record or map proves bad at its start (R261): the job goes on without it. -/
def startInvalid (d : Dev) (p : Problem) : Dev :=
  endSolveJob (releaseItem (invalidProblem d p.job p.idx) p.job p.idx) p.job

/-- The problem starts on its tiles: its job's inputs, its warm slot, its fallback; then assembly begins (R215 to R218, R239,
R261). A problem that Forester starts again keeps its first warm-start snapshot (R222). -/
def startProblem (x : Job) (p : Problem) (ts : List Nat) (asm : Option Nat) (d : Dev) : Dev :=
  let d := scanAll (scanWarm d p) p.job (inputRanges p ++ if p.t.kind = 1 then startSamples d p else [])
  match readInputs d p with
  | .error st => faultProblem d p.job p.idx st
  | .ok inp =>
    if seqMapBad d inp.map then startInvalid d p
    else
      let pts := (assemble (coefBlock d p) p.t p.rcd.perStage inp.params inp.weights).map (·.1)
      let p1 := { p with xhat := inp.xhat, params := inp.params, weights := inp.weights }
      let est : Except Nat (Option EstRun × Nat) :=
        if p.t.kind = 1 then (startEst d p pts).map fun r => (some r.1, r.2) else .ok (none, warmStateOf d p)
      match est with
      | .error st => faultProblem d p.job p.idx st
      | .ok (er, ws) =>
        let warm := if ws = 1 && p.rcd.warmUse then findWarm d p else none
        let p2 := { p1 with est := if p.reexec then p.est0 else er
                            est0 := if p.reexec then p.est0 else er
                            map := if p.reexec then p.map else some inp.map
                            warmState := if p.reexec then p.warmState else ws
                            warm := if p.reexec then p.warm else warm
                            warmRejected := if p.reexec then p.warmRejected else decide (ws = 3)
                            tMeas := match p.taken with
                              | some e => e.2
                              | none => d.now
                            pts := pts, phase := .assembling, tiles := ts, asm := asm, it := 0, best := none, lastCert := 0, pivots := 0 }
        let d := d.bump.updProb p.job p.idx fun _ => p2
        let d := if ws = 3 && !p.reexec then d.solvCount 5 else d
        let d := writeFallback d p2 pts
        let d := p2.atWork.foldl (fun d t => startTile d t x 0 true) d
        let d := d.updActive
        match p.deadline with
        | some dl => if dl ≤ d.now then endBestOrFallback d p.job p.idx 2 else d
        | none => d

/-- A problem of a job starts if it is ready and its tiles are free. -/
def problemStart (j i : Nat) (d : Dev) : Dev :=
  match d.prob j i, d.job j with
  | some p, some x =>
    if probReady d p then
      match pickTiles d p with
      | some (ts, asm, d) => startProblem x p ts asm d
      | none => d
    else d
  | _, _ => d

/-! ### ASSEMBLY_DONE (R199, R234, R237 to R247, R253) -/

/-- Present rows of a sample whose value is not finite (R237). -/
def nonfiniteRows (t : Template) (s : Sample) : Nat :=
  if s.absent then 0 else ((upto t.ny).filter fun j => bit s.present j && !f64Finite (vAt s.y j)).length

/-- The new samples of a problem: how many. On a cold start only the newest is gated (R239; DEDUCED, notes/assumptions/21). -/
def newSamples (p : Problem) (e : EstRun) : Nat := if p.warmState = 1 then e.d else 1

/-- The number of samples that the problem's end reads: those of the window, and new ones before it. -/
def usedSamples (p : Problem) (e : EstRun) : Nat := max (newSamples p e) (p.t.n + 1)

/-- The estimator's filter over the new samples, and the window's samples (R239); with the flags it raised. -/
def runFilter (d : Dev) (p : Problem) (e : EstRun) : Except Nat EstRun := do
  let all ← readSamples d p ((p.newest + 2 ^ 32 + 1 - usedSamples p e) % 2 ^ 32) (usedSamples p e)
  let k := newSamples p e
  let new := all.drop (all.length - k)
  let nums := sampleNums (p.newest + 2 ^ 32 + 1 - k) k
  -- a sample entering the window takes the gate record of the sample 256 before it
  let e := { e with gates := nums.foldl (fun g n => mapSet 0 g (n % 256) 0) e.gates, samples := all.drop (all.length - (p.t.n + 1)),
                    nonfinite := (all.map (nonfiniteRows p.t)).foldl (· + ·) 0, ran := true }
  let r := ((nums.zip new).foldlM (filterSample p p.pts) e : Calc EstRun).out
  .ok { r.1 with fl := e.fl ||| r.2.1, nan := e.nan || r.2.2 }

/-- The measurement rows that are used, and the arrival cost, added to the data (R242), with the flags and whether a NaN arose. -/
def addMeasurements (p : Problem) (e : EstRun) (pts : List Pt) : List (Pt × Fl × Bool) :=
  (pts.zip (upto pts.length)).map fun q =>
    let n := (p.newest + 2 ^ 32 - p.t.n + q.2) % 2 ^ 32
    let s := e.samples.getD q.2 { absent := true, present := 0, y := [] }
    let g := mapGet 0 e.gates (n % 256)
    let rows : Calc Pt := (upto p.t.ny).foldlM (fun x j =>
      let used := s.has j && match groupOfRow p.t j with
        | none => true
        | some k => !bit g k
      if used then addRow p.t.nx j (vAt s.y j) x else pure x) q.1
    (if q.2 = 0 then rows >>= addArrival p.t.nx e.prior else rows).out

/-- The start of the iterations (R209, R211). -/
def startIterate (p : Problem) (pts : List Pt) : Iterate :=
  match p.warm.bind (·.iter), p.warm with
  | some it, some w => methodWarm p.t pts (shiftIterate p.t p.weights (warmShiftOf p w) it)
  | _, _ =>
    let x0 := match p.est with
      | some e => e.prior.x
      | none => p.xhat
    methodCold p.t pts x0

/-- The NaN watch trips on one of the problem's tiles (R89); over the trap a deadline that has come wins (R88). -/
def nanTrap (d : Dev) (p : Problem) : Dev :=
  let d := vendorTrap d p.atWork (solveKey p)
  if p.due d then deadlineExpiry p.job p.idx d else endProblem d p.job p.idx stNanTrapped 5 .fallback

/-- Assembled data that is not valid ends the problem: NUMERIC_FAIL, or NAN_TRAPPED where the NaN watch is armed (R89, R199). -/
def assemblyFails (x : Job) (p : Problem) (nan : Bool) (d : Dev) : Dev :=
  if nan && x.nanWatch then nanTrap d p else endProblem d p.job p.idx stNumeric 4 .fallback

/-- Filter-only mode (R247): the filter's outcome is the problem's. -/
def endFilterOnly (p : Problem) (e : EstRun) (d : Dev) : Dev :=
  if gaussOk e.filter then
    endProblem d p.job p.idx stDone 0 (.iterate { it := 0, iter := { x := [[], e.filter.x] }, cert := {}, copy := 0xFF } 0)
  else endProblem d p.job p.idx stNumeric 4 .fallback

/-- The tile that assembled the data is free. -/
def freeAsm (d : Dev) (p : Problem) : Dev := (freeTiles d p.asm.toList).updProb p.job p.idx fun q => { q with asm := none }

/-- The problem's data are complete: it ends, or the iterations begin. A NaN trips an armed watch even where the data are valid (R89). -/
def beginIterations (x : Job) (p : Problem) (pts : List Pt) (ok nan : Bool) (d : Dev) : Dev :=
  if !ok || (nan && x.nanWatch) then assemblyFails x p nan d
  else
    let st := startIterate p pts
    let d := freeAsm d p
    let q := { p with pts := pts, start := st, cur := st }
    let d := d.updProb p.job p.idx fun q => { q with phase := .iterating, pts := pts, start := st, cur := st }
    -- the flags of the starting point's operations (DESIGN CHOICE, notes/assumptions/106)
    let d := mergeTiles d p fun j => Config.solveFlags (j :: 0 :: solveKey q)
    match p.replayStop with
    | some (0, c) => endBestOrFallback d p.job p.idx c
    | _ => d

/-- An estimation problem's data: the filter, and the terms that its samples and its prior add (R237 to R247). -/
def estimateDone (x : Job) (p : Problem) (e : EstRun) (pts : List Pt) (finite nan : Bool) (d : Dev) : Dev :=
  let ok := finite && pts.all (ptNoiseOk p.t)
  -- the newest sample that came through a FIFO is written to its place first (R237)
  let d := match p.taken with
    | some t => (writeAddr d (p.rcd.x0Addr + p.newest % 256 * sampleBytes p.t) (t.1.take (sampleBytes p.t))).1
    | none => d
  if !ok then assemblyFails x p nan d
  else
    let n := usedSamples p e
    let d := scanAll d p.job (sampleRanges p ((p.newest + 2 ^ 32 + 1 - n) % 2 ^ 32) n)
    match runFilter d { p with pts := pts } e with
    | .error st => faultProblem d p.job p.idx st
    | .ok e =>
      let d := d.updProb p.job p.idx fun q => { q with est := some e }
      let p := { p with est := some e }
      let d := match p.asm.toList ++ p.tiles with
        | t :: _ => mergeFlags d t e.fl
        | [] => d
      if e.nan && x.nanWatch then assemblyFails x p true d
      else if p.t.estMode = 1 then endFilterOnly p e d
      else
        let sOk := (upto p.t.nx).all fun k => f64Finite (mAt e.filter.s k k)
        let pOk := (upto p.t.nx).all fun k => f64Pos (mAt e.prior.s k k)
        let r := addMeasurements p e pts
        let d := mergePts d p (r.map fun q => (q.1, q.2.1))
        let pts := r.map (·.1)
        beginIterations x p pts (sOk && pOk && pts.all ptFinite) (r.any fun q => q.2.2) d

/-- Assembly of a problem ends. -/
def assemblyDone (j i : Nat) (d : Dev) : Dev :=
  match d.prob j i, d.job j with
  | some p, some x =>
    if p.phase ≠ .assembling || (p.rcd.x0Src ≠ 0 && p.taken.isNone) then d
    else
      let p := { p with xhat := match p.taken with
        | some e => words64 e.1 p.t.nx
        | none => p.xhat }
      let r := assemble (coefBlock d p) p.t p.rcd.perStage p.params p.weights
      let d := (mergePts d p r).updProb j i fun q => { q with xhat := p.xhat }
      let pts := r.map (·.1)
      let finite := pts.all ptFinite && p.weights.all f64Pos
      match p.est with
      | none => beginIterations x p pts finite (pts.any ptNan) d
      | some e => estimateDone x p e pts finite (pts.any ptNan) d
  | _, _ => d

end Sys2Proof.Machine
end

