-- ==== Sys2Proof/Machine/Fifo.lean ====
section
/-! DEFINITION. Stream FIFOs (R370, R372 to R377): producers, consumers, credits. -/

namespace Sys2Proof.Machine

def Dev.fifo (d : Dev) (n : Nat) : Fifo := mapGet {} d.fifos.stream n

def Dev.updFifo (d : Dev) (n : Nat) (f : Fifo → Fifo) : Dev :=
  { d with fifos := { d.fifos with stream := mapSet {} d.fifos.stream n (f (d.fifo n)) } }

/-- FIFO `n` is enabled and the FIFO store's check passed (R372). -/
def fifoOn (d : Dev) (n : Nat) : Bool := decide (n < 8) && d.flag streamCfgEnable n && !d.flag hostqStatusFifoCfgErr

/-- DEPTH and the payload size of FIFO `n` (R372, R373, R395). -/
def fifoDepth (d : Dev) (n : Nat) : Nat := min 32 (max 2 (d.fld streamCfgDepth n))
def fifoPayload (d : Dev) (n : Nat) : Nat := entryBytes (d.fld streamCfgEntry64 n) - 64

/-! ### Trigger events (R370) -/

/-- `n` slots of a completion ring are free. -/
def cqRoom (d : Dev) (c n : Nat) : Bool :=
  d.flag cqCfgEnable c && decide ((d.cq c).used + (d.cq c).reserved + n < cqSize d c)

/-- A trigger event of ring `k`: one pass of the armed list, whose completion slots are reserved at once; skipped and counted where the
ring is not armed, a pass has a job outstanding, or the slots are not free (R370). -/
def raiseTrigger (d : Dev) (k instant : Nat) : Dev :=
  match (d.sq k).armed with
  | none => d.incFld sqDiscardCount k
  | some n =>
    let c := d.fld sqCfgCq k
    if (d.sq k).pass.isSome || !cqRoom d c n then d.incFld sqDiscardCount k
    else (d.updSq k fun s => { s with pass := some ⟨0, instant, true⟩ }).updCq c fun s => { s with reserved := s.reserved + n }

/-- Ring `k` takes the events of source `src`; none before LOCK_DONE (R549). -/
def takesEvents (d : Dev) (k src : Nat) : Bool :=
  d.flag devStatusLockDone && sqRunning d k && d.flag sqCfgTriggered k && d.fld sqTrigSrc k = src

/-- An entry has completed in FIFO `n`: a trigger event of every ring that names it. -/
def fifoEvent (d : Dev) (n instant : Nat) : Dev :=
  (upto 64).foldl (fun d k => if takesEvents d k (n + 1) then raiseTrigger d k instant else d) d

/-- The global count has reached a multiple of ring `k`'s period since the ring last looked: an event at that count (R370); none before
the first synchronisation under DL_WAIT_SYNC (R400). -/
def countEvent (d : Dev) (k : Nat) : Dev :=
  if !takesEvents d k 9 then d
  else
    let p := d.fld sqTrigPeriodUs k
    let g := d.gcount
    let last := (d.sq k).lastTick
    let d := d.updSq k fun s => { s with lastTick := g }
    if p = 0 || waitSync d || decide (g / p ≤ last / p) then d else raiseTrigger d k (1000 * (g / p * p))

/-- The rings that the global count triggers. -/
def countEvents (d : Dev) : Dev := (upto 64).foldl countEvent d

/-! ### Producers and consumers -/

/-- A complete good entry joins FIFO `n`. (DEDUCED, notes/assumptions/69.) -/
def fifoPut (d : Dev) (n src instant : Nat) (payload : List Byte) (frame : List Byte := []) : Dev :=
  let d := d.updFifo n fun f =>
    { f with entries := f.entries ++ [{ seq := f.nextSeq % 2 ^ 32, bad := false, src := src, tIngress := instant, payload := payload, frame := frame }],
             nextSeq := f.nextSeq + 1 }
  fifoEvent d n instant

/-- A free entry, for which the producer holds a credit (R374). -/
def fifoFree (d : Dev) (n : Nat) : Bool := decide ((d.fifo n).entries.length < fifoDepth d n)

/-- A job's push: the entry is written where one is free, else the push waits (R374). -/
def fifoPush (d : Dev) (j n : Nat) (payload : List Byte) : Dev :=
  if fifoFree d n && (d.fifos.pushes.all fun p => p.2.1 ≠ n) then endJob (fifoPut d n 0xFF d.now payload) j stDone
  else { d with fifos := { d.fifos with pushes := d.fifos.pushes ++ [(j, n, payload)] } }

/-- The oldest push that waits for FIFO `n` goes on when an entry is free. -/
def fifoPump (d : Dev) (n : Nat) : Dev :=
  match d.fifos.pushes.find? fun p => p.2.1 = n with
  | none => d
  | some p =>
    if fifoFree d n then
      endJob (fifoPut { d with fifos := { d.fifos with pushes := d.fifos.pushes.erase p } } n 0xFF d.now p.2.2) p.1 stDone
    else d

/-- A network frame's entry (R373 to R375): into a free entry, or in place of the oldest not begun, or discarded. A bad entry is
freed without being offered. `frame` is the frame itself, if it came through bridge port 4. -/
def fifoFrame (d : Dev) (n src instant : Nat) (bad : Bool) (payload : List Byte) (frame : List Byte := []) : Dev :=
  let put (d : Dev) : Dev :=
    if bad || decide (fifoPayload d n < payload.length) then
      (d.updFifo n fun f => { f with nextSeq := f.nextSeq + 1 }).incFld streamCnt1Bad n
    else fifoPut d n src instant payload frame
  if fifoFree d n then put d
  else if !d.flag streamCfgFullPolicy n then d.incFld streamCnt0Dropped n
  else match (d.fifo n).entries.find? fun e => !e.begun with
    | none => d.incFld streamCnt0Dropped n
    | some e => put ((d.updFifo n fun f => { f with entries := f.entries.erase e }).incFld streamCnt0Replaced n)

/-- The entry that a consumer takes, and the older ones that are freed with it (R375). -/
def fifoPick (d : Dev) (n : Nat) : Option (FifoEntry × List FifoEntry) :=
  let es := (d.fifo n).entries.filter fun e => !e.begun
  if d.flag streamCfgTake n then
    match es.getLast? with
    | none => none
    | some e => some (e, es.dropLast)
  else es.head?.map fun e => (e, [])

/-- The consumer first in line takes an entry; a deadline that falls at the same time wins (R375, R377). The entry goes into the recording
of the consumer's image, with the frame that it came from (R346; DEDUCED, notes/assumptions/71). -/
def fifoTake (n j i : Nat) (d : Dev) : Dev :=
  match (d.fifo n).waiters.head?, d.prob j i, fifoPick d n with
  | some w, some p, some (e, old) =>
    let late := match p.deadline with
      | some t => decide (t ≤ d.now)
      | none => false
    if w ≠ (j, i) || late || p.phase = .ended then d
    else
      let d := d.updFifo n fun f =>
        { f with waiters := f.waiters.erase (j, i),
                 entries := (f.entries.filter fun x => !old.contains x).map fun x => if x = e then { x with begun := true } else x }
      let d := d.incFld streamCnt1Skipped n old.length
      let d := if e.frame = [] then d else recordOf d j reFrame 0 0 e.frame
      let d := recordOf d j reFifo n 0 e.payload
      old.foldl (fun d _ => fifoPump d n)
        (d.updProb j i fun q => { q with taken := some (e.payload, e.tIngress), cut := none, tMeas := e.tIngress })
  | _, _, _ => d

/-- FIFO_TAKE (R375). -/
def execFifoTake (n j i : Nat) (s : State) : Out := onDev (fifoTake n j i) s

/-- CT × 64 bytes of an entry have landed: the problem that waits first is released to start (R376). -/
def fifoCut (n j i landed : Nat) (d : Dev) : Dev :=
  let ct := d.fld streamCfgCt n
  match (d.fifo n).waiters.head?, d.prob j i with
  | some w, some p =>
    if w ≠ (j, i) || !fifoOn d n || ct = 0 || decide (landed < 64 * ct) || p.phase ≠ .queued then d
    else d.updProb j i fun q => { q with cut := some (n, landed) }
  | _, _ => d

/-- FIFO_CUT_THROUGH (R376). -/
def execFifoCutThrough (n j i landed : Nat) (s : State) : Out := onDev (fifoCut n j i landed) s

/-- A consumer has finished reading an entry: the entry is free, and a waiting push takes it (R374). -/
def fifoCredit (n seq : Nat) (d : Dev) : Dev :=
  match (d.fifo n).entries.find? fun e => e.begun && e.seq = seq with
  | none => d
  | some e => fifoPump (d.updFifo n fun f => { f with entries := f.entries.erase e }) n

/-- FIFO_CREDIT_RETURN (R374). -/
def execFifoCreditReturn (n seq : Nat) (s : State) : Out := onDev (fifoCredit n seq) s

end Sys2Proof.Machine
end

