-- ==== Sys2Proof/Machine/Net.lean ====
section
/-! DEFINITION. The bridge, its time-stamps, launched frames and CAN (R400 to R414, R521). Stamps on commands are MAC samples in
units of 1/32 ns of device time (DESIGN CHOICE, notes/assumptions/39). -/

namespace Sys2Proof.Machine

/-! ### Time-stamps (R406, R407) -/

/-- RX and TX corrections of a port's rate in 1/32 ns (R407); RSVD codes are taken as 0. -/
def macCorrection (d : Dev) (n : Nat) : Nat × Nat := match d.fld netPortCfgRate n with
  | 1 => (1484, 1232)
  | 2 => (2664, 2256)
  | 3 => (6352, 5328)
  | 4 => (6760, 5632)
  | _ => (920, 688)

/-- The ingress stamp in 1/32 ns; the management MAC of port 5 has no correction (R402, R406). -/
def ingressStamp (d : Dev) (n sample : Nat) : Nat :=
  if n = 5 then sample else sample - (macCorrection d n).1 - 2 * d.fld netPortPhylatRx n

/-- The egress stamp in 1/32 ns; port 4 has no PHY (R402). -/
def egressStamp (d : Dev) (n sample : Nat) : Nat := if n = 4 then sample else sample + (macCorrection d n).2 + 2 * d.fld netPortPhylatTx n

/-- Time of one byte at the port's rate in tenths of a ns; port 4 runs at 40 Gb/s (R402). -/
def byteTime (d : Dev) (n : Nat) : Nat := if n = 4 then 2 else match d.fld netPortCfgRate n with
  | 1 => 16
  | 2 => 32
  | 3 | 4 => 80
  | _ => 8

/-! ### 802.1AS (R398, R400) -/

/-- The range of TIME_INC (R398). -/
def incLow : Nat := 0x27FAE147B
def incHigh : Nat := 0x28051EB85
def clampInc (v : Nat) : Nat := max incLow (min incHigh v)

/-- The firmware disciplines device time by domain 0: not on a ring module other than module 0 (R400, R420). -/
def servoOn (d : Dev) : Bool :=
  fwReady d && d.flag timeCtrlServoEn && (decide (d.fld plkStatusCount < 2) || d.fld plkStatusPosition = 0)

/-- An interval is measured: the offset and the new increment depend on the servo and on path delays that the manual does not give,
and are free. SYNCED sets after 16 intervals in a row within ±100 ns. (DESIGN CHOICE, notes/assumptions/78.) -/
def syncReceive (d : Dev) : Dev :=
  if !servoOn d then d
  else
    let off := sx 64 (Config.freeU64 d.freeCtr).toNat
    let inc := clampInc (Config.freeU64 (d.freeCtr + 1)).toNat
    let near := decide (-100 ≤ off ∧ off ≤ 100)
    let n := if near then d.net.inRange + 1 else 0
    let d := (d.bump.bump).setFld timeIncInc inc
    let d : Dev := { d with net := { d.net with inRange := min 16 n, measured := min 16 (d.net.measured + 1) } }
    if 16 ≤ n then { (d.setFld timeStatusSynced 1).setFld timeStatusHoldover 0 with synced := true } else d

/-- SYNC_TIMEOUT (R400). -/
def execSyncTimeout (s : State) : Out :=
  onDev (fun d => if !servoOn d then d
    else
      let d := (d.setFld timeStatusSynced 0).setFld timeStatusHoldover 1
      { d with net := { d.net with inRange := 0, measured := 0 } }) s

/-- Device time steps forward to the grandmaster once, before SYNCED first sets (R400). -/
def timeSyncStep (gm : Nat) (d : Dev) : Dev :=
  if servoOn d && d.flag timeCtrlDlWaitSync && !d.synced && !d.flag timeStatusStepped && decide (16 ≤ d.net.measured) && decide (d.now < gm)
    then ({ d with time := gm * 2 ^ 32 } : Dev).setFld timeStatusStepped 1
  else d

/-- TIME_SYNC_STEP (R400). -/
def execTimeSyncStep (gm : U64) (s : State) : Out := onDev (timeSyncStep gm.toNat) s

/-! ### Gate control (R404) -/

/-- Of the entries from number `i` on, which begin `start` ns into a cycle of `cyc` ns: the one in force `pos` ns into the cycle, and
what is left of its interval. The last entry lasts to the end of the cycle, and no entry lasts longer. -/
def gateFrom (cyc pos : Nat) : Nat → Nat → List (Nat × Nat) → Nat × Nat
  | i, _, [] => (i - 1, cyc - pos)
  | i, start, e :: l =>
    let stop := if l = [] then cyc else min cyc (start + e.2)
    if pos < stop then (i, stop - pos) else gateFrom cyc pos (i + 1) stop l

/-- The entry of a list that is in force at time `t`: its index, and what is left of its interval. -/
def gateAt (g : GateList) (t : Nat) : Nat × Nat :=
  let cyc := max 1 g.cycle
  gateFrom cyc ((t - g.base) % cyc) 0 0 g.entries

/-- Nanoseconds for which the gate of class `c` stays open from time `t`; none where the next `n` intervals are all open. -/
def openFor (g : GateList) (c t : Nat) : Nat → Option Nat
  | 0 => none
  | n + 1 =>
    let e := gateAt g t
    if bit ((g.entries.getD e.1 (0, 0)).1) c then (openFor g c (t + e.2) n).map (e.2 + ·) else some 0

/-- A frame of class `c` and `len` bytes may start on port `n` now: its gate is open, and its last bit leaves before the gate next
closes. A gate that stays open for more intervals than a cycle has never closes. A port without a list, and port 5, has every gate
open. -/
def gateOpen (d : Dev) (n c len : Nat) : Bool := match (d.port n).gates with
  | none => true
  | some g => if g.entries = [] then true
    else bit ((g.entries.getD g.idx (0, 0)).1) c &&
      (openFor g c d.now (g.entries.length + 2)).all fun t => decide ((len + 8) * byteTime d n ≤ 10 * t)

/-- The first start of a cycle at or after the base time that is not past (R404; DEDUCED, notes/assumptions/83). -/
def cycleStart (base cycle now : Nat) : Nat :=
  let cyc := max 1 cycle
  base + (now - base + cyc - 1) / cyc * cyc

/-- The admin list of port `n` as its registers stand (R424): none for LEN 0. -/
def adminList (d : Dev) (n : Nat) : GateList :=
  { entries := (upto (min 64 (d.fld netPortGclLen n))).map fun i =>
      (d.fld netGclEntryGates (64 * n + i), d.fld netGclEntryInterval (64 * n + i)),
    cycle := d.fld netPortCycleNs n, base := d.fld netPortBaseNs n,
    due := cycleStart (d.fld netPortBaseNs n) (d.fld netPortCycleNs n) d.now }

/-- CHANGE is written: the admin list is to be installed at its base time. (DEDUCED, notes/assumptions/83.) -/
def gclChangeBit (n : Nat) (d : Dev) : Dev :=
  if n < 5 then (d.setFld netPortGclChange 1 n).updPort n fun p => { p with admin := some (adminList d n) } else d

/-- The cycle start at which the admin list takes effect has come: the list is in force and CHANGE clears. -/
def gclInstall (n : Nat) (d : Dev) : Dev := match (d.port n).admin with
  | none => d
  | some g => if d.now < g.due then d
    else (d.updPort n fun p => { p with gates := some { g with idx := (gateAt g d.now).1 }, admin := none }).setFld netPortGclChange 0 n

/-- GCL_INSTALL (R404). -/
def execGclInstall (n : Nat) (s : State) : Out := onDev (gclInstall n) s

/-- GATE_INTERVAL_END (R404): the gate states of the entry in force apply. -/
def execGateIntervalEnd (n : Nat) (s : State) : Out :=
  onDev (fun d => match (d.port n).gates with
    | none => d
    | some g => d.updPort n fun p => { p with gates := some { g with idx := (gateAt g d.now).1 } }) s

/-! ### Stream filters of port 4 (R405) -/

/-- The 16 bytes of filter `f`. -/
def streamFilter (d : Dev) (f : Nat) : List Byte :=
  (upto 4).flatMap fun i => leBytes 4 (bankWord d.regs (rNetFilter + 16 * f + 4 * i)).toNat

/-- What the bridge reads of a frame: addresses, VLAN tag, EtherType, and what follows. -/
structure FrameHead where
  /-- The whole frame. -/
  bytes : List Byte
  dmac : List Byte
  smac : List Byte
  vid : Nat
  pcp : Nat
  etype : Nat
  /-- Bytes after the EtherType, without the check sequence. -/
  rest : List Byte
  /-- The 802.1CB sequence number, where a redundancy tag stands before the EtherType. -/
  seq : Option Nat
deriving DecidableEq, Repr

/-- The EtherType at the head of bytes, after a redundancy tag. (PRESUMED, notes/assumptions/54.) -/
def typeOf (b : List Byte) : Nat × List Byte × Option Nat :=
  if beNat (b.take 2) = 0xF1C1 then (beNat ((b.drop 6).take 2), b.drop 8, some (beNat ((b.drop 4).take 2)))
  else (beNat (b.take 2), b.drop 2, none)

/-- A frame's head; an untagged frame is of VLAN 1 and priority 0, a priority-tagged one of VLAN 1 (802.1Q).
(DEDUCED, notes/assumptions/79.) -/
def frameHead (b : List Byte) : FrameHead :=
  let body := (b.take (b.length - 4)).drop 12
  let tagged := beNat (body.take 2) = 0x8100
  let tci := if tagged then beNat ((body.drop 2).take 2) else 0
  let t := typeOf (if tagged then body.drop 4 else body)
  { bytes := b, dmac := b.take 6, smac := (b.drop 6).take 6, vid := if tci % 4096 = 0 then 1 else tci % 4096, pcp := tci / 8192,
    etype := t.1, rest := t.2.1, seq := t.2.2 }

/-- Filter `l` takes a frame. -/
def filterMatches (l : List Byte) (h : FrameHead) : Bool :=
  let v := recLe l 6 2
  let e := recLe l 8 2
  bit (recLe l 10 1) 3 && l.take 6 = h.dmac && (!bit v 15 || v % 4096 = h.vid) && (e = 0 || e = h.etype)

/-- The vector recovery algorithm of 802.1CB with a history of 32: whether the copy passes, and the new state (R405). -/
def recover (r : Option Recovery) (seq : Nat) : Bool × Option Recovery :=
  match r with
  | none => (true, some ⟨seq, [seq]⟩)
  | some r =>
    let delta := sx 16 (seq + 65536 - r.newest)
    if decide (delta ≤ -32) || decide (32 ≤ delta) then (false, some r)
    else if decide (delta ≤ 0) then if r.seen.contains seq then (false, some r) else (true, some { r with seen := seq :: r.seen })
    else
      let keep := r.seen.filter fun x => decide (sx 16 (seq + 65536 - x) < 32)
      (true, some ⟨seq, seq :: keep⟩)

/-- A frame forwarded to port 4: the first filter that matches delivers it to its stream FIFO; without a match, as a duplicate or
outside the window it is discarded and counted (R405). -/
def toPort4 (d : Dev) (h : FrameHead) (instant : Nat) : Dev :=
  match (upto 16).find? fun f => filterMatches (streamFilter d f) h with
  | none => d.incFld netPortDropFrame 4
  | some f =>
    let l := streamFilter d f
    let fifo := bits (recLe l 10 1) 2 0
    let payload := h.rest.drop (recLe l 12 2)
    let deliver (d : Dev) : Dev := if fifoOn d fifo && d.fld streamCfgSrc fifo = 0 then fifoFrame d fifo f instant false payload h.bytes
      else d.incFld netPortDropFrame 4
    if !bit (recLe l 10 1) 4 then deliver d
    else match h.seq with
      | none => d.incFld netPortDropFrame 4
      | some s =>
        let r := recover (mapGet none d.net.recovery f) s
        let d : Dev := { d with net := { d.net with recovery := mapSet none d.net.recovery f r.2 } }
        if r.1 then deliver d else d.incFld netPortDropFrame 4

/-- STREAM_RECOVERY_RESET (R405): the history of a filter is empty again. -/
def execStreamRecoveryReset (f : Nat) (s : State) : Out :=
  onDev (fun d => { d with net := { d.net with recovery := mapSet none d.net.recovery f none } }) s

/-! ### Forwarding (R402, R403) -/

/-- The member ports of a VLAN; before the table names it, VLAN 1 has every port. -/
def vlanPorts (d : Dev) (vid : Nat) : Nat := match mapFind d.net.vlans vid with
  | some m => m
  | none => if vid = 1 then 0x3F else 0

/-- The source address is learned on the port it came from; static entries stand, and a full table learns nothing. -/
def learn (d : Dev) (h : FrameHead) (port : Nat) : Dev :=
  let mac := beNat h.smac
  let known := d.net.fdb.find? fun e => e.mac = mac && e.vid = h.vid
  if bit (beNat (h.smac.take 1)) 0 then d
  else match known with
    | some e => if e.learned then
        { d with net := { d.net with fdb := d.net.fdb.map fun x => if x = e then { x with ports := 2 ^ port } else x } }
      else d
    | none => if 4096 ≤ d.net.fdb.length then d
      else { d with net := { d.net with fdb := d.net.fdb ++ [⟨mac, h.vid, 2 ^ port, true⟩] } }

/-- The ports a frame goes to: those of its filtering entry, or every member of its VLAN, but not the port it came from. The
reserved group addresses of 802.1Q go to the management processor alone; its own frames to them, 802.1AS messages among others, go to the
external ports that the firmware names, `named`. -/
def egressPorts (d : Dev) (h : FrameHead) (port named : Nat) : List Nat :=
  let mac := beNat h.dmac
  let mask := if mac / 16 = 0x0180C200000 then (if port = 5 then named % 16 else 0x20)
    else match d.net.fdb.find? fun e => e.mac = mac && e.vid = h.vid with
      | some e => e.ports &&& vlanPorts d h.vid
      | none => vlanPorts d h.vid
  (upto 6).filter fun p => bit mask p && p ≠ port && (d.flag netPortCfgEnable p || 4 ≤ p)

/-- An 802.1AS Sync message of domain 0. -/
def isSync (h : FrameHead) : Bool :=
  h.etype = 0x88F7 && (h.rest.headD 0).toNat % 16 = 0 && ((h.rest.drop 4).headD 0) = 0

/-- A frame goes straight through port 4: it takes no stamp, its gate is open, and no frame of its class or a higher one waits there. -/
def throughPort4 (d : Dev) (f : EFrame) : Bool :=
  f.stamp.isNone && ((d.port 4).queue.all fun g => decide (g.tc < f.tc)) && gateOpen d 4 f.tc f.bytes.length

/-- A frame goes to one port. The management processor takes its frames; only Sync messages have an effect that the manual gives. -/
def forward (h : FrameHead) (f : EFrame) (ingress : Nat) (d : Dev) (p : Nat) : Dev :=
  if p = 5 then if isSync h then syncReceive d else d
  else if p = 4 && throughPort4 d f then toPort4 d h f.instant
  else if !bufferRoom d f.tc f.bytes.length then bufferDrop d ingress
  else d.updPort p fun q => { q with queue := q.queue ++ [f] }

/-- The identifier for the stamp queue that comes with a frame of the management processor, if it is marked (R408); how it is carried the
manual does not say, and it is free (DESIGN CHOICE, notes/assumptions/141). -/
def carriedStamp (d : Dev) (n : Nat) : Option Nat :=
  if n = 5 && Config.freeBool d.freeCtr then some ((Config.freeU64 d.freeCtr).toNat % 65536) else none

/-- A frame arrives at a port, is stored whole, and forwarded or discarded. -/
def frameIngress (n : Nat) (b : List Byte) (ok : Bool) (sample : Nat) (d : Dev) : Dev :=
  if !(decide (n < 4) || n = 5) || !d.flag netCtrlEnable || (decide (n < 4) && !d.flag netPortCfgEnable n) || !ok then d
  else if 2048 < b.length then d.incFld netPortDropFrame n
  else if b.length < 18 then d
  else
    let h := frameHead b
    let f : EFrame := { bytes := b, tc := bits (d.fld netPcpmapMap) (3 * h.pcp + 2) (3 * h.pcp), stamp := carriedStamp d n,
                        instant := ingressStamp d n sample / 32 }
    let named := (Config.freeU64 (d.freeCtr + 1)).toNat
    let d := if n = 5 then d.bump.bump else d
    (egressPorts d h n named).foldl (forward h f n) (if bit (vlanPorts d h.vid) n then learn d h n else d)

/-- FRAME_INGRESS (R402). -/
def execFrameIngress (port : Nat) (b : List Byte) (fcsOk : Bool) (stamp : Nat) (s : State) : Out :=
  onDev (frameIngress port b fcsOk stamp) s

/-! ### Egress (R404, R408, R410, R411) -/

/-- The stamp of a frame marked for stamping enters the queue of its port, or is dropped (R408). -/
def putStamp (d : Dev) (n : Nat) (id : Option Nat) (stamp : Nat) : Dev := match id with
  | none => d
  | some id =>
    if 16 ≤ (d.port n).stamps.length then
      (d.setFld timeStatusTsOverflow (d.fld timeStatusTsOverflow ||| 2 ^ n)).incFld timeTsqOvfCount n
    else d.updPort n fun p => { p with stamps := p.stamps ++ [(stamp * 2 ^ 27, id)] }

/-- T − preamble and delimiter − TX correction − PHY TX latency has come, in 1/160 ns (R410). -/
def launchDue (d : Dev) (n t : Nat) : Bool :=
  decide (160 * t ≤ 160 * d.now + 8 * 16 * byteTime d n + 5 * (macCorrection d n).2 + 10 * d.fld netPortPhylatTx n)

/-- The frames of port `n` that are eligible to launch now; none in the safe state (R393, R411). -/
def launchable (d : Dev) (n : Nat) : List EFrame :=
  if safeState d then [] else (d.port n).launches.filter fun f => match f.launch with
    | some (t, late, _) => launchDue d n t && decide (d.now ≤ t + late) && gateOpen d n f.tc f.bytes.length
    | none => false

/-- The frame of the list with the earliest launch time. -/
def earliest : List EFrame → Option EFrame
  | [] => none
  | f :: l => match earliest l with
    | none => some f
    | some g => if ((g.launch.map (·.1)).getD 0) < ((f.launch.map (·.1)).getD 0) then some g else some f

/-- An eligible frame starts ahead of every frame not yet started (R410). -/
def frameLaunch (n : Nat) (d : Dev) : Dev :=
  if 4 ≤ n || !d.flag netPortCfgEnable n || (d.port n).sending.isSome then d
  else match earliest (launchable d n) with
    | none => d
    | some f => d.updPort n fun p => { p with launches := p.launches.erase f, sending := some f }

/-- FRAME_LAUNCH (R410). -/
def execFrameLaunch (n : Nat) (s : State) : Out := onDev (frameLaunch n) s

/-- A frame not started by T + LATE_NS is counted, and dropped or kept to be sent at the first opportunity (R411). -/
def launchLate (n : Nat) (d : Dev) : Dev :=
  match earliest ((d.port n).launches.filter fun f => match f.launch with
    | some (t, late, _) => decide (t + late < d.now)
    | none => false) with
  | none => d
  | some f =>
    let d := d.incFld netPortDropLate n
    match f.launch with
    | some (t, _, true) => d.updPort n fun p =>
        { p with launches := p.launches.map fun g => if g = f then { g with launch := some (t, 2 ^ 64, true) } else g }
    | _ => d.updPort n fun p => { p with launches := p.launches.erase f }

/-- LAUNCH_LATE (R411). -/
def execLaunchLate (n : Nat) (s : State) : Out := onDev (launchLate n) s

/-- The frame that port `n` selects: the highest class whose gate lets it go, the oldest of it (R403, R404). -/
def selectFrame (d : Dev) (n : Nat) : Option EFrame :=
  (upto 8).findSome? fun k => ((d.port n).queue.filter fun f => f.tc = 7 - k).head?.bind fun f =>
    if gateOpen d n f.tc f.bytes.length then some f else none

/-- A frame leaves by port `n`: on the wire, or from port 4 into the fabric, through the stream filters. -/
def sendFrame (n sample : Nat) (d : Dev) (f : EFrame) : Dev :=
  putStamp (if n = 4 then toPort4 d (frameHead f.bytes) f.instant else d.emit (.frame n f.bytes)) n f.stamp (egressStamp d n sample)

/-- A frame leaves: the launched frame in transmission, or the one selected. -/
def frameEgress (n sample : Nat) (d : Dev) : Dev :=
  let send := sendFrame n sample
  if 5 ≤ n || (n ≠ 4 && !d.flag netPortCfgEnable n) || !d.flag netCtrlEnable then d
  else match (d.port n).sending with
    | some f => send (d.updPort n fun p => { p with sending := none }) f
    | none => if launchable d n ≠ [] then d
      else match selectFrame d n with
        | none => d
        | some f => send (d.updPort n fun p => { p with queue := p.queue.erase f }) f

/-- FRAME_EGRESS (R408). -/
def execFrameEgress (n : Nat) (stamp : Nat) (s : State) : Out := onDev (frameEgress n stamp) s

/-- A read of TIME_TSQn_INFO: the oldest entry is removed. The value read, and the integer ns that the port's STAMP then holds
(R408). -/
def tsqRead (n : Nat) (d : Dev) : Dev × Nat × Option Nat := match (d.port n).stamps with
  | [] => (d, 0, none)
  | (t, id) :: l => (d.updPort n fun p => { p with stamps := l }, id % 65536 + 2 ^ 16 + 2 ^ 24 * (t / 2 ^ 24 % 256), some (t / 2 ^ 32))

/-! ### PPS (R521) -/

/-- PPS_IN_EDGE (R521): the edge is stamped for the firmware. -/
def execPpsInEdge (stamp : Nat) (s : State) : Out :=
  onDev (fun d => if d.boot.powered then { d with mgmt := { d.mgmt with ppsStamp := some stamp } } else d) s

/-- PPS_OUT rises when device time has crossed a second, and falls again. -/
def ppsOut (high : Bool) (d : Dev) : Dev :=
  let sec := d.now / 10 ^ 9
  if high then if d.ppsSecond < sec && !d.ppsHigh && d.boot.powered then { d with ppsHigh := true, ppsSecond := sec } else d
  else { d with ppsHigh := false }

/-- PPS_OUT_PULSE (R521). -/
def execPpsOutPulse (high : Bool) (s : State) : Out := onDev (ppsOut high) s

/-! ### CAN (R412 to R414, R424) -/

/-- Controller `c` takes part on its bus. -/
def canOn (d : Dev) (c : Nat) : Bool := decide (c < 2) && d.flag netCanCfgEnable c && d.fld netCanStatusState c ≠ 2

/-- Acceptance filter `f` of controller `c` (R424). -/
def canFilter (d : Dev) (c f : Nat) : Nat :=
  let o := rCanFilter + 0x100 * c + 8 * f
  (bankWord d.regs o).toNat + 2 ^ 32 * (bankWord d.regs (o + 4)).toNat

/-- A filter takes an identifier: same format, and equal under its mask. -/
def canMatches (f id : Nat) : Bool :=
  bit f 31 && bit f 29 = bit id 29 && (bits f 28 0 &&& bits f 60 32) = (bits id 28 0 &&& bits f 60 32)

/-- Data bytes of a data length code, FD or classical. -/
def dlcBytes (fd : Bool) (dlc : Nat) : Nat :=
  if dlc ≤ 8 then dlc else if fd then [12, 16, 20, 24, 32, 48, 64].getD (dlc - 9) 64 else 8

/-- A frame with the bits that its length code names, padded with zeros to 64 bytes. -/
def canData (id dlc : Nat) (data : List Byte) : List Byte :=
  let l := data.take (dlcBytes (bit id 30) (dlc % 16))
  l ++ List.replicate (64 - l.length) 0

/-- The error counts of controller `c`, and the state that follows from them: passive above 127, bus-off when the transmit count passes
255 (R412, ISO 11898-1; PRESUMED, notes/assumptions/82). -/
def setCanCounts (d : Dev) (c tec rec_ : Nat) : Dev :=
  let d := (d.setFld netCanStatusTec (min 255 tec) c).setFld netCanStatusRec (min 255 rec_) c
  d.setFld netCanStatusState (if 255 < tec then 2 else if 127 < tec ∨ 127 < rec_ then 1 else 0) c

/-- The errors that controller `c` has met on the bus since its last frame: their number is free. Each one in reception counts 1, and
each one in transmission, of which `tx` says that there was an occasion, counts 8; a listening controller counts none (R412;
PRESUMED, notes/assumptions/82). -/
def canErrors (c : Nat) (tx : Bool) (d : Dev) : Dev :=
  if d.flag netCanCfgListen c then d
  else
    let n := if tx then (Config.freeU64 (d.freeCtr + 1)).toNat % 33 else 0
    setCanCounts d.bump.bump c (d.fld netCanStatusTec c + 8 * n) (d.fld netCanStatusRec c + (Config.freeU64 d.freeCtr).toNat % 256)

/-- The instant of a received frame's start-of-frame bit: before the frame's end, by a time that its stuff bits decide, and free
(R413; DESIGN CHOICE, notes/assumptions/81). -/
def canInstant (d : Dev) : Nat := (Config.freeU64 d.freeCtr).toNat % (d.now + 1)

/-- A received frame becomes an entry of the stream FIFO of the first filter that matches (R413); the manual names no SRC for it
(DESIGN CHOICE, notes/assumptions/81). A good frame lowers the receive error count. -/
def canRx (c id dlc : Nat) (data : List Byte) (d : Dev) : Dev :=
  if !canOn d c || (bit id 30 && !d.flag netCanCfgFd c) then d
  else
    let d := canErrors c false d
    let rec_ := d.fld netCanStatusRec c
    let d := setCanCounts d c (d.fld netCanStatusTec c) (if 127 < rec_ then 127 else rec_ - 1)
    match (upto 32).find? fun f => canMatches (canFilter d c f) id with
    | none => d
    | some f =>
      let n := bits (canFilter d c f) 63 61
      let payload := leBytes 4 id ++ leBytes 1 dlc ++ leBytes 1 c ++ leBytes 2 0 ++ canData id dlc data
      if fifoOn d n && d.fld streamCfgSrc n = 0 then
        fifoFrame d.bump n ((Config.freeU64 d.freeCtr).toNat % 256) (canInstant d) false payload
      else d

/-- CAN_FRAME_RX (R413). -/
def execCanFrameRx (c : Nat) (id : U32) (dlc : Byte) (data : List Byte) (s : State) : Out :=
  onDev (canRx c id.toNat dlc.toNat data) s

/-- First register of transmit buffer `b` of controller `c` (R414). -/
def canBuf (c b : Nat) : Nat := rCanTxbuf0 + 0x800 * c + 0x80 * b

/-- The 80 bytes of a transmit buffer. -/
def canBufBytes (d : Dev) (c b : Nat) : List Byte := (upto 20).flatMap fun i => leBytes 4 (bankWord d.regs (canBuf c b + 4 * i)).toNat

/-- Write the bytes of a transmit buffer. -/
def setCanBuf (d : Dev) (c b : Nat) (l : List Byte) : Dev :=
  { d with regs := (upto 20).foldl (fun r i => bankSet r (canBuf c b + 4 * i) (BitVec.ofNat 32 (recLe l (4 * i) 4))) d.regs }

def canPending (d : Dev) (c b : Nat) : Bool := bit (recLe (canBufBytes d c b) 5 1) 0

/-- NET_CANc_TXSTAT.PENDING mirrors PENDING of the buffers (R414). -/
def canPendingMask (d : Dev) (c : Nat) : Nat := (upto 16).foldl (fun m b => m + b2n (canPending d c b) * 2 ^ b) 0

/-- PENDING of a buffer (R414). -/
def setCanPending (d : Dev) (c b : Nat) (v : Bool) : Dev :=
  let l := canBufBytes d c b
  setCanBuf d c b (listSet l 5 (BitVec.ofNat 8 (recLe l 5 1 / 2 * 2 + b2n v)))

/-- The buffer is offered: pending, its launch time come, of a format the controller may send. -/
def canOffered (d : Dev) (c b : Nat) : Bool :=
  let l := canBufBytes d c b
  canPending d c b && (!bit (recLe l 5 1) 1 || decide (recLe l 8 8 ≤ d.now)) && (!bit (recLe l 0 4) 30 || d.flag netCanCfgFd c)

/-- Buffer `b` is first in identifier order, lowest buffer number first among equals. -/
def canFirst (d : Dev) (c b : Nat) : Bool :=
  let id (x : Nat) : Nat := bits (recLe (canBufBytes d c x) 0 4) 28 0
  (upto 16).all fun x => !canOffered d c x || decide (id b < id x) || (id b = id x && decide (b ≤ x))

/-- The buffer wins arbitration and is sent, unless the errors it met before took the controller off the bus (R412, R414). -/
def canTxFrame (c b : Nat) (d : Dev) : Dev :=
  if !canOn d c || d.flag netCanCfgListen c || 16 ≤ b || !canOffered d c b || !canFirst d c b then d
  else if !canOn (canErrors c true d) c then canErrors c true d
  else
    let d := canErrors c true d
    let l := canBufBytes d c b
    let id := recLe l 0 4
    let dlc := recLe l 4 1
    let d := d.emit (.can c (BitVec.ofNat 32 id) (BitVec.ofNat 8 dlc) ((l.drop 16).take (dlcBytes (bit id 30) (dlc % 16))))
    setCanCounts (setCanPending d c b false) c (d.fld netCanStatusTec c - 1) (d.fld netCanStatusRec c)

/-- CAN_FRAME_TX (R414). -/
def execCanFrameTx (c b : Nat) (s : State) : Out := onDev (canTxFrame c b) s

/-- CAN_BUS_OFF_RECOVERY (R412). -/
def execCanBusOffRecovery (c : Nat) (s : State) : Out :=
  onDev (fun d => if c < 2 && d.fld netCanStatusState c = 2 && d.flag netCanCfgAutoRecover c then
      ((d.setFld netCanStatusState 0 c).setFld netCanStatusTec 0 c).setFld netCanStatusRec 0 c
    else d) s

/-- A CAN_TX request that writes a buffer (R414): BUSY when it is pending. The answer is a result code of R514. -/
def canQueue (c b : Nat) (l : List Byte) (d : Dev) : Dev × Nat :=
  if canPending d c b then (d, 6)
  else (setCanPending (setCanBuf d c b ((l.take 80) ++ List.replicate (80 - l.length) 0)) c b true, 0)

/-- A CAN_TX request that aborts: the pending buffer is withdrawn, or the frame has gone and ABORT_FAIL sets. -/
def canAbort (c b : Nat) (d : Dev) : Dev × Nat :=
  if canPending d c b then (setCanPending d c b false, 0)
  else (d.setFld netCanTxstatAbortFail (d.fld netCanTxstatAbortFail c ||| 2 ^ b) c, 6)

/-! ### NET_REQ (R403) -/

/-- A requested change of the filtering database or of the VLAN table; false where a table is full or the request is out of
range. -/
def applyChange (r : TableChange) (d : Dev) : Dev × Bool :=
  let fdb (l : List FdbEntry) : Dev := { d with net := { d.net with fdb := l } }
  let same (mac vid : Nat) (e : FdbEntry) : Bool := e.mac = mac && e.vid = vid
  match r with
  | .setStatic mac vid ports =>
    let l := d.net.fdb.filter fun e => !same mac vid e
    if 4096 ≤ l.length || decide (2 ^ 48 ≤ mac) || decide (4096 ≤ vid) then (d, false) else (fdb (l ++ [⟨mac, vid, ports.toNat, false⟩]), true)
  | .removeStatic mac vid => (fdb (d.net.fdb.filter fun e => !(same mac vid e && !e.learned)), true)
  | .setVlan vid ports =>
    if (256 ≤ d.net.vlans.length && (mapFind d.net.vlans vid).isNone) || decide (4096 ≤ vid) then (d, false)
    else ({ d with net := { d.net with vlans := mapInsert d.net.vlans vid ports.toNat } }, true)
  | .removeVlan vid => ({ d with net := { d.net with vlans := mapErase d.net.vlans vid } }, true)

end Sys2Proof.Machine
end

