-- ==== Sys2Proof/Machine/Dot.lean ====
section
/-! DEFINITION. Dot products: the modes of R64, the group-exact sum of R67 to R71 and the strict chain of R72. -/

namespace Sys2Proof.Machine

/-- The element types a dot product takes (R64). -/
inductive EFmt where
  | fl (f : Fmt)
  | int (signed : Bool) (w : Nat)
deriving DecidableEq, Repr

def EFmt.width : EFmt → Nat
  | .fl f => f.width
  | .int _ w => w

/-- One side of a dot product: the element codes along k and the scale codes of its 32-element blocks; no scales for an
unblocked side. -/
structure DotSide where
  fmt : EFmt
  codes : List Nat
  scales : List Nat
deriving DecidableEq, Repr

/-- The modes of R64. -/
inductive DotMode where
  | fp64 | half | multi | eight | integer
deriving DecidableEq, Repr

/-- The accumulator format of a floating-point mode. -/
def DotMode.acc : DotMode → Fmt
  | .fp64 => Sys2Proof.Machine.fp64
  | _ => Sys2Proof.Machine.fp32

/-- The group size G of R64. -/
def DotMode.group : DotMode → Nat
  | .fp64 => 1
  | .half => 8
  | .multi => 8
  | .eight => 32
  | .integer => 32

/-- The mode two element types select; none where R64 has no row (a floating-point operand with an integer one, a 16-bit with
an 8-bit one). -/
def modeOf : EFmt → EFmt → Option DotMode
  | .int _ _, .int _ _ => some .integer
  | .fl a, .fl b =>
    if a = fp64 && b = fp64 then some .fp64
    else if a = fp32 && b = fp32 then some .multi
    else if a.width = 16 && b.width = 16 then some .half
    else if a.width ≤ 8 && b.width ≤ 8 then some .eight
    else none
  | _, _ => none

/-- The value of an integer element. -/
def intElem (signed : Bool) (w c : Nat) : Int := if signed then sx w c else (c % 2 ^ w : Nat)

/-- The sum of a list of exact numbers. -/
def dySum (l : List Dy) : Dy := l.foldl Dy.add .zero

/-- A pair 0 × ∞. -/
def zeroTimesInf (p : FpNum × FpNum) : Bool := (p.1.isZero && p.2.isInf) || (p.1.isInf && p.2.isZero)

/-- A pair with an infinite product; its sign. -/
def infProduct (p : FpNum × FpNum) : Option Bool :=
  if p.1.isNan || p.2.isNan || zeroTimesInf p then none
  else if p.1.isInf || p.2.isInf then some (p.1.neg != p.2.neg) else none

/-- One group added to the accumulator: the classification of R68, then step 3 of R67 with the sign rule of R70. `pairs` are
the (leading) operands, `more` the exact sum of every further partial product, `sh` the exponent of the two scales. -/
def groupStep (f : Fmt) (acc : Nat) (pairs : List (FpNum × FpNum)) (more : Dy) (sh : Int) (nanScale : Bool) : FRes :=
  let x := decodeNum f acc
  let infs := pairs.filterMap infProduct ++ (if x.isInf then [x.neg] else [])
  let clash := infs.any id && infs.any (!·)
  let zi := pairs.any zeroTimesInf
  let iv := if pairs.any (fun p => p.1.isSnan || p.2.isSnan) || zi || clash then flIV else flNone
  if nanScale || x.isNan || pairs.any (fun p => p.1.isNan || p.2.isNan) then (f.nan, iv)
  else if zi || clash then (f.nan, iv)
  else if infs.any id then (f.signBit + f.infCode, iv)
  else if infs.any (!·) then (f.infCode, iv)
  else
    let s := (dySum (pairs.map fun p => p.1.dy.mul p.2.dy)).add more
    let allNegZero := pairs.all fun p => (p.1.isZero || p.2.isZero) && (p.1.neg != p.2.neg)
    let r := roundDy f .infinity (x.dy.add ⟨s.m, s.e + sh⟩) (x.isZero && x.neg && allNegZero)
    (r.1, iv ||| r.2)

/-- The partial products of one FP32 pair beyond a0·b0 for a number of passes (R59, R61). -/
def morePasses (passes : Nat) (a b : Split) : Dy :=
  if a.a0.isNan || a.a0.isInf || b.a0.isNan || b.a0.isInf then .zero
  else
    let two := (a.a0.dy.mul b.a1).add (a.a1.mul b.a0.dy)
    let three := ((a.a0.dy.mul b.a2).add (a.a1.mul b.a1)).add (a.a2.mul b.a0.dy)
    if passes ≤ 1 then .zero else if passes = 2 then two else two.add three

/-- The scale code of group `g` of a side; 0x7F for an unblocked side (R64). -/
def sideScale (s : DotSide) (g : Nat) : Nat := if s.scales.isEmpty then 0x7F else s.scales.getD g 0

def sideFmt (s : DotSide) : Fmt :=
  match s.fmt with
  | .fl f => f
  | .int _ _ => fp32

/-- The elements of a block under its scale code: every element of a NaN block reads as NaN, whatever its code (R33). -/
def blockNums (scale : Nat) (l : List FpNum) : List FpNum := if scale = 0xFF then l.map fun _ => .nan false else l

/-- Group `g` of a floating-point dot product in fast mode. (DEDUCED, notes/assumptions/14.) -/
def fastGroup (mode : DotMode) (passes : Nat) (a b : DotSide) (acc : Nat) (g : Nat) (ca cb : List Nat) : FRes :=
  let xs := ca.map (decodeNum (sideFmt a))
  let ys := cb.map (decodeNum (sideFmt b))
  match mode with
  | .fp64 => ffma fp64 (ca.headD 0) (cb.headD 0) acc
  | .multi =>
    let sa := xs.map splitFp32
    let sb := ys.map splitFp32
    groupStep fp32 acc ((sa.zip sb).map fun p => (p.1.a0, p.2.a0))
      (dySum ((sa.zip sb).map fun p => morePasses passes p.1 p.2)) 0 false
  | _ =>
    let u := sideScale a g
    let v := sideScale b g
    groupStep fp32 acc ((blockNums u xs).zip (blockNums v ys)) .zero ((u : Int) + v - 254) (u = 0xFF || v = 0xFF)

/-- One product of the strict chain (R72): both operands decoded to the accumulator's format (R53), one FMA. -/
def strictStep (mode : DotMode) (a b : DotSide) (acc : Nat) (k : Nat) (ca cb : Nat) : FRes :=
  match mode with
  | .fp64 => ffma fp64 ca cb acc
  | .multi => ffma fp32 ca cb acc
  | .half =>
    let x := fconv (sideFmt a) fp32 ca
    let y := fconv (sideFmt b) fp32 cb
    let r := ffma fp32 x.1 y.1 acc
    (r.1, x.2 ||| y.2 ||| r.2)
  | _ =>
    let x := decodeElem (sideFmt a) fp32 (sideScale a (k / 32)) ca
    let y := decodeElem (sideFmt b) fp32 (sideScale b (k / 32)) cb
    let r := ffma fp32 x.1 y.1 acc
    (r.1, x.2 ||| y.2 ||| r.2)

/-- An integer group: the sum is exact and added modulo 2^32; INT_OVERFLOW where the exact sum leaves INT32 (R71). -/
def intGroup (a b : DotSide) (acc : Nat) (ca cb : List Nat) : FRes :=
  let val (s : DotSide) (c : Nat) : Int := match s.fmt with
    | .int sg w => intElem sg w c
    | .fl _ => 0
  let s := (ca.zip cb).foldl (fun t p => t + val a p.1 * val b p.2) (0 : Int)
  let x := sx 32 acc + s
  (unsx 32 x, if x < -(2 ^ 31) ∨ 2 ^ 31 - 1 < x then flIOV else flNone)

/-- The groups of a dot product in ascending order (R67). -/
def fastRun (mode : DotMode) (passes : Nat) (a b : DotSide) : List (List Nat) → List (List Nat) → Nat → Nat → Fl → FRes
  | ca :: ra, cb :: rb, g, acc, fl =>
    let r := match mode with
      | .integer => intGroup a b acc ca cb
      | _ => fastGroup mode passes a b acc g ca cb
    fastRun mode passes a b ra rb (g + 1) r.1 (fl ||| r.2)
  | _, _, _, acc, fl => (acc, fl)

/-- The strict chain in ascending k (R72). -/
def strictRun (mode : DotMode) (a b : DotSide) : List Nat → List Nat → Nat → Nat → Fl → FRes
  | ca :: ra, cb :: rb, k, acc, fl =>
    let r := strictStep mode a b acc k ca cb
    strictRun mode a b ra rb (k + 1) r.1 (fl ||| r.2)
  | _, _, _, acc, fl => (acc, fl)

/-- A dot product of two sides into an accumulator (R64 to R72). -/
def dotRun (strict : Bool) (mode : DotMode) (passes : Nat) (a b : DotSide) (acc : Nat) : FRes :=
  if strict && mode ≠ .integer then strictRun mode a b a.codes b.codes 0 acc flNone
  else fastRun mode passes a b (chunks mode.group a.codes) (chunks mode.group b.codes) 0 acc flNone

/-- A Vector FP32 dot product: one FMA for each element in ascending order (R64, R73). -/
def vecFp32Run : List Nat → List Nat → Nat → Fl → FRes
  | x :: xs, y :: ys, acc, fl =>
    let r := ffma fp32 x y acc
    vecFp32Run xs ys r.1 (fl ||| r.2)
  | _, _, acc, fl => (acc, fl)

end Sys2Proof.Machine
end

