-- ==== Sys2Proof/Machine/AttendCalc.lean ====
section
/-! DEFINITION. The online softmax of a query row over the pages of a snapshot (R302 to R305, R311). FP32 values are codes. -/

namespace Sys2Proof.Machine

/-- -∞ in FP32. -/
def negInf32 : Nat := 0xFF800000

/-- A query row at work: running maximum, sum and output, per page its maximum and sum, flags raised, blocks converted. -/
structure RowAcc where
  m : Nat := negInf32
  l : Nat := 0
  o : List Nat
  mass : List (Nat × Nat × Nat) := []
  fl : Fl := flNone
  blocks : List BlockRes := []
deriving DecidableEq, Repr

/-- The tokens that query `i` of an entry attends: first and one past the last (R302). -/
def attRange (e : AttendEntry) (i : Nat) : Nat × Nat :=
  let q := e.qPos0 + i
  let stop := if e.kvLen = 0 then e.len else e.kvLen
  let hi := if bit e.mask 0 then min stop (q + 1) else stop
  let lo := if e.window = 0 then 0 else q + 1 - e.window
  (lo, hi)

/-- The page holds a token that query `i` attends (R299, R302). -/
def attendsPage (e : AttendEntry) (p : SnapPage) (i : Nat) : Bool :=
  let r := attRange e i
  !p.evicted && decide (max r.1 (256 * p.idx) < min r.2 (256 * p.idx + p.fill))

/-- Page position `t` is attended by query `i`. -/
def attendsToken (e : AttendEntry) (p : SnapPage) (i t : Nat) : Bool :=
  let r := attRange e i
  let a := 256 * p.idx + t
  !p.evicted && decide (t < p.fill) && decide (r.1 ≤ a) && decide (a < r.2)

/-- The page number and dimensions of each half (R271). -/
def halfPages (dd : Nat) (p : SnapPage) : List (Nat × Nat) :=
  if halves dd = 2 then [(p.p0, 128), (p.p1, dd - 128)] else [(p.p0, dd)]

/-- The key of token `t` (R268): codes and block scales, halves in dimension order. -/
def keySide (d : Dev) (dd : Nat) (p : SnapPage) (t : Nat) : DotSide :=
  let hs := halfPages dd p
  { fmt := .fl f8e4
    codes := hs.flatMap fun h => (upto h.2).map fun j => byteAt d (pageAddr d h.1 + kOff t j)
    scales := hs.flatMap fun h => (upto (h.2 / 32)).map fun b => byteAt d (pageAddr d h.1 + kScaleOff t b) }

/-- The values of dimension `i` over the page's 256 tokens (R268). -/
def valueSide (d : Dev) (p : SnapPage) (i : Nat) : DotSide :=
  let pg := if i < 128 then p.p0 else p.p1
  let j := i % 128
  { fmt := .fl f8e4
    codes := (upto 256).map fun t => byteAt d (pageAddr d pg + vOff t j)
    scales := (upto 8).map fun n => byteAt d (pageAddr d pg + vScaleOff j n) }

/-- One side made of converted blocks. -/
def blockSide (bs : List BlockRes) : DotSide :=
  { fmt := .fl f8e4, codes := bs.flatMap (·.codes), scales := bs.map (·.scale) }

def blockFlags (bs : List BlockRes) : Fl := bs.foldl (fun a b => b.flags.foldl (· ||| ·) a) flNone

/-- One page applied to a query row (R303). -/
def pageStep (d : Dev) (strict : Bool) (dd sm : Nat) (q : DotSide) (e : AttendEntry) (i : Nat) (r : RowAcc) (p : SnapPage) : RowAcc :=
  if !attendsPage e p i then r
  else
    let ss := (upto 256).map fun t =>
      if attendsToken e p i t then
        let x := dotRun strict .eight 1 q (keySide d dd p t) 0
        let y := fmul fp32 x.1 sm
        (true, y.1, x.2 ||| y.2)
      else (false, negInf32, flNone)
    let fl := ss.foldl (fun a s => a ||| s.2.2) r.fl
    let mx := ss.foldl (fun (a : FRes) s => let x := fminmax fp32 true a.1 s.2.1; (x.1, a.2 ||| x.2)) (r.m, fl)
    let mj := mx.1
    if mj = negInf32 then { r with fl := mx.2 }
    else
      let ad := fsub fp32 r.m mj
      let a := fexp2 ad.1
      let ps := ss.map fun s =>
        if s.1 then
          let x := fsub fp32 s.2.1 mj
          let y := fexp2 x.1
          (y.1, x.2 ||| y.2)
        else (0, flNone)
      let fl := ps.foldl (fun f x => f ||| x.2) (mx.2 ||| ad.2 ||| a.2)
      let lp := ps.foldl (fun (s : FRes) x => let y := fadd fp32 s.1 x.1; (y.1, s.2 ||| y.2)) (0, fl)
      let al := fmul fp32 a.1 r.l
      let l := fadd fp32 al.1 lp.1
      let pb := (chunks 32 (ps.map (·.1))).map (convBlock fp32 f8e4 none)
      let side := blockSide pb
      let os := (r.o.zip (upto r.o.length)).map fun x =>
        let y := fmul fp32 a.1 x.1
        let z := dotRun strict .eight 1 side (valueSide d p x.2) y.1
        (z.1, y.2 ||| z.2)
      { m := mj, l := l.1, o := os.map (·.1), mass := r.mass ++ [(p.idx, mj, lp.1)],
        fl := os.foldl (fun f x => f ||| x.2) (lp.2 ||| al.2 ||| l.2 ||| blockFlags pb), blocks := r.blocks ++ pb }

/-- The query converted to blocks (R303). -/
def queryBlocks (q : List Nat) : List BlockRes := (chunks 32 q).map (convBlock fp32 f8e4 none)

/-- A query row over the pages of its entry that this module holds, ascending, without the final division (R303, R311). -/
def rowPartial (d : Dev) (strict : Bool) (dd sm : Nat) (q : List Nat) (e : AttendEntry) (i : Nat) : RowAcc :=
  let qb := queryBlocks q
  (e.pages.filter fun p => p.p0 ≠ noPage).foldl (pageStep d strict dd sm (blockSide qb) e i)
    { o := List.replicate dd 0, fl := blockFlags qb, blocks := qb }

/-- Some token is attended by query `i` of the entry. -/
def attendsAny (e : AttendEntry) (i : Nat) : Bool := e.pages.any fun p => attendsPage e p i

/-- The output of a row: the final division, or +0 for a row with no attended token (R303, R304). -/
def rowOutput (e : AttendEntry) (i m l : Nat) (o : List Nat) : Nat × Nat × List FRes :=
  if attendsAny e i then (m, l, o.map fun v => fdiv fp32 v l) else (negInf32, 0, o.map fun _ => (0, flNone))

/-- Two partial results of a row combined, the incoming one first, and the flags of every operation (R80, R311). -/
def combinePartial (a b : RowPart) : RowPart × Fl :=
  let m := fminmax fp32 true a.m b.m
  if m.1 = negInf32 then ({ b with m := negInf32, l := 0, o := b.o.map fun _ => 0 }, m.2)
  else
    let sa := fsub fp32 a.m m.1
    let sb := fsub fp32 b.m m.1
    let x := fexp2 sa.1
    let y := fexp2 sb.1
    let join (u v : Nat) : FRes :=
      let p := fmul fp32 x.1 u
      let q := ffma fp32 y.1 v p.1
      (q.1, p.2 ||| q.2)
    let l := join a.l b.l
    let o := (a.o.zip b.o).map fun p => join p.1 p.2
    ({ b with m := m.1, l := l.1, o := o.map (·.1) },
      o.foldl (fun f v => f ||| v.2) (m.2 ||| sa.2 ||| sb.2 ||| x.2 ||| y.2 ||| l.2))

/-- The row's partial result, without its flags and blocks. -/
def RowAcc.part (r : RowAcc) (row : Nat) : RowPart := { row := row, m := r.m, l := r.l, o := r.o, mass := r.mass }

/-- The mass of page `j` for a row whose final values are m and l (R305). A page whose scores are all -∞, before any finite one, leaves
the row without a mass for it: +0 (DEDUCED, notes/assumptions/136). -/
def rowMass (r : RowPart) (m l j : Nat) : Nat :=
  match r.mass.find? fun x => x.1 = j with
  | some x => (fdiv fp32 (fmul fp32 x.2.2 (fexp2 (fsub fp32 x.2.1 m).1).1).1 l).1
  | none => 0

/-- μ of a page for an entry: the masses of the query rows that attended it, ascending, over their number; of each row its partial
result here and its final m and l (R305). -/
def pageMass (e : AttendEntry) (hq : Nat) (p : SnapPage) (rs : List (RowPart × Nat × Nat)) : Nat :=
  let ms := (rs.filter fun r => attendsPage e p ((r.1.row - e.row0) / hq)).map fun r => rowMass r.1 r.2.1 r.2.2 p.idx
  match ms with
  | [] => 0
  | x :: l => (fdiv fp32 (l.foldl (fun a v => (fadd fp32 a v).1) x) (intToF fp32 ms.length).1).1

/-- The new score of a page (R297). -/
def newScore (score k mu : Nat) : Nat :=
  let c := (min 65535 (max 0 (fToInt fp32 32 (fmul fp32 mu 0x47800000).1).1)).toNat
  score - score / 2 ^ k + c / 2 ^ k

end Sys2Proof.Machine
end

