-- ==== Sys2Proof/Machine/Pace.lean ====
section
/-! DEFINITION. Instruction words (R158, R160) and their times: latencies (R96, R106, R164 to R187), the register interlocks (R156),
and the scoreboard (R116, R117). Times change no result. -/

namespace Sys2Proof

/-- The handle extension (R160). -/
def Fields.h1 (f : Fields) : Nat := Machine.bits f.ext.toNat 31 26
def Fields.h2 (f : Fields) : Nat := Machine.bits f.ext.toNat 25 20
def Fields.h3 (f : Fields) : Nat := Machine.bits f.ext.toNat 19 14
def Fields.mode (f : Fields) : Nat := Machine.bits f.ext.toNat 13 0

/-- The number a bit field of EXT holds. -/
def Fields.e (f : Fields) (hi lo : Nat) : Nat := Machine.bits f.ext.toNat hi lo

end Sys2Proof

namespace Sys2Proof.Machine

/-- The instruction word of R158. -/
def instrWord (cls op : Nat) (f : Fields) : U64 :=
  BitVec.ofNat 64 (f.ext.toNat + 2 ^ 32 * f.rc.toNat + 2 ^ 37 * f.rb.toNat + 2 ^ 42 * f.ra.toNat + 2 ^ 47 * f.rd.toNat +
    2 ^ 52 * (op % 256) + 2 ^ 60 * (cls % 16))

/-- The fields of an instruction word (R158): class, operation, operand fields. -/
def wordFields (w : U64) : Nat × Nat × Fields :=
  let n := w.toNat
  (bits n 63 60, bits n 59 52,
    { rd := BitVec.ofNat 5 (bits n 51 47), ra := BitVec.ofNat 5 (bits n 46 42), rb := BitVec.ofNat 5 (bits n 41 37),
      rc := BitVec.ofNat 5 (bits n 36 32), ext := BitVec.ofNat 32 n })

/-- The word at the program counter. -/
def Tile.word (x : Tile) : U64 := mapGet 0 x.code (x.pc.toNat / 8)

/-- The second operand: EXT sign-extended in the immediate form, else xB (R164). -/
def operandB (x : Tile) (imm : Bool) (f : Fields) : U64 := if imm then f.ext.signExtend 64 else x.xr f.rb

/-! ### Latencies -/

/-- Significant bits (R96). -/
def sigBits (n : Nat) : Nat := if n = 0 then 0 else n.log2 + 1

/-- The magnitude of a 64-bit operand. -/
def magnitude (signed : Bool) (v : U64) : Nat := if signed then v.toInt.natAbs else v.toNat

/-- Cycles of a multiply (R96). -/
def mulTime (signed : Bool) (a b : U64) : Nat := 1 + (sigBits (min (magnitude signed a) (magnitude signed b)) + 15) / 16

/-- Cycles of a divide or a remainder (R96). -/
def divTime (signed : Bool) (a b : U64) : Nat :=
  if b = 0 || (signed && decide (a.toNat = 2 ^ 63) && decide (b.toNat = 2 ^ 64 - 1)) then 3
  else 3 + (sigBits (magnitude signed a) + 1 - sigBits (magnitude signed b) + 3) / 4

/-- SCALAR latencies (R164). -/
def scalarTime (x : Tile) (op : Nat) (f : Fields) : Nat :=
  let imm := decide (0x80 ≤ op)
  let o := if imm then op - 0x80 else op
  let a := x.xr f.ra
  let b := operandB x imm f
  if o = 0x0A || o = 0x0B then mulTime true a b
  else if o = 0x0C then mulTime false a b
  else if o = 0x0D || o = 0x0F then divTime true a b
  else if o = 0x0E || o = 0x10 then divTime false a b
  else if o = 0x24 || o = 0x25 then 9
  else if o = 0x34 || o = 0x35 then 17
  else if 0x20 ≤ o && o ≤ 0x23 then 4
  else if 0x26 ≤ o && o ≤ 0x2A then 2
  else if 0x30 ≤ o && o ≤ 0x3A then 5
  else if o = 0x40 then 3
  else 1

/-- Groups of a dot product of length `k` times its passes: ceil(K / G) × P (R64, R169, R177); one group for each k in strict mode
(R53, R54). -/
def dotTime (strict : Bool) (fmt k pass : Nat) : Nat :=
  let g := if strict || fmt = 0 then 1 else if fmt ≤ 3 then 8 else 32
  let p := if strict then 1 else if pass = 2 then 3 else if pass = 3 then 6 else 1
  (k + g - 1) / g * p

/-- VECTOR latencies (R168, R169). -/
def vectorTime (strict : Bool) (op : Nat) (f : Fields) : Nat :=
  if op ≤ 3 then 4
  else if 0x10 ≤ op && op ≤ 0x13 then 10
  else if op = 0x20 then 4 + (f.e 6 0 + 1)
  else if op = 0x21 then 6
  else if op = 0x22 then
    let lone := f.e 3 0 = 1 && f.e 22 21 = 0
    6 + (if lone then f.e 17 8 else dotTime strict (f.e 3 0) (f.e 17 8) (f.e 22 21))
  else if op = 0x23 then 3
  else 2

/-- Cycles from issue to the earliest issue of a dependent instruction, for the instructions that access no row. -/
def latency (x : Tile) (strict : Bool) (cls op : Nat) (f : Fields) : Nat :=
  match cls with
  | 0x0 => scalarTime x op f
  | 0x3 => vectorTime strict op f
  | 0x4 => if op = 0 then 8 else 6
  | 0x8 => if op = 0x03 then 2 else if op = 0x11 then 3 else 1
  | _ => 1

/-- Load and store times of a bank (R106). -/
def loadTime (bank : Nat) (cached : Bool) : Nat := if cached then 9 else if bank < 8 then 5 else 7
def storeTime (bank : Nat) : Nat := if bank < 8 then 3 else 4

/-! ### Register interlocks (R156) -/

/-- The keys that register times stand under. x0 is never written. -/
def xKey (r : BitVec 5) : List Nat := if r = 0 then [] else [r.toNat]
def vKey (r : Nat) : Nat := 32 + r
def aKey (r : Nat) : Nat := 64 + r

/-- Flags merged by every floating-point operation, and conversions done (R86, R186). -/
def flagsKey : Nat := 72
def convKey : Nat := 73

/-- The keys an instruction reads and writes. -/
structure RegUse where
  reads : List Nat := []
  writes : List Nat := []

/-- Registers from `v` on. -/
def vKeys (v n : Nat) : List Nat := (upto n).map fun i => vKey (v + i)

/-- Vector registers that hold a packed block operand: three for a 6-bit format (R172). -/
def packRegs (fmt : Nat) : Nat := if fmt = 6 || fmt = 7 then 3 else 1

/-- What the VECTOR instruction `op` reads and writes (R168, R169). -/
def vectorUse (op : Nat) (f : Fields) : RegUse :=
  let a := vKey f.ra.toNat
  let b := vKey f.rb.toNat
  let c := vKey f.rc.toNat
  let d := vKey f.rd.toNat
  if op = 0x03 || op = 0x09 then ⟨[a, b, c], [d, flagsKey]⟩
  else if op ≤ 0x0D then ⟨[a, b], [d, flagsKey]⟩
  else if op ≤ 0x13 then ⟨[a], [d, flagsKey]⟩
  else if op = 0x18 then ⟨xKey f.ra, [d]⟩
  else if op = 0x19 then ⟨[a], xKey f.rd⟩
  else if op = 0x1A then ⟨d :: xKey f.ra, [d]⟩
  else if op = 0x1B then ⟨[a], [d]⟩
  else if op = 0x22 then
    ⟨[a, b] ++ (if f.e 20 19 = 0 then [] else [c]) ++ (if f.e 18 18 = 0 then xKey f.rd else []), flagsKey :: xKey f.rd⟩
  else if op = 0x23 then ⟨[a, d], [d, flagsKey]⟩
  else ⟨[a], flagsKey :: xKey f.rd⟩

/-- What an instruction reads and writes. -/
def regUse (cls op : Nat) (f : Fields) : RegUse :=
  let abc := xKey f.ra ++ xKey f.rb ++ xKey f.rc
  match cls with
  | 0x0 => ⟨abc, (if 0x20 ≤ op && op ≤ 0x40 then [flagsKey] else []) ++ xKey f.rd⟩
  | 0x1 => ⟨abc, xKey f.rd⟩
  | 0x2 =>
    if op = 0x00 then ⟨abc, [vKey f.rd.toNat]⟩
    else if op = 0x01 then ⟨vKey f.rd.toNat :: abc, []⟩
    else if op = 0x02 then ⟨abc, vKeys f.rd.toNat 8⟩
    else if op = 0x03 then ⟨abc, vKeys f.rd.toNat (bits f.mode 5 2 + 1)⟩
    else if op = 0x04 then ⟨abc, [aKey f.rd.toNat]⟩
    else if op = 0x05 then ⟨aKey f.rd.toNat :: abc, []⟩
    else ⟨abc, []⟩
  | 0x3 => vectorUse op f
  | 0x4 =>
    if op = 0 then
      ⟨[vKey f.ra.toNat, vKey f.rc.toNat] ++ xKey f.rb,
        vKeys f.rd.toNat (packRegs (f.e 7 4)) ++ [vKey f.rc.toNat, flagsKey, convKey]⟩
    else ⟨vKeys f.ra.toNat (packRegs (f.e 3 0)) ++ [vKey f.rc.toNat], [vKey f.rd.toNat, flagsKey]⟩
  | 0x5 => if op = 0 then ⟨abc, [flagsKey]⟩ else ⟨[], [aKey f.rd.toNat]⟩
  | 0x9 => ⟨abc, flagsKey :: xKey f.rd⟩
  | 0x7 | 0x8 => ⟨abc, xKey f.rd⟩
  | _ => ⟨abc, []⟩

/-- The cycle from which every key listed may be used. -/
def Pace.wait (p : Pace) (ks : List Nat) : Nat := ks.foldl (fun m k => max m (mapGet 0 p.ready k)) p.cycle

/-- The cycle from which every earlier instruction has completed. -/
def Pace.drained (p : Pace) : Nat := p.ready.foldl (fun m e => max m e.2) p.cycle

/-- The keys become usable at cycle `c`, if they are not so later. -/
def Pace.setReady (p : Pace) (ks : List Nat) (c : Nat) : Pace :=
  { p with ready := ks.foldl (fun m k => mapSet 0 m k (max c (mapGet 0 m k))) p.ready }

/-- FPBAR, RDFLG and END wait for every earlier operation; RDMAX and RDBLK for the earlier conversions (R86, R166, R186). -/
def waitsFor (cls op : Nat) : List Nat :=
  if (cls = 0x7 && op = 0x01) || (cls = 0x8 && op ≤ 0x01) then [flagsKey]
  else if cls = 0x8 && (op = 0x03 || op = 0x05) then [convKey]
  else []

/-- The accumulator of an MMA is the one that the array's last MMA leaves, and no other instruction has written it since: the two
chain (R177). -/
def Pace.chains (p : Pace) (acc : Nat) : Bool := p.arrayAcc = acc && decide (mapGet 0 p.ready (aKey acc) = p.arrayReady)

/-- The earliest ARITH cycle in which the instruction at the program counter may issue, scoreboard apart (R97, R156, R166, R177). -/
def issueCycle (x : Tile) : Nat :=
  let w := wordFields x.word
  let u := regUse w.1 w.2.1 w.2.2
  let p := x.pace
  let c := p.wait (u.reads ++ u.writes.filter (fun k => k ≠ flagsKey && k ≠ convKey) ++ waitsFor w.1 w.2.1)
  if w.1 = 0x1 && w.2.1 = 0x0F then max c p.drained
  else if w.1 = 0x5 && w.2.1 = 0 then
    let acc := w.2.2.rd.toNat
    max (max c p.arrayPrev) (if p.chains acc then 0 else mapGet 0 p.ready (aKey acc))
  else c

/-- The times after an instruction that accesses no row; a taken branch, JAL and JR let the next issue 2 cycles later (R165). -/
def paceAfter (x : Tile) (strict jumped : Bool) : Pace :=
  let w := wordFields x.word
  let c := issueCycle x
  let p := { x.pace with cycle := c + (if jumped then 2 else 1) }
  p.setReady (regUse w.1 w.2.1 w.2.2).writes (c + latency x strict w.1 w.2.1 w.2.2)

/-! ### The scoreboard (R116, R117) -/

/-- An entry in use in cycle `c` holds the access up: a write entry any access to its rows, a read entry a write (R117). -/
def SbEntry.blocks (e : SbEntry) (c : Nat) (rows : List Nat) (h : Nat) (write : Bool) : Bool :=
  decide (c ≤ e.till) && e.handle = h && (e.write || write) && rows.any fun r => decide (e.first ≤ r) && decide (r ≤ e.last)

/-- The entries in use in cycle `c`. -/
def Pace.inUse (p : Pace) (c : Nat) : SMap SbEntry := p.sb.filter fun e => decide (c ≤ e.2.till)

/-- TILE_SB_STATUS.BUSY: the entries in use in the cycle of the next issue (R151). -/
def Pace.busy (p : Pace) : Nat := (p.inUse p.cycle).foldl (fun m e => m + 2 ^ e.1) 0

/-- The end of the soonest entry after cycle `c`, or `c`. -/
def Pace.soonest (p : Pace) (c : Nat) : Nat :=
  match (p.inUse c).map (fun e => e.2.till + 1) with
  | [] => c
  | a :: l => l.foldl min a

/-- The first cycle from `c` on in which `n` entries are free of the eight. -/
def Pace.room (p : Pace) (n : Nat) : Nat → Nat → Nat
  | 0, c => c
  | k + 1, c => if (p.inUse c).length + n ≤ 8 then c else p.room n k (p.soonest c)

/-- The first cycle from `c` on in which the scoreboard lets the accesses issue: handle, rows, write (R117). `n` entries are taken. -/
def Pace.clear (p : Pace) (c n : Nat) (uses : List (Nat × List Nat × Bool)) : Nat :=
  let c := p.sb.foldl (fun m e => if uses.any (fun u => e.2.blocks c u.2.1 u.1 u.2.2) then max m (e.2.till + 1) else m) c
  p.room n 8 c

/-- An entry is taken: the lowest number free in cycle `c`. -/
def Pace.take (p : Pace) (c : Nat) (e : SbEntry) : Pace :=
  let m := p.inUse c
  match (upto 8).find? fun k => m.all fun x => x.1 ≠ k with
  | some k => { p with sb := mapInsert m k e }
  | none => { p with sb := m }

end Sys2Proof.Machine
end

