-- ==== Sys2Proof/Machine/Ingress.lean ====
section
/-! DEFINITION. A tile's ingress: the checks of a transfer header, holds at guarded slots, arrival counters (R101 to R103, R115,
R119 to R127, R133, R144). -/

namespace Sys2Proof.Machine

/-- How many rows a transfer touches at its target. -/
def xferRows : TransferKind → Nat
  | .rows l => l.length
  | .fill n _ => n
  | .signal => 0
  | .remoteRead n => n

def xferReads : TransferKind → Bool
  | .remoteRead _ => true
  | _ => false

/-- What a header meets at the ingress. -/
inductive Verdict where
  | refuse (st : RefusalStatus)
  | hold
  | admits
deriving DecidableEq, Repr

/-- A bank of the header's rows is DRAINING or OFF (R144). -/
def bankBlocked (d : Dev) (t : Nat) (h : Hnd) (row n : Nat) : Bool :=
  let on := d.fld tileBankPwrOn t
  let dr := d.fld tileBankPwrDraining t
  (upto n).any fun i => !bit on (h.bank (row + i)) || bit dr (h.bank (row + i))

/-- A slot that the transfer touches is not in the state it needs (R124). -/
def slotBlocked (x : Tile) (h : Hnd) (row n : Nat) (reads : Bool) : Bool :=
  h.guarded && (upto n).any fun i => (x.slot h (h.slot (row + i))).full != reads

/-- The checks in the order of R102, R115, R144, R124; a paused handle holds the transfer (R142). -/
def headerVerdict (d : Dev) (t : Nat) (q : TransferHdr) : Verdict :=
  let x := d.tile t
  if q.epoch ≠ d.epoch t then .refuse .roleStale
  else match q.kind with
    | .signal => .admits
    | k =>
      let h := x.hnd q.handle
      let n := xferRows k
      if !h.valid || decide (h.rows < q.row + n) || (if xferReads k then !h.egress else !h.ingress) then
        .refuse .invalidDescriptor
      else if h.kind = 0 && bankBlocked d t h q.row n then .refuse .bankOff
      else if x.paused.contains q.handle || slotBlocked x h q.row n (xferReads k) then .hold
      else .admits

/-- The completion status of a refusal (R184). -/
def refusalStatus : RefusalStatus → Nat
  | .roleStale => stRoleStale
  | .bankOff => stBankOff
  | .guardTimeout => stGuard
  | .invalidDescriptor => stInvalid
  | .uncorrectableMemory => stUncorrectable
  | .numericFail => stNumeric
  | .resourceRefused => stRefused
  | .linkLost => stLinkLost

/-- The operation is refused to its sender (R102, R144, R184); a copy that Forester made for a job ends the job, and Forester counts a
ROLE_STALE (R339). -/
def refuseXfer (d : Dev) (t : Nat) (q : TransferHdr) (st : RefusalStatus) : Dev :=
  let d := match st with
    | .roleStale => d.incFld tileStaleCountCount t
    | .bankOff => d.incFld tileBankOffCountCount t
    | _ => d
  match q.issuer, q.job with
  | some i, _ => { d with refusals := d.refusals ++ [(i, q.id, st)] }
  | none, some j => jobFault (if st = .roleStale then d.incFld forCntCount 4 else d) j (refusalStatus st)
  | none, none => d

/-- A hold at a guarded slot is counted, once for each transfer (R124); one that begins as a hold of a live remap is counted when it
becomes one. -/
def noteHold (d : Dev) (t : Nat) (q : TransferHdr) : Dev :=
  let x := d.tile t
  if slotBlocked x (x.hnd q.handle) q.row (xferRows q.kind) (xferReads q.kind) && !x.guardHeld.contains q.id then
    (d.incFld tileGuardStallsCount t).updTile t fun x => { x with guardHeld := x.guardHeld ++ [q.id] }
  else d

/-- A header is checked at the ingress: refused, admitted, or held in one of four places (R127). -/
def checkHeader (d : Dev) (t : Nat) (q : TransferHdr) : Dev :=
  match headerVerdict d t q with
  | .refuse st => refuseXfer d t q st
  | .admits => d.updTile t fun x => { x with admitted := x.admitted ++ [q] }
  | .hold => noteHold (d.updTile t fun x => { x with held := x.held ++ [q] }) t q

/-- Held transfers that may go on are admitted, in order; one that cannot stays. The checks are made again: what no longer passes
them, a bank that drains among them, is refused (the spec names headers that were admitted or that arrive later, and not one that
is held; DESIGN CHOICE, notes/assumptions/121). -/
def releaseHeld (d : Dev) (t : Nat) : Dev :=
  (d.tile t).held.foldl (fun d q =>
    let free (d : Dev) : Dev :=
      d.updTile t fun x => { x with held := x.held.erase q, guardHeld := x.guardHeld.filter (· ≠ q.id) }
    match headerVerdict d t q with
    | .hold => noteHold d t q
    | .admits => (free d).updTile t fun x => { x with admitted := x.admitted ++ [q] }
    | .refuse st => refuseXfer (free d) t q st) d

/-- Transfers behind the hold places reach the ingress while a place is free (R127). -/
def releaseBacklog (d : Dev) (t : Nat) : Nat → Dev
  | 0 => d
  | n + 1 =>
    match (d.tile t).backlog with
    | q :: r =>
      if (d.tile t).held.length < 4 then
        releaseBacklog (checkHeader (d.updTile t fun x => { x with backlog := r }) t q) t n
      else d
    | [] => d

/-- After a slot, a pause or a hold place changed: the transfers that wait go on as they may. -/
def settle (d : Dev) (t : Nat) : Dev :=
  if (d.tile t).held = [] ∧ (d.tile t).backlog = [] then d
  else
    let d := releaseHeld d t
    releaseBacklog d t (d.tile t).backlog.length

/-- A transfer header reaches the ingress (R102, R103, R127). -/
def ingress (d : Dev) (t : Nat) (q : TransferHdr) : Dev :=
  if (d.tile t).held.length < 4 then checkHeader d t q
  else d.updTile t fun x => { x with backlog := x.backlog ++ [q] }

/-! ### Arrival counters (R119 to R122) -/

/-- The wait on counter value `c` for target `g` is satisfied (R120). -/
def waitSatisfied (c g : U32) : Bool := decide ((c - g).toNat < 2 ^ 31)

def arrivalCount (d : Dev) (t c : Nat) : U32 := BitVec.ofNat 32 (d.fld (tileArrival c) t)

/-- The wait that stalls the tile completes: xD := `v`, the program goes on (R178). -/
def completeWait (d : Dev) (t : Nat) (rd : BitVec 5) (v : U64) : Dev :=
  d.updTile t fun x =>
    { (x.xw rd v) with pc := x.pc + 8, ordinal := x.ordinal + 1, stall := none, pace := { x.pace with cycle := issueCycle x + 1 } }

/-- The arrival counter rises by 1 modulo 2^32; a wait that it satisfies completes (R119, R120). -/
def arrive (d : Dev) (t c : Nat) : Dev :=
  let d := d.setFld (tileArrival c) (d.fld (tileArrival c) t + 1) t
  match (d.tile t).stall with
  | some (.arrival c' g _ rd) =>
    if c' = c && waitSatisfied (arrivalCount d t c) g && d.fld tileStateState t = tsRunning then completeWait d t rd 0 else d
  | _ => d

/-- Rows written to device memory; each block or row written whole is no longer poisoned (R447). -/
def storeMemRows (d : Dev) (a : Nat) : List Row → Dev
  | [] => d
  | r :: l =>
    storeMemRows { d with mem := memSetRow d.mem a r, poison := d.poison.filter fun p => p < a || a + 512 ≤ p,
                          flaws := mapDrop (fun p => decide (a ≤ p) && decide (p < a + 512)) d.flaws } (a + 512) l

/-- The rows a write transfer carries. -/
def xferData : TransferKind → List Row
  | .rows l => l
  | .fill n p => List.replicate n (rowOf 64 (List.replicate 64 p.toNat))
  | _ => []

/-- The acknowledgement of an operation goes back to its issuer (R181). -/
def sendAck (d : Dev) (issuer : Option Nat) (id : Nat) : Dev :=
  match issuer with
  | some i => { d with acks := d.acks ++ [(i, id)] }
  | none => d

/-! ### The check code of the rows (R148, R149) -/

/-- A corrected error of a scratchpad row (R148): counted, written back, and the running job marked. -/
def eccCorrected (d : Dev) (t bank prow : Nat) : Dev :=
  let d := (d.setFld tileEccStatusCorrected 1 t).incFld tileEccCorrCount t
  let d := d.updTile t fun x =>
    { x with rowErrs := mapSet 0 x.rowErrs (rowKey bank prow) (mapGet 0 x.rowErrs (rowKey bank prow) + 1),
             flaws := mapErase x.flaws (rowKey bank prow) }
  d.jobFlag (d.tile t).job cfCorrected

/-- An uncorrectable error of a scratchpad row is recorded (R149). -/
def eccRecord (d : Dev) (t bank prow : Nat) (hn : Option Nat) : Dev :=
  let d := if d.flag tileEccStatusUncorrectable t then d
    else
      let d := (d.setFld tileEccAddrBank bank t).setFld tileEccAddrProw prow t
      (d.setFld tileEccAddrHandle (hn.getD 0) t).setFld tileEccAddrHvalid (b2n hn.isSome) t
  let d := (d.setFld tileEccStatusUncorrectable 1 t).incFld tileEccUncorrCount t
  let k := rowKey bank prow
  d.updTile t fun x => { x with rowBad := if x.rowBad.contains k then x.rowBad else x.rowBad ++ [k] }

/-- A physical row is read for handle `hn`: what its code finds (R148, R149). The second part says that no data of it is
delivered. -/
def eccRead (d : Dev) (t bank prow : Nat) (hn : Option Nat) : Dev × Bool :=
  match mapGet Ecc.clean (d.tile t).flaws (rowKey bank prow) with
  | .clean => (d, false)
  | .corrected => (eccCorrected d t bank prow, false)
  | .uncorrectable => (eccRecord d t bank prow hn, true)

/-- Rows read one after the other: bank, physical row and handle of each. -/
def eccReads (d : Dev) (t : Nat) (l : List (Nat × Nat × Nat)) : Dev × Bool :=
  l.foldl (fun r e => let q := eccRead r.1 t e.1 e.2.1 (some e.2.2); (q.1, r.2 || q.2)) (d, false)

/-- Where the logical rows of a LOCAL handle lie: bank, physical row, handle. -/
def Tile.places (x : Tile) (hn : Nat) (rows : List Nat) : List (Nat × Nat × Nat) :=
  let h := x.hnd hn
  rows.map fun r => (h.bank r, x.prow (h.bank r) (h.brow r), hn)

/-- The memory row at a device address is poisoned (R447): its Canopy row, or one of its DDR4 blocks. -/
def rowPoisoned (d : Dev) (a : Nat) : Bool := d.poison.any fun p => decide (a ≤ p) && decide (p < a + 512)

/-- Memory rows read for an operation of tile `t` from a row address on: uncorrectable memory delivers none (R432, R447, R184). -/
def memRowsAt (d : Dev) (t a n : Nat) : Dev × Option (List Row) :=
  let d := scanMem d (d.tile t).job ekJob (512 * a) (512 * n)
  (d, if (upto n).any fun i => rowPoisoned d (512 * (a + i)) then none
    else some ((upto n).map fun i => memRow d.mem (512 * (a + i))))

/-- The rows that a remote read finds: of the scratchpad, checked by their code, or of the memory behind a CACHED handle. None where a
row is uncorrectable. -/
def remoteRows (d : Dev) (t : Nat) (hn row n : Nat) : Dev × Option (List Row) :=
  let h := (d.tile t).hnd hn
  if h.kind = 0 then
    let r := eccReads d t ((d.tile t).places hn ((upto n).map (row + ·)))
    (r.1, if r.2 then none else some ((d.tile t).readRows h row n))
  else memRowsAt d t (h.maddr + row) n

/-- A bank of the rows is not powered. -/
def bankOff (d : Dev) (t : Nat) (h : Hnd) (row n : Nat) : Bool :=
  (upto n).any fun i => !bit (d.fld tileBankPwrOn t) (h.bank (row + i))

/-- A transfer admitted at the ingress lands: its rows are written, to the scratchpad or to the memory behind a CACHED handle, and
its counter rises (R119). A remote read sends its rows on, to the tile that the placement gives at that moment (R102, R129, R180,
R185); an uncorrectable row stops the work on the tile and refuses the read (R149). A remote read does not hold a bank's gate back;
one that lands when its bank has gated is refused with BANK_OFF (the spec says nothing of it; DESIGN CHOICE, notes/assumptions/121). -/
def landXfer (d : Dev) (t : Nat) (q : TransferHdr) : Dev :=
  let h := (d.tile t).hnd q.handle
  match q.kind with
  | .remoteRead n =>
    if h.kind = 0 && bankOff d t h q.row n then refuseXfer d t q .bankOff
    else match remoteRows d t q.handle q.row n with
      | (d, none) => refuseXfer (if h.kind = 0 then tileFault d t stUncorrectable else d) t q .uncorrectableMemory
      | (d, some rows) => match q.reply with
        | none => sendAck d q.issuer q.id
        | some r =>
          if r.mem then sendAck (storeMemRows d (512 * r.row) rows) q.issuer q.id
          else match d.placed r.image r.ltile with
            | none => match q.issuer with
              | some i => { d with refusals := d.refusals ++ [(i, q.id, .roleStale)] }
              | none => d
            | some p => { d with fabric := d.fabric ++ [(p, { q with epoch := d.epoch p, handle := r.handle, row := r.row,
                                                                     counter := r.counter, kind := .rows rows, reply := none })] }
  | k =>
    let l := xferData k
    let d := if h.kind = 0 then d.updTile t fun x => x.storeRows h q.row l
      else (storeMemRows d (512 * (h.maddr + q.row)) l).updTile t fun x => x.fillSlots h q.row l.length
    settle (sendAck (arrive d t q.counter) q.issuer q.id) t

end Sys2Proof.Machine
end

