-- ==== Sys2Proof/Machine/Operands.lean ====
section
/-! DEFINITION. Issue of an instruction on a tile (R97, R163), its flags, traps and operand
forms. -/

namespace Sys2Proof.Machine

/-- The format codes of R161; FP64 0x0 to INT64 0xE. -/
def efmtOf (c : Nat) : Option EFmt :=
  match c with
  | 0x0 => some (.fl fp64)
  | 0x1 => some (.fl fp32)
  | 0x2 => some (.fl fp16)
  | 0x3 => some (.fl bf16)
  | 0x4 => some (.fl f8e4)
  | 0x5 => some (.fl f8e5)
  | 0x6 => some (.fl f6e3)
  | 0x7 => some (.fl f6e2)
  | 0x8 => some (.fl f4e2)
  | 0x9 => some (.int true 8)
  | 0xA => some (.int false 8)
  | 0xB => some (.int true 4)
  | 0xC => some (.int false 4)
  | 0xD => some (.int true 32)
  | 0xE => some (.int true 64)
  | _ => none

/-- How an instruction that has reached issue ends: it completes, jumps, stalls at issue, or is illegal (R163). Each carries the
device as the instruction's effect leaves it. -/
inductive Issue where
  | done (d : Dev)
  | jump (d : Dev) (pc : U32)
  | stall (d : Dev)
  | illegal
  /-- The instruction does not complete: a trap is delivered in its place (R85, R86). -/
  | trap

/-- The instruction at the program counter of tile `t` is the one encoded. -/
def atIssue (d : Dev) (t : Nat) (w : U64) : Bool :=
  let x := d.tile t
  d.fld tileStateState t = tsRunning && !x.vendor && x.pc.toNat % 8 = 0 && decide (x.pc.toNat / 8 < x.codeLen) &&
    mapGet 0 x.code (x.pc.toNat / 8) = w

/-- The role a class is bound to (R159). -/
def classRole (d : Dev) (t : Nat) (cls : Nat) : Bool :=
  if cls = 0x9 then d.fld tileRoleRole t = 2 else if cls = 0xA then d.fld tileRoleRole t = 3 else true

/-- After an instruction of `d0` has left the device as `d`: the program counter moves on, the ordinal rises (R82), the times of the
instruction are kept. -/
def advance (d0 d : Dev) (t : Nat) (pc : Option U32) : Dev :=
  d.updTile t fun x =>
    let y := d0.tile t
    { x with pc := pc.getD (x.pc + 8), ordinal := x.ordinal + 1, stall := none,
             pace := if x.pace.cycle = y.pace.cycle then paceAfter y (d0.tileStrict t) pc.isSome else x.pace }

/-- Issue an instruction on tile `t`. A command whose instruction is not the one at the program counter, or whose tile does not
run, changes nothing (DESIGN CHOICE, notes/assumptions/3). -/
def issue (t : Nat) (cls op : Nat) (f : Fields) (body : Dev → Issue) (d : Dev) : Dev :=
  if atIssue d t (instrWord cls op f) then
    if classRole d t cls then
      match body d with
      | .done d' => settle (advance d d' t none) t
      | .jump d' pc => advance d d' t (some pc)
      | .stall d' => d'
      | .illegal => illegal d t
      | .trap => deliverTrap d t
    else illegal d t
  else d

/-- What one destination element does: the flags it raised, and whether it holds a NaN. -/
abbrev ElemFx := Fl × Bool

/-- The lowest element for which a condition holds. -/
def firstElem (p : ElemFx → Bool) : List ElemFx → Nat → Option Nat
  | [], _ => none
  | e :: r, i => if p e then some i else firstElem p r (i + 1)

/-- The flags of an operation merged into TILE_FP_FLAGS, and its trap recorded where an enabled flag arose or an armed NaN watch
saw a NaN (R80, R84, R89). `elems` lists the operation's destination elements. -/
def raise (d : Dev) (t : Nat) (elems : List ElemFx) : Dev :=
  let fl := elems.foldl (fun a e => a ||| e.1) flNone
  let d := d.setFld tileFpFlagsInvalid (d.fld tileFpFlagsInvalid t ||| fl.toNat % 2) t
  let d := d.setFld tileFpFlagsDivzero (d.fld tileFpFlagsDivzero t ||| fl.toNat / 2 % 2) t
  let d := d.setFld tileFpFlagsOverflow (d.fld tileFpFlagsOverflow t ||| fl.toNat / 4 % 2) t
  let d := d.setFld tileFpFlagsUnderflow (d.fld tileFpFlagsUnderflow t ||| fl.toNat / 8 % 2) t
  let d := d.setFld tileFpFlagsInexact (d.fld tileFpFlagsInexact t ||| fl.toNat / 16 % 2) t
  let d := d.setFld tileFpFlagsIntOverflow (d.fld tileFpFlagsIntOverflow t ||| fl.toNat / 32) t
  let en : BitVec 5 := BitVec.ofNat 5 (d.fld tileFpTrapTrapEn t)
  let watch := d.flag tileFpTrapNanwatchEn t
  let on (e : ElemFx) : BitVec 5 := e.1.truncate 5 &&& en
  let cause := elems.foldl (fun a e => a ||| on e) (0 : BitVec 5)
  let d := d.setFld tileFpTrapPending (d.fld tileFpTrapPending t ||| cause.toNat) t
  match firstElem (fun e => on e ≠ 0 || (watch && e.2)) elems 0 with
  | none => d
  | some i =>
    let x := d.tile t
    recordTrap d t ⟨x.pc, x.ordinal, i, cause, watch && elems.any (·.2), false⟩

/-- A scalar floating-point instruction's effect. -/
def elemOf (f : Fmt) (r : FRes) : ElemFx := (r.2, (decodeNum f r.1).isNan)

/-! ### Scalar operand forms (R164) -/

/-- A SCALAR integer instruction: xD := op(xA, xB or the immediate). -/
def scalarInt (t : Nat) (op : Nat) (imm : Bool) (f : Fields) (g : U64 → U64 → U64) : Dev → Dev :=
  issue t 0x0 (if imm then op + 0x80 else op) f fun d =>
    .done (d.updTile t fun x => x.xw f.rd (g (x.xr f.ra) (operandB x imm f)))

/-- The low half of a register, as an FP32 or INT32 value (R154). -/
def lo32 (v : U64) : Nat := v.toNat % 2 ^ 32

/-- A SCALAR floating-point instruction of three operands; an FP32 result clears [63:32] (R154). -/
def scalarFp (t : Nat) (op : Nat) (f : Fields) (fmt : Fmt) (g : Nat → Nat → Nat → FRes) : Dev → Dev :=
  issue t 0x0 op f fun d =>
    let x := d.tile t
    let v (r : BitVec 5) : Nat := (x.xr r).toNat % 2 ^ fmt.width
    let r := g (v f.ra) (v f.rb) (v f.rc)
    .done (raise (d.setTile t (x.xw f.rd (BitVec.ofNat 64 r.1))) t [elemOf fmt r])

/-- A SCALAR compare: xD := 1 or 0. -/
def scalarCmp (t : Nat) (op : Nat) (f : Fields) (fmt : Fmt) (p : FpNum → FpNum → Bool) : Dev → Dev :=
  issue t 0x0 op f fun d =>
    let x := d.tile t
    let v (r : BitVec 5) : Nat := (x.xr r).toNat % 2 ^ fmt.width
    let r := fcmp fmt p (v f.ra) (v f.rb)
    .done (raise (d.setTile t (x.xw f.rd (BitVec.ofNat 64 (b2n r.1)))) t [(r.2, false)])

/-! ### Lanes (R168) -/

/-- The 128 lanes of 32 bits of a vector register. -/
def lanes (r : Row) : List Nat := rowElems 32 r

def ofLanes (l : List Nat) : Row := rowOf 32 l

/-- A VECTOR instruction that works lane by lane on three sources and raises flags. -/
def vectorFp (t : Nat) (op : Nat) (f : Fields) (g : Nat → Nat → Nat → FRes) : Dev → Dev :=
  issue t 0x3 op f fun d =>
    let x := d.tile t
    let a := lanes (x.vr f.ra.toNat)
    let b := lanes (x.vr f.rb.toNat)
    let c := lanes (x.vr f.rc.toNat)
    let rs := (a.zip (b.zip c)).map fun p => g p.1 p.2.1 p.2.2
    .done (raise (d.setTile t (x.vw f.rd.toNat (ofLanes (rs.map (·.1))))) t (rs.map (elemOf fp32)))

/-- A VECTOR compare: all ones in a true lane, 0 in a false one. -/
def vectorCmp (t : Nat) (op : Nat) (f : Fields) (p : FpNum → FpNum → Bool) : Dev → Dev :=
  issue t 0x3 op f fun d =>
    let x := d.tile t
    let rs := ((lanes (x.vr f.ra.toNat)).zip (lanes (x.vr f.rb.toNat))).map fun q => fcmp fp32 p q.1 q.2
    .done (raise (d.setTile t (x.vw f.rd.toNat (ofLanes (rs.map fun r => if r.1 then 0xFFFFFFFF else 0)))) t
      (rs.map fun r => (r.2, false)))

/-- A VECTOR instruction on whole registers without flags. -/
def vectorBits (t : Nat) (op : Nat) (f : Fields) (g : Row → Row → Row → Row) : Dev → Dev :=
  issue t 0x3 op f fun d =>
    .done (d.updTile t fun x => x.vw f.rd.toNat (g (x.vr f.ra.toNat) (x.vr f.rb.toNat) (x.vr f.rc.toNat)))

end Sys2Proof.Machine
end

