-- ==== Sys2Proof/Machine/Rows.lean ====
section
/-! DEFINITION. Row accesses of a program through its handles: permissions, slots, the cache of CACHED handles, bank conflicts
and the check code (R105 to R149). -/

namespace Sys2Proof.Machine

/-! ### Cache groups (R134 to R138) -/

/-- Cache group `g` is in cache mode. -/
def cacheOn (d : Dev) (t g : Nat) : Bool := if g = 0 then d.flag tileCacheModeGroup0 t else d.flag tileCacheModeGroup1 t

/-- The row address of logical row `r` of a CACHED handle (R135). -/
def Hnd.rowAddr (h : Hnd) (r : Nat) : Nat := h.maddr + r

def cacheSet (a : Nat) : Nat := a % 512
def cacheTag (a : Nat) : Nat := a / 512
def cacheKey (g a : Nat) : Nat := 512 * g + cacheSet a

/-- The line that holds a row address, if the group holds it. -/
def Tile.line (x : Tile) (g a : Nat) : Option CLine := (mapGet [] x.cache (cacheKey g a)).find? fun l => l.tag = cacheTag a

/-- The bank of a way of a group (R135: the four ways are the four banks of the group). -/
def wayBank (g way : Nat) : Nat := 8 + 4 * g + way

/-- The line becomes the most recently used of its set; a write makes it dirty. -/
def Tile.touchLine (x : Tile) (g a : Nat) (l : CLine) (write : Bool) : Tile :=
  let rest := (mapGet [] x.cache (cacheKey g a)).filter fun m => m.way ≠ l.way
  { x with cache := mapSet [] x.cache (cacheKey g a) ({ l with dirty := l.dirty || write } :: rest) }

/-- The data of logical row `r` of a handle: the scratchpad row, or the line of a CACHED handle. Where another agent writes the memory
row while the job runs, the line gives the value from before the write if it was held then, and the value after it otherwise; the
spec leaves open which of the two is returned (R137; DESIGN CHOICE, notes/assumptions/122). -/
def Tile.rowData (x : Tile) (h : Hnd) (r : Nat) : Row :=
  if h.kind = 1 then
    match x.line h.group (h.rowAddr r) with
    | some l => x.physRow (wayBank h.group l.way) (cacheSet (h.rowAddr r))
    | none => 0
  else x.readRow h r

/-- After a program's read of logical row `r`. -/
def Tile.afterRead (x : Tile) (h : Hnd) (r : Nat) (drain : Bool) : Tile :=
  let x := if h.kind = 1 then
      match x.line h.group (h.rowAddr r) with
      | some l => x.touchLine h.group (h.rowAddr r) l false
      | none => x
    else x
  if drain then x.drainSlot h r else x

/-- A program's store of logical row `r`; it counts toward the slot of a guarded handle, LOCAL or CACHED (R123). -/
def Tile.programStore (x : Tile) (h : Hnd) (r : Nat) (v : Row) : Tile :=
  if h.kind = 1 then
    match x.line h.group (h.rowAddr r) with
    | some l =>
      ((({ x with dirtyJob := x.job }).touchLine h.group (h.rowAddr r) l true).setPhysRow (wayBank h.group l.way)
        (cacheSet (h.rowAddr r)) v).fillSlot h r
    | none => x
  else x.storeRow h r v

/-- The device address of the row that a line holds. -/
def lineAddr (set tag : Nat) : Nat := 512 * (512 * tag + set)

/-- A dirty line written back to memory and clean (R135, R136). A line whose code is uncorrectable delivers no data: it is dropped, the
memory row stays, and the work on the tile stops (R149; DEDUCED, notes/assumptions/123). -/
def writeBackLine (d : Dev) (t g set : Nat) (l : CLine) : Dev :=
  if l.dirty then
    let k := 512 * g + set
    let b := wayBank g l.way
    let r := eccRead d t b ((d.tile t).prow b set) none
    let x := r.1.tile t
    let ls := mapGet [] x.cache k
    if r.2 then
      tileFault (r.1.setTile t { x with cache := mapSet [] x.cache k (ls.filter fun m => m.way ≠ l.way) }) t stUncorrectable
    else
      (storeMemRows r.1 (lineAddr set l.tag) [x.physRow b set]).setTile t
        { x with cache := mapSet [] x.cache k (ls.map fun m => if m.way = l.way then { m with dirty := false } else m) }
  else d

/-- Every dirty line of the tile written back (R136). -/
def writeBackAll (d : Dev) (t : Nat) : Dev :=
  let d := (d.tile t).cache.foldl
    (fun d e => e.2.foldl (fun d l => writeBackLine d t (e.1 / 512) (e.1 % 512) l) d) d
  d.updTile t fun x => { x with dirtyJob := none }

/-- The lines of a group discarded. -/
def Tile.dropGroup (x : Tile) (g : Nat) : Tile := { x with cache := mapDrop (fun k => k / 512 = g) x.cache }

/-! ### Accesses -/

/-- A set of row accesses of one instruction: handle number and logical rows, whether they write. -/
structure RowReq where
  hn : Nat
  rows : List Nat
  write : Bool
deriving DecidableEq, Repr

/-- The access is permitted (R115, R163): a valid handle, rows below ROWS, WRITABLE for a write, the cache group on. R163 names a CACHED
handle whose group is not in cache mode as illegal in LDST instructions alone; the model makes it illegal in every instruction
(DESIGN CHOICE, notes/assumptions/124). -/
def reqLegal (d : Dev) (t : Nat) (q : RowReq) : Bool :=
  let h := (d.tile t).hnd q.hn
  h.valid && q.rows.all (fun r => decide (r < h.rows)) && (!q.write || h.writable) && (h.kind ≠ 1 || cacheOn d t h.group)

/-- The slots of a guarded handle that an access touches, each with its handle and whether it is to be overwritten. -/
def slotWaits (d : Dev) (t : Nat) (q : RowReq) : List (Nat × Nat × Bool) :=
  let h := (d.tile t).hnd q.hn
  if h.guarded then q.rows.map fun r => (q.hn, h.slot r, q.write) else []

/-- The slot is not in the state that the access needs: FULL for a read, EMPTY for a write (R124). -/
def slotWrong (x : Tile) (w : Nat × Nat × Bool) : Bool := (x.slot (x.hnd w.1) w.2.1).full = w.2.2

/-- What an access waits for: its slots to become FULL (read) or EMPTY (write) (R124), then a cache line (R135). -/
def reqStall (d : Dev) (t : Nat) (q : RowReq) : Option Stall :=
  let x := d.tile t
  let h := x.hnd q.hn
  if (slotWaits d t q).any (slotWrong x) then some (.guard (slotWaits d t q))
  else if h.kind = 1 then
    match q.rows.find? (fun r => (x.line h.group (h.rowAddr r)).isNone) with
    | some r => some (.line h.group (cacheSet (h.rowAddr r)) (cacheTag (h.rowAddr r)))
    | none => none
  else none

/-- The stall waits at guarded slots. -/
def Stall.atSlots : Stall → Bool
  | .guard _ => true
  | _ => false

/-- Issue stalls; a new stall at a guarded slot is counted (R124). One that goes on to wait for a further slot is still the same
stall. -/
def stallOn (d : Dev) (t : Nat) (w : Stall) : Dev :=
  if (d.tile t).stall = some w then d
  else
    let waits := (d.tile t).stall.any (·.atSlots)
    let d := d.updTile t fun x => { x with stall := some w }
    if w.atSlots && !waits then d.incFld tileGuardStallsCount t else d

/-- The stall of an instruction: one at guarded slots is for every slot that the instruction touches (R124). -/
def stallOf (d : Dev) (t : Nat) (reqs : List RowReq) (w : Stall) : Stall :=
  if w.atSlots then .guard (reqs.flatMap (slotWaits d t)) else w

/-! ### Times of the accesses (R106, R108, R116, R117) -/

/-- A bank conflict (R108). -/
def bankConflict (d : Dev) (t bank : Nat) : Dev :=
  let d := if d.flag tileConflictStatusBankConflict t then d
    else (d.setFld tileConflictStatusBank bank t).setFld tileConflictPcPc (d.tile t).pc.toNat t
  (d.setFld tileConflictStatusBankConflict 1 t).incFld tileConflictCountCount t

/-- One row access as it is presented: handle, row, bank and addressable row, whether it goes through the cache, whether it writes. -/
structure Beat where
  hn : Nat
  row : Nat
  bank : Nat
  brow : Nat
  cached : Bool
  write : Bool
deriving DecidableEq, Repr

/-- The accesses of an instruction in operand order (R106). -/
def beats (x : Tile) (reqs : List RowReq) : List Beat :=
  reqs.flatMap fun q =>
    let h := x.hnd q.hn
    q.rows.map fun r =>
      if h.kind = 1 then
        let a := h.rowAddr r
        let way := (x.line h.group a).elim 0 (·.way)
        ⟨q.hn, r, wayBank h.group way, cacheSet a, true, q.write⟩
      else ⟨q.hn, r, h.bank r, h.brow r, false, q.write⟩

/-- The accesses presented one after the other from cycle `c`, each with the cycle in which its bank accepts it. An access that
reaches a bank in the cycle after that bank accepted one of the program is delayed by a cycle, with those behind it (R108);
accesses through the cache are none of these (R109). `m` holds the cycle after each bank's last acceptance. -/
def accept (m : SMap Nat) (c : Nat) : List Beat → List (Beat × Nat × Bool) × SMap Nat × Nat
  | [] => ([], m, c)
  | b :: l =>
    if b.cached then
      let r := accept m (c + 1) l
      ((b, c, false) :: r.1, r.2)
    else
      let hit := decide (c ≠ 0) && decide (mapGet 0 m b.bank = c)
      let a := if hit then c + 1 else c
      let r := accept (mapSet 0 m b.bank (a + 1)) (a + 1) l
      ((b, a, hit) :: r.1, r.2)

/-- The instruction's results in registers are there, or its rows written, by this cycle: `c` is its issue, `bs` its accesses with
their acceptance. -/
def doneAt (x : Tile) (strict : Bool) (cls op : Nat) (f : Fields) (c : Nat) (bs : List (Beat × Nat × Bool)) : Nat :=
  let last := bs.foldl (fun m b => max m (b.2.1 + loadTime b.1.bank b.1.cached)) c
  if cls = 0x5 then
    let m := f.mode
    let k := bits (x.xr f.rc).toNat 9 0
    let fa := bits m 13 10
    let x2 := if fa ≤ 3 then 0 else 2
    max last x.pace.arrayEnd + dotTime strict fa k (bits m 5 4) + 4 + x2
  else if cls = 0x9 then
    let n := bits f.mode 5 0 + 1
    c + (if op = 0 then 20 + 4 * n else 12 + 2 * n)
  else if cls = 0x2 && op = 0x02 then last + 2
  else last

/-- The entries that the instruction takes: one write entry for each LOCAL handle it writes, one read entry for each handle it reads
if it reads over more than one cycle (R116), or if it is a SEND or a COPYR with a local source (R182). -/
def entriesOf (x : Tile) (cls : Nat) (reqs : List RowReq) : List RowReq :=
  let many := cls = 0x6 || decide (1 < ((reqs.filter (!·.write)).map (·.rows.length)).foldl (· + ·) 0)
  reqs.filter fun q => if q.write then (x.hnd q.hn).kind = 0 else many

/-- The row accesses of the instruction at the program counter are made: its scoreboard stall (R117), its entries, its bank conflicts,
the times of its results; then what the codes of the rows read find (R148, R149). The second part says that a row was
uncorrectable. RICF and RICS write their rows when they end, in cycles that the program leaves free
(DESIGN CHOICE, notes/assumptions/120). -/
def accessed (d : Dev) (t : Nat) (reqs : List RowReq) (a : Access) : Dev × Bool :=
  let d := d.updTile t fun x => { x with flaws := a.flaws.foldl (fun m e => mapSet .clean m e.1 (if e.2 then .corrected else .uncorrectable)) x.flaws }
  let x := d.tile t
  let p := x.pace
  let w := wordFields x.word
  let (cls, op, f) := w
  let strict := d.tileStrict t
  let inPlace := if cls = 0x9 && op = 1 then (reqs.drop 1).map fun q => { q with write := true } else []
  let es := entriesOf x cls (reqs ++ inPlace)
  let c0 := max (issueCycle x) p.access
  let c := p.clear c0 es.length ((reqs ++ inPlace).map fun q => (q.hn, q.rows, q.write))
  let stores := cls = 0x2
  let all := beats x (reqs.filter fun q => !q.write || stores)
  let (bs, banks, next) := accept p.banks (c + a.delay) all
  let fin := doneAt x strict cls op f c bs
  let hold (q : RowReq) : Nat :=
    let mine := bs.filter fun b => b.1.hn = q.hn && b.1.write = q.write
    if q.write && !stores then fin
    else mine.foldl (fun m b => max m (b.2.1 + (if q.write then storeTime b.1.bank else 0))) c
  let entry (q : RowReq) : SbEntry :=
    ⟨q.hn, q.rows.foldl min (q.rows.headD 0), q.rows.foldl max 0, q.write, hold q⟩
  let late := bs.foldl (fun m b => if b.2.2 then max m (b.2.1 + 1) else m) (c + 1)
  let p := es.foldl (fun p q => p.take c (entry q)) { p with banks := banks, access := max p.access next, cycle := max late (c + 1) }
  let u := regUse cls op f
  let p :=
    if cls = 0x2 && op = 0x03 then
      (bs.zip u.writes).foldl (fun p e => p.setReady [e.2] (e.1.2.1 + loadTime e.1.1.bank e.1.1.cached)) p
    else if cls = 0x5 then
      let acc := f.rd.toNat
      let x2 := if bits f.mode 13 10 ≤ 3 then 0 else 2
      { (p.setReady [aKey acc, flagsKey] fin) with arrayAcc := acc, arrayPrev := x.pace.arrayEnd, arrayEnd := fin - 4 - x2, arrayReady := fin }
    else p.setReady u.writes fin
  let d := d.updTile t fun x => { x with pace := p }
  let d := if c = c0 then d else d.incFld tileSbStallsCount t
  let d := bs.foldl (fun d b => if b.2.2 then bankConflict d t b.1.bank else d) d
  eccReads d t ((bs.filter fun b => !b.1.write).map fun b => (b.1.bank, x.prow b.1.bank b.1.brow, b.1.hn))

/-- The row accesses of an instruction: illegal, stalled, stopped by an uncorrectable read, or made, and then `k`. -/
def withRows (d : Dev) (t : Nat) (reqs : List RowReq) (a : Access) (k : Dev → Issue) : Issue :=
  if reqs.all (reqLegal d t) then
    if reqs.any (fun q => (d.tile t).paused.contains q.hn) then .stall d
    else
      match reqs.findSome? (reqStall d t) with
      | some w => .stall (stallOn d t (stallOf d t reqs w))
      | none =>
        let r := accessed d t reqs a
        if r.2 then .stall (tileFault r.1 t stUncorrectable) else k r.1
  else .illegal

end Sys2Proof.Machine
end

