-- ==== Sys2Proof/Machine/LdSt.lean ====
section
/-! DEFINITION. The LDST instructions (R167, R132) and the arrival of a cache line (R135). -/

namespace Sys2Proof.Machine

/-- The drain mark MODE[0] (R167). -/
def drainMark (f : Fields) : Bool := bit f.mode 0

/-- vD := row xA of H1 (R167). -/
def execLd (t : Nat) (f : Fields) (a : Access) (s : State) : Out :=
  onDev (issue t 0x2 0x00 f fun d =>
    let r := ((d.tile t).xr f.ra).toNat
    withRows d t [⟨f.h1, [r], false⟩] a fun d => .done (d.updTile t fun x =>
      ((x.vw f.rd.toNat (x.rowData (x.hnd f.h1) r)).afterRead (x.hnd f.h1) r (drainMark f)))) s

/-- Row xA of H1 := vD (R167). -/
def execSt (t : Nat) (f : Fields) (a : Access) (s : State) : Out :=
  onDev (issue t 0x2 0x01 f fun d =>
    let r := ((d.tile t).xr f.ra).toNat
    withRows d t [⟨f.h1, [r], true⟩] a fun d => .done (d.updTile t fun x =>
      x.programStore (x.hnd f.h1) r (x.vr f.rd.toNat))) s

/-- Registers v, v + 1, … written. -/
def Tile.vwList (x : Tile) (v : Nat) : List Row → Tile
  | [] => x
  | r :: t => (x.vw v r).vwList (v + 1) t

/-- Output row `i` of the transposing read of eight rows at an element width of `w` bits (R132):
out[i][8t + j] = in[j][8t + i]. -/
def transposeRow (w : Nat) (rows : List (List Nat)) (i : Nat) : Row :=
  rowOf w ((upto (512 / w)).flatMap fun t => rows.map fun r => r.getD (8 * t + i) 0)

/-- The transposing read of eight rows. -/
def transpose (w : Nat) (rows : List Row) : List Row :=
  let es := rows.map (rowElems w)
  (upto 8).map (transposeRow w es)

/-- Every row read is then drained or touched as its handle says. -/
def Tile.afterReads (x : Tile) (h : Hnd) (drain : Bool) (rows : List Nat) : Tile :=
  rows.foldl (fun x r => x.afterRead h r drain) x

/-- vD … vD + 7 := transposing read of rows xA … xA + 7 of a LOCAL handle; MODE[2:1] the element width (R132, R163, R167).
(DEDUCED, notes/assumptions/51.) -/
def execLdt (t : Nat) (f : Fields) (a : Access) (s : State) : Out :=
  onDev (issue t 0x2 0x02 f fun d =>
    let r := ((d.tile t).xr f.ra).toNat
    if r % 8 ≠ 0 ∨ 24 < f.rd.toNat ∨ ((d.tile t).hnd f.h1).kind ≠ 0 then .illegal
    else
      let rows := (upto 8).map (r + ·)
      withRows d t [⟨f.h1, rows, false⟩] a fun d => .done (d.updTile t fun x =>
        let h := x.hnd f.h1
        (x.vwList f.rd.toNat (transpose (8 * 2 ^ bits f.mode 2 1) (rows.map (x.rowData h)))).afterReads h (drainMark f) rows)) s

/-- vD + j := row xA + j × xB for j = 0 to m - 1, m = MODE[5:2] + 1, of a LOCAL handle (R132, R163, R167). -/
def execLds (t : Nat) (f : Fields) (a : Access) (s : State) : Out :=
  onDev (issue t 0x2 0x03 f fun d =>
    let r := ((d.tile t).xr f.ra).toNat
    let st := ((d.tile t).xr f.rb).toNat
    let m := bits f.mode 5 2 + 1
    if st = 0 ∨ 32 < f.rd.toNat + m ∨ ((d.tile t).hnd f.h1).kind ≠ 0 then .illegal
    else
      let rows := (upto m).map fun j => r + j * st
      withRows d t [⟨f.h1, rows, false⟩] a fun d => .done (d.updTile t fun x =>
        let h := x.hnd f.h1
        (x.vwList f.rd.toNat (rows.map (x.rowData h))).afterReads h (drainMark f) rows)) s

/-- An accumulator from a row: 64 × 32 bits from bytes 0 to 255, or 64 × 64 bits (R167). -/
def accOfRow (wide : Bool) (r : Row) : Row := if wide then r else rowOf 64 (unpack 32 64 r.toNat)

/-- The row an accumulator is stored as; in 32-bit width bytes 256 to 511 are written 0 (R167). -/
def rowOfAcc (wide : Bool) (a : Row) : Row := if wide then a else rowOf 32 ((rowElems 64 a).map (· % 2 ^ 32))

/-- accD := row xA of H1 (R167). -/
def execAccld (t : Nat) (f : Fields) (a : Access) (s : State) : Out :=
  onDev (issue t 0x2 0x04 f fun d =>
    let r := ((d.tile t).xr f.ra).toNat
    if 8 ≤ f.rd.toNat then .illegal
    else withRows d t [⟨f.h1, [r], false⟩] a fun d => .done (d.updTile t fun x =>
      ((x.aw f.rd.toNat (accOfRow (bit f.mode 1) (x.rowData (x.hnd f.h1) r))).afterRead (x.hnd f.h1) r (drainMark f)))) s

/-- Row xA of H1 := accD (R167). -/
def execAccst (t : Nat) (f : Fields) (a : Access) (s : State) : Out :=
  onDev (issue t 0x2 0x05 f fun d =>
    let r := ((d.tile t).xr f.ra).toNat
    if 8 ≤ f.rd.toNat then .illegal
    else withRows d t [⟨f.h1, [r], true⟩] a fun d => .done (d.updTile t fun x =>
      x.programStore (x.hnd f.h1) r (rowOfAcc (bit f.mode 1) (x.ar f.rd.toNat)))) s

/-- The dirty lines of the row addresses listed are written back. -/
def writeBackRows (d : Dev) (t g : Nat) (addrs : List Nat) : Dev :=
  addrs.foldl (fun d a => match (d.tile t).line g a with
    | some l => writeBackLine d t g (cacheSet a) l
    | none => d) d

/-- The dirty lines of CACHED handle H1 for rows xA to xA + xB - 1 are written back (R167). A LOCAL handle has none. -/
def execCwb (t : Nat) (f : Fields) (s : State) : Out :=
  onDev (issue t 0x2 0x06 f fun d =>
    let x := d.tile t
    let h := x.hnd f.h1
    let r := (x.xr f.ra).toNat
    let n := (x.xr f.rb).toNat
    if !h.valid || decide (h.rows < r + n) || (h.kind = 1 && !cacheOn d t h.group) then .illegal
    else if h.kind = 1 then
      let d := writeBackRows d t h.group ((upto n).map fun i => h.rowAddr (r + i))
      if d.fld tileStateState t = tsRunning then .done d else .stall d
    else .done d) s

/-- The first way that no line of a full or filling set uses. -/
def freeWay (ls : List CLine) : Nat := ((upto 4).find? fun w => ls.all fun l => l.way ≠ w).getD 0

/-- The line that issue waits for arrives (R135): the least recently used line of a full set is its victim, written back if
dirty; the instruction may issue again. Poisoned memory is uncorrectable (R447, R448). -/
def cacheLineArrival (t : Nat) (d : Dev) : Dev :=
  match (d.tile t).stall with
  | some (.line g set tag) =>
    let ls := mapGet [] (d.tile t).cache (512 * g + set)
    let victim := if ls.length < 4 then none else ls.getLast?
    let d := match victim with
      | some l => writeBackLine d t g set l
      | none => d
    let d := scanMem d (d.tile t).job ekJob (lineAddr set tag) 512
    let ls := match victim with
      | some l => ls.filter fun m => m.way ≠ l.way
      | none => ls
    let way := freeWay ls
    if rowPoisoned d (lineAddr set tag) then
      tileEnd (d.updTile t fun x => { x with stall := none, cache := mapSet [] x.cache (512 * g + set) ls }) t stUncorrectable
    else
      d.updTile t fun x =>
        ({ x with stall := none, cache := mapSet [] x.cache (512 * g + set) (⟨way, tag, false⟩ :: ls) }).setPhysRow
          (wayBank g way) set (memRow d.mem (lineAddr set tag))
  | _ => d

/-- CACHE_LINE_ARRIVAL (R135). -/
def execCacheLineArrival (t : Nat) (s : State) : Out := onDev (cacheLineArrival t) s

end Sys2Proof.Machine
end

