-- ==== Sys2Proof/Machine/Sync.lean ====
section
/-! DEFINITION. SYNC, END, and the STATE instructions (R166, R178, R186). -/

namespace Sys2Proof.Machine

/-- A trap is recorded and not delivered. -/
def trapPending (d : Dev) (t : Nat) : Bool := (d.tile t).trap.isSome

/-- The replayed job of tile `t`, if the tile works for one. -/
def replayedOn (d : Dev) (t : Nat) : Option Job := (d.tile t).job.bind fun j => (d.job j).bind fun x => if x.replayed then some x else none

/-- The recording names this wait as timed out (R348). -/
def replayedWait (d : Dev) (t : Nat) : Bool := match replayedOn d t with
  | some x => x.timeouts.contains (d.fld tileIdLtile t, (d.tile t).ordinal)
  | none => false

/-- A timed-out wait of a recorded job goes into the recording (R346). -/
def recordWait (d : Dev) (t : Nat) : Dev := match (d.tile t).job with
  | some j => recordOf d j reWait 0 (d.fld tileIdLtile t) (leBytes 8 (d.tile t).ordinal)
  | none => d

/-- WAITA: wait on counter EXT[4:0] for target xA[31:0]; xD := 0 when satisfied (R120, R178). A wait that is not satisfied stalls
issue. -/
def execWaita (t : Nat) (f : Fields) (s : State) : Out :=
  onDev (issue t 0x7 0x00 f fun d =>
    let x := d.tile t
    let g : U32 := (x.xr f.ra).truncate 32
    if trapPending d t then .trap
    else if replayedWait d t then .done (d.updTile t fun x => x.xw f.rd 1)
    else if waitSatisfied (arrivalCount d t (f.e 4 0)) g then .done (d.updTile t fun x => x.xw f.rd 0)
    else .stall (stallOn d t (.arrival (f.e 4 0) g ((x.xr f.rb).truncate 32) f.rd))) s

/-- The timeout of a stalled arrival wait expires: xD := 1; an arrival in the same cycle wins (R120, R121). In a replay the
recording decides which waits time out (R348). -/
def waitTimeout (t : Nat) (d : Dev) : Dev :=
  match (d.tile t).stall with
  | some (.arrival c g w rd) =>
    if w ≠ 0 ∧ d.fld tileStateState t = tsRunning ∧ (replayedOn d t).isNone then
      if waitSatisfied (arrivalCount d t c) g then completeWait d t rd 0 else completeWait (recordWait d t) t rd 1
    else d
  | _ => d

/-- WAIT_TIMEOUT (R120, R121). -/
def execWaitTimeout (t : Nat) (s : State) : Out := onDev (waitTimeout t) s

/-- FPBAR: every earlier operation has merged its flags; a pending trap is delivered and FPBAR does not complete (R86). -/
def execFpbar (t : Nat) (f : Fields) (s : State) : Out :=
  onDev (issue t 0x7 0x01 f fun d => if trapPending d t then .trap else .done d) s

/-- EBAR: waits until every earlier fabric operation has completed or been refused (R178, R179). -/
def execEbar (t : Nat) (f : Fields) (s : State) : Out :=
  onDev (issue t 0x7 0x02 f fun d => if (d.tile t).inflight = [] then .done d else .stall d) s

/-- NOP (R178). -/
def execNop (t : Nat) (f : Fields) (s : State) : Out := onDev (issue t 0x7 0x03 f fun d => .done d) s

/-- The tile's work for its job is finished (R166): the tile is READY; when it was the job's last tile, the job's output block is
copied next, or the job ends (R318). -/
def finishTile (d : Dev) (t : Nat) : Dev :=
  match (d.tile t).job with
  | none => d.setFld tileStateState tsReady t
  | some j =>
    let d := (d.setFld tileStateState tsReady t).updTile t fun x => { x with job := none, stall := none, pace := {} }
    let d := d.setFld tileFmtStatusStrict 0 t
    let d := d.updJob j fun x => { x with tiles := x.tiles.filter (· ≠ t) }
    match d.job j with
    | none => d
    | some x => if x.tiles = [] ∧ !x.outCopy ∧ x.fault.isNone then endJob d j stDone else d

/-- END's write-back (R136, R166), and the end of the tile's work unless a line's code stops it first. -/
def endProgram (d : Dev) (t : Nat) : Dev :=
  let e := writeBackAll d t
  if e.fld tileStateState t = tsRunning then finishTile e t else e

/-- END (R166): waits for every earlier fabric operation; a pending trap is delivered; dirty lines are written back (R136). -/
def execEndProg (t : Nat) (f : Fields) (s : State) : Out :=
  onDev (issue t 0x1 0x0F f fun d =>
    if trapPending d t then .trap
    else if (d.tile t).inflight ≠ [] then .stall d
    else .stall (endProgram d t)) s

/-! ### STATE (R186) -/

/-- xD := the six flags (R186). -/
def execRdflg (t : Nat) (f : Fields) (s : State) : Out :=
  onDev (issue t 0x8 0x00 f fun d =>
    .done (d.updTile t fun x => x.xw f.rd (BitVec.ofNat 64 (bankReg d.regs false (rTileFpFlags + 0x400 * t) % 64)))) s

/-- Clear the flags set in EXT[5:0] (R186, R81). -/
def execClrflg (t : Nat) (f : Fields) (s : State) : Out :=
  onDev (issue t 0x8 0x01 f fun d =>
    let o := rTileFpFlags + 0x400 * t
    .done { d with regs := bankSet d.regs o (bankWord d.regs o &&& ~~~(BitVec.ofNat 32 (f.e 5 0))) }) s

/-- TRAP_EN := EXT[4:0] (R186). -/
def execTrapen (t : Nat) (f : Fields) (s : State) : Out :=
  onDev (issue t 0x8 0x02 f fun d => .done (d.setFld tileFpTrapTrapEn (f.e 4 0) t)) s

/-- RUNMAXn (R42, R48). -/
def fldRunmax (n : Nat) : Fld := { tileRunmax0Runmax with base := rTileRunmax0 + 4 * n }

/-- xD := RUNMAX EXT[2:0] (R186). -/
def execRdmax (t : Nat) (f : Fields) (s : State) : Out :=
  onDev (issue t 0x8 0x03 f fun d =>
    .done (d.updTile t fun x => x.xw f.rd (BitVec.ofNat 64 (d.fld (fldRunmax (f.e 2 0)) t)))) s

/-- The running maxima set in a mask cleared to +0. -/
def clearMaxima (d : Dev) (t mask : Nat) : Dev :=
  (upto 8).foldl (fun d n => if bit mask n then d.setFld (fldRunmax n) 0 t else d) d

/-- Clear the running maxima set in EXT[7:0] (R186). -/
def execClrmax (t : Nat) (f : Fields) (s : State) : Out :=
  onDev (issue t 0x8 0x04 f fun d => .done (clearMaxima d t (f.e 7 0))) s

/-- xD := BLOCK_UNDERFLOW, BLOCK_SATURATE or NAN_BLOCK as EXT[1:0] selects; 3 is RSVD (R186). -/
def execRdblk (t : Nat) (f : Fields) (s : State) : Out :=
  onDev (issue t 0x8 0x05 f fun d =>
    let v := match f.e 1 0 with
      | 0 => some (d.fld tileFmtUflowBlockUnderflow t)
      | 1 => some (d.fld tileFmtSatBlockSaturate t)
      | 2 => some (d.fld tileFmtStatusNanBlock t)
      | _ => none
    match v with
    | some v => .done (d.updTile t fun x => x.xw f.rd (BitVec.ofNat 64 v))
    | none => .illegal) s

/-- Clear the fields set in EXT[2:0]: underflow, saturate, NaN block (R186). -/
def execClrblk (t : Nat) (f : Fields) (s : State) : Out :=
  onDev (issue t 0x8 0x06 f fun d =>
    let d := d.setIf (f.e 0 0 = 1) tileFmtUflowBlockUnderflow 0 t
    let d := d.setIf (f.e 1 1 = 1) tileFmtSatBlockSaturate 0 t
    .done (d.setIf (f.e 2 2 = 1) tileFmtStatusNanBlock 0 t)) s

/-- xD[6:0] := logical tile, xD[15:8] := grove size, xD[17:16] := role (R186). -/
def execRdid (t : Nat) (f : Fields) (s : State) : Out :=
  onDev (issue t 0x8 0x07 f fun d =>
    .done (d.updTile t fun x => x.xw f.rd (BitVec.ofNat 64
      (d.fld tileIdLtile t + 2 ^ 8 * x.groveSize + 2 ^ 16 * d.fld tileRoleRole t)))) s

/-- xD := ARITH cycles since program start (R186): the cycle in which RDCYC issues (R97, R156; DESIGN CHOICE, notes/assumptions/120). -/
def execRdcyc (t : Nat) (f : Fields) (s : State) : Out :=
  onDev (issue t 0x8 0x10 f fun d =>
    .done (d.updTile t fun x => x.xw f.rd (BitVec.ofNat 64 (issueCycle x)))) s

/-- xD := integer nanoseconds of device time (R186). -/
def execRdtime (t : Nat) (f : Fields) (s : State) : Out :=
  onDev (issue t 0x8 0x11 f fun d => .done (d.updTile t fun x => x.xw f.rd (BitVec.ofNat 64 d.now))) s

/-- xD := arrival counter EXT[4:0] (R186). -/
def execRdarr (t : Nat) (f : Fields) (s : State) : Out :=
  onDev (issue t 0x8 0x12 f fun d =>
    .done (d.updTile t fun x => x.xw f.rd ((arrivalCount d t (f.e 4 0)).zeroExtend 64))) s

end Sys2Proof.Machine
end

