-- ==== Sys2Proof/Machine/Fabric.lean ====
section
/-! DEFINITION. The FABRIC instructions and what returns to their tile (R180 to R185). -/

namespace Sys2Proof.Machine

/-- The xA and xC operands of R180. -/
structure FabAddr where
  tile : Nat
  mem : Bool
  row : Nat
deriving DecidableEq, Repr

/-- The fields of a fabric address; none where a RSVD bit is set (R163). -/
def fabAddr (v : U64) : Option FabAddr :=
  let n := v.toNat
  if bit n 7 || bits n 15 9 ≠ 0 || bits n 63 30 ≠ 0 then none else some ⟨bits n 6 0, bit n 8, bits n 29 16⟩

/-- The xB operand of R180: local row and row count. -/
def fabLocal (v : U64) : Option (Nat × Nat) :=
  let n := v.toNat
  if bits n 15 14 ≠ 0 || bits n 63 24 ≠ 0 then none else some (bits n 13 0, bits n 23 16 + 1)

/-- The arrival counter at the receiver, MODE[13:9] (R180). -/
def fabCounter (f : Fields) : Nat := bits f.mode 13 9

/-- The acknowledgement counter MODE[8:4] where MODE[3] enables it (R180, R181). -/
def fabAck (f : Fields) : Option Nat := if bit f.mode 3 then some (bits f.mode 8 4) else none

/-- A fabric operation leaves the tile: it takes a number and a place among the 16 in flight (R129, R182). -/
def startOp (d : Dev) (t : Nat) (ack : Option Nat) : Dev × Nat :=
  let id := d.nextXfer
  (({ d with nextXfer := id + 1 }).updTile t fun x => { x with inflight := x.inflight ++ [FabOp.mk id ack] }, id)

/-- The header that carries `kind` to row `row` of handle `hn` on logical tile `l`; ROLE_STALE returns where the placement table
has no tile of that number (R185, R334). -/
def sendTo (d : Dev) (t id l hn row counter : Nat) (kind : TransferKind) (reply : Option ReplyTo) : Dev :=
  match d.ptile t l with
  | none => { d with refusals := d.refusals ++ [(t, id, .roleStale)] }
  | some p =>
    { d with fabric := d.fabric ++ [(p, { id := id, epoch := d.epoch p, handle := hn, row := row, counter := counter,
                                          kind := kind, issuer := some t, job := (d.tile t).job, reply := reply })] }

/-- The device row address of row `r` of a CACHED handle. -/
def memRowAddr (d : Dev) (t hn r : Nat) : Nat := ((d.tile t).hnd hn).maddr + r

/-- A CACHED handle of the tile with rows `r` to `r + n - 1`, for an operand with MEM set (R180). -/
def memLegal (d : Dev) (t hn r n : Nat) : Bool :=
  let h := (d.tile t).hnd hn
  h.valid && h.kind = 1 && decide (r + n ≤ h.rows)

/-- Rows go to the receiver of an operation: a tile's handle, or memory, which acknowledges when they are committed (R181). -/
def deliverRows (d : Dev) (t id : Nat) (a : FabAddr) (hn counter : Nat) (kind : TransferKind) : Dev :=
  if a.mem then sendAck (storeMemRows d (512 * memRowAddr d t hn a.row) (xferData kind)) (some t) id
  else sendTo d t id a.tile hn a.row counter kind none

/-- Issue of a message send: a pending trap is delivered first (R183), and issue stalls while 16 operations are in flight
(R182). -/
def sendIssue (d : Dev) (t : Nat) (k : Issue) : Issue :=
  if trapPending d t then .trap else if 16 ≤ (d.tile t).inflight.length then .stall d else k

/-- SEND: rows xB of local H1 to handle H2 at xA (R180). -/
def execSend (t : Nat) (f : Fields) (s : State) : Out :=
  onDev (issue t 0x6 0x00 f fun d => sendIssue d t <|
    let x := d.tile t
    match fabAddr (x.xr f.ra), fabLocal (x.xr f.rb) with
    | some a, some (r, n) =>
      if a.mem && !(memLegal d t f.h2 a.row n && ((d.tile t).hnd f.h2).writable) then .illegal
      else
        let rows := (upto n).map (r + ·)
        withRows d t [⟨f.h1, rows, false⟩] {} fun d =>
          let data := rows.map ((d.tile t).rowData ((d.tile t).hnd f.h1))
          let d := d.updTile t fun x => x.afterReads (x.hnd f.h1) false rows
          let (d, id) := startOp d t (fabAck f)
          .done (deliverRows d t id a f.h2 (fabCounter f) (.rows data))
    | _, _ => .illegal) s

/-- RREAD: rows of H2 at xA to local H1 at row xB.ROW, counted on this tile (R180). -/
def execRread (t : Nat) (f : Fields) (s : State) : Out :=
  onDev (issue t 0x6 0x01 f fun d =>
    let x := d.tile t
    if 16 ≤ x.inflight.length then .stall d
    else match fabAddr (x.xr f.ra), fabLocal (x.xr f.rb) with
      | some a, some (r, n) =>
        if a.mem && !memLegal d t f.h2 a.row n then .illegal
        else if !reqLegal d t ⟨f.h1, (upto n).map (r + ·), false⟩ then .illegal
        else
          let (d, id) := startOp d t (fabAck f)
          if a.mem then
            match memRowsAt d t (memRowAddr d t f.h2 a.row) n with
            | (d, none) => .done { d with refusals := d.refusals ++ [(t, id, .uncorrectableMemory)] }
            | (d, some l) =>
              .done { d with fabric := d.fabric ++ [(t, { id := id, epoch := d.epoch t, handle := f.h1, row := r,
                                                          counter := fabCounter f, kind := .rows l, issuer := some t,
                                                          job := (d.tile t).job })] }
          else .done (sendTo d t id a.tile f.h2 a.row (fabCounter f) (.remoteRead n)
            (some { image := x.image.getD 0, ltile := d.fld tileIdLtile t, handle := f.h1, row := r, counter := fabCounter f }))
      | _, _ => .illegal) s

/-- FILLR: COUNT rows of H2 at xA filled with the pattern xC (R180). -/
def execFillr (t : Nat) (f : Fields) (s : State) : Out :=
  onDev (issue t 0x6 0x02 f fun d => sendIssue d t <|
    let x := d.tile t
    match fabAddr (x.xr f.ra), fabLocal (x.xr f.rb) with
    | some a, some (_, n) =>
      if a.mem && !(memLegal d t f.h2 a.row n && ((d.tile t).hnd f.h2).writable) then .illegal
      else
        let (d, id) := startOp d t (fabAck f)
        .done (deliverRows d t id a f.h2 (fabCounter f) (.fill n (x.xr f.rc)))
    | _, _ => .illegal) s

/-- COPYR: COUNT rows from H3 at xC to H2 at xA (R180). A local source is read at issue (R182); another tile's source is read
there and sent on. -/
def execCopyr (t : Nat) (f : Fields) (s : State) : Out :=
  onDev (issue t 0x6 0x03 f fun d => sendIssue d t <|
    let x := d.tile t
    match fabAddr (x.xr f.ra), fabLocal (x.xr f.rb), fabAddr (x.xr f.rc) with
    | some a, some (_, n), some c =>
      if (a.mem && !(memLegal d t f.h2 a.row n && ((d.tile t).hnd f.h2).writable)) || (c.mem && !memLegal d t f.h3 c.row n) then
        .illegal
      else if c.mem then
        let (d, id) := startOp d t (fabAck f)
        match memRowsAt d t (memRowAddr d t f.h3 c.row) n with
        | (d, none) => .done { d with refusals := d.refusals ++ [(t, id, .uncorrectableMemory)] }
        | (d, some l) => .done (deliverRows d t id a f.h2 (fabCounter f) (.rows l))
      else if c.tile = d.fld tileIdLtile t then
        let rows := (upto n).map (c.row + ·)
        withRows d t [⟨f.h3, rows, false⟩] {} fun d =>
          let data := rows.map ((d.tile t).rowData ((d.tile t).hnd f.h3))
          let d := d.updTile t fun x => x.afterReads (x.hnd f.h3) false rows
          let (d, id) := startOp d t (fabAck f)
          .done (deliverRows d t id a f.h2 (fabCounter f) (.rows data))
      else
        let (d, id) := startOp d t (fabAck f)
        let reply : ReplyTo :=
          if a.mem then { image := 0, ltile := 0, handle := f.h2, row := memRowAddr d t f.h2 a.row, counter := 0, mem := true }
          else { image := x.image.getD 0, ltile := a.tile, handle := f.h2, row := a.row, counter := fabCounter f }
        .done (sendTo d t id c.tile f.h3 c.row (fabCounter f) (.remoteRead n) (some reply))
    | _, _, _ => .illegal) s

/-- SIG: arrival counter MODE[13:9] on tile xA.TILE is incremented (R180); with MEM set the receiver is memory and the counter is
ignored. -/
def execSig (t : Nat) (f : Fields) (s : State) : Out :=
  onDev (issue t 0x6 0x04 f fun d => sendIssue d t <|
    match fabAddr ((d.tile t).xr f.ra) with
    | some a =>
      let (d, id) := startOp d t (fabAck f)
      if a.mem then .done (sendAck d (some t) id)
      else .done (sendTo d t id a.tile 0 0 (fabCounter f) .signal none)
    | none => .illegal) s

/-- An operation of tile `t` ends: its place frees. -/
def endOp (d : Dev) (t id : Nat) : Dev := d.updTile t fun x => { x with inflight := x.inflight.filter fun o => o.id ≠ id }

/-- An acknowledgement returns: the operation has completed and its acknowledgement counter rises (R181). -/
def transferAck (t id : Nat) (d : Dev) : Dev :=
  if d.acks.contains (t, id) then
    let d := { d with acks := d.acks.erase (t, id) }
    match (d.tile t).inflight.find? (fun o => o.id = id) with
    | none => d
    | some o =>
      let d := endOp d t id
      match o.ack with
      | some c => arrive d t c
      | none => d
  else d

/-- TRANSFER_ACK (R181). -/
def execTransferAck (t x : Nat) (s : State) : Out := onDev (transferAck t x) s

/-- A refusal returns (R184): the operation ends, the tile stops the job's work and the status goes to Forester, which counts a
ROLE_STALE (R339). -/
def refusalReturn (t id : Nat) (st : RefusalStatus) (d : Dev) : Dev :=
  if d.refusals.contains (t, id, st) then
    let d := endOp { d with refusals := d.refusals.erase (t, id, st) } t id
    let d := if st = .roleStale then d.incFld forCntCount 4 else d
    let d := unpinOp d id
    match st with
    | .uncorrectableMemory =>
      if ((d.tile t).job.bind d.job).any (·.fault.isSome) then stopTile d t else tileEnd d t stUncorrectable
    | .resourceRefused =>
      let j := (d.tile t).job
      let d := tileEnd d t stRefused
      match j with
      | some j => d.updJob j fun x => { x with cause := 7 }
      | none => d
    | st => tileFault d t (refusalStatus st)
  else d

/-- REFUSAL_RETURN (R184). -/
def execRefusalReturn (t x : Nat) (st : RefusalStatus) (s : State) : Out := onDev (refusalReturn t x st) s

end Sys2Proof.Machine
end

