-- ==== Sys2Proof/Machine/Append.lean ====
section
/-! DEFINITION. Appends to sequences (R282 to R292, R310): the pages they need, the copy of a shared tail, their commit. -/

namespace Sys2Proof.Machine

/-- The append in progress on sequence `s`. -/
def Dev.append (d : Dev) (s : Nat) : Option Append := d.attn.appends.find? fun a => a.seq = s

def Dev.dropAppend (d : Dev) (s : Nat) : Dev :=
  { d with attn := { d.attn with appends := d.attn.appends.filter fun a => a.seq ≠ s } }

/-- The refusal that carries a completion status to a tile (R184). -/
def refusalOf (status : Nat) : RefusalStatus :=
  if status = stNumeric then .numericFail else if status = stRefused then .resourceRefused
  else if status = stUncorrectable then .uncorrectableMemory else if status = stLinkLost then .linkLost else .invalidDescriptor

/-- An append is refused to whoever asked for it. -/
def failAppend (d : Dev) (who : AppendBy) (status cause : Nat) : Dev :=
  match who with
  | .job j => endJob d j status cause
  | .tile t op => { d with refusals := d.refusals ++ [(t, op, refusalOf status)] }
  | .ring => d

/-- The asker works in a deadline class (R287). The order of module 0 stands on every module. -/
def deadlineClass (d : Dev) (who : AppendBy) : Bool :=
  let cls (j : Nat) : Nat := match d.job j with
    | some x => x.desc.cls
    | none => 0
  match who with
  | .job j => cls j ≠ 0
  | .tile t _ => match (d.tile t).job with
    | some j => cls j ≠ 0
    | none => false
  | .ring => true

/-- The last page must be copied before the append writes to it (R291). A full last page is not written. -/
def needsCopy (d : Dev) (q : Seq) : Bool :=
  match q.entries.getLast? with
  | none => false
  | some e => decide (e.fill < 256) && e.p0 ≠ noPage && (decide (1 < (d.page e.p0).ref) || headerFill d e.p0 ≠ e.fill)

/-- Fresh pages for entry `i`, one or a pair; none of this module's where the page lies elsewhere (R310). -/
def freshEntry (d : Dev) (q : Seq) (s dd i : Nat) : Dev × (Nat × Nat) :=
  if ownPage d q i then
    let (d, p0) := allocPage d s i dd 0
    if halves dd = 2 then
      let (d, p1) := allocPage d s i dd 1
      (d, (p0, p1))
    else (d, (p0, noPage))
  else (d, (noPage, noPage))

/-- Fresh pages for entries `i`, `i + 1`, …. -/
def freshEntries (q : Seq) (s dd : Nat) : Nat → Nat → Dev → Dev × List (Nat × Nat)
  | _, 0, d => (d, [])
  | i, n + 1, d =>
    let (d, e) := freshEntry d q s dd i
    let (d, l) := freshEntries q s dd (i + 1) n d
    (d, e :: l)

/-- Pages of a length. -/
def pagesOf (n : Nat) : Nat := (n + 255) / 256

/-- The sequence an append finds, or creates (R265, R282, R310). One that is not split lives on the module at which its append is
submitted, under that module's own numbers (R309; DESIGN CHOICE, notes/assumptions/142). -/
def appendSeq (d : Dev) (s dd : Nat) (split : Bool) : Seq :=
  let q := d.seq s
  if q.active then q else { active := false, split := split, d := dd, ringM := if split then d.ringCount else 1 }

/-- The free pages that an append of `n` tokens needs: the copy of the tail and the new ones that lie here, twice for pairs (R287). -/
def appendNeed (d : Dev) (q : Seq) (n : Nat) : Nat :=
  let first := q.entries.length
  let own := ((upto (pagesOf (q.length + n) - first)).filter fun k => ownPage d q (first + k)).length
  (own + b2n (needsCopy d q)) * halves q.d

/-- An append begins (R287 steps 1 to 3): checked, then its pages are taken from the free list; a shared tail is copied first
(R291, R292). The copy engine fills the new pages with zeros (R273, R444). Module 0 has checked the changes that it sends: where
this module's tail cannot be read, its entry is lost and the change is applied all the same (R310; DESIGN CHOICE,
notes/assumptions/135). -/
def beginAppend (d : Dev) (who : AppendBy) (s dd : Nat) (split : Bool) (rows : List Row) : Dev :=
  let q := appendSeq d s dd split
  let n := rows.length / (2 * tokenHalves q.d)
  let old := q.length
  let tail := q.entries.getLast?
  if (q.active && q.d ≠ dd) || n = 0 || decide (262144 < old + n) then failAppend d who stInvalid 0
  else if splitLost d q then failAppend d who stLinkLost 0
  else if who ≠ .ring && decide (old % 256 ≠ 0) && q.lost.contains (q.entries.length - 1) then failAppend d who stUncorrectable 0
  else if decide (old % 256 ≠ 0) && (match tail with
      | some e => e.evicted
      | none => false) then failAppend d who stInvalid 0
  else if !appendFinite q.d n rows then failAppend (d.attnCount 8) who stNumeric 0
  else
    let copy := needsCopy d q
    let first := q.entries.length
    let new := pagesOf (old + n) - first
    let need := appendNeed d q n
    let keep := if deadlineClass d who then 0 else d.fld attnPoolRsvPages
    if d.freePages < need + keep && need ≠ 0 then
      failAppend ((d.setFld attnStatusPoolEmpty 1).attnCount 9) who stRefused 7
    else
      let (d, cp) := match tail with
        | some e =>
          if copy then
            let (d, f) := freshEntry d { q with split := false } s q.d (first - 1)
            (pinPage (pinPage d e.p0) e.p1, some ((e.p0, e.p1), f))
          else (d, none)
        | none => (d, none)
      let (d, fresh) := freshEntries q s q.d first new d
      let zeroed := (fresh.map fun e => b2n (e.1 ≠ noPage) + b2n (e.2 ≠ noPage)).foldl (· + ·) 0
      let d := d.incFld memCopyCntCount 0 zeroed
      { d with attn := { d.attn with appends := d.attn.appends ++
          [{ who := who, seq := s, d := q.d, split := q.split, rows := rows, fresh := fresh, copy := cp }] } }

/-- What an append holds is given back; nothing of it is seen (R287, R382). -/
def undoAppend (d : Dev) (a : Append) : Dev :=
  let d := d.dropAppend a.seq
  let d := a.fresh.foldl (fun d e => dropRef (dropRef d e.1) e.2) d
  match a.copy with
  | some (src, dst) => unpinPage (unpinPage (dropRef (dropRef d dst.1) dst.2) src.1) src.2
  | none => d

/-- Every position at or above `fill` of the page at `base` is zero, and every V scale of a block that opens there (R270). -/
def zeroAbove (d : Dev) (base fill : Nat) : Dev :=
  { d with mem := d.mem.filter fun e =>
      if decide (e.1 < base) || decide (base + pageBytes ≤ e.1) then true
      else
        let o := e.1 - base
        let row := o / 512
        let b := o % 512
        if row < 64 then decide (4 * row + b / 128 < fill)
        else if row < 128 then decide (b % 256 < fill)
        else if row < 130 then decide (128 * (row - 128) + b / 4 < fill)
        else if row < 132 then decide (32 * (b % 8) < fill)
        else true }

/-- One half copied: the source's rows up to `fill`; the fresh page keeps its own header with FILL set (R292). -/
def copyHalf (d : Dev) (src dst fill : Nat) : Dev :=
  if src = noPage || dst = noPage then d
  else
    let hdr := memReadN d.mem (pageAddr d dst + 132 * 512) 512
    let d := copySlot d (pageAddr d src) (pageAddr d dst) pageBytes
    let d := { d with mem := memWriteN d.mem (pageAddr d dst + 132 * 512) hdr }
    setHeaderFill (zeroAbove d (pageAddr d dst) fill) dst fill

/-- A page holds uncorrectable data. -/
def pagePoisoned (d : Dev) (p : Nat) : Bool := p ≠ noPage && poisoned d (pageAddr d p) pageBytes

/-- The job of an append. -/
def Dev.appendJob (d : Dev) (who : AppendBy) : Option Nat :=
  match who with
  | .job j => some j
  | .tile t _ => (d.tile t).job
  | .ring => none

/-- The codes of a page are read for an append (R288, R432). -/
def scanPage (d : Dev) (j : Option Nat) (kind p : Nat) : Dev := if p = noPage then d else scanMem d j kind (pageAddr d p) pageBytes

/-- The copy of a shared tail is complete (R292 step 3): the entry names the fresh page. Nothing is written of a sequence that has
lost pages meanwhile (R312). -/
def copyDone (s : Nat) (d : Dev) : Dev :=
  match d.append s with
  | none => d
  | some a => match a.copy with
    | none => d
    | some (src, dst) =>
      let q := d.seq s
      let i := q.entries.length - 1
      let e := q.entries.getD i { p0 := noPage }
      let d := scanPage (scanPage d (d.appendJob a.who) ekCopy src.1) (d.appendJob a.who) ekCopy src.2
      let bad := pagePoisoned d src.1 || pagePoisoned d src.2
      let d := (copyHalf (copyHalf d src.1 dst.1 e.fill) src.2 dst.2 e.fill).incFld memCopyCntCount 0 (halves q.d)
      if splitLost d q then failAppend (undoAppend d a) a.who stLinkLost 0
      else if bad && a.who ≠ .ring then failAppend (undoAppend d a) a.who stUncorrectable 0
      else
        let d := if bad then d.loseEntry s i else d
        let q := d.seq s
        let d := (d.setSeq s { q with entries := listSet q.entries i { e with p0 := dst.1, p1 := dst.2 } }).labDrop s i
        let d := { d with attn := { d.attn with appends := d.attn.appends.map fun b => if b.seq = s then { b with copy := none } else b } }
        let d := unpinPage (unpinPage (dropRef (dropRef d src.1) src.2) src.1) src.2
        d.attnCount 3

/-- One token written to its page, half by half (R283 to R285). -/
def putToken (q : Seq) (rows : List Row) (old k : Nat) (d : Dev) : Dev :=
  let pos := old + k
  let e := q.entries.getD (pos / 256) { p0 := noPage }
  (upto (halves q.d)).foldl (fun d c =>
    let p := if c = 0 then e.p0 else e.p1
    if p = noPage then d
    else writeToken (pageAddr d p) (pos % 256) (tokenVals q.d rows k 0 c) (tokenVals q.d rows k 1 c) d) d

/-- The append's tokens are written and its change committed (R287 steps 4 and 5). Nothing
is written of a sequence that has lost pages meanwhile (R312). -/
def commitAppend (s : Nat) (d : Dev) : Dev :=
  match d.append s with
  | none => d
  | some a =>
    if a.copy.isSome then d
    else
      let q0 := appendSeq d s a.d a.split
      let tail := q0.entries.getLast?.getD { p0 := noPage }
      let d := if q0.length % 256 = 0 then d
        else scanPage (scanPage d (d.appendJob a.who) ekMerge tail.p0) (d.appendJob a.who) ekMerge tail.p1
      let bad := decide (q0.length % 256 ≠ 0) && (pagePoisoned d tail.p0 || pagePoisoned d tail.p1)
      let old := q0.length
      let n := a.rows.length / (2 * tokenHalves a.d)
      let total := old + n
      let es := q0.entries ++ a.fresh.map fun f => { p0 := f.1, p1 := f.2 }
      let lo := q0.entries.length - 1
      let es := (es.zip (upto es.length)).map fun e => if e.2 < lo then e.1 else { e.1 with fill := min 256 (total - 256 * e.2) }
      let q := { q0 with active := true, entries := es, born := if q0.active then q0.born else d.attn.births
                         lost := if bad then lo :: q0.lost.erase lo else q0.lost }
      if splitLost d q0 then failAppend (undoAppend d a) a.who stLinkLost 0
      else if bad && a.who ≠ .ring then failAppend (undoAppend d a) a.who stUncorrectable 0
      else
        let d : Dev := if q0.active then d else { d with attn := { d.attn with births := d.attn.births + 1 } }
        let d := (upto n).foldl (fun d k => putToken q a.rows old k d) d
        let touched := (upto es.length).filter fun i => old / 256 ≤ i
        let d := touched.foldl (fun d i =>
          let e := es.getD i { p0 := noPage }
          setHeaderFill (setHeaderFill d e.p0 e.fill) e.p1 e.fill) d
        let d := touched.foldl (fun d i => d.labDrop s i) ((d.setSeq s q).dropAppend s)
        let d := sendChange (d.attnCount 5 n) q (changeBytes 0x21 s a.d n a.rows)
        match a.who with
        | .job j => endJob d j stDone
        | .tile t op => sendAck d (some t) op
        | .ring => d

end Sys2Proof.Machine
end

