-- ==== Sys2Proof/Machine/Solve.lean ====
section
/-! DEFINITION. Solve-family jobs, iterations, certification, the deadline keeper and re-execution of problems (R207 to R213,
R220 to R225). -/

namespace Sys2Proof.Machine

/-! ### The jobs -/

/-- The descriptor carries an opcode. -/
def isOp (op : Nat) (_ : Dev) (x : Desc) : Bool := x.opcode = op

/-- SOLVE (R202): its one problem record is checked and admitted. -/
def execSolve (q : Nat) (hm : Outside) (s : State) : Out := onDev (fetchJob q hm (isOp opSolve) admitSolve runSolve) s

/-- SOLVE_BATCH (R228). -/
def execSolveBatch (q : Nat) (hm : Outside) (s : State) : Out :=
  onDev (fetchJob q hm (isOp opSolveBatch) admitSolve runSolve) s

/-- ESTIMATE (R238). -/
def execEstimate (q : Nat) (hm : Outside) (s : State) : Out := onDev (fetchJob q hm (isOp opEstimate) admitSolve runSolve) s

/-- SCENARIO_SOLVE (R259). -/
def execScenarioSolve (q : Nat) (hm : Outside) (s : State) : Out :=
  onDev (fetchJob q hm (isOp opScenario) admitSolve runSolve) s

/-- PROBLEM_START (R218). -/
def execProblemStart (j i : Nat) (s : State) : Out := onDev (problemStart j i) s

/-- ASSEMBLY_DONE (R199). -/
def execAssemblyDone (j i : Nat) (s : State) : Out := onDev (assemblyDone j i) s

/-! ### Certification (R212, R213, R220, R226) -/

/-- The plan copy that does not hold the current best (R226). -/
def otherCopy (p : Problem) : Nat := match p.best with
  | some b => 1 - b.copy
  | none => 0

/-- A certification of the current iterate commits (R224, R225). -/
def commitCert (d : Dev) (p : Problem) : Dev := d.updProb p.job p.idx fun q => { q with lastCert := q.it }

/-- The iterate is offered as best: it replaces a best whose score is not smaller (R213). -/
def offerBest (d : Dev) (p : Problem) (c : Cert) : Dev :=
  let better := match p.best with
    | none => true
    | some b => f64Le (score p.rcd c) (score p.rcd b.cert)
  if better then
    let k := otherCopy p
    (writePlanCopy d p p.cur k).1.updProb p.job p.idx fun q => { q with best := some ⟨p.it, p.cur, c, k⟩ }
  else d

/-- The problem ends with the current iterate, which meets its targets. -/
def endDone (d : Dev) (p : Problem) (c : Cert) : Dev :=
  let k := otherCopy p
  endProblem (writePlanCopy d p p.cur k).1 p.job p.idx stDone 0 (.iterate ⟨p.it, p.cur, c, k⟩ 0)

/-- The internal targets were met and the certificate fails the acceptances: END_CAUSE 3 (R222). The first time, Forester
decides; the second time, the best or the fallback is delivered, and where the two iterates differ the tiles of both runs are
reported to the firmware, which tests them (R55). -/
def suspectEnd (d : Dev) (p : Problem) : Dev :=
  let d := d.solvCount 3
  if p.reexec then
    let d := if p.firstFail.any fun it => it ≠ p.cur then (p.firstTiles ++ p.tiles).foldl awaitTest d else d
    endBestOrFallback d p.job p.idx 3
  else ((p.tiles.foldl awaitTest (p.tiles.foldl stopTile d))).updProb p.job p.idx fun q =>
    { q with phase := .suspect, fault := none, firstFail := some p.cur, firstTiles := p.tiles }

/-- certify_if_due (R212) at an iteration where the internal test is evaluated. A NaN of the test or of the certificate trips an armed
watch (R89). -/
def certifyIfDue (d : Dev) (p : Problem) : Dev :=
  let ce := p.t.checkEvery
  let watch := (d.job p.job).any (·.nanWatch)
  let r := internalTest p.t p.pts p.xhat p.cur
  if watch && r.isNan then nanTrap d p
  else
    let target := passTarget p.rcd r
    if target || (decide (0 < ce) && p.it % ce = 0 && passAccept p.rcd r) || p.it = p.rcd.itCap then
      let c := certify p.t p.pts p.xhat p.cur
      if watch && c.isNan then nanTrap d p
      else
        let d := commitCert d p
        if target && passTarget p.rcd c then endDone d p c
        else if passAccept p.rcd c then offerBest d p c
        else if target then suspectEnd d p
        else d
    else d

/-- The problem still iterates. -/
def stillIterating (d : Dev) (p : Problem) : Bool := match d.prob p.job p.idx with
  | some q => q.phase = .iterating
  | none => false

/-- The cap, or the recorded last iteration of a replayed problem, ends a problem that goes on (R212, R225). -/
def endAtCap (d : Dev) (p : Problem) : Dev :=
  if !stillIterating d p then d
  else match p.replayStop with
    | some (n, c) => if p.it = n then endBestOrFallback d p.job p.idx c
      else if p.it = p.rcd.itCap then endBestOrFallback d p.job p.idx 1 else d
    | none => if p.it = p.rcd.itCap then endBestOrFallback d p.job p.idx 1 else d

/-- One iteration ends (R207, R208, R210, R212). Nothing iterates past the problem's deadline (R224).
(DEDUCED, notes/assumptions/64.) -/
def solveIteration (j i : Nat) (upset : List (Nat × U64)) (d : Dev) : Dev :=
  match d.prob j i with
  | none => d
  | some p =>
    let late := match p.deadline with
      | some t => decide (t < d.now)
      | none => false
    if p.phase ≠ .iterating || late then d
    else
      let it := p.it + 1
      let r := methodStep p upset
      let d := (mergeTiles d p (r.flags p)).solvCount 6 r.pivots
      let q := { p with it := it, pivots := (p.pivots + r.pivots) % 2 ^ 32 }
      if r.nan p && (d.job j).any (·.nanWatch) then nanTrap (d.updProb j i fun _ => q) q
      else if r.fails p.t.prec then endProblem (d.updProb j i fun _ => q) j i stNumeric 4 .fallback
      else
        let q := { q with cur := r.next }
        let d := d.updProb j i fun _ => q
        let due := p.t.method = 0 || it % p.t.checkEvery = 0 || it = p.rcd.itCap
        endAtCap (if due then certifyIfDue d q else d) q

/-- SOLVE_ITERATION (R208, R210). -/
def execSolveIteration (j i : Nat) (upset : List (Nat × U64)) (s : State) : Out := onDev (solveIteration j i upset) s

/-! ### The deadline keeper (R224) -/

/-- DEADLINE_EXPIRY (R224). -/
def execDeadlineExpiry (j i : Nat) (s : State) : Out := onDev (deadlineExpiry j i) s

/-! ### Re-execution (R222, R223, R339) -/

/-- The slack test: the bound and 1 µs still fit before the deadline, counted from `ready` (R222). -/
def slackTest (deadline : Option Nat) (boundNs ready : Nat) : Bool := match deadline with
  | none => true
  | some t => decide (ready + boundNs + 1000 ≤ t)

/-- A number of ARITH cycles in ns, rounded up. -/
def cyclesNs (c : Nat) : Nat := (10 * c + 11) / 12

/-- The problem is queued again on tiles `ts`, or, where there are none, on any that Forester picks; its reservations go with
it. -/
def requeueProblem (d : Dev) (p : Problem) (ts : List Nat) : Dev :=
  let moved := p.reserved.zip ts
  let d := { d with admitted := d.admitted.map fun a =>
      if a.job = p.job && a.prob = p.idx && a.kind = rkTile then
        match moved.find? fun m => m.1 = a.inst with
        | some m => { a with inst := m.2 }
        | none => a
      else a }
  let d := ((freeTiles d p.atWork).solvCount 4).forCount 2
  (d.updProb p.job p.idx fun q =>
    { q with phase := .queued, reexec := true, fault := none, tiles := [], asm := none, reserved := if p.reserved = [] then [] else ts }).updActive

/-- No slack, or no tile: the problem ends as R221 and R222 say. -/
def giveUpProblem (d : Dev) (p : Problem) : Dev := match p.fault with
  | some st => faultProblem d p.job p.idx st
  | none => endBestOrFallback d p.job p.idx 3

/-- The first problem of a job that waits for Forester's decision. -/
def suspectOf (d : Dev) (j : Nat) : Option Problem := d.solv.problems.find? fun p => p.job = j && p.phase = .suspect

end Sys2Proof.Machine
end

