-- ==== Sys2Proof/Machine/Items.lean ====
section
/-! DEFINITION. Items of work on tiles and their order (R328): ITEM_DISPATCH. -/

namespace Sys2Proof.Machine

/-- Work of a job joins the tile's items, which stand in the order of admission (R328). -/
def addItem (d : Dev) (t : Nat) (x : Job) (bound : Nat) : Dev :=
  let n := admOrder d x.id 0
  let first (i : Item) : Bool := decide (admOrder d i.job 0 ≤ n)
  d.updTile t fun y =>
    { y with items := y.items.takeWhile first ++ ⟨x.id, if x.desc.cls = 0 then none else x.deadline, bound⟩ :: y.items.dropWhile first }

/-- The item that runs next: the earliest deadline, the first admitted among equals; best-effort items when no deadline item is
there (R328). -/
def nextItem : List Item → Option Item
  | [] => none
  | i :: l =>
    match nextItem l, i.deadline with
    | none, _ => some i
    | some k, some a => match k.deadline with
      | some b => if b < a then some k else some i
      | none => some i
    | some k, none => if k.deadline.isSome then some k else some i

/-- The physical tile's entry PC for a job on an entry point; none where the tile takes no part (R318). -/
def entryPc (d : Dev) (t entry : Nat) : Option Nat :=
  match (d.tile t).image with
  | none => none
  | some n => match d.image n with
    | none => none
    | some im =>
      let pc := ((im.tiles.getD (d.fld tileIdLtile t) { role := 0 }).entryPcs).getD entry 0xFFFFFFFF
      if pc = 0xFFFFFFFF then none else some pc

/-- An item starts on a tile: the entry point of a graph, or the vendor's code for attention. -/
def startItem (d : Dev) (t : Nat) (x : Job) : Dev :=
  let pc := if x.desc.opcode = opRunGraph then (entryPc d t x.desc.entry).getD 0 else 0
  startTile d t x (BitVec.ofNat 32 pc) (x.desc.opcode ≠ opRunGraph)

/-- A best-effort item too long for a tile with admitted deadline work (R328). -/
def tooLong (d : Dev) (t : Nat) (i : Item) : Bool := i.deadline.isNone && hasDeadlineWork d t && decide (d.blockCycles < i.bound)

/-- A free tile starts its next item, unless a problem that waits for it comes first, or the item has to wait for deadline work. -/
def dispatchTile (t : Nat) (d : Dev) : Dev :=
  if !tileFree d t then d
  else match nextItem (d.tile t).items with
    | none => d
    | some i =>
      if tooLong d t i || sooner { d with tiles := mapSet {} d.tiles t { d.tile t with items := [] } } t
          (i.deadline.map fun a => (a, admOrder d i.job 0)) then d
      else match d.job i.job with
        | none => d.updTile t fun x => { x with items := x.items.erase i }
        | some x => startItem (d.updTile t fun y => { y with items := y.items.erase i }) t x

/-- ITEM_DISPATCH (R328). -/
def execItemDispatch (t : Nat) (s : State) : Out := onDev (dispatchTile t) s

end Sys2Proof.Machine
end

