-- ==== Sys2Proof/Machine/Mem.lean ====
section
/-! DEFINITION. DDR4 and Canopy: the address map, the codes, and the containment of uncorrectable errors (R428 to R431, R437, R439,
R441, R442, R446, R447). -/

namespace Sys2Proof.Machine

/-! ### Bursts of DDR4 (R428, R434) -/

/-- The address of burst `k` of a channel, bursts numbered in ascending address order (R434). -/
def burstAddr (ch k : Nat) : Nat :=
  let a := 64 * (k % 4) + 1024 * (k / 4)
  a + 256 * (ch ^^^ bits a 19 18)

/-- Bursts of a channel (R434). -/
def channelBursts : Nat := 2 ^ 27

/-! ### The code of a burst: RS(80,64) over GF(2^8) (R430) -/

/-- One doubling in GF(2^8) with x^8 + x^4 + x^3 + x^2 + 1. -/
def gfDouble (a : Nat) : Nat := if a < 128 then 2 * a else (2 * a) % 256 ^^^ 0x1D

/-- The product of two elements, by the bits of the second from the top. -/
def gfMul (a b : Nat) : Nat := (upto 8).foldl (fun r i => gfDouble r ^^^ (if bit b (7 - i) then a else 0)) 0

/-- α^i. -/
def gfPow (i : Nat) : Nat := (upto i).foldl (fun r _ => gfDouble r) 1

/-- A polynomial, lowest coefficient first, times (x − r). -/
def polyTimesRoot (p : List Nat) (r : Nat) : List Nat :=
  ((0 :: p).zip (p.map (gfMul r) ++ [0])).map fun e => e.1 ^^^ e.2

/-- g(x), coefficients of x^0 to x^16. -/
def rsGenerator : List Nat := (upto 16).foldl (fun p i => polyTimesRoot p (gfPow i)) [1]

/-- The check symbols 64 to 79 of a block of 64 bytes: p(x), lowest coefficient first. -/
def rsCheck (block : List Byte) : List Nat :=
  let g := rsGenerator.take 16
  let feed (rem : List Nat) (v : Nat) : List Nat :=
    let top := rem.getD 15 0 ^^^ v
    (((0 :: rem).take 16).zip g).map fun e => e.1 ^^^ gfMul e.2 top
  (block.reverse).foldl (fun r b => feed r b.toNat) (List.replicate 16 0)

/-- The check symbols of a poisoned block (R447). -/
def rsPoison (block : List Byte) : List Nat := (rsCheck block).map (· ^^^ 0xA5)

/-- What the decoder makes of a burst that lies at `n` symbol errors from the codeword written (R431). -/
def eccOf (d : Dev) (n : Nat) : Ecc := if n = 0 then .clean else if n ≤ eccCorrects d then .corrected else .uncorrectable

/-! ### The row code (R441, R442) -/

/-- The positions of a word that hold data, ascending. -/
def wordDataPositions : List Nat := (upto 266).filter fun p => decide (0 < p) && !(decide (p &&& (p - 1) = 0))

/-- The 266 bits of a word from its 256 data bits: data, Hamming checks, overall parity. -/
def wordCells (data : List Bool) : List Bool :=
  let at_ := wordDataPositions.zip data
  let dataBit (p : Nat) : Bool := ((at_.find? fun e => e.1 = p).map (·.2)).getD false
  let check (c : Nat) : Bool := at_.foldl (fun a e => if bit e.1 c then a ^^ e.2 else a) false
  let bit1 (p : Nat) : Bool := if decide (p &&& (p - 1) = 0) then check p.log2 else dataBit p
  let body := (upto 265).map fun i => bit1 (i + 1)
  body.foldl (· ^^ ·) false :: body

/-- The 256 data bits of word `w` of a row: bits w, w + 16, … of the row. -/
def rowWordData (r : Row) (w : Nat) : List Bool := (upto 256).map fun i => r.getLsbD (16 * i + w)

/-- The 4,256 cells of a row (R441). -/
def rowCells (r : Row) : List Bool :=
  let ws := (upto 16).map fun w => wordCells (rowWordData r w)
  (upto 4256).map fun p => (ws.getD (p % 16) []).getD (p / 16) false

/-- What the row code makes of the numbers of wrong bits in the 16 words (R442). -/
def rowEcc (wrong : List Nat) : Ecc :=
  if wrong.all (· = 0) then .clean else if wrong.all (fun n => decide (n ≤ 1)) then .corrected else .uncorrectable

/-! ### Canopy (R439) -/

/-- Rows of a slice. -/
def sliceRows : Nat := 6144

/-- The address of row `r` of a slice. -/
def sliceAddr (slice r : Nat) : Nat := canopyBase + 512 * (32 * r + slice)

/-! ### The page tables (R275, R437) -/

/-- The block of an entry's copy is poisoned. -/
def ptPoisoned (d : Dev) (s i c : Nat) : Bool := d.poison.contains (ptEntryAddr s i c / 64 * 64)

/-- The walker reads entry (s, i): a copy that reads uncorrectable is rewritten from the other, whose block clears its poison; the
second part says that both are lost (R437, R448). `fresh` names an error that the read itself finds in both. Which copy is read
is the controller's choice. -/
def walkerRead (d : Dev) (s i : Nat) (fresh : Bool) : Dev × Bool :=
  let a0 := ptEntryAddr s i 0
  let a1 := ptEntryAddr s i 1
  if fresh then (foundUncorr (foundUncorr d a0 ekWalker) a1 ekWalker, true)
  else if ptPoisoned d s i 0 && ptPoisoned d s i 1 then (d, true)
  else if !(ptPoisoned d s i 0 || ptPoisoned d s i 1) then (d, false)
  else
    let first := Config.freeBool d.freeCtr
    let d := d.bump
    let bad := if ptPoisoned d s i 0 then a0 else a1
    if (if first then a0 else a1) = bad then
      let d : Dev := { d with poison := d.poison.filter (· ≠ bad / 64 * 64) }
      let d := d.incFld memChUncorrCount (ddrPlace bad).channel
      (logEvent d lgUncorr (leBytes 8 (bad / 64 * 64) ++ leBytes 4 (errInfo false (ddrPlace bad).channel ekWalker)), false)
    else (d, false)

end Sys2Proof.Machine
end

