-- ==== Sys2Proof/Machine/Walker.lean ====
section
/-! DEFINITION. The walker's lookups (R277 to R281, R294): the look-aside buffer, the walk slots, and page requests. -/

namespace Sys2Proof.Machine

/-- The tile's job works in a deadline class. -/
def tileDeadline (d : Dev) (t : Nat) : Bool := deadlineClass d (.tile t 0)

/-- A lookup takes a walk slot: a reserved one first for a deadline job, else one of the others (R279). -/
def takeSlot (d : Dev) (l : Lookup) : Option Lookup :=
  let busy (r : Bool) : Nat := (d.attn.lookups.filter fun x => !x.waiting && x.reserved = r).length
  if l.deadline && decide (busy true < d.rsvSlots) then some { l with reserved := true, waiting := false }
  else if busy false < 32 - d.rsvSlots then some { l with reserved := false, waiting := false }
  else none

/-- A missed lookup starts, or waits for a slot, which is counted (R279). -/
def missLookup (d : Dev) (l : Lookup) : Dev :=
  match takeSlot d l with
  | some l => { d with attn := { d.attn with lookups := d.attn.lookups ++ [l] } }
  | none => ({ d with attn := { d.attn with lookups := d.attn.lookups ++ [{ l with waiting := true }] } }).attnCount 2

/-- Lookups that wait take slots as they free, in acceptance order (R279). -/
def grantSlots (d : Dev) : Dev :=
  d.attn.lookups.foldl (fun d l =>
    if !l.waiting then d
    else match takeSlot d l with
      | none => d
      | some m => { d with attn := { d.attn with lookups := d.attn.lookups.map fun x => if x = l then m else x } }) d

/-! ### Lookups of changes and snapshots (R278, R279) -/

/-- The walker looks entries up for walk `w`, one after the other. -/
def lookEntries (w : Nat) (deadline : Bool) (ks : List (Nat × Nat)) (d : Dev) : Dev :=
  ks.foldl (fun d k =>
    let hit := d.attn.lab.contains k
    if hit then (labLookup d k.1 k.2).1
    else missLookup (d.attnCount 1)
      { tile := tileCount, op := 0, seq := k.1, idx := k.2, part := 0, half := 0, handle := 0, row := 0, counter := 0,
        reserved := false, waiting := false, walk := some w, deadline := deadline }) d

/-- Every lookup of walk `w` has returned. -/
def walkDone (d : Dev) (w : Nat) : Bool := d.attn.lookups.all fun l => l.walk ≠ some w

/-- Walks are given up, with their lookups (R382). -/
def dropWalks (p : Change → Bool) (d : Dev) : Dev :=
  let ws := (d.attn.walks.filter fun w => p w.change).map (·.id)
  if ws = [] then d
  else
    let mine (l : Lookup) : Bool := match l.walk with
      | some w => ws.contains w
      | none => false
    grantSlots { d with attn := { d.attn with walks := d.attn.walks.filter fun w => !p w.change
                                              lookups := d.attn.lookups.filter fun l => !mine l } }

/-! ### Page requests (R280, R281) -/

/-- The rows of a part of a page: first row and number (R280). -/
def partRows (p : Nat) : Nat × Nat := if p = 0 then (0, 64) else if p = 1 then (64, 64) else if p = 2 then (128, 4) else (132, 1)

/-- A page request that the walker refuses (R281). (DEDUCED, notes/assumptions/65.) -/
def pageRequestBad (d : Dev) (h : Hnd) (l : Lookup) : Bool :=
  let q := d.seq l.seq
  match q.entries[l.idx]? with
  | none => true
  | some e =>
    let n := (partRows l.part).2
    let per := 2 ^ h.slotLog2
    !q.active || e.evicted || (l.half = 1 && q.d ≤ 128) || (h.guarded && (l.row % per ≠ 0 || n % per ≠ 0)) || e.p0 = noPage

/-- A page holds 4,096 pins: a further one waits (R294). -/
def pinFull (d : Dev) (p : Nat) : Bool := p ≠ noPage && decide (4096 ≤ (d.page p).pin)

/-- A lookup returns its entry: the part is delivered as one transfer, and both halves of its page pinned, or the request is refused
(R271, R280, R281, R448). A page that holds 4,096 pins makes it wait (R294). -/
def serveLookup (d : Dev) (l : Lookup) : Dev :=
  let refuse (st : RefusalStatus) (d : Dev) : Dev := { d with refusals := d.refusals ++ [(l.tile, l.op, st)] }
  let e0 := (d.seq l.seq).entries.getD l.idx { p0 := noPage }
  let d := scanInfo (scanInfo d (d.tile l.tile).job e0.p0) (d.tile l.tile).job e0.p1
  let q := d.seq l.seq
  if q.lost.contains l.idx then refuse .uncorrectableMemory d
  else if pageRequestBad d ((d.tile l.tile).hnd l.handle) l then refuse .invalidDescriptor d
  else
    let e := q.entries.getD l.idx { p0 := noPage }
    if pinFull d e.p0 || pinFull d e.p1 then { d with attn := { d.attn with pinWait := d.attn.pinWait ++ [l] } }
    else
      let p := if l.half = 1 then e.p1 else e.p0
      let pr := partRows l.part
      let a := pageAddr d p + 512 * pr.1
      let d := scanMem d (d.tile l.tile).job ekJob a (512 * pr.2)
      if poisoned d a (512 * pr.2) then refuse .uncorrectableMemory d
      else
        let rows := (upto pr.2).map fun i => memRow d.mem (a + 512 * i)
        let h : TransferHdr :=
          { id := l.op, epoch := d.epoch l.tile, handle := l.handle, row := l.row, counter := l.counter,
            kind := .rows rows, issuer := some l.tile, job := (d.tile l.tile).job }
        let d := pinPage (pinPage d e.p0) e.p1
        { d with attn := { d.attn with pgPins := d.attn.pgPins ++ [(l.op, e.p0), (l.op, e.p1)] }, fabric := d.fabric ++ [(l.tile, h)] }

/-- Page requests that waited for a pin try again, in their order (R294). -/
def wakePins (d : Dev) : Dev :=
  if d.attn.pinWait = [] then d else d.attn.pinWait.foldl serveLookup { d with attn := { d.attn with pinWait := [] } }

/-- A request for a page looks its entry up (R277, R278). -/
def requestPage (d : Dev) (l : Lookup) : Dev :=
  if d.attn.lab.contains (l.seq, l.idx) then serveLookup (labLookup d l.seq l.idx).1 l else missLookup (d.attnCount 1) l

/-- Lookups of a tile that have not returned: at the walker, or waiting for a pin (R279). -/
def tileLookups (d : Dev) (t : Nat) : Nat := ((d.attn.lookups ++ d.attn.pinWait).filter fun l => l.tile = t).length

/-- PGREQ (R187, R280). -/
def execPgreq (t : Nat) (f : Fields) (s : State) : Out :=
  onDev (issue t 0xA 0x00 f fun d =>
    let x := d.tile t
    if 16 ≤ x.inflight.length || 4 ≤ tileLookups d t then .stall d
    else match fabLocal (x.xr f.rb) with
      | none => .illegal
      | some (r, _) =>
        let a := (x.xr f.ra).toNat
        let part := bits f.mode 1 0
        let h := x.hnd f.h1
        if !h.valid || h.kind ≠ 0 || decide (h.rows < r + (partRows part).2) then .illegal
        else
          let (d, id) := startOp d t none
          .done (requestPage d { tile := t, op := id, seq := bits a 11 0, idx := bits a 25 16, part := part, half := bits f.mode 2 2,
                                 handle := f.h1, row := r, counter := fabCounter f, reserved := false, waiting := false,
                                 deadline := tileDeadline d t })) s

end Sys2Proof.Machine
end

