-- ==== Sys2Proof/Machine/Attn.lean ====
section
/-! DEFINITION. Jobs of the Attend system and the order of changes (R264 to R267, R282, R289 to R311). -/

namespace Sys2Proof.Machine

/-! ### Records -/

/-- An append record (R282). -/
structure AppRec where
  seq : Nat
  d : Nat
  tokens : Nat
  src : Nat
  split : Bool
deriving DecidableEq, Repr

def parseApp (l : List Byte) : AppRec :=
  { seq := recLe l 0 2, d := recLe l 2 2, tokens := recLe l 4 4, src := recLe l 8 8, split := bit (recLe l 16 1) 0 }

/-- Input bytes of an append (R283). -/
def appBytes (a : AppRec) : Nat := 512 * (a.tokens * 2 * tokenHalves a.d)

/-- A record that R282 refuses, apart from the sequence's own state. -/
def appRecBad (d : Dev) (q : Nat) (l : List Byte) : Bool :=
  let a := parseApp l
  decide (4095 < a.seq) || a.d < 32 || 256 < a.d || a.d % 32 ≠ 0 || a.tokens = 0 || 4096 < a.tokens || a.src % 64 ≠ 0 ||
    bits (recLe l 16 1) 7 1 ≠ 0 || !recZero l 17 15 || !addrOk d q a.src (appBytes a)

/-- A sequence operation record that R264 or R289 refuses. -/
def seqRecBad (d : Dev) (op : Nat) (l : List Byte) : Bool :=
  let g := d.groupSize
  let s := recLe l 0 2
  let t := recLe l 2 2
  decide (4095 < s) || s % g ≠ 0 || !recZero l 14 18 ||
    (if op = opSeqFork then decide (4095 < t) || t % g ≠ 0 else t ≠ 0 || recLe l 4 4 ≠ 0) ||
    (if op = opSeqEvict then recLe l 8 2 = 0 else !recZero l 8 6)

/-- The size of the record that an Attend job names (R282, R289, R300). -/
def attnRecBytes (op : Nat) : Nat := if op = opAttend then 64 else 32

/-- An attend record's fields that R300 bounds, and its RSVD bits. -/
def attendRecBad (l : List Byte) : Bool :=
  let n := recLe l 0 2
  let hq := recLe l 2 1
  let dd := recLe l 3 1
  let sm := recLe l 4 4
  n = 0 || 4096 < n || hq = 0 || 64 < hq || dd = 0 || 8 < dd || sm % 2 ^ 32 / 2 ^ 31 ≠ 0 || sm % 2 ^ 31 = 0 ||
    sm / 2 ^ 23 % 256 = 255 || recLe l 8 8 % 16 ≠ 0 || recLe l 16 8 % 64 ≠ 0 || recLe l 24 8 % 64 ≠ 0 ||
    bits (recLe l 40 1) 7 1 ≠ 0 || !recZero l 41 23

/-- The length table of an attend record. -/
def readTable (d : Dev) (q : Nat) (l : List Byte) : Except Nat (List (List Byte)) :=
  let n := recLe l 0 2
  match readChecked d q (recLe l 8 8) (16 * n) with
  | .error e => .error e
  | .ok b => .ok ((upto n).map fun i => (b.drop (16 * i)).take 16)

/-- The record that an Attend job names. -/
def attnRecord (d : Dev) (x : Job) : Except Nat (List Byte) := readChecked d x.q x.desc.addr (attnRecBytes x.desc.opcode)

/-! ### The order of changes (R266) -/

/-- The sequences that a job's change or snapshot names. -/
def touchedBy (d : Dev) (x : Job) (raw : List Byte) : List Nat :=
  let op := x.desc.opcode
  if op = opKvAppend then [recLe raw 0 2]
  else if op = opAttend then
    match readTable d x.q raw with
    | .ok t => t.map fun e => recLe e 0 2
    | .error _ => []
  else if op = opSeqFork then groupOf d (recLe raw 0 2) ++ groupOf d (recLe raw 2 2)
  else groupOf d (recLe raw 0 2)

/-- The sequences of a change in the queue. -/
def changeSeqs (d : Dev) : Change → List Nat
  | .job j raw => match d.job j with
    | some x => touchedBy d x raw
    | none => []
  | .app _ s _ _ => [s]
  | .ring c => match c with
    | .append s _ _ => [s]
    | .fork a b _ => [a, b]
    | .free s => [s]
    | .evict s _ => [s]

/-- Two changes name a sequence in common. -/
def overlaps (a b : List Nat) : Bool := a.any b.contains

/-- An earlier job of the ring has not yet reached the queue and names a sequence in common. -/
def earlierJob (d : Dev) (c : Change) (ss : List Nat) : Bool :=
  match c with
  | .job j _ =>
    match d.job j with
    | none => false
    | some x => d.jobs.any fun y => y.q = x.q && decide (y.id < j) && y.phase = .waiting && attnFamily y.desc.opcode &&
        match attnRecord d y with
        | .ok r => overlaps ss (touchedBy d y r)
        | .error _ => false
  | _ => false

/-! ### Snapshots (R300 to R302) -/

/-- An entry of the length table that R300 or R301 refuses. -/
def tableEntryBad (d : Dev) (dd : Nat) (ring : Bool) (e : List Byte) : Bool :=
  let s := recLe e 0 2
  let q := d.seq s
  let n := recLe e 2 2
  decide (4095 < s) || !q.active || q.d ≠ dd || n = 0 || 256 < n || decide (q.length < recLe e 4 4) ||
    bits (recLe e 14 1) 7 2 ≠ 0 || recLe e 15 1 ≠ 0 || q.split != ring

/-- The pages of an entry that some query attends. -/
def snapPages (e : AttendEntry) (q : Seq) : List SnapPage :=
  ((q.entries.zip (upto q.entries.length)).map fun x =>
    ({ idx := x.2, p0 := x.1.p0, p1 := x.1.p1, fill := x.1.fill, evicted := x.1.evicted, pinned := false } : SnapPage)).filter
    fun p => (upto e.qlen).any fun i => attendsPage e p i

/-- The entries of a table with their snapshots; rows are numbered through (R300). -/
def snapshot (d : Dev) (hq : Nat) : List (List Byte) → Nat → List AttendEntry
  | [], _ => []
  | b :: l, r0 =>
    let q := d.seq (recLe b 0 2)
    let e : AttendEntry :=
      { seq := recLe b 0 2, qlen := recLe b 2 2, kvLen := recLe b 4 4, qPos0 := recLe b 8 4, window := recLe b 12 2,
        mask := recLe b 14 1, len := q.length, pages := [], tile := 0, row0 := r0, born := q.born,
        ringM := if q.split then q.ringM else 1 }
    { e with pages := snapPages e q } :: snapshot d hq l (r0 + e.qlen * hq)

/-- The snapshot of an entry reads a page whose entry is lost (R448). -/
def readsLost (d : Dev) (e : AttendEntry) : Bool := e.pages.any fun p => (d.seq e.seq).lost.contains p.idx

/-- Rows of a list of entries. -/
def rowCount (hq : Nat) (es : List AttendEntry) : Nat := (es.map fun e => e.qlen * hq).foldl (· + ·) 0

/-- An attend job that R301 refuses, or names memory it may not (R356). -/
def attendBad (d : Dev) (q : Nat) (l : List Byte) (table : List (List Byte)) : Bool :=
  let dd := 32 * recLe l 3 1
  let hq := recLe l 2 1
  let rows := (table.map fun e => recLe e 2 2 * hq).foldl (· + ·) 0
  let w := 512 * tokenHalves dd
  attendRecBad l || table.any (tableEntryBad d dd (bit (recLe l 40 1) 0)) || decide (65536 < rows) ||
    !addrOk d q (recLe l 16 8) (w * rows) || !addrOk d q (recLe l 24 8) (w * rows) ||
    (recLe l 32 8 ≠ 0 && !addrOk d q (recLe l 32 8) (8 * rows))

/-- The pages that a list of entries reads, each once. -/
def pagesRead (es : List AttendEntry) : List Nat :=
  ((es.flatMap (·.pages)).flatMap fun p => if p.evicted then [] else [p.p0, p.p1]).filter (· ≠ noPage) |>.eraseDups

/-! ### Admission (R308, R325) -/

/-- The ATTEND tiles a job may use: those of its image, or, naming none, of any image. -/
def attendTiles (d : Dev) (im : Nat) : List Nat :=
  (d.images.filter fun i => (im = 0 || i.num = im) && i.loading.isNone).flatMap fun i => roleTiles d i 3

/-- Query rows of entry `e` that attend page number `p`. -/
def pageRows (hq p : Nat) (e : AttendEntry) : Nat :=
  match e.pages.find? fun x => x.p0 = p || x.p1 = p with
  | some x => hq * ((upto e.qlen).filter fun i => attendsPage e x i).length
  | none => 0

/-- The declared bound of R308 in ARITH cycles for the entries on one tile, pages in DDR4 at the DDR4 terms. -/
def attendBound (d : Dev) (hq : Nat) (es : List AttendEntry) : Nat :=
  (pagesRead es).foldl (fun a p =>
    let nr := (es.map (pageRows hq p)).foldl (· + ·) 0
    let delivery := 1680 + if (d.page p).canopy then 0 else 900
    a + max delivery (96 + 36 * nr) + 240) 2400

/-- Groups of entries whose snapshots name a page in common, directly or through others (R307). -/
def sharingGroups (es : List AttendEntry) : List (List AttendEntry) :=
  es.foldl (fun gs e =>
    let ps := pagesRead [e]
    let meets (g : List AttendEntry) : Bool := (pagesRead g).any ps.contains
    gs.filter (fun g => !meets g) ++ [(gs.filter meets).flatten ++ [e]]) []

/-- The share, of `k`, that entry `e` goes to: its group's turn, or, dealt singly, its own. Entries are told apart by their first row
(DESIGN CHOICE, notes/assumptions/24). -/
def shareOfEntry (single : Bool) (k : Nat) (es : List AttendEntry) (e : AttendEntry) : Nat :=
  (if single then es.findIdx fun x => x.row0 = e.row0
   else (sharingGroups es).findIdx fun g => g.any fun x => x.row0 = e.row0) % max 1 k

/-- The entries that share `i` of `k` takes, in their order. Entries whose snapshots name the same page stay together, where the tiles'
shares allow it (R307). -/
def dealt (single : Bool) (k i : Nat) (es : List AttendEntry) : List AttendEntry := es.filter fun e => shareOfEntry single k es e = i

/-- What a deadline ATTEND job on `k` tiles asks of the shared resources: each tile reads each page that it needs once. -/
def attendUses (d : Dev) (out : Nat) (single : Bool) (k : Nat) (es : List AttendEntry) : List Use :=
  let ps := (upto k).flatMap fun i => pagesRead (dealt single k i es)
  let can := (ps.filter fun p => (d.page p).canopy).length
  [⟨rkCanopy, [0], pageBytes * can⟩, ⟨rkDdr, [0], pageBytes * (ps.length - can) + out⟩, ⟨rkWalker, [0], ps.length⟩]

/-- Room for the last `n` of the job's `k` parts, each on a tile of its own. -/
def admitParts (d : Dev) (x : Job) (tiles : List Nat) (hq : Nat) (single : Bool) (k : Nat) (es : List AttendEntry) : Nat → Except Nat Dev
  | 0 => .ok d
  | n + 1 =>
    let used := (d.admitted.filter fun a => a.job = x.id && a.kind = rkTile).map (·.inst)
    match admitUses d x.id 0 x.desc.cls (x.deadline.getD 0) x.admitTime
        [⟨rkTile, tiles.filter fun t => !used.contains t, attendBound d hq (dealt single k (k - (n + 1)) es)⟩] with
    | .error e => .error e
    | .ok d => admitParts d x tiles hq single k es n

/-- The first spread over tiles that is admitted, else the cause of the last refusal. -/
def admitSpread (d : Dev) (x : Job) (tiles : List Nat) (hq out : Nat) (single : Bool) (es : List AttendEntry) : Nat → Except Nat Dev
  | 0 => .error rkTile
  | n + 1 =>
    let k := tiles.length - n
    let whole : Except Nat Dev := match admitParts d x tiles hq single k es k with
      | .error e => .error e
      | .ok d => admitUses d x.id 0 x.desc.cls (x.deadline.getD 0) x.admitTime (attendUses d out single k es)
    match whole with
    | .ok d => .ok d
    | .error e => if n = 0 then .error e else admitSpread d x tiles hq out single es n

/-- An ATTEND job is admitted with the entries that share pages together, or else dealt singly (R307, R326). -/
def admitAttend (d : Dev) (x : Job) (tiles : List Nat) (hq out : Nat) (es : List AttendEntry) : Except Nat Dev :=
  match admitSpread d x tiles hq out false es tiles.length with
  | .ok d => .ok d
  | .error _ => match admitSpread d x tiles hq out true es tiles.length with
    | .ok d => .ok { d with attn := { d.attn with dealtSingly := d.attn.dealtSingly ++ [x.id] } }
    | .error e => .error e

/-- Output bytes of an ATTEND job. -/
def attendOut (hq dd : Nat) (es : List AttendEntry) : Nat := rowCount hq es * (512 * tokenHalves dd)

/-- The bytes of `n` pages that an append will take from the free list: in DDR4 as far as it has slots for them, the worst placement,
the others in Canopy (R323). -/
def freshUses (d : Dev) (n : Nat) : Nat × Nat :=
  let ddr := min n (freeSlots d.attn.ddrUsed d.attn.ddrSlots).length
  (pageBytes * (n - ddr), pageBytes * ddr)

/-- Bytes of a page by the store in which it lies: Canopy, DDR4. -/
def pageUse (d : Dev) (p : Nat) : Nat × Nat :=
  if p = noPage then (0, 0) else if (d.page p).canopy then (pageBytes, 0) else (0, pageBytes)

/-- Lookups and bytes of a change, computed from its record and the page tables (R325): an append's input, where device memory holds
it, the page it writes on to or copies, and its fresh pages, each in its store (DEDUCED, notes/assumptions/24). -/
def changeUses (d : Dev) (x : Job) (raw : List Byte) : List Use :=
  if x.desc.opcode = opKvAppend then
    let a := parseApp raw
    let q := appendSeq d a.seq a.d a.split
    let tail := if q.length % 256 = 0 then none else q.entries.getLast?
    let t : Nat × Nat := match tail with
      | some e => ((pageUse d e.p0).1 + (pageUse d e.p1).1, (pageUse d e.p0).2 + (pageUse d e.p1).2)
      | none => (0, 0)
    let f := freshUses d (appendNeed d q a.tokens)
    let src : Nat × Nat := match jobAddr a.src with
      | some (.dev b) => if canopyBase ≤ b then (appBytes a, 0) else (0, appBytes a)
      | _ => (0, 0)
    [⟨rkWalker, [0], b2n (q.entries ≠ [])⟩, ⟨rkDdr, [0], t.2 + f.2 + src.2⟩, ⟨rkCanopy, [0], t.1 + f.1 + src.1⟩]
  else [⟨rkWalker, [0], ((groupOf d (recLe raw 0 2)).map fun s => (d.seq s).entries.length).foldl (· + ·) 0⟩]

/-- An Attend job is checked and admitted (R326). Sequence state is checked when its turn comes. -/
def admitAttn (j : Nat) (d : Dev) : Dev :=
  match d.job j with
  | none => d
  | some x =>
    match attnRecord d x with
    | .error st => endJob d j st
    | .ok raw =>
      let op := x.desc.opcode
      let bad := if op = opKvAppend then appRecBad d x.q raw else if op = opAttend then attendRecBad raw else seqRecBad d op raw
      if bad then endJob d j stInvalid
      else if op = opAttend && attendTiles d x.desc.image = [] then refuseJob d j 8
      else if x.desc.cls = 0 || x.replayed then d
      else if op = opAttend then
        match readTable d x.q raw with
        | .error st => endJob d j st
        | .ok t =>
          if attendBad d x.q raw t then d
          else
            let hq := recLe raw 2 1
            let es := snapshot d hq t 0
            let tiles := attendTiles d x.desc.image
            match admitAttend d x tiles hq (attendOut hq (32 * recLe raw 3 1) es) es with
            | .error k => refuseJob d j k
            | .ok d' => d'.forCount 0
      else
        match admitUses d j 0 x.desc.cls (x.deadline.getD 0) (x.admitTime) (changeUses d x raw) with
        | .error k => refuseJob (releaseJob d j) j k
        | .ok d' => d'.forCount 0

/-! ### A job's turn -/

def Dev.attendOf (d : Dev) (j : Nat) : Option AttendJob := d.attn.attends.find? fun a => a.job = j

def Dev.updAttend (d : Dev) (j : Nat) (f : AttendJob → AttendJob) : Dev :=
  { d with attn := { d.attn with attends := d.attn.attends.map fun a => if a.job = j then f a else a } }

/-- The job's snapshot is given up: its pins are released (R294). Partial results that came for it are not needed. -/
def dropAttend (d : Dev) (a : AttendJob) : Dev :=
  let tag := (d.job a.job).map (·.desc.tag)
  let d := { d with attn := { d.attn with attends := d.attn.attends.filter fun b => b.job ≠ a.job
                                          dealtSingly := d.attn.dealtSingly.filter (· ≠ a.job)
                                          early := d.attn.early.filter fun e => tag ≠ some e.1 } }
  (pagesRead a.entries).foldl unpinPage d

/-- The job's snapshot is taken and its pages are pinned (R294, R301). -/
def startAttend (d : Dev) (x : Job) (raw : List Byte) (table : List (List Byte)) : Dev :=
  let es := snapshot d (recLe raw 2 1) table 0
  let d := (pagesRead es).foldl pinPage d
  let a : AttendJob :=
    { job := x.id, hq := recLe raw 2 1, d := 32 * recLe raw 3 1, smScale := recLe raw 4 4, qAddr := recLe raw 16 8,
      oAddr := recLe raw 24 8, statAddr := recLe raw 32 8, ringSplit := bit (recLe raw 40 1) 0, entries := es }
  { d with attn := { d.attn with attends := d.attn.attends ++ [a] } }

/-- The tiles admitted for a job. -/
def heldTiles (d : Dev) (j : Nat) : List Nat := (d.admitted.filter fun a => a.job = j && a.kind = rkTile).map (·.inst)

/-- The tiles on which Forester may place a best-effort ATTEND job: one with admitted deadline work only where the declared bound is at
most BLOCK_US (R328). -/
def attendFit (d : Dev) (x : Job) (a : AttendJob) : List Nat :=
  (attendTiles d x.desc.image).filter fun t => !hasDeadlineWork d t || decide (attendBound d a.hq a.entries ≤ d.blockCycles)

/-- Some tile takes the job: its admitted ones, or one it may be placed on; where no tile can ever, it ends. -/
def attendReady (d : Dev) (x : Job) : Bool :=
  heldTiles d x.id ≠ [] || attendTiles d x.desc.image = [] || match d.attendOf x.id with
    | some a => attendFit d x a ≠ []
    | none => true

/-- The job's lookups are in: its rows go to their tiles (R307). An entry found lost ends it (R448). -/
def launchAttend (d : Dev) (x : Job) : Dev :=
  match d.attendOf x.id with
  | none => d
  | some a =>
    let d := (pagesRead a.entries).foldl (fun d p => scanInfo d (some x.id) p) d
    if a.entries.any (readsLost d) then endJob (dropAttend d a) x.id stUncorrectable
    else if attendTiles d x.desc.image = [] then refuseJob (dropAttend d a) x.id 8
    else
      let held := heldTiles d x.id
      let fit := attendFit d x a
      let free := fit.filter (tileFree d)
      let (one, d) := if held ≠ [] then (none, d) else choose d (if free ≠ [] then free else fit)
      let tiles := if held ≠ [] then held else one.toList
      let single := d.attn.dealtSingly.contains x.id
      let es := a.entries.map fun e => { e with tile := tiles.getD (shareOfEntry single tiles.length a.entries e) 0 }
      let used := (es.map (·.tile)).eraseDups
      let d := (d.updAttend x.id fun a => { a with entries := es }).updJob x.id fun y => { y with tiles := used }
      used.foldl (fun d t => dispatchTile t (addItem d t x (attendBound d a.hq (es.filter fun e => e.tile = t)))) d

/-- A fork, free or eviction over a group (R290, R293, R298). The first pair that is refused ends a fork. -/
def forkPairs (a b at_ : Nat) : List Nat → Dev → Dev × Bool
  | [], d => (d, true)
  | i :: l, d =>
    let q := d.seq (a + i)
    let n := if at_ = 0xFFFFFFFF then q.length else at_
    match seqFork d (a + i) (b + i) n with
    | none => (d, false)
    | some d' => forkPairs a b at_ l (sendChange d' q (changeBytes 0x22 (a + i) (b + i) n []))

def groupFork (d : Dev) (a b at_ : Nat) : Dev × Bool := forkPairs a b at_ (upto d.groupSize) d

/-- Page indices of a sequence that are evicted now and were not before. -/
def newlyEvicted (a b : Seq) : List Nat :=
  (upto b.entries.length).filter fun i =>
    (b.entries.getD i { p0 := noPage }).evicted && !(a.entries.getD i { p0 := noPage }).evicted

/-- A group evicts sequence by sequence (R298). Module 0 ranks the pages of a split sequence and sends the ones it has chosen, so that
every module evicts the same (R310; DESIGN CHOICE, notes/assumptions/137). -/
def groupEvict (d : Dev) (s target head tail : Nat) : Dev :=
  (groupOf d s).foldl (fun d i =>
    if (d.seq i).active then
      let e := seqEvict i target head tail (d.seq i).entries.length d
      let ps := newlyEvicted (d.seq i) (e.seq i)
      sendChange e (d.seq i) (changeBytes 0x24 i ps.length 0 [] ++ ps.flatMap (leBytes 4))
    else d) d

/-- A change of a split sequence submitted on a module that is not module 0 (R310). -/
def splitElsewhere (d : Dev) (ss : List Nat) : Bool :=
  decide (d.ringPos ≠ 0) && ss.any fun s => (d.seq s).active && (d.seq s).split

/-- A module that holds pages of a named sequence cannot be reached (R312). A free is always allowed.
(DEDUCED, notes/assumptions/66.) -/
def anySplitLost (d : Dev) (ss : List Nat) : Bool := ss.any fun s => splitLost d (d.seq s)

/-- An entry below index `n` of some sequence of the group is lost (R448). -/
def lostBelow (d : Dev) (s n : Nat) : Bool := (groupOf d s).any fun s => (d.seq s).lost.any (· < n)

/-- A job's change takes effect, its lookups being in. A command whose walk reaches an entry that is lost completes with
UNCORRECTABLE_MEMORY (R448). -/
def runChange (d : Dev) (x : Job) (raw : List Byte) : Dev :=
  let j := x.id
  let op := x.desc.opcode
  let ss := touchedBy d x raw
  if splitElsewhere d ss then endJob d j stInvalid
  else if op ≠ opSeqFree && anySplitLost d ss then endJob d j stLinkLost
  else if op = opKvAppend then
    let a := parseApp raw
    if a.split && decide (d.ringPos ≠ 0) && !(d.seq a.seq).active then endJob d j stInvalid
    else
      let d := scanAddr d (some j) a.src (appBytes a)
      match readAddr d a.src (appBytes a) with
      | .error st => endJob d j st
      | .ok l => beginAppend d (.job j) a.seq a.d a.split (rowsOfBytes l (a.tokens * 2 * tokenHalves a.d))
  else if op = opSeqFork then
    if lostBelow d (recLe raw 0 2) (pagesOf (recLe raw 4 4)) then endJob d j stUncorrectable
    else
    let r := groupFork d (recLe raw 0 2) (recLe raw 2 2) (recLe raw 4 4)
    endJob r.1 j (if r.2 then stDone else stInvalid)
  else if op = opSeqFree then endJob (groupFree d (recLe raw 0 2)) j stDone
  else if (groupOf d (recLe raw 0 2)).any fun s => (d.seq s).lost ≠ [] then endJob d j stUncorrectable
  else endJob (groupEvict d (recLe raw 0 2) (recLe raw 8 2) (recLe raw 10 2) (recLe raw 12 2)) j stDone

/-- An ATTEND job's turn: the whole job is checked and its snapshot taken, or it ends (R301, R312, R448). -/
def turnAttend (d : Dev) (x : Job) (raw : List Byte) : Dev :=
  let j := x.id
  if anySplitLost d (touchedBy d x raw) then endJob d j stLinkLost
  else
    let d := scanAddr d (some j) (recLe raw 8 8) (16 * recLe raw 0 2)
    match readTable d x.q raw with
    | .error st => endJob d j st
    | .ok t =>
      if attendBad d x.q raw t then endJob d j stInvalid
      else if (snapshot d (recLe raw 2 1) t 0).any (readsLost d) then endJob d j stUncorrectable
      else startAttend d x raw t

/-- An append of a tile or of module 0 takes its turn. A PGAPP goes to an active sequence with a whole number of tokens (R283). -/
def runAppend (d : Dev) (who : AppendBy) (s dd : Nat) (rows : List Row) : Dev :=
  match who with
  | .ring => beginAppend d who s dd true rows
  | _ =>
    let q := d.seq s
    if !q.active || rows.length % (2 * tokenHalves q.d) ≠ 0 || splitElsewhere d [s] then failAppend d who stInvalid 0
    else beginAppend d who s q.d q.split rows

/-- One page of a sequence is evicted (R298). -/
def evictPage (s : Nat) (d : Dev) (i : Nat) : Dev :=
  let q := d.seq s
  match q.entries[i]? with
  | none => d
  | some e =>
    if e.evicted then d
    else
      let d := (d.setSeq s { q with entries := listSet q.entries i { e with evicted := true, p0 := noPage, p1 := noPage } }).labDrop s i
      dropRef (dropRef d e.p0) e.p1

/-- A change that module 0 sent is applied (R310). -/
def runRing (d : Dev) : SplitChange → Dev
  | .append s dd rows => runAppend d .ring s dd rows
  | .fork a b n => (forkPairs a b n [0] d).1
  | .free s => seqFree d s
  | .evict s ps => ps.foldl (evictPage s) d

/-- The entries that an append's lookup reads: the last of its sequence (R287). -/
def lastEntry (d : Dev) (s : Nat) : List (Nat × Nat) :=
  if (d.seq s).entries = [] then [] else [(s, (d.seq s).entries.length - 1)]

/-- The first `n` entries of a sequence, or all. -/
def entryKeys (d : Dev) (n s : Nat) : List (Nat × Nat) := (upto (min n (d.seq s).entries.length)).map fun i => (s, i)

/-- The entries that a change or a snapshot looks up (R278, R325): those of the pages that an ATTEND job reads, the last of a sequence
appended to, the ones a fork copies, and all of a sequence that is freed or evicted from. -/
def changeKeys (d : Dev) : Change → List (Nat × Nat)
  | .job j raw => match d.job j with
    | none => []
    | some x =>
      let op := x.desc.opcode
      let g := groupOf d (recLe raw 0 2)
      if op = opKvAppend then lastEntry d (recLe raw 0 2)
      else if op = opAttend then match d.attendOf j with
        | some a => (a.entries.flatMap fun e => e.pages.map fun p => (e.seq, p.idx)).eraseDups
        | none => []
      else if op = opSeqFork then
        g.flatMap fun s => entryKeys d (pagesOf (if recLe raw 4 4 = 0xFFFFFFFF then (d.seq s).length else recLe raw 4 4)) s
      else g.flatMap (entryKeys d 1024)
  | .app _ s _ _ => lastEntry d s
  | .ring c => match c with
    | .append s _ _ => lastEntry d s
    | .fork a _ n => entryKeys d (pagesOf n) a
    | .free s => entryKeys d 1024 s
    | .evict s _ => entryKeys d 1024 s

/-- An append of `n` tokens has to wait: the copy of its tail for a pin (R294), or, sent by module 0, for pages to become free (R310;
DESIGN CHOICE, notes/assumptions/135). -/
def appendWaits (d : Dev) (ring : Bool) (s dd n : Nat) : Bool :=
  let q := appendSeq d s dd ring
  let e := q.entries.getLast?.getD { p0 := noPage }
  (needsCopy d q && (pinFull d e.p0 || pinFull d e.p1)) ||
    (ring && appendNeed d q n ≠ 0 && decide (d.freePages < appendNeed d q n) && !splitLost d q)

/-- A change cannot go on yet: a further pin on a page that holds 4,096 waits, and so does what `appendWaits` says (R294). -/
def mustWait (d : Dev) (c : Change) : Bool :=
  match c with
  | .job j raw => match d.job j with
    | some x =>
      if x.desc.opcode = opAttend then match d.attendOf j, readTable d x.q raw with
        | none, .ok t => (pagesRead (snapshot d (recLe raw 2 1) t 0)).any (pinFull d)
        | _, _ => false
      else x.desc.opcode = opKvAppend && appendWaits d false (recLe raw 0 2) (recLe raw 2 2) (recLe raw 4 4)
    | none => false
  | .app _ s _ _ => appendWaits d false s (d.seq s).d 0
  | .ring (.append s dd rows) => appendWaits d true s dd (rows.length / (2 * tokenHalves dd))
  | .ring _ => false

/-- The change is an ATTEND job's snapshot: later changes do not wait for it (R266). -/
def isSnapshot (d : Dev) (c : Change) : Bool :=
  match c with
  | .job j _ => (d.job j).any fun x => x.desc.opcode = opAttend
  | _ => false

/-- Sequences whose change is at work: its lookups are out, or its append has begun. -/
def busySeqs (d : Dev) : List Nat :=
  d.attn.appends.map (·.seq) ++ (d.attn.walks.filter fun w => !isSnapshot d w.change).flatMap fun w => changeSeqs d w.change

/-- The first change of the queue whose turn has come: no earlier change and none at work names its sequences. -/
def nextChange (d : Dev) : List Change → List Nat → Option Change
  | [], _ => none
  | c :: l, busy =>
    let ss := changeSeqs d c
    if overlaps ss busy || earlierJob d c ss || mustWait d c then nextChange d l (busy ++ ss) else some c

/-- A change goes on once its lookups are in: an ATTEND job once a tile takes it. -/
def walkReady (d : Dev) (w : Walk) : Bool :=
  walkDone d w.id &&
    (if isSnapshot d w.change then match w.change with
      | .job j _ => (d.job j).all (attendReady d)
      | _ => true
     else !mustWait d w.change)

/-- The asker of a change works in a deadline class (R279). -/
def changeDeadline (d : Dev) : Change → Bool
  | .job j _ => deadlineClass d (.job j)
  | .app who _ _ _ => deadlineClass d who
  | .ring _ => true

/-- A change's turn has come: an ATTEND job takes its snapshot; then its entries are looked up (R266, R277, R301). -/
def takeTurn (d : Dev) (c : Change) : Dev :=
  let d := match c with
    | .job j raw => match d.job j with
      | some x => if x.phase = .running && x.desc.opcode = opAttend then turnAttend d x raw else d
      | none => d
    | _ => d
  let live := match c with
    | .job j _ => (d.job j).any fun x => x.phase = .running
    | _ => true
  if !live then d
  else
    let w := d.attn.nextWalk
    lookEntries w (changeDeadline d c) (changeKeys d c)
      { d with attn := { d.attn with nextWalk := w + 1, walks := d.attn.walks ++ [⟨w, c⟩] } }

/-- A change whose lookups are in takes effect. -/
def finishWalk (d : Dev) (c : Change) : Dev :=
  match c with
  | .job j raw => match d.job j with
    | some x => if x.phase ≠ .running then d else if x.desc.opcode = opAttend then launchAttend d x else runChange d x raw
    | none => d
  | .app who s dd rows => runAppend d who s dd rows
  | .ring r => runRing d r

/-- Changes take effect as their turns come (R266). -/
def pumpChanges : Nat → Dev → Dev
  | 0, d => d
  | n + 1, d =>
    match d.attn.walks.find? (walkReady d) with
    | some w => pumpChanges n (finishWalk { d with attn := { d.attn with walks := d.attn.walks.erase w } } w.change)
    | none => match nextChange d d.attn.waiting (busySeqs d) with
      | none => d
      | some c => pumpChanges n (takeTurn { d with attn := { d.attn with waiting := d.attn.waiting.erase c } } c)

def pump (d : Dev) : Dev :=
  let d := wakePins d
  pumpChanges (2 * d.attn.waiting.length + d.attn.walks.length) d

/-- A change joins the queue. -/
def queueChange (d : Dev) (c : Change) : Dev := pump { d with attn := { d.attn with waiting := d.attn.waiting ++ [c] } }

/-- An Attend job joins the order of changes. -/
def runAttn (j : Nat) (d : Dev) : Dev :=
  match d.job j with
  | none => d
  | some x => match attnRecord d x with
    | .error st => endJob d j st
    | .ok raw => queueChange d (.job j raw)

/-! ### The jobs -/

/-- ATTEND (R301). -/
def execAttend (q : Nat) (hm : Outside) (s : State) : Out := onDev (fetchJob q hm (isOp opAttend) admitAttn runAttn) s

/-- KV_APPEND (R287). -/
def execKvAppend (q : Nat) (hm : Outside) (s : State) : Out := onDev (fetchJob q hm (isOp opKvAppend) admitAttn runAttn) s

/-- SEQ_FORK (R290). -/
def execSeqFork (q : Nat) (hm : Outside) (s : State) : Out := onDev (fetchJob q hm (isOp opSeqFork) admitAttn runAttn) s

/-- SEQ_FREE (R293). -/
def execSeqFree (q : Nat) (hm : Outside) (s : State) : Out := onDev (fetchJob q hm (isOp opSeqFree) admitAttn runAttn) s

/-- SEQ_EVICT (R298). -/
def execSeqEvict (q : Nat) (hm : Outside) (s : State) : Out := onDev (fetchJob q hm (isOp opSeqEvict) admitAttn runAttn) s

end Sys2Proof.Machine
end

