-- ==== Sys2Proof/Machine/Vector.lean ====
section
/-! DEFINITION. The VECTOR instructions (R168 to R170). -/

namespace Sys2Proof.Machine

/-- Lane by lane: vA + vB (R168). -/
def execVadd (t : Nat) (f : Fields) (s : State) : Out := onDev (vectorFp t 0x00 f (fun a b _ => fadd fp32 a b)) s

/-- Lane by lane: vA - vB (R168). -/
def execVsub (t : Nat) (f : Fields) (s : State) : Out := onDev (vectorFp t 0x01 f (fun a b _ => fsub fp32 a b)) s

/-- Lane by lane: vA × vB (R168). -/
def execVmul (t : Nat) (f : Fields) (s : State) : Out := onDev (vectorFp t 0x02 f (fun a b _ => fmul fp32 a b)) s

/-- Lane by lane: vA × vB + vC, one rounding (R168). -/
def execVfma (t : Nat) (f : Fields) (s : State) : Out := onDev (vectorFp t 0x03 f (fun a b c => ffma fp32 a b c)) s

/-- Lane by lane: minimum (R77) (R168). -/
def execVmin (t : Nat) (f : Fields) (s : State) : Out := onDev (vectorFp t 0x04 f (fun a b _ => fminmax fp32 false a b)) s

/-- Lane by lane: maximum (R77) (R168). -/
def execVmax (t : Nat) (f : Fields) (s : State) : Out := onDev (vectorFp t 0x05 f (fun a b _ => fminmax fp32 true a b)) s

/-- Lane compare for equal (R168, R76). -/
def execVceq (t : Nat) (f : Fields) (s : State) : Out := onDev (vectorCmp t 0x06 f numEq) s

/-- Lane compare for less-than (R168, R76). -/
def execVclt (t : Nat) (f : Fields) (s : State) : Out := onDev (vectorCmp t 0x07 f numLt) s

/-- Lane compare for less-or-equal (R168, R76). -/
def execVcle (t : Nat) (f : Fields) (s : State) : Out := onDev (vectorCmp t 0x08 f numLe) s

/-- Lane := vC lane ≠ 0 ? vA lane : vB lane (R168). -/
def selectLanes (a b c : Row) : Row :=
  ofLanes (((lanes a).zip ((lanes b).zip (lanes c))).map fun p => if p.2.2 ≠ 0 then p.1 else p.2.1)

/-- VSEL (R168). -/
def execVsel (t : Nat) (f : Fields) (s : State) : Out := onDev (vectorBits t 0x09 f selectLanes) s

/-- VAND (R168). -/
def execVand (t : Nat) (f : Fields) (s : State) : Out := onDev (vectorBits t 0x0A f fun a b _ => a &&& b) s

/-- VOR (R168). -/
def execVor (t : Nat) (f : Fields) (s : State) : Out := onDev (vectorBits t 0x0B f fun a b _ => a ||| b) s

/-- VXOR (R168). -/
def execVxor (t : Nat) (f : Fields) (s : State) : Out := onDev (vectorBits t 0x0C f fun a b _ => a ^^^ b) s

/-- Lanes added modulo 2^32. -/
def addLanes (a b : Row) : Row := ofLanes (((lanes a).zip (lanes b)).map fun p => (p.1 + p.2) % 2 ^ 32)

/-- VIADD (R168). -/
def execViadd (t : Nat) (f : Fields) (s : State) : Out := onDev (vectorBits t 0x0D f fun a b _ => addLanes a b) s

/-- VEXP2 lane by lane (R75, R168). -/
def execVexp2 (t : Nat) (f : Fields) (s : State) : Out := onDev (vectorFp t 0x10 f fun a _ _ => fexp2 a) s

/-- VLOG2 lane by lane (R75, R168). -/
def execVlog2 (t : Nat) (f : Fields) (s : State) : Out := onDev (vectorFp t 0x11 f fun a _ _ => flog2 a) s

/-- VRCP lane by lane (R75, R168). -/
def execVrcp (t : Nat) (f : Fields) (s : State) : Out := onDev (vectorFp t 0x12 f fun a _ _ => frcp a) s

/-- VRSQ lane by lane (R75, R168). -/
def execVrsq (t : Nat) (f : Fields) (s : State) : Out := onDev (vectorFp t 0x13 f fun a _ _ => frsqrt a) s

/-- Every lane of vD := xA[31:0] (R168). -/
def execVbcast (t : Nat) (f : Fields) (s : State) : Out :=
  onDev (issue t 0x3 0x18 f fun d => .done (d.updTile t fun x =>
    x.vw f.rd.toNat (ofLanes (List.replicate 128 (lo32 (x.xr f.ra)))))) s

/-- xD := lane EXT[6:0] of vA, zero-extended (R168). -/
def execVext (t : Nat) (f : Fields) (s : State) : Out :=
  onDev (issue t 0x3 0x19 f fun d => .done (d.updTile t fun x =>
    x.xw f.rd (BitVec.ofNat 64 ((lanes (x.vr f.ra.toNat)).getD (f.e 6 0) 0)))) s

/-- Lane EXT[6:0] of vD := xA[31:0] (R168). -/
def execVins (t : Nat) (f : Fields) (s : State) : Out :=
  onDev (issue t 0x3 0x1A f fun d => .done (d.updTile t fun x =>
    x.vw f.rd.toNat (ofLanes (listSet (lanes (x.vr f.rd.toNat)) (f.e 6 0) (lo32 (x.xr f.ra)))))) s

/-- vD := vA (R168). -/
def execVmov (t : Nat) (f : Fields) (s : State) : Out := onDev (vectorBits t 0x1B f fun a _ _ => a) s

/-- The sum of a list of FP32 values in ascending order: FMAs against 1.0 from +0 (R73). -/
def sumLanes (l : List Nat) : FRes := vecFp32Run l (l.map fun _ => 0x3F800000) 0 flNone

/-- The largest of a list of FP32 values; a NaN gives the canonical NaN (R168). -/
def maxLanes : List Nat → FRes
  | [] => (0, flNone)
  | x :: r =>
    r.foldl (fun a y => let m := fminmax fp32 true a.1 y; (m.1, a.2 ||| m.2)) (fminmax fp32 true x x)

/-- xD := sum of lanes 0 to n - 1, n = EXT[6:0] + 1 (R168, R73). -/
def execVrsum (t : Nat) (f : Fields) (s : State) : Out :=
  onDev (issue t 0x3 0x20 f fun d =>
    let x := d.tile t
    let r := sumLanes ((lanes (x.vr f.ra.toNat)).take (f.e 6 0 + 1))
    .done (raise (d.setTile t (x.xw f.rd (BitVec.ofNat 64 r.1))) t [elemOf fp32 r])) s

/-- xD := the largest of lanes 0 to n - 1 (R168). -/
def execVrmax (t : Nat) (f : Fields) (s : State) : Out :=
  onDev (issue t 0x3 0x21 f fun d =>
    let x := d.tile t
    let r := maxLanes ((lanes (x.vr f.ra.toNat)).take (f.e 6 0 + 1))
    .done (raise (d.setTile t (x.xw f.rd (BitVec.ofNat 64 r.1))) t [elemOf fp32 r])) s

/-- Kmax of a format (R174). -/
def kMax (e : EFmt) : Nat := min 512 (4096 / e.width)

/-- The formats that exist only in blocks (R34). -/
def blockOnly (e : EFmt) : Bool := e = .fl f6e3 || e = .fl f6e2 || e = .fl f4e2

/-- The dot-product mode of two formats and a pass field, for VDOT and MMA: R64's pairs, f6 and f4 sides blocked, no blocked
long or integer side. `none` is a pair that LOAD_IMAGE refuses (R162). -/
def dotMode (a b : EFmt) (blkA blkB : Bool) : Option DotMode :=
  match modeOf a b with
  | none => none
  | some m =>
    if (m = .integer && (decide (8 < a.width) || decide (8 < b.width) || blkA || blkB)) then none
    else if m = .eight then
      if (blockOnly a && !blkA) || (blockOnly b && !blkB) then none else some m
    else if blkA || blkB then none else some m

/-- Bytes `from` to `from + n - 1` of a row. -/
def rowBytes (r : Row) (start n : Nat) : List Nat := ((rowElems 8 r).drop start).take n

/-- Both Kmax, for operands of two widths: K must fit each side. -/
def dotKMax (a b : EFmt) : Nat := min (kMax a) (kMax b)

/-- xD := dot(vA, vB) (R168, R169). -/
def execVdot (t : Nat) (f : Fields) (s : State) : Out :=
  onDev (issue t 0x3 0x22 f fun d =>
    let x := d.tile t
    match efmtOf (f.e 3 0), efmtOf (f.e 7 4) with
    | some fa, some fb =>
      let blkA := f.e 19 19 = 1
      let blkB := f.e 20 20 = 1
      let k := f.e 17 8
      match dotMode fa fb blkA blkB with
      | none => .illegal
      | some m =>
        if k = 0 ∨ dotKMax fa fb < k ∨ ((blkA ∨ blkB) ∧ k % 32 ≠ 0) ∨ (m ≠ .multi ∧ f.e 22 21 ≠ 0) then .illegal
        else
          let sc := x.vr f.rc.toNat
          let a : DotSide := ⟨fa, unpack fa.width k (x.vr f.ra.toNat).toNat, if blkA then rowBytes sc 0 16 else []⟩
          let b : DotSide := ⟨fb, unpack fb.width k (x.vr f.rb.toNat).toNat, if blkB then rowBytes sc 16 16 else []⟩
          let w := if m = .fp64 then 64 else 32
          let acc := if f.e 18 18 = 1 then 0 else (x.xr f.rd).toNat % 2 ^ w
          let r := if m = .multi ∧ f.e 22 21 = 0 then vecFp32Run a.codes b.codes acc flNone
            else dotRun (d.tileStrict t) m (f.e 22 21) a b acc
          let nan := m ≠ .integer && (decodeNum m.acc r.1).isNan
          .done (raise (d.setTile t (x.xw f.rd (BitVec.ofNat 64 r.1))) t [(r.2, nan)])
    | _, _ => .illegal) s

/-- One element of VCVT (R44); none for a pair that is not in R44's table. -/
def vcvtElem (src dst : EFmt) (c : Nat) : Option (Nat × ElemFx) :=
  match src, dst with
  | .fl a, .fl b =>
    if (a = b ∧ a ≠ fp32) ∨ a = fp64 ∨ b = fp64 ∨ blockOnly src ∨ blockOnly dst then none
    else if a.width = 8 then
      if b.width = 8 then none else let r := decodeElem a b 0x7F c; some (r.1, elemOf b r)
    else let r := fconv a b c; some (r.1, elemOf b r)
  | .fl a, .int true w =>
    if a = fp32 ∧ w = 32 then let r := fToInt a 32 c; some (unsx 32 r.1, (r.2, false)) else none
  | .int sg w, .fl b =>
    if b = fp64 ∨ b.width < 16 ∨ w = 64 ∨ (w = 32 ∧ b ≠ fp32) then none
    else let r := intToF b (intElem sg w c); some (r.1, elemOf b r)
  | .int sg w, .int sg' w' =>
    if w < 32 ∧ w' = 32 ∧ sg' then some (unsx 32 (intElem sg w c), (flNone, false))
    else if w = 32 ∧ sg ∧ w' < 32 then some (unsx w' (narrowInt sg' w' (sx 32 c)), (flNone, false))
    else none
  | _, _ => none

/-- The bit offset of the 128 elements of one side of VCVT (R170). -/
def vcvtOffset (e : EFmt) (half : Nat) : Nat := if e.width = 16 then 128 * half * 16 else 0

/-- Bits [off + len - 1 : off] of a row replaced. -/
def spliceRow (old : Row) (off len v : Nat) : Row :=
  BitVec.ofNat 4096 (old.toNat % 2 ^ off + v % 2 ^ len * 2 ^ off + old.toNat / 2 ^ (off + len) * 2 ^ (off + len))

/-- vD := 128 elements of vA converted from EXT[3:0] to EXT[7:4]; EXT[8] the half of a 16-bit side (R168, R170). -/
def execVcvt (t : Nat) (f : Fields) (s : State) : Out :=
  onDev (issue t 0x3 0x23 f fun d =>
    let x := d.tile t
    match efmtOf (f.e 3 0), efmtOf (f.e 7 4) with
    | some fa, some fb =>
      let src := unpack fa.width 128 ((x.vr f.ra.toNat).toNat / 2 ^ vcvtOffset fa (f.e 8 8))
      let rs := src.filterMap (vcvtElem fa fb)
      if rs.length ≠ 128 then .illegal
      else
        let v := spliceRow (x.vr f.rd.toNat) (vcvtOffset fb (f.e 8 8)) (128 * fb.width) (pack fb.width (rs.map (·.1)))
        .done (raise (d.setTile t (x.vw f.rd.toNat v)) t
          (List.replicate (vcvtOffset fb (f.e 8 8) / fb.width) (flNone, false) ++ rs.map (·.2)))
    | _, _ => .illegal) s

end Sys2Proof.Machine
end

