-- ==== Sys2Proof/Machine/Convert.lean ====
section
/-! DEFINITION. Block conversion in the vector unit (R171, R172). -/

namespace Sys2Proof.Machine

/-- The registers a packed operand takes: three for 6-bit formats, else one (R172). -/
def packedRegs (w : Nat) : Nat := if w = 6 then 3 else 1

/-- The block limit of a packed operand (R172). -/
def blockLimit (w : Nat) : Nat := if w = 8 then 16 else if w = 4 then 32 else 64

/-- The packed operand from register `v`, as one bit string. -/
def packedOf (x : Tile) (v w : Nat) : Nat := rowsNat ((upto (packedRegs w)).map fun i => x.vr (v + i))

/-- Bits [off + len - 1 : off] of a bit string replaced. -/
def spliceNat (old off len v : Nat) : Nat := old % 2 ^ off + v % 2 ^ len * 2 ^ off + old / 2 ^ (off + len) * 2 ^ (off + len)

/-- The blocks of a register of a long format: 4 of FP32, 8 of a 16-bit format (R171). -/
def sourceBlocks (f : Fmt) (r : Row) : List (List Nat) := chunks 32 (rowElems f.width r)

def isLong (f : Fmt) : Bool := f = fp32 || f = fp16 || f = bf16

def isShort (f : Fmt) : Bool := decide (f.width ≤ 8)

/-- The status that block conversions leave (R40, R41, R39, R42). -/
def noteBlocks (d : Dev) (t rmx : Nat) (src : Fmt) (codes : List Nat) (rs : List BlockRes) : Dev :=
  let d := d.incFld tileFmtUflowBlockUnderflow t ((rs.map (·.under)).foldl (· + ·) 0)
  let d := d.incFld tileFmtSatBlockSaturate t ((rs.map (·.sat)).foldl (· + ·) 0)
  let d := if rs.any (·.nanBlock) then d.setFld tileFmtStatusNanBlock 1 t else d
  let f : Fld := { tileRunmax0Runmax with base := rTileRunmax0 + 4 * rmx }
  d.setFld f (runmaxStep src (d.fld f t) codes) t

/-- CVTB: vA converted into blocks of vD from block B0, scales to vC from byte SB (R171, R172). -/
def execCvtb (t : Nat) (f : Fields) (s : State) : Out :=
  onDev (issue t 0x4 0x00 f fun d =>
    let x := d.tile t
    match efmtOf (f.e 3 0), efmtOf (f.e 7 4) with
    | some (.fl src), some (.fl dst) =>
      let blocks := sourceBlocks src (x.vr f.ra.toNat)
      let n := blocks.length
      let b0 := f.e 18 13
      let sb := f.e 27 19
      let v := f.rd.toNat
      if !isLong src || !isShort dst || decide (blockLimit dst.width < b0 + n) || decide (32 < v + packedRegs dst.width) ||
          decide (512 < sb + n) then .illegal
      else
        let sc := x.vr f.rc.toNat
        let given (b : Nat) : Option Nat :=
          if f.e 8 8 = 0 then none
          else if f.e 9 9 = 0 then some ((x.xr f.rb).toNat % 256)
          else some ((rowBytes sc (sb + b) 1).headD 0)
        let rs := (upto n).map fun b => convBlock src dst (given b) (blocks.getD b [])
        let bw := 32 * dst.width
        let packed := spliceNat (packedOf x v dst.width) (bw * b0) (bw * n) (pack dst.width (rs.flatMap (·.codes)))
        let x := x.vwList v (natRows (packedRegs dst.width) packed)
        let x := x.vw f.rc.toNat (spliceRow (x.vr f.rc.toNat) (8 * sb) (8 * n) (pack 8 (rs.map (·.scale))))
        let d := noteBlocks (d.setTile t x) t (f.e 12 10) src (blocks.flatten) rs
        .done (raise d t (List.replicate (32 * b0) (flNone, false) ++
          rs.flatMap fun r => r.flags.map fun fl => (fl, r.nanBlock)))
    | _, _ => .illegal) s

/-- DCVB: blocks of vA from block B0 decoded into vD with scales from vC byte SB (R171, R172, R43). -/
def execDcvb (t : Nat) (f : Fields) (s : State) : Out :=
  onDev (issue t 0x4 0x01 f fun d =>
    let x := d.tile t
    match efmtOf (f.e 3 0), efmtOf (f.e 7 4) with
    | some (.fl src), some (.fl dst) =>
      let n := if dst = fp32 then 4 else 8
      let b0 := f.e 18 13
      let sb := f.e 27 19
      let v := f.ra.toNat
      if !isShort src || !isLong dst || decide (blockLimit src.width < b0 + n) || decide (32 < v + packedRegs src.width) ||
          decide (512 < sb + n) then .illegal
      else
        let codes := unpack src.width (32 * n) (packedOf x v src.width / 2 ^ (32 * src.width * b0))
        let sc := rowBytes (x.vr f.rc.toNat) sb n
        let rs := ((chunks 32 codes).zip sc).flatMap fun p => p.1.map (decodeElem src dst p.2)
        .done (raise (d.setTile t (x.vw f.rd.toNat (rowOf dst.width (rs.map (·.1))))) t (rs.map (elemOf dst)))
    | _, _ => .illegal) s

end Sys2Proof.Machine
end

