-- ==== Sys2Proof/Machine/AttendRun.lean ====
section
/-! DEFINITION. What follows a job's turn in the Attend system: copies and commits, attention on the tiles and round the ring, PGAPP,
returned lookups, page moves (R274, R277 to R279, R287, R292, R297, R303 to R312, R323). -/

namespace Sys2Proof.Machine

/-- PAGE_COPY_DONE (R292). -/
def execPageCopyDone (s' : Nat) (s : State) : Out := onDev (fun d => pump (copyDone s' d)) s

/-- APPEND_COMMIT (R287). -/
def execAppendCommit (s' : Nat) (s : State) : Out := onDev (fun d => pump (commitAppend s' d)) s

/-! ### ATTEND_OUTPUT_WRITE (R303 to R306) -/

/-- The query of row `r`: D FP32 values (R300). -/
def readQuery (d : Dev) (a : AttendJob) (r : Nat) : Except Nat (List Nat) :=
  match readAddr d (a.qAddr + 512 * tokenHalves a.d * r) (512 * tokenHalves a.d) with
  | .error e => .error e
  | .ok l => .ok ((upto a.d).map fun i => recLe l (4 * i) 4)

/-- A row's output and statistics written (R300, R304). -/
def writeRow (d : Dev) (a : AttendJob) (r : Nat) (o : Nat × Nat × List Nat) : Dev :=
  let w := 512 * tokenHalves a.d
  let d := (writeAddr d (a.oAddr + w * r) (bytes32 o.2.2 ++ leBytes (w - 4 * a.d) 0)).1
  if a.statAddr = 0 then d else (writeAddr d (a.statAddr + 8 * r) (leBytes 4 o.1 ++ leBytes 4 o.2.1)).1

/-- A split entry goes round the ring: its rows are combined over several modules (R311). -/
def AttendEntry.ring (a : AttendJob) (e : AttendEntry) : Bool := a.ringSplit && decide (1 < e.ringM)

/-- A split entry has nothing more to do on this module: every row has gone through or come back, and its scores are updated. A module
beyond those of the sequence has no part in it. -/
def ringEntryDone (d : Dev) (a : AttendJob) (e : AttendEntry) : Bool :=
  decide (e.ringM ≤ d.ringPos) ||
    (decide ((a.ringRows.filter fun r => decide (e.row0 ≤ r) && decide (r < e.row0 + e.qlen * a.hq)).length = e.qlen * a.hq) &&
      (d.ringPos = 0 || !bit e.mask 1 || e.scored))

/-- Every entry is written, and with RING_SPLIT every row has come back: the job is done (R303). -/
def attendFinished (d : Dev) (a : AttendJob) : Bool :=
  a.entries.all fun e => e.done && (!e.ring a || ringEntryDone d a e)

/-- The tiles of a job go back to rest, and take their next items. -/
def restTiles (d : Dev) (j : Nat) : Dev :=
  let ts := (upto tileCount).filter fun t => (d.tile t).job = some j
  freeTiles d ts

/-- An ATTEND job ends with a status. -/
def failAttend (d : Dev) (a : AttendJob) (status : Nat) : Dev := pump (endJob (restTiles (dropAttend d a) a.job) a.job status)

def endAttend (d : Dev) (j : Nat) : Dev :=
  match d.attendOf j with
  | none => d
  | some a => if attendFinished d a then failAttend d a stDone else d

/-- The armed NaN watch traps on a tile of the job (R89, R304). -/
def trapAttend (d : Dev) (a : AttendJob) (t : Nat) (key : List Nat) : Dev :=
  failAttend (stopJobTiles (vendorTrap d [t] key) a.job) a stNanTrapped

/-- The score of one page of a sequence takes a mass (R297). An update for a sequence freed, or created anew, since the snapshot, or for
an entry evicted since, is discarded and counted. -/
def updateScore (s born i mu : Nat) (d : Dev) : Dev :=
  let k := min 8 (d.fld attnCtrlDecay)
  let q := d.seq s
  match q.entries[i]? with
  | none => d.attnCount 11
  | some x =>
    if !q.active || q.born ≠ born || x.evicted then d.attnCount 11
    else (d.setSeq s { q with entries := listSet q.entries i { x with score := newScore x.score k mu } }).labDrop s i

/-- The masses of the pages of an entry that this module holds: index and μ (R305). -/
def entryMasses (e : AttendEntry) (hq : Nat) (rs : List (RowPart × Nat × Nat)) : List (Nat × Nat) :=
  (e.pages.filter fun p => !p.evicted && p.p0 ≠ noPage).map fun p => (p.idx, pageMass e hq p rs)

/-- Scores are updated for the entry (R297). -/
def scoring (d : Dev) (e : AttendEntry) : Bool := bit e.mask 1 && d.fld attnCtrlDecay ≠ 0

/-- The scores of an entry's pages after its output, in ascending page index (R297). -/
def updateScores (d : Dev) (e : AttendEntry) (ms : List (Nat × Nat)) : Dev :=
  if scoring d e then ms.foldl (fun d m => updateScore e.seq e.born m.1 m.2 d) d else d

/-- What the rows of an entry leave in their tile's format status (R39 to R41, R303). -/
def noteRows (d : Dev) (t : Nat) (rs : List RowAcc) : Dev :=
  let bs := rs.flatMap (·.blocks)
  let d := d.incFld tileFmtUflowBlockUnderflow t ((bs.map (·.under)).foldl (· + ·) 0)
  let d := d.incFld tileFmtSatBlockSaturate t ((bs.map (·.sat)).foldl (· + ·) 0)
  let d := if bs.any (·.nanBlock) then d.setFld tileFmtStatusNanBlock 1 t else d
  mergeFlags d t (rs.foldl (fun f r => f ||| r.fl) flNone)

def isNan32 (v : Nat) : Bool := (decodeNum fp32 v).isNan

/-- The rows of entry `e`: query index, row number, query (R300). -/
def entryRows (a : AttendJob) (e : AttendEntry) : List (Nat × Nat) :=
  (upto (e.qlen * a.hq)).map fun k => (k / a.hq, e.row0 + k)

/-- Every query of a list of rows. -/
def readQueries (d : Dev) (a : AttendJob) (l : List (Nat × Nat)) : Except Nat (List (Nat × Nat × List Nat)) :=
  l.foldl (fun r x => match r with
    | .error e => .error e
    | .ok m => match readQuery d a x.2 with
      | .error e => .error e
      | .ok q => .ok (m ++ [(x.1, x.2, q)])) (.ok [])

/-- The codes of an entry's pages and queries are read (R306, R432). -/
def scanEntry (d : Dev) (j : Nat) (a : AttendJob) (e : AttendEntry) : Dev :=
  let d := (pagesRead [e]).foldl (fun d p => scanMem d (some j) ekJob (pageAddr d p) pageBytes) d
  scanAddr d (some j) (a.qAddr + 512 * tokenHalves a.d * e.row0) (512 * tokenHalves a.d * (e.qlen * a.hq))

/-- A split sequence of the entry has lost a module that held pages of it (R312). -/
def ringLost (d : Dev) (a : AttendJob) (e : AttendEntry) : Bool :=
  e.ring a && (decide (d.ringCount < e.ringM) || ((d.seq e.seq).born = e.born && (d.seq e.seq).gone))

/-- A partial result of a row leaves for module `m`: the row, m, l and the output (R311). -/
def sendPartial (d : Dev) (x : Job) (m : Nat) (r : RowPart) : Dev :=
  sendRing d m (flitClass x.desc.cls) 2 x.desc.tag (leBytes 4 r.row ++ leBytes 4 r.m ++ leBytes 4 r.l ++ bytes32 r.o)

/-- The final m and l of every row of entry `k` go to the modules that hold pages of it, which answer with their pages' masses (R297,
R305, R311; DESIGN CHOICE, notes/assumptions/137). -/
def sendFinals (d : Dev) (x : Job) (k : Nat) (e : AttendEntry) : Dev :=
  (upto e.ringM).foldl (fun d m => if m = 0 then d else
    sendRing d m (flitClass x.desc.cls) 8 x.desc.tag (leBytes 4 k ++ leBytes 4 e.born ++ leBytes 4 e.finals.length ++
      e.finals.flatMap fun f => leBytes 4 f.1 ++ leBytes 4 f.2.1 ++ leBytes 4 f.2.2)) d

/-- A module's own partial results with their final m and l. -/
def finalRows (e : AttendEntry) : List (RowPart × Nat × Nat) :=
  e.parts.filterMap fun p => (e.finals.find? fun f => f.1 = p.row).map fun f => (p, f.2)

/-- Row results of entry `k` are all back on module 0: its pages' scores are updated and the finals sent on. -/
def closeEntry (x : Job) (k : Nat) (d : Dev) : Dev :=
  match d.attendOf x.id with
  | none => d
  | some a => match a.entries[k]? with
    | none => d
    | some e =>
      if e.finals.length < e.qlen * a.hq || !bit e.mask 1 then d
      else sendFinals (updateScores d e (entryMasses e a.hq (finalRows e))) x k e

/-- A result is not a number. -/
def RowPart.isNan (r : RowPart) : Bool := isNan32 r.m || isNan32 r.l || r.o.any isNan32

/-- A partial result of a row of entry `k` goes on: on module 0 it has gone round and is divided and written; elsewhere it is combined
with this module's own and sent to the next, and from the last to module 0 (R311). Its flags and its NaN watch are those of the entry's
tile (R80, R89). -/
def passRow (x : Job) (k : Nat) (r : RowPart) (d : Dev) : Dev :=
  match d.attendOf x.id with
  | none => d
  | some a => match a.entries[k]? with
    | none => d
    | some e =>
      let note (f : AttendEntry → AttendEntry) (d : Dev) : Dev := d.updAttend x.id fun a =>
        { a with ringRows := a.ringRows ++ [r.row], entries := listSet a.entries k (f e) }
      if d.ringPos = 0 then
        let i := (r.row - e.row0) / a.hq
        let out := rowOutput e i r.m r.l r.o
        let d := mergeFlags d e.tile (out.2.2.foldl (fun f v => f ||| v.2) flNone)
        if x.nanWatch && (r.isNan || out.2.2.any fun v => isNan32 v.1) then trapAttend d a e.tile (r.row :: r.m :: r.l :: r.o)
        else
          let d := if attendsAny e i then d else d.attnCount 10
          let d := writeRow d a r.row (out.1, out.2.1, out.2.2.map (·.1))
          closeEntry x k (note (fun e => { e with finals := e.finals ++ [(r.row, out.1, out.2.1)] }) d)
      else match e.parts.find? fun p => p.row = r.row with
        | none => d
        | some own =>
          let c := combinePartial r own
          let d := mergeFlags d e.tile c.2
          if x.nanWatch && c.1.isNan then trapAttend d a e.tile (c.1.row :: c.1.m :: c.1.l :: c.1.o)
          else sendPartial (note id d) x (if d.ringPos + 1 = e.ringM then 0 else d.ringPos + 1) c.1

/-- Partial results that came before this module's own go on now (R311). -/
def passEarly (x : Job) (k : Nat) (d : Dev) : Dev :=
  match (d.attendOf x.id).bind fun a => (a.entries[k]?).map fun e => (a, e) with
  | none => d
  | some (a, e) =>
    let mine (p : Nat × RowPart) : Bool := p.1 = x.desc.tag && decide (e.row0 ≤ p.2.row) && decide (p.2.row < e.row0 + e.qlen * a.hq) &&
      p.2.o.length = a.d
    let rs := d.attn.early.filter mine
    rs.foldl (fun d p => passRow x k p.2 d) { d with attn := { d.attn with early := d.attn.early.filter fun p => !mine p } }

/-- Entry `k` of an ATTEND job is computed on its tile, and its rows are written, or with RING_SPLIT sent on their way round
the ring (R303 to R305, R311). Entries follow one another in ascending order. -/
def attendWrite (j k : Nat) (uncorr : Bool) (d : Dev) : Dev :=
  match d.attendOf j, d.job j with
  | some a, some x =>
    match a.entries[k]? with
    | none => d
    | some e =>
      if e.done || (a.entries.take k).any (!·.done) || (d.tile e.tile).job ≠ some j || d.fld tileStateState e.tile ≠ tsRunning then d
      else if ringLost d a e then failAttend d a stLinkLost
      else
        let d := scanEntry d j a e
        if uncorr || (pagesRead [e]).any (pagePoisoned d) then
          let d := match if uncorr then (pagesRead [e]).head? else none with
            | some p => foundUncorr d (pageAddr d p) ekJob
            | none => d
          failAttend d a stUncorrectable
        else
          match readQueries d a (entryRows a e) with
          | .error st => failAttend d a st
          | .ok qs =>
            let rs := qs.map fun q => (q.1, q.2.1, rowPartial d x.strict a.d a.smScale q.2.2 e q.1)
            let ring := e.ring a
            let parts := rs.map fun r => r.2.2.part r.2.1
            let outs := rs.map fun r => (r.2.1, rowOutput e r.1 r.2.2.m r.2.2.l r.2.2.o)
            let nan := rs.any (fun r => r.2.2.o.any isNan32 || r.2.2.blocks.any (·.nanBlock)) ||
              (!ring && outs.any fun o => o.2.2.2.any fun v => isNan32 v.1)
            let d := noteRows d e.tile (rs.map (·.2.2))
            let d := mergeFlags d e.tile (if ring then flNone else outs.foldl (fun f o => o.2.2.2.foldl (fun f v => f ||| v.2) f) flNone)
            if nan && x.nanWatch then trapAttend d a e.tile (rs.flatMap fun r => r.2.1 :: r.2.2.m :: r.2.2.l :: r.2.2.o)
            else
              let upd (f : AttendEntry → AttendEntry) (d : Dev) : Dev :=
                d.updAttend j fun a => { a with entries := listSet a.entries k (f e) }
              if ring then
                let d := upd (fun e => { e with done := true, parts := parts }) d
                let d := if d.ringPos = 0 then parts.foldl (fun d r => sendPartial d x 1 r) d else passEarly x k d
                endAttend d j
              else
                let d := outs.foldl (fun d o => writeRow d a o.1 (o.2.1, o.2.2.1, o.2.2.2.map (·.1))) d
                let d := d.attnCount 10 (rs.filter fun r => !attendsAny e r.1).length
                let d := updateScores d e (entryMasses e a.hq ((parts.zip outs).map fun p => (p.1, p.2.2.1, p.2.2.2.1)))
                endAttend (upd (fun e => { e with done := true }) d) j
  | _, _ => d

/-- ATTEND_OUTPUT_WRITE (R303). -/
def execAttendOutputWrite (j e : Nat) (uncorrectable : Bool) (s : State) : Out := onDev (attendWrite j e uncorrectable) s

/-! ### The ring (R310, R311) -/

/-- SPLIT_CHANGE_MESSAGE (R310): a change from module 0 joins the order of changes. Module 0 receives none. -/
def execSplitChangeMessage (c : SplitChange) (s : State) : Out :=
  onDev (fun d => if d.ringCount ≤ 1 || d.ringPos = 0 then d else queueChange d (.ring c)) s

/-- The index of the entry that holds a row. -/
def entryOfRow (a : AttendJob) (r : Nat) : Nat :=
  a.entries.findIdx fun e => decide (e.row0 ≤ r) && decide (r < e.row0 + e.qlen * a.hq)

/-- A partial result of a row arrives for the job of a TAG. Until this module's own is computed it waits, also where the job has not
reached its turn (R311: the outputs do not depend on which module finishes first). -/
def ringPartial (tag : Nat) (r : RowPart) (d : Dev) : Dev :=
  let wait : Dev := if d.attn.early.contains (tag, r) then d else { d with attn := { d.attn with early := d.attn.early ++ [(tag, r)] } }
  match d.jobs.find? fun x => x.desc.tag = tag && x.desc.opcode = opAttend && x.phase ≠ .ended with
  | none => d
  | some x => match d.attendOf x.id with
    | none => wait
    | some a => match a.entries[entryOfRow a r.row]? with
      | none => d
      | some e =>
        if !e.ring a || a.ringRows.contains r.row || r.o.length ≠ a.d then d
        else if ringLost d a e then failAttend d a stLinkLost
        else if !e.done then wait
        else endAttend (passRow x (entryOfRow a r.row) r d) x.id

/-- RING_SPLIT_PARTIAL (R311). -/
def execRingSplitPartial (j row : Nat) (m l : U32) (o : List U32) (s : State) : Out :=
  onDev (fun d => match d.job j with
    | none => d
    | some x => ringPartial x.desc.tag { row := row, m := m.toNat, l := l.toNat, o := o.map (·.toNat) } d) s

/-- The final m and l of an entry's rows arrive from module 0: this module's pages are scored, and their masses go to module 0, whose
scores rank them (R297, R305; DESIGN CHOICE, notes/assumptions/137). -/
def takeFinals (tag k born : Nat) (fs : List (Nat × Nat × Nat)) (d : Dev) : Dev :=
  match d.jobs.find? fun x => x.desc.tag = tag && x.desc.opcode = opAttend && x.phase = .running with
  | none => d
  | some x => match (d.attendOf x.id).bind fun a => (a.entries[k]?).map fun e => (a, e) with
    | none => d
    | some (a, e) =>
      if !e.ring a || d.ringPos = 0 || e.scored then d
      else
        let e := { e with finals := fs, scored := true }
        let ms := entryMasses e a.hq (finalRows e)
        let d := updateScores (d.updAttend x.id fun a => { a with entries := listSet a.entries k e }) e ms
        let d := sendRing d 0 (flitClass x.desc.cls) 9 tag (leBytes 4 e.seq ++ leBytes 4 born ++ leBytes 4 ms.length ++
          ms.flatMap fun m => leBytes 4 m.1 ++ leBytes 4 m.2)
        endAttend d x.id

/-- The masses of another module's pages arrive on module 0 (R297). -/
def takeMasses (s born : Nat) (ms : List (Nat × Nat)) (d : Dev) : Dev :=
  if d.ringPos ≠ 0 || d.fld attnCtrlDecay = 0 then d else ms.foldl (fun d m => updateScore s born m.1 m.2 d) d

/-! ### PGAPP and returned lookups (R277 to R283) -/

/-- PGAPP (R187, R283): the rows leave the tile, and the append takes its turn. -/
def execPgapp (t : Nat) (f : Fields) (s : State) : Out :=
  onDev (issue t 0xA 0x01 f fun d =>
    let x := d.tile t
    if 16 ≤ x.inflight.length then .stall d
    else match fabLocal (x.xr f.rb) with
      | none => .illegal
      | some (r, n) =>
        withRows d t [⟨f.h1, (upto n).map (r + ·), false⟩] {} fun d =>
          let x := d.tile t
          let rows := (upto n).map fun i => x.rowData (x.hnd f.h1) (r + i)
          let (d, id) := startOp d t (fabAck f)
          .done (queueChange d (.app (.tile t id) (bits (x.xr f.ra).toNat 11 0) 0 rows))) s

/-- The entry (s, i) comes back from DDR4 to the lookups that missed it: the buffer is filled, each page request is served, and the changes
whose lookups are all in go on (R278). An uncorrectable entry refuses this lookup and every later one of it (R448). With no lookup of
it out, the return is the refetch of a buffer entry that failed its check (R313; DESIGN CHOICE, notes/assumptions/138). -/
def missReturn (s i : Nat) (uncorr : Bool) (d : Dev) : Dev :=
  let ls := d.attn.lookups.filter fun l => !l.waiting && l.seq = s && l.idx = i
  let read (d : Dev) : Dev :=
    let w := walkerRead d s i uncorr
    if w.2 then (w.1.loseEntry s i).labDrop s i else w.1
  if ls = [] then if d.attn.lab.contains (s, i) then read (d.setFld attnStatusLabErr 1) else d
  else
    let d := { d with attn := { d.attn with lookups := d.attn.lookups.filter fun l => !ls.contains l
                                            lab := ((s, i) :: d.attn.lab.erase (s, i)).take 256 } }
    let d := (ls.filter (·.walk.isNone)).foldl serveLookup (read d)
    pump (grantSlots d)

/-- WALKER_MISS_RETURN (R278). -/
def execWalkerMissReturn (s i : Nat) (uncorrectable : Bool) (st : State) : Out := onDev (missReturn s i uncorrectable) st

/-! ### Page moves (R274, R323) -/

/-- The pages an attend job reads: those of its snapshot, or, before its turn, of the tables as they stand. -/
def attendPages (d : Dev) (x : Job) : List Nat :=
  match d.attn.attends.find? fun a => a.job = x.id with
  | some a => pagesRead a.entries
  | none => match attnRecord d x with
    | .error _ => []
    | .ok raw => match readTable d x.q raw with
      | .error _ => []
      | .ok t => pagesRead (snapshot d (recLe raw 2 1) t 0)

/-- Attend jobs with admitted items that read page `p`. -/
def readersOf (d : Dev) (p : Nat) : List Nat :=
  (d.jobs.filter fun x => x.desc.opcode = opAttend && (d.admitted.any fun i => i.job = x.id) && (attendPages d x).contains p).map (·.id)

/-- The record's query heads and dimension, and the entries, of an attend job: of its snapshot, or as they stand. -/
def attendWork (d : Dev) (x : Job) : Option (Nat × Nat × List AttendEntry) :=
  match d.attn.attends.find? fun a => a.job = x.id with
  | some a => some (a.hq, a.d, a.entries)
  | none => match attnRecord d x with
    | .error _ => none
    | .ok raw => match readTable d x.q raw with
      | .error _ => none
      | .ok t => some (recLe raw 2 1, 32 * recLe raw 3 1, snapshot d (recLe raw 2 1) t 0)

/-- The reservations of an attend job with the pages counted where they now lie: the cycles of each tile's part, and its bytes on either
store (R323). -/
def recharge (d : Dev) (j : Nat) : Dev :=
  match d.job j, d.admitted.find? fun y => y.job = j with
  | some x, some y => match attendWork d x with
    | none => d
    | some (hq, dd, es) =>
      let held := heldTiles d j
      let single := d.attn.dealtSingly.contains j
      let uses := attendUses d (attendOut hq dd es) single held.length es
      let want (z : Admitted) : Nat :=
        if z.kind = rkTile then attendBound d hq (dealt single held.length (held.idxOf z.inst) es)
        else ((uses.find? fun u => u.kind = z.kind).map (·.demand)).getD z.demand
      let l := d.admitted.map fun z => if z.job = j then { z with demand := want z } else z
      let new := uses.filter fun u => u.demand ≠ 0 && !(l.any fun z => z.job = j && z.kind = u.kind)
      { d with admitted := l ++ new.map fun u => ⟨j, y.prob, y.cls, y.deadline, u.kind, 0, u.demand⟩ }
  | _, _ => d

/-- Every admitted item of job `j` still fits (R326). -/
def stillFits (d : Dev) (j : Nat) : Bool :=
  (d.admitted.filter fun x => x.job = j).all fun x =>
    fits { d with admitted := d.admitted.erase x } x.kind x.inst x.cls x.deadline x.demand d.now

/-- Forester begins to move a page without pins to the other store, if a slot is free there and every admitted item that reads
the page still fits, counted there at that store's terms (R323). -/
def pageMove (p : Nat) (toCanopy : Bool) (d : Dev) : Dev :=
  let i := d.page p
  let a := d.attn
  let js := readersOf d p
  let e := js.foldl recharge (d.setPage p { i with canopy := toCanopy })
  if !i.alloc || i.pin ≠ 0 || i.canopy = toCanopy || (a.moves.any fun m => m.1 = p) || !(js.all (stillFits e)) then d
  else match choose { d with admitted := e.admitted } (if toCanopy then freeSlots a.canopyUsed a.canopySlots else freeSlots a.ddrUsed a.ddrSlots) with
    | (none, _) => d
    | (some k, e) =>
      { e with attn := { a with moves := a.moves ++ [(p, toCanopy, k)]
                                canopyUsed := if toCanopy then a.canopyUsed ++ [k] else a.canopyUsed
                                ddrUsed := if toCanopy then a.ddrUsed else a.ddrUsed ++ [k] } }

/-- PAGE_MOVE (R274). -/
def execPageMove (ppn : Nat) (toCanopy : Bool) (s : State) : Out := onDev (pageMove ppn toCanopy) s

/-- The copy of a page move is complete: the walker switches LOC, and the poison of the bytes goes with them (R274, R445). A page freed
or pinned meanwhile stays where it is, and the reservations of its readers with it. -/
def pageMoveDone (p : Nat) (d : Dev) : Dev :=
  match d.attn.moves.find? fun m => m.1 = p with
  | none => d
  | some m =>
    let i := d.page p
    let a := { d.attn with moves := d.attn.moves.erase m }
    if !i.alloc || i.pin ≠ 0 || i.canopy = m.2.1 then
      let d : Dev := { d with attn := { a with canopyUsed := if m.2.1 then a.canopyUsed.erase m.2.2 else a.canopyUsed
                                               ddrUsed := if m.2.1 then a.ddrUsed else a.ddrUsed.erase m.2.2 } }
      (readersOf d p).foldl recharge d
    else
      let src := pageAddr d p
      let d := scanMem d none ekCopy src pageBytes
      let a := { a with canopyUsed := if i.canopy then a.canopyUsed.erase i.slot else a.canopyUsed
                        ddrUsed := if i.canopy then a.ddrUsed else a.ddrUsed.erase i.slot }
      let d := ({ d with attn := a }).setPage p { i with canopy := m.2.1, slot := m.2.2 }
      let d := copySlot d src (pageAddr d p) pageBytes
      (d.incFld memCopyCntCount).forCount 7

/-- PAGE_MOVE_DONE (R274). -/
def execPageMoveDone (ppn : Nat) (s : State) : Out := onDev (pageMoveDone ppn) s

end Sys2Proof.Machine
end

