-- ==== Sys2Proof/Machine/Array.lean ====
section
/-! DEFINITION. The ARRAY instructions (R173 to R177) with the checksum of R91 to R93. -/

namespace Sys2Proof.Machine

/-- The rows one MMA operand takes (R174). -/
def operandRows (w : Nat) : Nat := if w = 6 then 6 else if w = 4 then 4 else 8

/-- Vector `i` of an operand: elements i × Kmax to i × Kmax + k - 1 of the packed sequence (R174). -/
def operandVec (e : EFmt) (km k : Nat) (bitsStr : Nat) (i : Nat) : List Nat :=
  unpack e.width k (bitsStr / 2 ^ (e.width * (i * km)))

/-- The scale codes of vector `i` of a side: 16 bytes from `base + 16 i` of the scale row; none for an unblocked side (R175). -/
def sideScales (blk : Bool) (sc : Row) (base i : Nat) : List Nat := if blk then rowBytes sc (base + 16 * i) 16 else []

/-- The mode field of MMA (R173). -/
structure MmaMode where
  fmtA : Nat
  fmtB : Nat
  pass : Nat
  zero : Bool
  scaleA : Bool
  scaleB : Bool
  keepB : Bool
deriving DecidableEq, Repr

def mmaMode (m : Nat) : MmaMode := ⟨bits m 13 10, bits m 9 6, bits m 5 4, bit m 3, bit m 2, bit m 1, bit m 0⟩

/-- The 64 elements of an MMA, row by row: code and flags (R64 to R72, R174, R175). -/
def mmaElems (strict : Bool) (mode : DotMode) (m : MmaMode) (fa fb : EFmt) (k : Nat) (aStr bStr : Nat) (scA scB : Row)
    (acc : List Nat) : List FRes :=
  (upto 8).flatMap fun i => (upto 8).map fun j =>
    let a : DotSide := ⟨fa, operandVec fa (kMax fa) k aStr i, sideScales m.scaleA scA 0 i⟩
    let b : DotSide := ⟨fb, operandVec fb (kMax fb) k bStr j, sideScales m.scaleB scB 128 j⟩
    let c := if m.zero then 0 else acc.getD (8 * i + j) 0 % 2 ^ (if mode = .fp64 then 64 else 32)
    dotRun strict mode m.pass a b c

/-- A checksum mismatch (R93): MISMATCH, COUNT, the tile waits for its test (R55), and the job's work stops. -/
def abftMismatch (d : Dev) (t : Nat) : Dev :=
  tileFault (awaitTest ((d.setFld tileAbftStatusMismatch 1 t).incFld tileAbftCountCount t) t) t stChecksum

/-- The modes whose array products the checking lane verifies: every 8-bit float and integer product, in fast and in strict mode
(R91, R92). -/
def checksummed (mode : DotMode) : Bool := mode = .integer || mode = .eight

/-- A KEEPB MMA has a captured operand that matches it (R176). -/
def keepMatches (x : Tile) (m : MmaMode) (k : Nat) : Bool :=
  match x.capB with
  | none => false
  | some c => c.fmt = m.fmtB && c.k = k && c.scaleB = m.scaleB

/-- The row reads of an MMA: A, then B unless KEEPB, then the scale row if a side is blocked (R177). -/
def mmaReqs (f : Fields) (m : MmaMode) (fa fb : EFmt) (ra rb sr : Nat) : List RowReq :=
  [⟨f.h1, (upto (operandRows fa.width)).map (ra + ·), false⟩] ++
    (if m.keepB then [] else [⟨f.h2, (upto (operandRows fb.width)).map (rb + ·), false⟩]) ++
    (if (m.scaleA || (m.scaleB && !m.keepB)) then [⟨f.h3, [sr], false⟩] else [])

/-- MMA: accD := accD + A × B, or A × B from zero (R173). `abft` says that the checking lane found a mismatch. -/
def execMma (t : Nat) (f : Fields) (a : Access) (abft : Bool) (s : State) : Out :=
  onDev (issue t 0x5 0x00 f fun d =>
    let x := d.tile t
    let m := mmaMode f.mode
    let c := (x.xr f.rc).toNat
    let k := bits c 9 0
    let sr := bits c 29 16
    let ra := (x.xr f.ra).toNat
    let rb := (x.xr f.rb).toNat
    match efmtOf m.fmtA, efmtOf m.fmtB with
    | some fa, some fb =>
      match dotMode fa fb m.scaleA m.scaleB with
      | none => .illegal
      | some mode =>
        if 8 ≤ f.rd.toNat ∨ bits c 15 10 ≠ 0 ∨ bits c 63 30 ≠ 0 ∨ k = 0 ∨ dotKMax fa fb < k ∨
            ((m.scaleA ∨ m.scaleB) ∧ k % 32 ≠ 0) ∨ (fa.width = 6 ∧ ra % 3 ≠ 0) ∨ (fb.width = 6 ∧ !m.keepB ∧ rb % 3 ≠ 0) ∨
            (mode = .multi ∧ m.pass = 0) ∨ (mode ≠ .multi ∧ m.pass ≠ 0) ∨ (m.keepB ∧ !keepMatches x m k) then .illegal
        else
          let reqs := mmaReqs f m fa fb ra rb sr
          withRows d t reqs a fun d =>
            let strict := d.tileStrict t
            if abft && checksummed mode then .stall (abftMismatch d t)
            else
              let x := d.tile t
              let aRows := (upto (operandRows fa.width)).map fun i => x.rowData (x.hnd f.h1) (ra + i)
              let bNew := (upto (operandRows fb.width)).map fun i => x.rowData (x.hnd f.h2) (rb + i)
              let sNew := if m.scaleA || m.scaleB then x.rowData (x.hnd f.h3) sr else 0
              let cap : CapturedB :=
                if m.keepB then x.capB.getD ⟨0, 0, false, [], 0⟩ else ⟨m.fmtB, k, m.scaleB, bNew, sNew⟩
              let rs := mmaElems strict mode m fa fb k (rowsNat aRows) (rowsNat cap.rows) sNew cap.scaleRow
                (rowElems 64 (x.ar f.rd.toNat))
              let x := reqs.foldl (fun x q => x.afterReads (x.hnd q.hn) false q.rows) x
              let x := { x.aw f.rd.toNat (rowOf 64 (rs.map (·.1))) with capB := some cap }
              .done (raise (d.setTile t x) t (rs.map fun r =>
                (r.2, mode ≠ .integer && (decodeNum mode.acc r.1).isNan)))
    | _, _ => .illegal) s

/-- ACCZ: every element of accD := +0 (R173). -/
def execAccz (t : Nat) (f : Fields) (s : State) : Out :=
  onDev (issue t 0x5 0x01 f fun d =>
    if 8 ≤ f.rd.toNat then .illegal else .done (d.updTile t fun x => x.aw f.rd.toNat 0)) s

end Sys2Proof.Machine
end

