-- ==== Sys2Proof/Machine/Scalar.lean ====
section
/-! DEFINITION. The SCALAR and BRANCH instructions (R164, R165, R166, R94, R95). -/

namespace Sys2Proof.Machine

/-- xD := xA + xB modulo 2^64 (R164). -/
def execAdd (t : Nat) (imm : Bool) (f : Fields) (s : State) : Out := onDev (scalarInt t 0x00 imm f (fun a b => a + b)) s

/-- xD := xA - xB modulo 2^64 (R164). -/
def execSub (t : Nat) (imm : Bool) (f : Fields) (s : State) : Out := onDev (scalarInt t 0x01 imm f (fun a b => a - b)) s

/-- xD := xA AND xB (R164). -/
def execAndI (t : Nat) (imm : Bool) (f : Fields) (s : State) : Out := onDev (scalarInt t 0x02 imm f (fun a b => a &&& b)) s

/-- xD := xA OR xB (R164). -/
def execOrI (t : Nat) (imm : Bool) (f : Fields) (s : State) : Out := onDev (scalarInt t 0x03 imm f (fun a b => a ||| b)) s

/-- xD := xA XOR xB (R164). -/
def execXor (t : Nat) (imm : Bool) (f : Fields) (s : State) : Out := onDev (scalarInt t 0x04 imm f (fun a b => a ^^^ b)) s

/-- shift left by xB[5:0] (R164). -/
def execSll (t : Nat) (imm : Bool) (f : Fields) (s : State) : Out := onDev (scalarInt t 0x05 imm f (fun a b => a <<< (b.toNat % 64))) s

/-- logical shift right by xB[5:0] (R164). -/
def execSrl (t : Nat) (imm : Bool) (f : Fields) (s : State) : Out := onDev (scalarInt t 0x06 imm f (fun a b => a >>> (b.toNat % 64))) s

/-- arithmetic shift right by xB[5:0] (R164). -/
def execSra (t : Nat) (imm : Bool) (f : Fields) (s : State) : Out := onDev (scalarInt t 0x07 imm f (fun a b => a.sshiftRight (b.toNat % 64))) s

/-- signed xA < xB (R164). -/
def execSlt (t : Nat) (imm : Bool) (f : Fields) (s : State) : Out := onDev (scalarInt t 0x08 imm f (fun a b => if a.slt b then 1 else 0)) s

/-- unsigned xA < xB (R164). -/
def execSltu (t : Nat) (imm : Bool) (f : Fields) (s : State) : Out := onDev (scalarInt t 0x09 imm f (fun a b => if a.ult b then 1 else 0)) s

/-- low half of the product (R95) (R164). -/
def execMul (t : Nat) (imm : Bool) (f : Fields) (s : State) : Out := onDev (scalarInt t 0x0A imm f (fun a b => a * b)) s

/-- signed high half (R95) (R164). -/
def execMulh (t : Nat) (imm : Bool) (f : Fields) (s : State) : Out := onDev (scalarInt t 0x0B imm f (mulhs64)) s

/-- unsigned high half (R95) (R164). -/
def execMulhu (t : Nat) (imm : Bool) (f : Fields) (s : State) : Out := onDev (scalarInt t 0x0C imm f (mulhu64)) s

/-- signed quotient (R94) (R164). -/
def execDiv (t : Nat) (imm : Bool) (f : Fields) (s : State) : Out := onDev (scalarInt t 0x0D imm f (sdiv64)) s

/-- unsigned quotient (R94) (R164). -/
def execDivu (t : Nat) (imm : Bool) (f : Fields) (s : State) : Out := onDev (scalarInt t 0x0E imm f (udiv64)) s

/-- signed remainder (R94) (R164). -/
def execRem (t : Nat) (imm : Bool) (f : Fields) (s : State) : Out := onDev (scalarInt t 0x0F imm f (srem64)) s

/-- unsigned remainder (R94) (R164). -/
def execRemu (t : Nat) (imm : Bool) (f : Fields) (s : State) : Out := onDev (scalarInt t 0x10 imm f (urem64)) s

/-- xD := (EXT << 32) OR xA[31:0] (R164). -/
def execLih (t : Nat) (f : Fields) (s : State) : Out :=
  onDev (issue t 0x0 0x91 f fun d => .done (d.updTile t fun x => x.xw f.rd (f.ext ++ (x.xr f.ra).truncate 32))) s

/-- FP32 addition (R164). -/
def execFaddS (t : Nat) (f : Fields) (s : State) : Out := onDev (scalarFp t 0x20 f fp32 (fun a b _ => fadd fp32 a b)) s

/-- FP32 subtraction (R164). -/
def execFsubS (t : Nat) (f : Fields) (s : State) : Out := onDev (scalarFp t 0x21 f fp32 (fun a b _ => fsub fp32 a b)) s

/-- FP32 multiplication (R164). -/
def execFmulS (t : Nat) (f : Fields) (s : State) : Out := onDev (scalarFp t 0x22 f fp32 (fun a b _ => fmul fp32 a b)) s

/-- FP32 xA × xB + xC with one rounding (R164). -/
def execFmaS (t : Nat) (f : Fields) (s : State) : Out := onDev (scalarFp t 0x23 f fp32 (fun a b c => ffma fp32 a b c)) s

/-- FP32 division (R164). -/
def execFdivS (t : Nat) (f : Fields) (s : State) : Out := onDev (scalarFp t 0x24 f fp32 (fun a b _ => fdiv fp32 a b)) s

/-- FP32 square root (R164). -/
def execFsqrtS (t : Nat) (f : Fields) (s : State) : Out := onDev (scalarFp t 0x25 f fp32 (fun a _ _ => fsqrt fp32 a)) s

/-- FP32 minimum (R77) (R164). -/
def execFminS (t : Nat) (f : Fields) (s : State) : Out := onDev (scalarFp t 0x26 f fp32 (fun a b _ => fminmax fp32 false a b)) s

/-- FP32 maximum (R77) (R164). -/
def execFmaxS (t : Nat) (f : Fields) (s : State) : Out := onDev (scalarFp t 0x27 f fp32 (fun a b _ => fminmax fp32 true a b)) s

/-- FP32 compare for equal (R76). -/
def execFeqS (t : Nat) (f : Fields) (s : State) : Out := onDev (scalarCmp t 0x28 f fp32 numEq) s

/-- FP32 compare for less-than (R76). -/
def execFltS (t : Nat) (f : Fields) (s : State) : Out := onDev (scalarCmp t 0x29 f fp32 numLt) s

/-- FP32 compare for less-or-equal (R76). -/
def execFleS (t : Nat) (f : Fields) (s : State) : Out := onDev (scalarCmp t 0x2A f fp32 numLe) s

/-- FP64 addition (R164). -/
def execFaddD (t : Nat) (f : Fields) (s : State) : Out := onDev (scalarFp t 0x30 f fp64 (fun a b _ => fadd fp64 a b)) s

/-- FP64 subtraction (R164). -/
def execFsubD (t : Nat) (f : Fields) (s : State) : Out := onDev (scalarFp t 0x31 f fp64 (fun a b _ => fsub fp64 a b)) s

/-- FP64 multiplication (R164). -/
def execFmulD (t : Nat) (f : Fields) (s : State) : Out := onDev (scalarFp t 0x32 f fp64 (fun a b _ => fmul fp64 a b)) s

/-- FP64 xA × xB + xC with one rounding (R164). -/
def execFmaD (t : Nat) (f : Fields) (s : State) : Out := onDev (scalarFp t 0x33 f fp64 (fun a b c => ffma fp64 a b c)) s

/-- FP64 division (R164). -/
def execFdivD (t : Nat) (f : Fields) (s : State) : Out := onDev (scalarFp t 0x34 f fp64 (fun a b _ => fdiv fp64 a b)) s

/-- FP64 square root (R164). -/
def execFsqrtD (t : Nat) (f : Fields) (s : State) : Out := onDev (scalarFp t 0x35 f fp64 (fun a _ _ => fsqrt fp64 a)) s

/-- FP64 minimum (R77) (R164). -/
def execFminD (t : Nat) (f : Fields) (s : State) : Out := onDev (scalarFp t 0x36 f fp64 (fun a b _ => fminmax fp64 false a b)) s

/-- FP64 maximum (R77) (R164). -/
def execFmaxD (t : Nat) (f : Fields) (s : State) : Out := onDev (scalarFp t 0x37 f fp64 (fun a b _ => fminmax fp64 true a b)) s

/-- FP64 compare for equal (R76). -/
def execFeqD (t : Nat) (f : Fields) (s : State) : Out := onDev (scalarCmp t 0x38 f fp64 numEq) s

/-- FP64 compare for less-than (R76). -/
def execFltD (t : Nat) (f : Fields) (s : State) : Out := onDev (scalarCmp t 0x39 f fp64 numLt) s

/-- FP64 compare for less-or-equal (R76). -/
def execFleD (t : Nat) (f : Fields) (s : State) : Out := onDev (scalarCmp t 0x3A f fp64 numLe) s

/-- One conversion of FCVT (R44): the result as xD holds it, and its effect; none for a pair that FCVT does not accept.
(DEDUCED, notes/assumptions/13.) -/
def fcvtRes (src dst : EFmt) (v : U64) : Option (U64 × ElemFx) :=
  match src, dst with
  | .fl a, .fl b =>
    if (a = fp64 ∨ a = fp32) ∧ (b = fp64 ∨ b = fp32) ∧ ¬(a = fp64 ∧ b = fp64) then
      let r := fconv a b (v.toNat % 2 ^ a.width)
      some (BitVec.ofNat 64 r.1, elemOf b r)
    else none
  | .fl a, .int true w =>
    if (a = fp32 ∧ w = 32) ∨ (a = fp64 ∧ (w = 32 ∨ w = 64)) then
      let r := fToInt a w (v.toNat % 2 ^ a.width)
      some (BitVec.ofNat 64 (unsx w r.1), (r.2, false))
    else none
  | .int true w, .fl b =>
    if (w = 32 ∧ (b = fp32 ∨ b = fp64)) ∨ (w = 64 ∧ b = fp64) then
      let r := intToF b (sx w v.toNat)
      some (BitVec.ofNat 64 r.1, elemOf b r)
    else none
  | _, _ => none

/-- xD := xA converted from EXT[3:0] to EXT[7:4] (R164). -/
def execFcvt (t : Nat) (f : Fields) (s : State) : Out :=
  onDev (issue t 0x0 0x40 f fun d =>
    match efmtOf (f.e 3 0), efmtOf (f.e 7 4) with
    | some a, some b =>
      match fcvtRes a b ((d.tile t).xr f.ra) with
      | some r => .done (raise (d.updTile t fun x => x.xw f.rd r.1) t [r.2])
      | none => .illegal
    | _, _ => .illegal) s

/-- The target of a relative branch (R165). -/
def branchTarget (pc : U32) (f : Fields) : U32 := pc + 8 * f.ext

/-- A conditional branch on xA and xB (R165). -/
def branch (t : Nat) (op : Nat) (f : Fields) (p : U64 → U64 → Bool) : Dev → Dev :=
  issue t 0x1 op f fun d =>
    let x := d.tile t
    if p (x.xr f.ra) (x.xr f.rb) then .jump d (branchTarget x.pc f) else .done d

/-- BEQ (R165). -/
def execBeq (t : Nat) (f : Fields) (s : State) : Out := onDev (branch t 0x00 f (fun a b => a == b)) s

/-- BNE (R165). -/
def execBne (t : Nat) (f : Fields) (s : State) : Out := onDev (branch t 0x01 f (fun a b => a != b)) s

/-- BLT (R165). -/
def execBlt (t : Nat) (f : Fields) (s : State) : Out := onDev (branch t 0x02 f (fun a b => a.slt b)) s

/-- BGE (R165). -/
def execBge (t : Nat) (f : Fields) (s : State) : Out := onDev (branch t 0x03 f (fun a b => !a.slt b)) s

/-- BLTU (R165). -/
def execBltu (t : Nat) (f : Fields) (s : State) : Out := onDev (branch t 0x04 f (fun a b => a.ult b)) s

/-- BGEU (R165). -/
def execBgeu (t : Nat) (f : Fields) (s : State) : Out := onDev (branch t 0x05 f (fun a b => !a.ult b)) s

/-- xD := PC + 8; branch (R165). -/
def execJal (t : Nat) (f : Fields) (s : State) : Out :=
  onDev (issue t 0x1 0x08 f fun d =>
    let x := d.tile t
    .jump (d.setTile t (x.xw f.rd ((x.pc + 8).zeroExtend 64))) (branchTarget x.pc f)) s

/-- PC := xA; a target that is not a multiple of 8 or lies outside the code is illegal (R163, R165). -/
def execJr (t : Nat) (f : Fields) (s : State) : Out :=
  onDev (issue t 0x1 0x09 f fun d =>
    let x := d.tile t
    let a := (x.xr f.ra).toNat
    if a % 8 = 0 ∧ a / 8 < x.codeLen then .jump d (BitVec.ofNat 32 a) else .illegal) s

end Sys2Proof.Machine
end

