-- ==== Sys2Proof/Machine/CodeCheck.lean ====
section
/-! DEFINITION. The checks that LOAD_IMAGE makes of every instruction of a tile's code (R162). -/

namespace Sys2Proof.Machine

/-- What an operation uses of its word: register fields, whether RD names an accumulator, the bits of EXT, and the handle fields
that name a handle of the tile (R158, R160). Everything else is RSVD. -/
structure OpRule where
  rd : Bool
  ra : Bool
  rb : Bool
  rc : Bool
  ext : Nat
  hs : List Nat := []
  acc : Bool := false

/-- EXT bits of H1, H2 and H3. -/
def extH1 : Nat := 0xFC000000
def extH2 : Nat := 0x03F00000
def extH3 : Nat := 0x000FC000

/-- SCALAR (R164). -/
def scalarRule (op : Nat) : Option OpRule :=
  if op ≤ 0x10 then some ⟨true, true, true, false, 0, [], false⟩
  else if (0x80 ≤ op ∧ op ≤ 0x90) ∨ op = 0x91 then some ⟨true, true, false, false, 0xFFFFFFFF, [], false⟩
  else if op = 0x40 then some ⟨true, true, false, false, 0xFF, [], false⟩
  else if (0x20 ≤ op ∧ op ≤ 0x2A) ∨ (0x30 ≤ op ∧ op ≤ 0x3A) then
    match op % 16 with
    | 3 => some ⟨true, true, true, true, 0, [], false⟩
    | 5 => some ⟨true, true, false, false, 0, [], false⟩
    | _ => some ⟨true, true, true, false, 0, [], false⟩
  else none

/-- BRANCH (R165). -/
def branchRule (op : Nat) : Option OpRule :=
  match op with
  | 0x00 | 0x01 | 0x02 | 0x03 | 0x04 | 0x05 => some ⟨false, true, true, false, 0xFFFFFFFF, [], false⟩
  | 0x08 => some ⟨true, false, false, false, 0xFFFFFFFF, [], false⟩
  | 0x09 => some ⟨false, true, false, false, 0, [], false⟩
  | 0x0F => some ⟨false, false, false, false, 0, [], false⟩
  | _ => none

/-- LDST (R167). -/
def ldstRule (op : Nat) : Option OpRule :=
  match op with
  | 0x00 => some ⟨true, true, false, false, extH1 + 1, [1], false⟩
  | 0x01 => some ⟨true, true, false, false, extH1, [1], false⟩
  | 0x02 => some ⟨true, true, false, false, extH1 + 7, [1], false⟩
  | 0x03 => some ⟨true, true, true, false, extH1 + 0x3D, [1], false⟩
  | 0x04 => some ⟨true, true, false, false, extH1 + 3, [1], true⟩
  | 0x05 => some ⟨true, true, false, false, extH1 + 2, [1], true⟩
  | 0x06 => some ⟨false, true, true, false, extH1, [1], false⟩
  | _ => none

/-- VECTOR (R168 to R170). -/
def vectorRule (op : Nat) : Option OpRule :=
  match op with
  | 0x03 | 0x09 => some ⟨true, true, true, true, 0, [], false⟩
  | 0x00 | 0x01 | 0x02 | 0x04 | 0x05 | 0x06 | 0x07 | 0x08 | 0x0A | 0x0B | 0x0C | 0x0D =>
    some ⟨true, true, true, false, 0, [], false⟩
  | 0x10 | 0x11 | 0x12 | 0x13 | 0x18 | 0x1B => some ⟨true, true, false, false, 0, [], false⟩
  | 0x19 | 0x1A | 0x20 | 0x21 => some ⟨true, true, false, false, 0x7F, [], false⟩
  | 0x22 => some ⟨true, true, true, true, 0x7FFFFF, [], false⟩
  | 0x23 => some ⟨true, true, false, false, 0x1FF, [], false⟩
  | _ => none

/-- CONVERT (R171) and ARRAY (R173). -/
def convertRule (op : Nat) : Option OpRule :=
  match op with
  | 0x00 => some ⟨true, true, true, true, 0x0FFFFFFF, [], false⟩
  | 0x01 => some ⟨true, true, false, true, 0x0FFFE0FF, [], false⟩
  | _ => none

def arrayRule (op : Nat) : Option OpRule :=
  match op with
  | 0x00 => some ⟨true, true, true, true, 0xFFFFFFFF, [1, 2], true⟩
  | 0x01 => some ⟨true, false, false, false, 0, [], true⟩
  | _ => none

/-- FABRIC (R180), SYNC (R178). The handles of another tile are named by its own list, checked at its ingress (R115). -/
def fabricRule (op : Nat) : Option OpRule :=
  match op with
  | 0x00 | 0x01 => some ⟨false, true, true, false, extH1 + extH2 + 0x3FF8, [1], false⟩
  | 0x02 => some ⟨false, true, true, true, extH2 + 0x3FF8, [], false⟩
  | 0x03 => some ⟨false, true, true, true, extH2 + extH3 + 0x3FF8, [], false⟩
  | 0x04 => some ⟨false, true, false, false, 0x3FF8, [], false⟩
  | _ => none

def syncRule (op : Nat) : Option OpRule :=
  match op with
  | 0x00 => some ⟨true, true, true, false, 0x1F, [], false⟩
  | 0x01 | 0x02 | 0x03 => some ⟨false, false, false, false, 0, [], false⟩
  | _ => none

/-- STATE (R186). -/
def stateRule (op : Nat) : Option OpRule :=
  match op with
  | 0x00 | 0x07 | 0x10 | 0x11 => some ⟨true, false, false, false, 0, [], false⟩
  | 0x01 => some ⟨false, false, false, false, 0x3F, [], false⟩
  | 0x02 | 0x12 => some ⟨op = 0x12, false, false, false, 0x1F, [], false⟩
  | 0x03 => some ⟨true, false, false, false, 7, [], false⟩
  | 0x04 => some ⟨false, false, false, false, 0xFF, [], false⟩
  | 0x05 => some ⟨true, false, false, false, 3, [], false⟩
  | 0x06 => some ⟨false, false, false, false, 7, [], false⟩
  | _ => none

/-- ASSIST and ATTEND (R187, R205, R556, R280, R283). -/
def assistRule (op : Nat) : Option OpRule :=
  match op with
  | 0x00 => some ⟨true, true, true, true, extH1 + extH2 + 0xBF, [1, 2], false⟩
  | 0x01 => some ⟨false, true, true, false, extH1 + extH2 + 0xFF, [1, 2], false⟩
  | _ => none

def attendRule (op : Nat) : Option OpRule :=
  match op with
  | 0x00 => some ⟨false, true, true, false, extH1 + 0x3E07, [1], false⟩
  | 0x01 => some ⟨false, true, true, false, extH1 + 0x1F8, [1], false⟩
  | _ => none

/-- The rule of a class and operation; none where undefined (R159). -/
def opRule (cls op : Nat) : Option OpRule :=
  match cls with
  | 0x0 => scalarRule op
  | 0x1 => branchRule op
  | 0x2 => ldstRule op
  | 0x3 => vectorRule op
  | 0x4 => convertRule op
  | 0x5 => arrayRule op
  | 0x6 => fabricRule op
  | 0x7 => syncRule op
  | 0x8 => stateRule op
  | 0x9 => assistRule op
  | 0xA => attendRule op
  | _ => none

/-- FP32 with FP32, whose pass count is part of the pair. -/
def isFp32Pair (a b : EFmt) : Bool := a = .fl fp32 && b = .fl fp32

/-- VDOT's format pair, passes, K and scale register (R169). A K of 0 or above Kmax, and one that is not a multiple of 32 beside a blocked
side, stand in neither R162 nor R163: the model refuses the code at LOAD_IMAGE (DESIGN CHOICE, notes/assumptions/129). -/
def vdotOk (f : Fields) : Bool :=
  match efmtOf (f.e 3 0), efmtOf (f.e 7 4) with
  | some a, some b =>
    let ba := bit f.ext.toNat 19
    let bb := bit f.ext.toNat 20
    let k := f.e 17 8
    (dotMode a b ba bb).isSome && (isFp32Pair a b || f.e 22 21 = 0) && decide (1 ≤ k ∧ k ≤ dotKMax a b) &&
      (!(ba || bb) || k % 32 = 0) && (ba || bb || f.rc = 0)
  | _, _ => false

/-- VCVT's pair and half (R170). -/
def vcvtOk (f : Fields) : Bool :=
  match efmtOf (f.e 3 0), efmtOf (f.e 7 4) with
  | some a, some b => (vcvtElem a b 0).isSome && (!bit f.ext.toNat 8 || a.width = 16 || b.width = 16)
  | _, _ => false

/-- CVTB and DCVB: formats, block position, scale byte, registers (R171, R172). A B0 or SB beyond its limit stands in neither R162 nor
R163: the model refuses the code at LOAD_IMAGE (DESIGN CHOICE, notes/assumptions/129). -/
def blockOk (op : Nat) (f : Fields) : Bool :=
  let wide := efmtOf (if op = 0 then f.e 3 0 else f.e 7 4)
  let short := efmtOf (if op = 0 then f.e 7 4 else f.e 3 0)
  match wide, short with
  | some (.fl w), some (.fl s) =>
    let n := if w = fp32 then 4 else 8
    isLong w && isShort s && decide (f.e 18 13 + n ≤ blockLimit s.width) && decide (f.e 27 19 + n ≤ 512) &&
      (s.width ≠ 6 || decide ((if op = 0 then f.rd else f.ra).toNat ≤ 29)) &&
      (op ≠ 0 || ((bit f.ext.toNat 8 || !bit f.ext.toNat 9) && (f.rb = 0 || (bit f.ext.toNat 8 && !bit f.ext.toNat 9))))
  | _, _ => false

/-- MMA's pair, passes and scale handle (R173, R174). -/
def mmaOk (valid : Nat → Bool) (f : Fields) : Bool :=
  match efmtOf (bits f.mode 13 10), efmtOf (bits f.mode 9 6) with
  | some a, some b =>
    let sc := bit f.mode 2 || bit f.mode 1
    (dotMode a b (bit f.mode 2) (bit f.mode 1)).isSome && (if isFp32Pair a b then bits f.mode 5 4 ≠ 0 else bits f.mode 5 4 = 0) &&
      (if sc then valid f.h3 else f.h3 = 0)
  | _, _ => false

/-- The checks of one operation beyond its rule; `pc` is its instruction's index among `n`. -/
def opDetail (n pc cls op : Nat) (valid : Nat → Bool) (f : Fields) : Bool :=
  match cls, op with
  | 0x0, 0x40 => match efmtOf (f.e 3 0), efmtOf (f.e 7 4) with
    | some a, some b => (fcvtRes a b 0).isSome
    | _, _ => false
  | 0x1, _ =>
    op = 0x09 || op = 0x0F ||
      (let target := (pc : Int) + sx 32 f.ext.toNat
       decide (0 ≤ target ∧ target < n))
  | 0x2, 0x02 => decide (f.rd.toNat ≤ 24)
  | 0x2, 0x03 => decide (f.rd.toNat + f.e 5 2 ≤ 31)
  | 0x3, 0x22 => vdotOk f
  | 0x3, 0x23 => vcvtOk f
  | 0x4, _ => blockOk op f
  | 0x5, 0x00 => mmaOk valid f
  | 0x8, 0x05 => f.e 1 0 ≠ 3
  | _, _ => true

/-- R162 for one instruction word. R160 makes RSVD the MODE bits that a class does not use; the handle fields H1 to H3 that an operation
does not use the model takes as RSVD too (DESIGN CHOICE, notes/assumptions/129). -/
def instrOk (n pc role : Nat) (valid : Nat → Bool) (w : U64) : Bool :=
  let e := wordFields w
  let f := e.2.2
  match opRule e.1 e.2.1 with
  | none => false
  | some r =>
    (r.rd || f.rd = 0) && (r.ra || f.ra = 0) && (r.rb || f.rb = 0) && (r.rc || f.rc = 0) && (!r.acc || decide (f.rd.toNat < 8)) &&
      decide (f.ext.toNat &&& (0xFFFFFFFF - r.ext) = 0) &&
      (r.hs.all fun k => valid (if k = 1 then f.h1 else f.h2)) &&
      (if e.1 = 0x9 then role = 2 else if e.1 = 0xA then role = 3 else true) && opDetail n pc e.1 e.2.1 valid f

/-- R162 for a tile's code. -/
def codeOk (role : Nat) (valid : Nat → Bool) (code : List U64) : Bool :=
  decide (code.length ≤ 16384) && (code.zip (upto code.length)).all fun e => instrOk code.length e.2 role valid e.1

end Sys2Proof.Machine
end

