-- ==== Sys2Proof/Machine/Image.lean ====
section
/-! DEFINITION. The Onaniti image: its container, its sections and the checks that LOAD_IMAGE makes (R114, R162, R195 to R197,
R233, R235, R249, R317 to R321). -/

namespace Sys2Proof.Machine

/-- A directory entry (R318). -/
structure Section where
  type : Nat
  lt : Nat
  off : Nat
  len : Nat
deriving DecidableEq, Repr

/-- The types of R318: image-wide and per tile. -/
def wideTypes : List Nat := [0x0001, 0x0002, 0x0003, 0x0020, 0x0021]
def tileTypes : List Nat := [0x0010, 0x0011, 0x0012]

def sectionAt (b : List Byte) (k : Nat) : Section :=
  let e := (b.drop (128 + 16 * k)).take 16
  ⟨recLe e 0 2, recLe e 2 2, recLe e 8 4, recLe e 12 4⟩

/-- Two sections share a byte. -/
def sectionsMeet (x y : Section) : Bool := decide (x.off < y.off + y.len) && decide (y.off < x.off + x.len)

/-- No two of a list of sections overlap, and none has the type and tile of another. -/
def sectionsApart : List Section → Bool
  | [] => true
  | x :: l => (l.all fun y => !sectionsMeet x y && !(x.type = y.type && x.lt = y.lt)) && sectionsApart l

/-- A directory entry by itself (R317 to R319). -/
def sectionOk (b : List Byte) (n k : Nat) : Bool :=
  let s := sectionAt b k
  recZero b (128 + 16 * k + 4) 4 && (if wideTypes.contains s.type then s.lt = 0xFFFF else tileTypes.contains s.type && decide (s.lt < 128)) &&
    s.off % 64 = 0 && decide (128 + 16 * n ≤ s.off) && decide (s.off + s.len ≤ b.length)

/-- The directory of an image whose header and directory pass R317 to R319. -/
def imageDirectory (b : List Byte) : Option (List Section) :=
  let n := recLe b 6 2
  if b.length < 128 || recLe b 0 4 ≠ 1 || recLe b 4 1 ≠ 1 || recLe b 5 1 ≠ 0 || n = 0 || decide (1024 < n) || recLe b 8 8 ≠ b.length ||
      !recZero b 24 40 || decide (b.length < 128 + 16 * n) || sha512 (b.drop 128) ≠ (b.drop 64).take 64 then none
  else if !((upto n).all (sectionOk b n)) then none
  else
    let l := (upto n).map (sectionAt b)
    if sectionsApart l then some l else none

/-- The bytes of a section, if the image has it. -/
def sectionOf (b : List Byte) (l : List Section) (type lt : Nat) : Option (List Byte) :=
  (l.find? fun s => s.type = type && s.lt = lt).map fun s => (b.drop s.off).take s.len

/-! ### HANDLES (R110, R113, R114, R318) -/

/-- An entry's RSVD bits, and the fields that R318 requires to be 0. -/
def handleBitsOk (e : BitVec 128) : Bool :=
  let n := e.toNat
  let h := hndOf e
  if !h.valid then n = 0
  else
    !bit n 7 && !bit n 15 && bits n 31 30 = 0 && bits n 47 41 = 0 && bits n 55 52 = 0 && bits n 95 81 = 0 && h.baseRow = 0 &&
      decide (h.kind < 2) && decide (1 ≤ h.rows ∧ h.rows ≤ 8192) &&
      (if h.kind = 0 then h.group = 0 && h.maddr = 0 && !bit n 127 else h.firstBank = 0 && h.bankLog2 = 0) &&
      (h.guarded || (h.slotLog2 = 0 && h.slotBase = 0 && h.timeout = 0))

/-- The slots of a guarded handle. -/
def Hnd.slots (h : Hnd) : Nat := h.rows / 2 ^ h.slotLog2

/-- R110 and R114 for one valid entry; a cached handle lies within the image's memory region. -/
def handleShapeOk (ddr canopy : Nat) (e : BitVec 128) : Bool :=
  let h := hndOf e
  !h.valid ||
    ((if h.kind = 0 then
        decide (h.bankLog2 ≤ 4) && h.firstBank % 2 ^ h.bankLog2 = 0 && h.rows % 2 ^ h.bankLog2 = 0 &&
          decide (h.rows / 2 ^ h.bankLog2 ≤ 512)
      else decide (512 * (h.maddr + h.rows) ≤ if bit e.toNat 127 then canopy else ddr)) &&
     (!h.guarded ||
        (decide (h.slotLog2 ≤ 13) && h.rows % 2 ^ h.slotLog2 = 0 && decide (1 ≤ h.slots ∧ h.slots ≤ 64) &&
          decide (h.slotBase + h.slots ≤ 256) && h.timeout ≠ 0)))

/-- No two guarded handles share a slot-state entry (R114). -/
def slotsApart : List Hnd → Bool
  | [] => true
  | x :: l => (l.all fun y => decide (x.slotBase + x.slots ≤ y.slotBase) || decide (y.slotBase + y.slots ≤ x.slotBase)) && slotsApart l

/-- The valid local handles that map bank `b`. -/
def mapsBank (h : Hnd) (b : Nat) : Bool :=
  h.valid && h.kind = 0 && decide (h.firstBank ≤ b) && decide (b < h.firstBank + 2 ^ h.bankLog2)

/-- Bank rows that the handles of a list take in bank `b` (R114). -/
def bankUse (l : List Hnd) (b : Nat) : Nat := ((l.filter fun h => mapsBank h b).map fun h => h.rows / 2 ^ h.bankLog2).foldl (· + ·) 0

/-- A handle list that R110, R113, R114 and R318 accept. -/
def handlesOk (ddr canopy : Nat) (l : List (BitVec 128)) : Bool :=
  l.all handleBitsOk && l.all (handleShapeOk ddr canopy) &&
    slotsApart ((l.map hndOf).filter fun h => h.valid && h.guarded) && (upto 16).all fun b => decide (bankUse (l.map hndOf) b ≤ 512)

/-- The HANDLES section: DIAG mask and entries. -/
def parseHandles (o : Option (List Byte)) : Option (U64 × List (BitVec 128)) :=
  match o with
  | none => some (0, [])
  | some b =>
    if b.length < 1040 || !recZero b 8 8 then none
    else some (BitVec.ofNat 64 (recLe b 0 8), (upto 64).map fun h => BitVec.ofNat 128 (recLe b (16 + 16 * h) 16))

/-! ### CODE and ROWS -/

def noPc : Nat := 0xFFFFFFFF

/-- The CODE section: entry PCs and instructions. -/
def parseCode (o : Option (List Byte)) : Option (List Nat × List U64) :=
  match o with
  | none => some ([], [])
  | some b =>
    if b.length < 256 || b.length % 8 ≠ 0 then none
    else some ((upto 64).map fun e => recLe b (4 * e) 4,
      (upto ((b.length - 256) / 8)).map fun k => BitVec.ofNat 64 (recLe b (256 + 8 * k) 8))

/-- Entry PCs below ENTRIES lie in the code, at an instruction (R319). -/
def entryPcsOk (entries : Nat) (pcs : List Nat) (n : Nat) : Bool :=
  (pcs.take entries).all fun pc => pc = noPc || (pc % 8 = 0 && decide (pc < 8 * n))

/-- The records of a ROWS section: handle, first row, rows. `fuel` bounds their number. -/
def parseRows (hs : List (BitVec 128)) : Nat → List Byte → Option (List (Nat × Nat × List Row))
  | _, [] => some []
  | 0, _ => none
  | n + 1, b =>
    let h := recLe b 0 1
    let first := recLe b 2 2
    let cnt := recLe b 4 2
    let e := hndOf (hs.getD h 0)
    if b.length < 8 + 512 * cnt || recLe b 1 1 ≠ 0 || recLe b 6 2 ≠ 0 || cnt = 0 || decide (8192 < cnt) || !e.valid ||
        decide (e.rows < first + cnt) then none
    else match parseRows hs n (b.drop (8 + 512 * cnt)) with
      | none => none
      | some l => some ((h, first, rowsOfBytes (b.drop 8) cnt) :: l)

/-! ### MEMORY, PLACEMENT, ENTRY_IO -/

/-- The initialisation records of a MEMORY section: store is Canopy, offset, data (R318, R319). -/
def parseInits (ddr canopy : Nat) : Nat → List Byte → Option (List (Bool × Nat × List Byte))
  | _, [] => some []
  | 0, _ => none
  | n + 1, b =>
    let st := recLe b 0 1
    let off := recLe b 8 8
    let len := recLe b 16 8
    let pad := (len + 63) / 64 * 64
    if b.length < 24 + pad || decide (1 < st) || !recZero b 1 7 || decide ((if st = 1 then canopy else ddr) < off + len) then none
    else match parseInits ddr canopy n (b.drop (24 + pad)) with
      | none => none
      | some l => some ((st = 1, off, (b.drop 24).take len) :: l)

/-- The MEMORY section: region sizes and records. -/
def parseMemory (o : Option (List Byte)) : Option (Nat × Nat × List (Bool × Nat × List Byte)) :=
  match o with
  | none => some (0, 0, [])
  | some b =>
    let ddr := recLe b 0 8
    let can := recLe b 8 8
    if b.length < 16 || ddr % 512 ≠ 0 || can % 512 ≠ 0 then none
    else (parseInits ddr can b.length (b.drop 16)).map fun l => (ddr, can, l)

/-- A demand record (R320). -/
def parseDemand (b : List Byte) (e : Nat) : Demand :=
  let o := 16 + 32 * e
  { cyc := recLe b o 4, fab := recLe b (o + 4) 4, canopy := recLe b (o + 8) 8, ddr := recLe b (o + 16) 8,
    plk := recLe b (o + 24) 4, lookups := recLe b (o + 28) 4 }

/-- The placement part: role counts and demand records (R320, R321). -/
def parsePlacement (b : List Byte) : Option (Nat × Nat × Nat × List Demand) :=
  let g := recLe b 0 1
  let s := recLe b 1 1
  let a := recLe b 2 1
  let e := recLe b 3 1
  if b.length < 16 + 32 * e || b.length < 16 || decide (64 < e) || !recZero b 4 12 || g + s + a = 0 || decide (128 < g + s + a) then none
  else some (g, s, a, (upto e).map (parseDemand b))

/-- The role of a logical tile (R321): 1 GENERAL, 2 SOLVE, 3 ATTEND. -/
def roleOf (g s lt : Nat) : Nat := if lt < g then 1 else if lt < g + s then 2 else 3

/-- An ENTRY_IO record (R318). -/
def parseIo (b : List Byte) (e : Nat) : EntryIo :=
  let o := 16 * e
  { argTile := recLe b o 1, argHandle := recLe b (o + 1) 1, argRow := recLe b (o + 2) 2, argRows := recLe b (o + 4) 2,
    argCounter := recLe b (o + 6) 1, outTile := recLe b (o + 7) 1, outHandle := recLe b (o + 8) 1,
    outRow := recLe b (o + 10) 2, outRows := recLe b (o + 12) 2 }

/-- Rows of a handle with a permission exist. -/
def ioRowsOk (ts : List ImgTile) (t h row n : Nat) (perm : Hnd → Bool) : Bool :=
  t = 0xFF ||
    match ts[t]? with
    | none => false
    | some x =>
      let e := hndOf (x.handles.getD h 0)
      e.valid && perm e && decide (1 ≤ n ∧ n ≤ 8192) && decide (row + n ≤ e.rows)

/-- An ENTRY_IO record that R319 accepts. -/
def ioOk (ts : List ImgTile) (b : List Byte) (e : Nat) : Bool :=
  let io := parseIo b e
  recLe b (16 * e + 9) 1 = 0 && recLe b (16 * e + 14) 2 = 0 && (io.argTile = 0xFF || decide (io.argCounter < 32)) &&
    ioRowsOk ts io.argTile io.argHandle io.argRow io.argRows (·.ingress) &&
    ioRowsOk ts io.outTile io.outHandle io.outRow io.outRows (·.egress)

/-! ### TEMPLATES (R195 to R197, R233, R235, R249) -/

/-- Offsets in the image of the template records of a section from `off` to `fin`. -/
def templateOffsets (b : List Byte) (fin : Nat) : Nat → Nat → Option (List Nat)
  | _, 0 => some []
  | off, n + 1 =>
    if fin ≤ off then some []
    else
      let size := 64 + extBytes (recLe b (off + 2) 1)
      if fin < off + size then none
      else (templateOffsets b fin (off + (size + 63) / 64 * 64) n).map fun l => off :: l

/-- The field ranges of R195 and R196. -/
def templateFieldsOk (t : Template) : Bool :=
  decide (t.kind ≤ 2) && decide (t.method ≤ 1) && decide (1 ≤ t.nx ∧ t.nx ≤ 48) && decide (1 ≤ t.nu ∧ t.nu ≤ 16) &&
    decide (1 ≤ t.n ∧ t.n ≤ if t.kind = 1 then 255 else 256) && decide (t.ni ≤ 64) && decide (t.niTerm ≤ 64) && decide (t.np ≤ 32) &&
    decide (t.prec ≤ t.method) && [1, 2, 4, 8].contains t.grove &&
    (if t.method = 0 then decide (t.checkEvery ≤ 64) else [8, 16, 32, 64].contains t.checkEvery) &&
    decide (1 ≤ t.itCapMax ∧ t.itCapMax ≤ if t.method = 0 then 64 else 4096) && decide (t.asmPlace ≤ 1) &&
    !(decide (1 < t.grove) && t.asmPlace = 1) && recLe t.raw 19 1 = 0 && recZero t.raw 56 8

/-- Gate groups lie inside the rows and do not overlap (R235). -/
def groupsOk (ny : Nat) : List (Nat × Nat) → Bool
  | [] => true
  | g :: l =>
    decide (1 ≤ g.2 ∧ g.2 ≤ 32) && decide (g.1 + g.2 ≤ ny) && (l.all fun h => decide (g.1 + g.2 ≤ h.1) || decide (h.1 + h.2 ≤ g.1)) &&
      groupsOk ny l

/-- The extension of KIND 1 (R235). -/
def estExtOk (t : Template) : Bool :=
  let e := t.ext
  let ny := recLe e 0 1
  let ng := recLe e 3 1
  decide (1 ≤ ny ∧ ny ≤ 32) && decide (recLe e 1 1 ≤ 1) && decide (recLe e 2 1 ≤ 1) && decide (ng ≤ 8) &&
    decide (1 ≤ recLe e 4 2 ∧ recLe e 4 2 ≤ 256) && recZero e 6 2 && recZero e 12 4 && recZero e 112 16 &&
    ((upto 8).all fun g => recZero e (18 + 4 * g) 2 && (decide (g < ng) || recZero e (16 + 4 * g) 4)) &&
    ((upto ng).all fun g => f64Pos (recLe e (48 + 8 * g) 8)) &&
    groupsOk ny ((upto ng).map fun g => (recLe e (16 + 4 * g) 1, recLe e (17 + 4 * g) 1)) &&
    (recLe e 1 1 = 0 || (t.n = 1 && t.method = 0))

/-- Branch stages rise strictly within 1 to N - 1 (R249). -/
def branchesRise (n lo : Nat) : List (Nat × Nat) → Bool
  | [] => true
  | b :: l => decide (lo < b.1 ∧ b.1 < n) && decide (2 ≤ b.2 ∧ b.2 ≤ 8) && branchesRise n b.1 l

/-- The extension of KIND 2 (R249, R250). The counts follow from the branch entries. -/
def treeExtOk (t : Template) : Bool :=
  let e := t.ext
  let nb := recLe e 0 1
  let leaves : Nat := (branches t).foldl (fun a b => a * b.2) 1
  decide (1 ≤ nb ∧ nb ≤ 4) && recZero e 6 2 && recZero e 24 8 &&
    ((upto 4).all fun b => recLe e (11 + 4 * b) 1 = 0 && (decide (b < nb) || recZero e (8 + 4 * b) 4)) &&
    branchesRise t.n 0 (branches t) && decide (leaves ≤ 64) && recLe e 1 1 = leaves &&
    recLe e 2 2 = (treeNodes t).length && recLe e 4 2 = vecCount t true && decide (vecCount t true ≤ 8192)

/-- The noise block of every H_k is diagonal (R233). -/
def noiseDiagonal (block : List Byte) (t : Template) : Bool :=
  (upto t.n).all fun k => (upto t.nu).all fun i => (upto t.nu).all fun j =>
    i = j || (Config.coefBase block k Datum.h.num (t.nx + i) (t.nx + j)).isNone

/-- The signature of R197. -/
def templateSignature (block : List Byte) (t : Template) : Nat :=
  recLe (sha512 ((t.raw.drop 2).take 11 ++ block.take (Config.patternLen block) ++ if t.kind = 0 then [] else t.ext)) 0 8

/-- A template record that R196, R197, R233, R235 and R249 accept; its coefficient block lies in the COEFFICIENTS section. -/
def templateOk (b : List Byte) (coefBase coefLen : Nat) (t : Template) : Bool :=
  let block := (b.drop t.coefOffset).take t.coefBytes
  templateFieldsOk t && (if t.kind = 1 then estExtOk t else if t.kind = 2 then treeExtOk t else true) &&
    decide (coefBase ≤ t.coefOffset ∧ t.coefOffset + t.coefBytes ≤ coefBase + coefLen) &&
    Config.coefSizesAgree block t.raw && t.signature = templateSignature block t && (t.kind ≠ 1 || noiseDiagonal block t)

/-- The identifiers of the templates differ (R195). -/
def templatesOk (b : List Byte) (coefBase coefLen : Nat) (l : List Template) : Bool :=
  l.all (templateOk b coefBase coefLen) && decide ((l.map (·.id)).eraseDups.length = l.length)

/-! ### The image -/

/-- What the directory gives a logical tile, checked (R114, R162, R318, R319). -/
def parseTile (b : List Byte) (l : List Section) (g s entries ddr canopy lt : Nat) : Option ImgTile :=
  let role := roleOf g s lt
  let cs := sectionOf b l 0x0010 lt
  let hs := sectionOf b l 0x0011 lt
  if role = 1 && (cs.isNone || hs.isNone) then none
  else match parseCode cs, parseHandles hs with
    | some c, some h =>
      if !handlesOk ddr canopy h.2 || !codeOk role (fun k => (hndOf (h.2.getD k 0)).valid) c.2 ||
          !entryPcsOk entries c.1 c.2.length then none
      else
        let rows := (sectionOf b l 0x0012 lt).getD []
        (parseRows h.2 rows.length rows).map fun r =>
          { role := role, entryPcs := c.1, code := c.2, handles := h.2, diag := h.1, rows := r }
    | _, _ => none

/-- Every element, or none. -/
def allSome {α : Type} : List (Option α) → Option (List α)
  | [] => some []
  | none :: _ => none
  | some x :: l => (allSome l).map fun r => x :: r

/-- The image in `b`, if R319 finds nothing to refuse. -/
def parseImage (num : Nat) (b : List Byte) : Option Image :=
  match imageDirectory b with
  | none => none
  | some l =>
    match (sectionOf b l 0x0001 0xFFFF).bind parsePlacement, parseMemory (sectionOf b l 0x0003 0xFFFF) with
    | some (g, s, a, dem), some mem =>
      let n := g + s + a
      let e := dem.length
      if l.any fun x => x.lt ≠ 0xFFFF && decide (n ≤ x.lt) then none
      else match allSome ((upto n).map (parseTile b l g s e mem.1 mem.2.1)) with
        | none => none
        | some ts =>
          let io := (sectionOf b l 0x0002 0xFFFF)
          let ioBad := match io with
            | none => false
            | some r => decide (r.length < 1024) || !((upto e).all (ioOk ts r))
          let tm := l.find? fun x => x.type = 0x0020
          let co := (l.find? fun x => x.type = 0x0021).map fun x => (x.off, x.len)
          let offs := match tm with
            | none => some []
            | some x => templateOffsets b (x.off + x.len) x.off (x.len / 64 + 1)
          match offs with
          | none => none
          | some offs =>
            let c := co.getD (0, 0)
            if ioBad || !templatesOk b c.1 c.2 (offs.map (parseTemplate b)) then none
            else some
              { num := num, bytes := b, tiles := ts, demands := dem,
                entryIo := match io with
                  | none => []
                  | some r => (upto e).map (parseIo r),
                ddrBytes := mem.1, canopyBytes := mem.2.1, copyLen := b.length, templates := offs, coefBase := c.1,
                coefLen := c.2, digest := (b.drop 64).take 64 }
    | _, _ => none

/-- The initialisation records of the image's memory region (R318). -/
def imageInits (b : List Byte) : List (Bool × Nat × List Byte) :=
  match imageDirectory b with
  | none => []
  | some l => match parseMemory (sectionOf b l 0x0003 0xFFFF) with
    | none => []
    | some m => m.2.2

end Sys2Proof.Machine
end

