-- ==== Sys2Proof/Machine/Roles.lean ====
section
/-! DEFINITION. Role changes and what a tile is loaded with (R100 to R103, R110 to R113, R134, R136, R146, R319, R334, R338,
R557). -/

namespace Sys2Proof.Machine

/-! ### FOR_TILES (R353) -/

/-- Tile `t` is on C-die 1: the dies hold tiles 0 to 67 and 68 to 135 (DEDUCED, notes/assumptions/26). -/
def dieOf (t : Nat) : Nat := if t < 68 then 0 else 1

/-- FOR_TILES follows the tiles' service. -/
def Dev.updTiles (d : Dev) : Dev :=
  let n (p : Nat → Bool) : Nat := ((upto tileCount).filter p).length
  let d := d.setFld forTilesInService (n fun t => (d.tile t).service = .inService)
  let d := d.setFld forTilesSaplingsFree (n fun t => (d.tile t).service = .spare && d.flag tileIdSapling t)
  d.setFld forTilesRetired (n fun t => (d.tile t).service = .retired)

/-! ### Beginning and end of a role change -/

/-- Step 1 of R101: the epoch rises, and what is held or waits at the ingress is refused. Dirty lines are written back first
(R136). -/
def roleChangeStart (d : Dev) (t role : Nat) (loadFor : Option (Nat × Nat)) : Dev :=
  let d := writeBackAll d t
  let late := (d.tile t).held ++ (d.tile t).backlog
  let d := d.updTile t fun x => { x with held := [], backlog := [], roleTo := some role, loadFor := loadFor }
  let d := (d.setFld tileRoleChanging 1 t).setFld tileRoleEpoch (d.fld tileRoleEpoch t + 1) t
  late.foldl (fun d q => refuseXfer d t q .roleStale) d

/-- The arrival counters are cleared (R122). -/
def clearArrivals (d : Dev) (t : Nat) : Dev := (upto 32).foldl (fun d c => d.setFld (tileArrival c) 0 t) d

/-- Steps 3 and 4 of R101 (R153): handle table, slots, counters and marks cleared, rows zero; a role that works powers the tile's
banks up (R146). The spec does not list the banks that a role needs: the model powers all 16 for every role but IDLE
(DESIGN CHOICE, notes/assumptions/128). A row whose sparing waited for its handle is spared now. -/
def clearTile (d : Dev) (t role : Nat) : Dev :=
  let d := match (d.tile t).sparing with
    | some (_, b, r) =>
      let used := d.fld (fldSpare b) t
      let d := d.updTile t fun x => { x with remap := mapSet 0 x.remap (512 * b + r) (512 + used), sparing := none }
      d.setFld (fldSpare b) (used + 1) t
    | none => d
  let d := clearArrivals (clearMarks d t 0) t
  let z (d : Dev) (o : Nat) : Dev := { d with regs := bankSet d.regs (o + 0x400 * t) 0 }
  let d := [rTileConflictStatus, rTileConflictPc, rTileGuardStatus, rTileSbStatus, rTileCacheMode].foldl z d
  let d := d.updTile t fun x =>
    { x with handles := [], slots := [], rows := [], cache := [], code := [], codeLen := 0, x := [], v := [], acc := [], capB := none,
             pc := 0, ordinal := 0, trap := none, stall := none, paused := [], vendor := false, groveSize := 0,
             pace := {}, flaws := [], guardHeld := [] }
  let d := if role = 0 then d else (d.setFld tileBankPwrOn 0xFFFF t).setFld tileBankPwrDraining 0 t
  ((d.setFld tileIdLtile 0 t).setFld tileIdLvalid 0 t).setFld tileFmtStatusStrict 0 t

/-! ### Handles (R110, R112, R318, R322) -/

/-- Rows below those of every wider handle that covers handle `k`, and of the handles of its own width listed before it: a place
under which no two handles meet. -/
def stackBase (l : List Hnd) (k : Nat) : Nat :=
  let h := l.getD k (hndOf 0)
  ((l.zip (upto l.length)).filter fun e => mapsBank e.1 h.firstBank &&
      (decide (h.bankLog2 < e.1.bankLog2) || (e.1.bankLog2 = h.bankLog2 && decide (e.2 < k)))).foldl
    (fun a e => a + e.1.rows / 2 ^ e.1.bankLog2) 0

/-- Two local handles at their bases map a common bank row. -/
def handlesMeet (a b : Hnd) (x y : Nat) : Bool :=
  ((upto 16).any fun n => mapsBank a n && mapsBank b n) && decide (x < y + b.rows / 2 ^ b.bankLog2) &&
    decide (y < x + a.rows / 2 ^ a.bankLog2)

/-- The bases satisfy R110. -/
def basesOk (l : List Hnd) (base : Nat → Nat) : Bool :=
  let ks := (upto l.length).filter fun k => let h := l.getD k (hndOf 0); h.valid && h.kind = 0
  ks.all fun k =>
    let h := l.getD k (hndOf 0)
    decide (base k + h.rows / 2 ^ h.bankLog2 ≤ 512) && ks.all fun m => m = k || !handlesMeet h (l.getD m (hndOf 0)) (base k) (base m)

/-- The BASE_ROWs that Forester chooses (R322): any that satisfy R110 (DESIGN CHOICE, notes/assumptions/25). -/
def chooseBases (d : Dev) (l : List Hnd) : Nat → Nat :=
  let free (k : Nat) : Nat := Config.baseRow d.freeCtr k
  if basesOk l free then free else stackBase l

/-- An image's handle entry as Forester writes it into the tile (R318). -/
def placedEntry (im : Image) (base : Nat) (e : BitVec 128) : BitVec 128 :=
  let h := hndOf e
  let n := e.toNat
  if !h.valid then 0
  else if h.kind = 0 then BitVec.ofNat 128 (setBits n 40 32 base)
  else
    let a := (if bit n 127 then im.canopyBase else im.ddrBase) / 512 + h.maddr
    BitVec.ofNat 128 (setBits (setBits n 127 127 0) 126 96 a)

/-- A group becomes a cache where the image declares it and no local handle maps its banks (R134). -/
def cacheDeclared (l : List Hnd) (g : Nat) : Bool :=
  (l.any fun h => h.valid && h.kind = 1 && h.group = g) && !(l.any fun h => (upto 4).any fun i => mapsBank h (8 + 4 * g + i))

/-- Image-supplied rows written through a handle (R318): into the scratchpad, or into the memory behind a CACHED handle. -/
def loadRows (d : Dev) (t : Nat) (r : Nat × Nat × List Row) : Dev :=
  let h := (d.tile t).hnd r.1
  if h.kind = 0 then d.updTile t fun x => x.storeRows h r.2.1 r.2.2
  else (storeMemRows d (512 * (h.maddr + r.2.1)) r.2.2).updTile t fun x => x.fillSlots h r.2.1 r.2.2.length

/-- Logical tile `lt` of an image loaded into tile `t` (R112, R319, R334): code, handles, rows, number. -/
def loadTile (d : Dev) (t : Nat) (im : Image) (lt : Nat) : Dev :=
  let it := im.tiles.getD lt { role := 0 }
  let hs := it.handles.map hndOf
  let base := chooseBases d hs
  let d := d.bump
  let put (m : SMap (BitVec 128)) (e : BitVec 128 × Nat) : SMap (BitVec 128) := mapSet 0 m e.2 (placedEntry im (base e.2) e.1)
  let d := d.updTile t fun x =>
    { x with code := (it.code.zip (upto it.code.length)).foldl (fun m e => mapSet 0 m e.2 e.1) [],
             codeLen := it.code.length,
             handles := (it.handles.zip (upto it.handles.length)).foldl put [],
             image := some im.num, groveSize := im.tiles.length }
  let d := (d.setFld tileIdLtile lt t).setFld tileIdLvalid 1 t
  let d := (d.setFld tileCacheModeGroup0 (b2n (cacheDeclared hs 0)) t).setFld tileCacheModeGroup1 (b2n (cacheDeclared hs 1)) t
  it.rows.foldl (fun d r => loadRows d t r) d

/-- The placement table's entry of a logical tile. -/
def placeAt (d : Dev) (n lt : Nat) (t : Option Nat) : Dev := d.updImage n fun im => { im with place := listSet im.place lt t }

/-- An image is gone: its number, its reservations and its warm-start slots are free (R319, R557). -/
def dropImage (d : Dev) (n : Nat) : Dev :=
  { d with images := d.images.filter fun im => im.num ≠ n,
           solv := { d.solv with warm := d.solv.warm.filter fun w => w.image ≠ n } }

/-- No tile holds the image or is being loaded with it. -/
def imageTilesGone (d : Dev) (n : Nat) : Bool :=
  (upto tileCount).all fun t => (d.tile t).image ≠ some n && ((d.tile t).loadFor.map (·.1)) ≠ some n

/-- A tile has finished its change to a role without an image: it leaves its image's placement; the last one ends an unload. -/
def tileReleased (d : Dev) (t : Nat) : Dev :=
  match (d.tile t).image with
  | none => d
  | some n =>
    let d := d.updTile t fun x => { x with image := none }
    let d := d.updImage n fun im => { im with place := im.place.map fun p => if p = some t then none else p }
    match (d.image n).bind (·.unloading) with
    | some j => if imageTilesGone d n then endJob (dropImage d n) j stDone else d
    | none => d

/-- The last tile of an image being loaded is in place: the load is complete (R319). -/
def loadProgress (d : Dev) (n : Nat) : Dev :=
  match d.image n with
  | none => d
  | some im => match im.loading with
    | some j => if im.place.all (·.isSome) then endJob (d.updImage n fun x => { x with loading := none }) j stDone else d
    | none => d

/-- Tiles in service (R353). -/
def inServiceCount (d : Dev) : Nat := ((upto tileCount).filter fun t => (d.tile t).service = .inService).length

/-- A substitute is in place (R334, R337): FOR_CNT_SUBST counts a substitution; the drained tile changes to IDLE, and leaves
service where more than 128 tiles would be in it (R353). -/
def substituted (d : Dev) (t : Nat) : Dev :=
  match (d.tile t).replaces with
  | none => d
  | some old =>
    let d := d.updTile t fun x => { x with replaces := none }
    let d := logEvent d lgSubst (leBytes 1 old ++ leBytes 1 (d.fld tileIdLtile t) ++ leBytes 1 t)
    if (d.tile old).drainTo = some t then
      let d := if 128 < inServiceCount d then (d.updTile old fun x => { x with service := .spare }).updTiles else d
      roleChangeStart d old 0 none
    else d.forCount 3

/-- A tile that a substitute replaces in a drain still runs an item (R337). -/
def drainBusy (d : Dev) (t : Nat) : Bool :=
  match (d.tile t).replaces with
  | some old => (d.tile old).drainTo = some t && (d.tile old).job.isSome
  | none => false

/-- The role change of tile `t` completes (R101): every admitted transfer has landed. -/
def roleChangeDone (t : Nat) (d : Dev) : Dev :=
  match (d.tile t).roleTo with
  | none => d
  | some role =>
    if (d.tile t).admitted ≠ [] || !d.flag tileRoleChanging t || drainBusy d t then d
    else
      let lf := (d.tile t).loadFor
      let d := clearTile d t role
      let d := (d.setFld tileRoleRole role t).setFld tileRoleChanging 0 t
      let d := if d.fld tileStateState t = tsRetired then d else d.setFld tileStateState tsReady t
      let d := d.updTile t fun x => { x with roleTo := none, loadFor := none, drainTo := none, job := none }
      match lf with
      | none => tileReleased d t
      | some (n, lt) => match d.image n with
        | none => d
        | some im => substituted (loadProgress (placeAt (loadTile d t im lt) n lt (some t)) n) t


end Sys2Proof.Machine
end

