-- ==== Sys2Proof/Machine/Graph.lean ====
section
/-! DEFINITION. RUN_GRAPH, LOAD_IMAGE and UNLOAD_IMAGE (R317 to R325, R494, R557). -/

namespace Sys2Proof.Machine

/-! ### Admission of a job whose demand its descriptor or image declares (R325, R326) -/

/-- A deadline-class job with these uses is admitted or refused; a best-effort job is not tested. -/
def admitWith (d : Dev) (x : Job) (us : List Use) : Dev :=
  if x.desc.cls = 0 || x.replayed then d
  else match admitUses d x.id 0 x.desc.cls (x.deadline.getD 0) (x.admitTime) us with
    | .error k => refuseJob (releaseJob d x.id) x.id k
    | .ok d' => d'.forCount 0

/-! ### RUN_GRAPH (R318) -/

/-- The demand record of an entry point (R320). -/
def entryDemand (im : Image) (e : Nat) : Demand := im.demands.getD e ⟨0, 0, 0, 0, 0, 0⟩

/-- The logical tiles that take part in an entry point. -/
def entryTiles (im : Image) (e : Nat) : List Nat :=
  (upto im.tiles.length).filter fun l => (((im.tiles.getD l { role := 0 }).entryPcs).getD e noPc) ≠ noPc

/-- Every logical tile that the entry point needs: its tiles, and those of its argument and output rows. -/
def entryNeeds (im : Image) (e : Nat) : List Nat :=
  let io := im.entryIo.getD e {}
  (entryTiles im e ++ (if io.argTile = 0xFF then [] else [io.argTile]) ++ if io.outTile = 0xFF then [] else [io.outTile]).eraseDups

/-- The physical tile of a logical tile. -/
def Image.tileAt (im : Image) (l : Nat) : Option Nat := im.place.getD l none

/-- The uses of a RUN_GRAPH job (R325). Fabric ports are numbered by tile. -/
def graphUses (d : Dev) (x : Job) (im : Image) : List Use :=
  let m := entryDemand im x.desc.entry
  let ts := (entryTiles im x.desc.entry).filterMap (d.workTile im)
  ts.map (fun t => ⟨rkTile, [t], m.cyc⟩) ++ ts.map (fun t => ⟨rkFabric, [t], m.fab⟩) ++
    [⟨rkCanopy, [0], m.canopy⟩, ⟨rkDdr, [0], m.ddr⟩, ⟨rkPlk, [0], if x.ring && decide (1 < d.ringCount) then m.plk else 0⟩,
     ⟨rkWalker, [0], m.lookups⟩]

/-- RUN_GRAPH is checked and admitted (R318, R336, R426). -/
def admitGraph (j : Nat) (d : Dev) : Dev :=
  match d.job j with
  | none => d
  | some x => match d.image x.desc.image with
    | none => endJob d j stInvalid
    | some im =>
      let e := x.desc.entry
      let io := im.entryIo.getD e {}
      let n := x.desc.count
      if decide (im.demands.length ≤ e) || decide ((if io.argTile = 0xFF then 0 else 512 * io.argRows) < n) ||
          (n ≠ 0 && !addrOk d x.q x.desc.addr n) || (io.outTile ≠ 0xFF && !addrOk d x.q x.desc.aux (512 * io.outRows)) then
        endJob d j stInvalid
      else if (entryNeeds im e).any fun l => (d.workTile im l).isNone then refuseJob d j 8
      else admitWith d x (graphUses d x im)

/-- The argument block leaves for its tile as one transfer, counted on its arrival (R318). -/
def sendArgs (d : Dev) (x : Job) (im : Image) : Dev :=
  let io := im.entryIo.getD x.desc.entry {}
  if io.argTile = 0xFF then d
  else match im.tileAt io.argTile with
    | none => d
    | some t =>
      let n := x.desc.count
      let d := scanAll d x.id [(x.desc.addr, n)]
      match if n = 0 then .ok [] else readAddr d x.desc.addr n with
      | .error st => endJob d x.id st
      | .ok l =>
        let k : TransferKind := if n = 0 then .signal else .rows (rowsOfBytes l ((n + 511) / 512))
        let h : TransferHdr := { id := d.nextXfer, epoch := d.epoch t, handle := io.argHandle, row := io.argRow, counter := io.argCounter,
                                 kind := k, job := some x.id }
        { d with fabric := d.fabric ++ [(t, h)], nextXfer := d.nextXfer + 1 }

/-- A logical tile of the entry point is changing hands: the job's work begins when the substitute is in place. -/
def graphWaits (d : Dev) (im : Image) (e : Nat) : Bool := (entryNeeds im e).any fun l => d.workTile im l != im.tileAt l

/-- The job's work begins: arguments, and its items on every tile of the entry point (R318, R328). -/
def runGraphJob (j : Nat) (d : Dev) : Dev :=
  match d.job j with
  | none => d
  | some x => match d.image x.desc.image with
    | none => endJob d j stInvalid
    | some im =>
      if (entryNeeds im x.desc.entry).any fun l => (d.workTile im l).isNone then refuseJob d j 8 else
      if graphWaits d im x.desc.entry then d.updJob j fun y => { y with waitPlace := true } else
      let d := d.updJob j fun y => { y with waitPlace := false }
      let ts := (entryTiles im x.desc.entry).filterMap im.tileAt
      let out := (im.entryIo.getD x.desc.entry {}).outTile ≠ 0xFF
      let d := sendArgs (d.updJob j fun y => { y with tiles := ts, outCopy := out }) x im
      if (d.job j).all fun y => y.phase = .ended then d
      else
        let d := ts.foldl (fun d t => dispatchTile t (addItem d t x (entryDemand im x.desc.entry).cyc)) d
        if ts = [] && !out then endJob d j stDone else d

/-- The header of Forester's read of a job's output rows (R318, R129). -/
def outputHdr (d : Dev) (t j : Nat) (io : EntryIo) : TransferHdr :=
  { id := d.nextXfer, epoch := d.epoch t, handle := io.outHandle, row := io.outRow, counter := 0, kind := .remoteRead io.outRows,
    job := some j }

/-- The output rows are copied to AUX and the job is done (R318). A scratchpad row found uncorrectable faults the job, a memory row
ends it (R448). -/
def finishOutput (j t : Nat) (io : EntryIo) (x : Job) (d : Dev) : Dev :=
  match remoteRows d t io.outHandle io.outRow io.outRows with
  | (d, none) =>
    if ((d.tile t).hnd io.outHandle).kind = 0 then jobFault d j stUncorrectable else endJob d j stUncorrectable
  | (d, some rows) =>
    let w := writeAddr d x.desc.aux (rows.flatMap bytesOfRow)
    endJob (w.1.updJob j fun y => { y with outCopy := false }) j w.2

/-- A read of job `j`'s output rows stands at the ingress of tile `t`. -/
def outputWaits (x : Tile) (j : Nat) : Bool :=
  (x.held ++ x.backlog ++ x.admitted).any fun q => q.issuer.isNone && xferReads q.kind && q.job = some j

/-- After END on every tile, the output rows are copied to AUX and the job is done (R318). The copy reads the rows as a remote read:
one of a slot that is not FULL, or of a paused handle, is held at the ingress (R124, R142). -/
def graphOutputCopy (j : Nat) (d : Dev) : Dev :=
  match d.job j with
  | none => d
  | some x => match d.image x.desc.image with
    | none => d
    | some im =>
      if x.phase ≠ .running || !x.outCopy || x.tiles ≠ [] || x.fault.isSome then d
      else
        let io := im.entryIo.getD x.desc.entry {}
        match im.tileAt io.outTile with
        | none => d
        | some t =>
          let q := outputHdr d t j io
          if outputWaits (d.tile t) j then d
          else if headerVerdict d t q = .admits then finishOutput j t io x d
          else ingress { d with nextXfer := d.nextXfer + 1 } t q

/-- The read of the output rows that was held goes on. -/
def outputLanded (j t : Nat) (d : Dev) : Dev :=
  match d.job j with
  | none => d
  | some x => match d.image x.desc.image with
    | none => d
    | some im =>
      if x.phase ≠ .running || !x.outCopy || x.fault.isSome then d else finishOutput j t (im.entryIo.getD x.desc.entry {}) x d

/-! ### LOAD_IMAGE (R319, R321) -/

/-- The places of a region of `len` bytes from `lo` at which `n` bytes are free; places are multiples of 512. -/
def freePlaces (used : List (Nat × Nat)) (lo len n : Nat) : List Nat :=
  ((lo :: used.map fun u => (u.1 + u.2 + 511) / 512 * 512).eraseDups).filter fun b =>
    decide (lo ≤ b ∧ b + n ≤ lo + len) && used.all fun u => decide (b + n ≤ u.1) || decide (u.1 + u.2 ≤ b)

/-- A place of the image store or of Canopy that Forester chooses; none where the space is lacking.
(DEDUCED, notes/assumptions/68.) -/
def findSpace (d : Dev) (used : List (Nat × Nat)) (lo len n : Nat) : Option Nat × Dev :=
  if n = 0 then (some lo, d) else choose d (freePlaces used lo len n)

/-- What the loaded images hold of the image store and of Canopy. -/
def storeUsed (d : Dev) : List (Nat × Nat) :=
  (d.images.flatMap fun im => [(im.copyBase, im.copyLen), (im.ddrBase, im.ddrBytes)]).filter fun u => u.2 ≠ 0
def canopyUsed (d : Dev) : List (Nat × Nat) :=
  (d.images.map fun im => (im.canopyBase, im.canopyBytes)).filter fun u => u.2 ≠ 0

/-- The bytes of Canopy (R440). -/
def canopyBytes : Nat := 96 * 2 ^ 20

/-- Tiles in service that no image holds (R321). -/
def freeTileList (d : Dev) : List Nat :=
  (upto tileCount).filter fun t =>
    (d.tile t).service = .inService && (d.tile t).image.isNone && (d.tile t).loadFor.isNone && (d.tile t).drainTo.isNone &&
      (d.tile t).replaces.isNone && !d.flag tileRoleChanging t && d.fld tileStateState t ≠ tsRetired

/-- MEASn is extended with a digest (R494). -/
def extendMeas (d : Dev) (n : Nat) (digest : List Byte) : Dev :=
  let old := mapGet (List.replicate 64 0) d.mgmt.meas n
  { d with mgmt := { d.mgmt with meas := mapSet (List.replicate 64 0) d.mgmt.meas n (sha512 (old ++ digest)) } }

/-- The image's memory region: zero, then its initialisation records in order (R318). -/
def initRegion (d : Dev) (im : Image) : Dev :=
  let d := memZero (memZero d im.ddrBase im.ddrBytes) im.canopyBase im.canopyBytes
  (imageInits im.bytes).foldl (fun d r => (memStore d ((if r.1 then im.canopyBase else im.ddrBase) + r.2.1) r.2.2).1) d

/-- A recording that begins at the image's load starts with its START entry (R345). -/
def startFromLoad (d : Dev) (n : Nat) : Dev :=
  match d.recording n with
  | some r => if r.waitLoad then
      let d := d.updRec n fun x => { x with waitLoad := false }
      recPut d n reStart 0 0 0 (startPayload d n true)
    else d
  | none => d

/-- An accepted image takes its tiles: each changes role and is loaded (R101, R319, R321). -/
def assignGrove (d : Dev) (im : Image) (ts : List Nat) : Dev :=
  (ts.zip (upto ts.length)).foldl (fun d e => roleChangeStart d e.1 ((im.tiles.getD e.2 { role := 0 }).role) (some (im.num, e.2))) d

/-- LOAD_IMAGE at work: the image is read and checked, its stores are reserved, its grove assigned.
(DEDUCED, notes/assumptions/72.) -/
def runLoad (j : Nat) (d : Dev) : Dev :=
  match d.job j with
  | none => d
  | some x =>
    let d := scanAddr d (some j) x.desc.addr x.desc.count
    match readChecked d x.q x.desc.addr x.desc.count with
    | .error st => endJob d j st
    | .ok b => match parseImage x.desc.image b with
      | none => endJob d j stInvalid
      | some im =>
        let r := d.regions
        let n := im.tiles.length
        if (freeTileList d).length < n then refuseJob d j 8
        else match findSpace d (storeUsed d) r.imageStore r.imageStoreLen im.copyLen with
        | (none, _) => refuseJob d j 4
        | (some cb, d1) =>
          match findSpace d1 (storeUsed d1 ++ [(cb, im.copyLen)]) r.imageStore r.imageStoreLen im.ddrBytes with
          | (none, _) => refuseJob d j 4
          | (some db, d2) =>
            match findSpace d2 (canopyUsed d2) r.canopyFree (canopyBase + canopyBytes - r.canopyFree) im.canopyBytes with
            | (none, _) => refuseJob d j 3
            | (some kb, d3) =>
              let c := chooseN n (freeTileList d3) d3
              let im := { im with copyBase := cb, ddrBase := db, canopyBase := kb, loading := some j, place := List.replicate n none }
              let d : Dev := { c.2 with images := c.2.images ++ [im] }
              let d := extendMeas d 7 (sha512 b)
              let d := initRegion (memStore d cb b).1 im
              assignGrove (startFromLoad d im.num) im c.1

/-! ### UNLOAD_IMAGE (R557) -/

/-- UNLOAD_IMAGE waits for the image's jobs read before it. -/
def runUnload (j : Nat) (d : Dev) : Dev :=
  match d.job j with
  | none => d
  | some x => d.updJob j fun y =>
      { y with after := (d.jobs.filter fun z => z.desc.image = x.desc.image && decide (z.id < j)).map (·.id) }

/-- No job of the image remains: its tiles change to IDLE, and the last of them ends the unload. -/
def unloadFinish (j : Nat) (d : Dev) : Dev :=
  match d.job j with
  | none => d
  | some x =>
    let n := x.desc.image
    if x.phase ≠ .running || x.desc.opcode ≠ opUnloadImage || x.after ≠ [] || (d.image n).all (fun im => im.unloading.isSome) then d
    else
      let d := d.updImage n fun im => { im with unloading := some j }
      let ts := (upto tileCount).filter fun t => (d.tile t).image = some n || (d.tile t).loadFor.map (·.1) = some n
      let start (d : Dev) (t : Nat) : Dev :=
        roleChangeStart (d.updTile t fun x => { x with image := some n, replaces := none }) t 0 none
      if ts = [] then endJob (dropImage d n) j stDone else ts.foldl start d

/-- GRAPH_OUTPUT_COPY (R318). -/
def execGraphOutputCopy (j : Nat) (s : State) : Out := onDev (graphOutputCopy j) s

end Sys2Proof.Machine
end

