-- ==== Sys2Proof/Machine/Jobs.lean ====
section
/-! DEFINITION. COPY, FILL, FENCE and recording jobs (R345 to R347, R363, R365). -/

namespace Sys2Proof.Machine

/-! ### COPY and FILL (R356, R363, R373, R374, R436) -/

/-- Source and destination of a COPY share a byte (R445). -/
def copyOverlaps (x : Job) : Bool :=
  let n := x.desc.count
  let meet (a b : Nat) : Bool := decide (a < b + n) && decide (b < a + n)
  x.desc.opcode = opCopy && match jobAddr x.desc.addr, jobAddr x.desc.aux with
    | some (.host a), some (.host b) => meet a b
    | some (.dev a), some (.dev b) => meet a b
    | _, _ => false

/-- The addresses of a COPY or FILL name memory, or for a COPY a stream FIFO that takes pushes; the supervisor's jobs name device memory
alone (R390). -/
def copyAddrsOk (d : Dev) (x : Job) : Bool :=
  let n := x.desc.count
  let src := x.desc.opcode = opFill || addrOk d x.q x.desc.addr n
  match jobAddr x.desc.aux with
  | some (.fifo k) => src && x.q ≠ 64 && x.desc.opcode = opCopy && fifoOn d k && d.flag streamCfgSrc k && decide (n ≤ fifoPayload d k)
  | _ => src && addrOk d x.q x.desc.aux n && !copyOverlaps x

/-- The bytes that a COPY or FILL moves on DDR4 and in Canopy (R325). -/
def copyUses (x : Job) : List Use :=
  let n := x.desc.count
  let at_ (canopy : Bool) (a : Nat) : Nat := match jobAddr a with
    | some (.dev b) => if decide (canopyBase ≤ b) = canopy then n else 0
    | _ => 0
  let src (c : Bool) : Nat := if x.desc.opcode = opFill then 0 else at_ c x.desc.addr
  [⟨rkCanopy, [0], src true + at_ true x.desc.aux⟩, ⟨rkDdr, [0], src false + at_ false x.desc.aux⟩]

def admitCopy (j : Nat) (d : Dev) : Dev :=
  match d.job j with
  | none => d
  | some x => if copyAddrsOk d x then admitWith d x (copyUses x) else endJob d j stInvalid

/-- The copy engine has done a request: MEM_COPY_CNT counts it (R450). -/
def copyDoneCount (d : Dev) (status : Nat) : Dev :=
  if status = stDone ∨ status = stUncorrectable then d.incFld memCopyCntCount else d

/-- The bytes are written, or pushed as one FIFO entry. -/
def writeCopied (d : Dev) (x : Job) (l : List Byte) : Dev :=
  match jobAddr x.desc.aux with
  | some (.fifo n) => fifoPush d x.id n l
  | _ => let w := writeAddr d x.desc.aux l; endJob (copyDoneCount w.1 w.2) x.id w.2

/-- One block of a copy whose source is poisoned somewhere: the destination of a poisoned block is written poisoned (R445). -/
def copyBlock (x : Job) (d : Dev) (i : Nat) : Dev :=
  match readAddr d (x.desc.addr + 64 * i) 64 with
  | .ok l => (writeAddr d (x.desc.aux + 64 * i) l).1
  | .error _ => match jobAddr (x.desc.aux + 64 * i) with
    | some (.dev b) => poisonWrite d b
    | _ => d

/-- The bytes of a pattern repeated. -/
def fillBytes (pattern n : Nat) : List Byte := (List.replicate (n / 8) (leBytes 8 pattern)).flatten

def runCopy (j : Nat) (d : Dev) : Dev :=
  match d.job j with
  | none => d
  | some x =>
    if x.desc.opcode = opFill then writeCopied d x (fillBytes x.desc.addr x.desc.count)
    else
      let d := scanAddr d (some j) x.desc.addr x.desc.count ekCopy
      match readAddr d x.desc.addr x.desc.count with
      | .ok l => writeCopied d x l
      | .error st =>
        match jobAddr x.desc.aux with
        | some (.fifo _) => endJob d j st
        | _ =>
          if st = stUncorrectable then
            endJob (copyDoneCount ((upto (x.desc.count / 64)).foldl (copyBlock x) d) st) j st
          else endJob d j st

/-! ### FENCE (R365) -/

/-- A FENCE waits for every job fetched earlier from the rings of its mask. -/
def runFence (j : Nat) (d : Dev) : Dev :=
  match d.job j with
  | none => d
  | some x =>
    d.updJob j fun y => { y with after :=
      (d.jobs.filter fun z => decide (z.id < j) && decide (z.q < 64) && bit x.desc.aux z.q).map (·.id) }

/-! ### RECORD_CTL (R345, R347) -/

/-- The action of a record control block. -/
def recordAction (d : Dev) (x : Desc) : Option Nat :=
  match readAddr d x.addr 64 with
  | .ok l => some (recLe l 0 1)
  | .error _ => none

/-- A block's image, CONTENT and buffer that R345 allows. -/
def recordBlockBad (d : Dev) (q : Nat) (l : List Byte) : Bool :=
  let act := recLe l 0 1
  let buf := recLe l 8 8
  let n := recLe l 16 8
  !d.flag forCtrlRecEn || decide (2 < act) || bits (recLe l 1 1) 7 2 ≠ 0 || !recZero l 4 4 || !recZero l 24 40 ||
    (if act = 0 then (d.recording (recLe l 2 2)).isSome || recLe l 2 2 = 0 || decide (16 < recLe l 2 2) ||
        (!bit (recLe l 1 1) 1 && !imageUsable d (recLe l 2 2))
      else (d.recording (recLe l 2 2)).isNone) ||
    (act ≠ 1 && (buf % 4096 ≠ 0 || n % 4096 ≠ 0 || decide (n < 65536) || !addrOk d q buf n))

/-- A recording begins; without FROM_LOAD its START entry is written at once (R345, R346). -/
def recordStart (d : Dev) (l : List Byte) : Dev :=
  let im := recLe l 2 2
  let fromLoad := bit (recLe l 1 1) 1
  let r : Recording := { image := im, content := recLe l 1 1, bufAddr := recLe l 8 8, bufBytes := recLe l 16 8, waitLoad := fromLoad }
  let d := { d with recs := d.recs ++ [r] }
  if fromLoad then d else recPut d im reStart 0 0 0 (startPayload d im false)

/-- A stop writes END and the recording is over (R347). -/
def recordStop (d : Dev) (im : Nat) : Dev :=
  match d.recording im with
  | none => d
  | some r =>
    let d := if r.waitLoad then d else recEnd d r
    { d with recs := d.recs.filter fun x => x.image ≠ im }

/-- A switch writes END and the recording goes on in the new buffer (R347). -/
def recordSwitch (d : Dev) (im : Nat) (l : List Byte) : Dev :=
  match d.recording im with
  | none => d
  | some r =>
    let d := if r.waitLoad then d else recEnd d r
    d.updRec im fun x => { x with bufAddr := recLe l 8 8, bufBytes := recLe l 16 8, pos := 0 }

def runRecord (j : Nat) (d : Dev) : Dev :=
  match d.job j with
  | none => d
  | some x =>
    let d := scanAddr d (some j) x.desc.addr 64
    match readChecked d x.q x.desc.addr 64 with
    | .error st => endJob d j st
    | .ok l =>
      if recordBlockBad d x.q l then endJob d j stInvalid
      else
        let im := recLe l 2 2
        let d := match recLe l 0 1 with
          | 0 => recordStart d l
          | 1 => recordStop d im
          | _ => recordSwitch d im l
        endJob d j stDone

end Sys2Proof.Machine
end

