-- ==== Sys2Proof/Machine/Abort.lean ====
section
/-! DEFINITION. Abort (R380 to R383, R394). -/

namespace Sys2Proof.Machine

/-- Transfers for which `p` holds are taken back from every ingress; the places they leave are free (R127). -/
def takeBack (p : TransferHdr → Bool) (d : Dev) : Dev :=
  (upto tileCount).foldl (fun d u =>
    let x := d.tile u
    if (x.held ++ x.backlog ++ x.admitted).any p then
      settle (d.updTile u fun x => { x with held := x.held.filter (fun q => !p q), backlog := x.backlog.filter (fun q => !p q),
                                            admitted := x.admitted.filter fun q => !p q }) u
    else d) d

/-- What tile `t` still does for a job is withdrawn: its transfers, lookups, appends and their pins (R381). -/
def withdrawTile (d : Dev) (t : Nat) : Dev :=
  let ops := (d.tile t).inflight.map (·.id)
  let mine (q : TransferHdr) : Bool := q.issuer = some t && ops.contains q.id
  let d := ((d.attn.appends.filter fun a => match a.who with
      | .tile u _ => u = t
      | _ => false).foldl undoAppend d)
  let a : Attn := { d.attn with
    lookups := d.attn.lookups.filter fun l => l.tile ≠ t,
    pinWait := d.attn.pinWait.filter fun l => l.tile ≠ t,
    waiting := d.attn.waiting.filter fun c => match c with
      | .app (.tile u _) _ _ _ => u ≠ t
      | _ => true }
  let d : Dev := { d with attn := a, fabric := d.fabric.filter (fun e => !mine e.2), acks := d.acks.filter (fun e => e.1 ≠ t),
                          refusals := d.refusals.filter fun e => e.1 ≠ t }
  let d := dropWalks (fun c => match c with
    | .app (.tile u _) _ _ _ => u = t
    | _ => false) (grantSlots (takeBack mine d))
  (ops.foldl unpinOp d).updTile t fun x => { x with inflight := [], stall := none }

/-- Transfers that Forester made for a job are discarded. -/
def withdrawCopies (d : Dev) (j : Nat) : Dev :=
  let mine (q : TransferHdr) : Bool := q.issuer.isNone && q.job = some j
  let d : Dev := { d with fabric := d.fabric.filter fun e => !mine e.2 }
  takeBack mine d

/-- The tiles that work for a job. -/
def tilesOf (d : Dev) (j : Nat) : List Nat := (upto tileCount).filter fun t => (d.tile t).job = some j

/-- The attention work of a job is withdrawn: its snapshot's pins, its append, its place in the order of changes. -/
def withdrawAttn (d : Dev) (j : Nat) : Dev :=
  let d := (d.attn.appends.filter fun a => a.who = .job j).foldl undoAppend d
  let d := (d.attn.attends.filter fun a => a.job = j).foldl dropAttend d
  let a : Attn := { d.attn with waiting := d.attn.waiting.filter fun c => match c with
    | .job k _ => k ≠ j
    | _ => true }
  pump (dropWalks (fun c => match c with
    | .job k _ => k = j
    | _ => false) { d with attn := a })

/-- An aborted LOAD_IMAGE loads nothing: its tiles return to IDLE and its reservations are freed (R382). -/
def withdrawLoad (d : Dev) (j : Nat) : Dev :=
  match d.images.find? fun im => im.loading = some j with
  | none => d
  | some im =>
    let ts := (upto tileCount).filter fun t => (d.tile t).image = some im.num || (d.tile t).loadFor.map (·.1) = some im.num
    let d := dropImage d im.num
    ts.foldl (fun d t => roleChangeStart (d.updTile t fun x => { x with image := none }) t 0 none) d

/-- An output range after an abort: each 64-byte beat is wholly old or wholly new; which of the two, and what the job would have
written, is free (R382; DESIGN CHOICE, notes/assumptions/105). -/
def mixBytes (c a : Nat) (old : List Byte) : List Byte :=
  (old.zip (upto old.length)).map fun e =>
    if Config.freeBool (c + ((a + e.2) / 64 - a / 64)) then e.1 else Config.freeByte (c + e.2)

/-- The output ranges that the job's work may have begun to write: for a solve job those of its problems at work. -/
def begunOutputs (d : Dev) (x : Job) : List (Nat × Nat) :=
  if x.phase ≠ .running then []
  else if solveFamily x.desc.opcode then
    (d.solv.problems.filter fun p => p.job = x.id && p.phase ≠ .queued && p.phase ≠ .ended).map fun p =>
      (p.rcd.resultAddr, resultBytes p.t p.rcd)
  else jobOutputs d x

/-- The outputs of an aborted job (R382). -/
def mixOutputs (d : Dev) (x : Job) : Dev :=
  (begunOutputs d x).foldl (fun d e => match readAddr d e.1 e.2 with
    | .error _ => d
    | .ok l => { (writeAddr d e.1 (mixBytes d.freeCtr e.1 l)).1 with freeCtr := d.freeCtr + e.2 }) d

/-- Job `j` is aborted (R380, R382). A job that has ended keeps its completion (R383). -/
def abortJob (cause : Nat) (silent : Bool) (d : Dev) (j : Nat) : Dev :=
  match d.job j with
  | none => d
  | some _ =>
    -- over an abort a deadline that has come wins (R225)
    let d := (d.solv.problems.filter fun p => p.job = j && p.due d).foldl (fun d p => deadlineExpiry j p.idx d) d
    let ended := (d.job j).any fun y => y.phase = .ended
    let d := d.updJob j fun y => { y with silent := y.silent || silent, cause := if ended then y.cause else cause }
    if ended then d
    else
      let ts := tilesOf d j
      let d := match d.job j with
        | some y => mixOutputs d y
        | none => d
      let d := ts.foldl withdrawTile (stopJobTiles d j)
      let d := withdrawLoad (withdrawAttn (withdrawCopies d j) j) j
      let d : Dev := { d with fifos := { d.fifos with pushes := d.fifos.pushes.filter (fun p => p.1 ≠ j) },
                              replays := d.replays.filter fun r => r.ctl ≠ j }
      closeSolve j (endJob d j stAborted cause)

/-- A pass whose entries are all submitted and whose jobs are all posted is over (R370). -/
def endPass (d : Dev) (k : Nat) : Dev :=
  match (d.sq k).pass with
  | some p => if !p.waits && decide ((d.sq k).armed.getD 0 ≤ p.next) && d.jobs.all (fun j => j.q ≠ k) then d.updSq k fun s => { s with pass := none } else d
  | none => d

/-- The unfetched descriptors of ring `k` are discarded, and its head moves to its tail; the rest of a pass is not submitted
(R380). -/
def discardRing (d : Dev) (k : Nat) : Dev :=
  match (d.sq k).pass with
  | some p =>
    let left := (d.sq k).armed.getD 0 - p.next
    endPass ((d.updSq k fun s => { s with pass := some { p with next := p.next + left, waits := false } }).updCq (d.fld sqCfgCq k)
      fun c => { c with reserved := c.reserved - left }) k
  | none => if d.flag sqCfgTriggered k then d else d.setFld sqStatusHead (d.sq k).tail k

/-- The rings whose unfetched descriptors an abort discards, and whose ABORT_DONE it sets. -/
def AbortRun.rings (a : AbortRun) : List Nat := if a.scope = 1 then (upto 64).filter (bit a.mask) else []

/-- An abort whose last completion has been posted is over: ABORT_DONE sets, its ABORT job is done. -/
def finishAborts (d : Dev) : Dev :=
  let ovr := d.aborts.filter fun a => a.left = []
  let d : Dev := { d with aborts := d.aborts.filter fun a => a.left ≠ [] }
  ovr.foldl (fun d a =>
    let d := if a.silent then d else a.rings.foldl (fun d k => d.setFld sqStatusAbortDone 1 k) d
    match a.job with
    | some j => endJob d j stDone
    | none => d) d

/-- An abort begins (R380). -/
def startAbort (a : AbortRun) (d : Dev) : Dev :=
  let js := (d.jobs.filter a.covers).map (·.id)
  let d := a.rings.foldl discardRing d
  let d := js.foldl (abortJob a.cause a.silent) d
  finishAborts { d with aborts := d.aborts ++ [{ a with left := js }] }

/-- An ABORT job's scope. -/
def abortOf (x : Job) : AbortRun :=
  { scope := x.desc.count % 4, q := bits x.desc.aux 5 0, tag := x.desc.addr, mask := x.desc.aux, image := x.desc.image,
    job := some x.id }

def runAbort (j : Nat) (d : Dev) : Dev :=
  match d.job j with
  | none => d
  | some x => startAbort (abortOf x) d

end Sys2Proof.Machine
end

