-- ==== Sys2Proof/Machine/Start.lean ====
section
/-! DEFINITION. What each opcode's job does when it is admitted and when its work begins; replay (R348, R349). -/

namespace Sys2Proof.Machine

/-- A job is checked and admitted, by opcode. REPLAY_CTL, FENCE, ABORT, RECORD_CTL, LOAD_IMAGE and UNLOAD_IMAGE declare no demand
(R325). -/
def admitJob (j : Nat) (d : Dev) : Dev :=
  match d.job j with
  | none => d
  | some x =>
    let op := x.desc.opcode
    if op = opRunGraph then admitGraph j d
    else if solveFamily op then admitSolve j d
    else if attnFamily op then admitAttn j d
    else if op = opCopy || op = opFill then admitCopy j d
    else admitWith d x []

/-- A job's work begins, by opcode, but for REPLAY_CTL. -/
def runPlain (j : Nat) (d : Dev) : Dev :=
  match d.job j with
  | none => d
  | some x =>
    let op := x.desc.opcode
    if op = opRunGraph then runGraphJob j d
    else if op = opLoadImage then runLoad j d
    else if op = opUnloadImage then runUnload j d
    else if solveFamily op then runSolve j d
    else if attnFamily op then runAttn j d
    else if op = opCopy || op = opFill then runCopy j d
    else if op = opFence then runFence j d
    else if op = opAbort then runAbort j d
    else runRecord j d

/-! ### Replay -/

/-- The entry at offset `o` of a stream's bytes. -/
def entryAt (b : List Byte) (o : Nat) : RecEntry :=
  let h := (b.drop o).take 32
  ⟨recLe h 8 8, recLe h 0 1, recLe h 1 1, recLe h 2 2, recLe h 16 8, (b.drop (o + 32)).take (recLe h 4 4)⟩

/-- The entries of a recorded stream from offset `o`, and whether it ends with END. A buffer that a switch closed is followed by the
next one, at a multiple of 4 KiB (R347; DEDUCED, notes/assumptions/27). -/
def parseStream (b : List Byte) : Nat → Nat → Nat → List RecEntry × Bool
  | 0, _, _ => ([], false)
  | n + 1, o, k =>
    let e := entryAt b o
    let len := recLe (b.drop o) 4 4
    if b.length < o + 32 || e.entry ≠ k || e.type = 0 || decide (reEnd < e.type) || e.type = reGap then ([], false)
    else if e.type = reEnd then
      let next := (upto (b.length / 4096)).find? fun p =>
        let f := entryAt b (4096 * p)
        decide (o < 4096 * p) && f.entry = k + 1 && decide (1 < f.type ∧ f.type ≤ reEnd)
      match next with
      | some p => parseStream b n (4096 * p) (k + 1)
      | none => ([], true)
    else
      let r := parseStream b n (o + 32 + (len + 31) / 32 * 32) (k + 1)
      (e :: r.1, r.2)

/-- The replay's results go into its control block, and its job ends (R348). -/
def finishReplay (d : Dev) (r : Replay) (status : Nat) : Dev :=
  match d.job r.ctl with
  | none => d
  | some x =>
    let w := writeAddr d (x.desc.addr + 32) (leBytes 4 r.jobs ++ leBytes 4 r.mismatches ++ leBytes 8 r.first)
    let d : Dev := { w.1 with replays := w.1.replays.filter fun (y : Replay) => y.ctl ≠ r.ctl }
    endJob d r.ctl (if w.2 = stDone then status else w.2)

/-- The stream's entries of a type that belong to a job. -/
def Replay.of (r : Replay) (type ord : Nat) : List RecEntry := r.stream.filter fun e => e.type = type && e.ord = ord

/-- A job of the stream can be reproduced: its input stands as recorded (R349), and every problem that took FIFO data has it. -/
def reproducible (d : Dev) (r : Replay) (e : RecEntry) : Bool :=
  let x := parseDesc e.payload
  ((r.of reDigest e.ord).all fun g => match readAddr d (recLe g.payload 0 8) (recLe g.payload 8 8) with
    | .ok l => sha16 l = (g.payload.drop 16).take 16
    | .error _ => false) &&
    (!solveFamily x.opcode || match readAddr d x.addr (128 * x.count) with
      | .error _ => true
      | .ok l => (upto 8).all fun n =>
        let users := (upto x.count).filter fun i => (parseProb ((l.drop (128 * i)).take 128)).x0Src = n + 1
        let stopped := (r.of reStop e.ord).filter fun s => recLe s.payload 4 2 = 0
        decide (users.length ≤ ((r.of reFifo e.ord).filter fun f => f.aux = n).length + stopped.length))

/-- The recorded input bytes stand at their addresses again (DEDUCED, notes/assumptions/27). -/
def restoreData (d : Dev) (r : Replay) (ord : Nat) : Dev :=
  (r.of reData ord).foldl (fun d e => (writeAddr d (recLe e.payload 0 8) (e.payload.drop 8)).1) d

/-- A recorded job becomes a job of this module: best-effort, without deadline, start count or AFTER_PREV (R348). -/
def childJob (d : Dev) (r : Replay) (ctl : Job) (e : RecEntry) : Job :=
  let x := parseDesc e.payload
  let x : Desc := { x with cls := 0, deadline := 0, startCount := 0, image := r.image, flags := x.flags - (if bit x.flags 2 then 4 else 0) }
  { id := d.nextJob, q := ctl.q, desc := x, cq := ctl.cq, flags := cfReplayed ||| (if bit x.flags 0 then cfStrict else 0), replayed := true,
    stops := (r.of reStop e.ord).map fun s => (recLe s.payload 0 4, recLe s.payload 4 2, s.aux),
    fed := (r.of reFifo e.ord).map fun f => (f.aux, f.payload),
    timeouts := (r.of reWait e.ord).map fun w => (w.lt, recLe w.payload 0 8) }

/-- A replay goes on: the next recorded job starts once a completion slot is free, or the replay is over (R348, R349). Jobs are
replayed one at a time. -/
def replayNext (d : Dev) (r : Replay) : Dev :=
  if r.child.isSome then d
  else match d.job r.ctl with
    | none => d
    | some ctl => match r.todo with
      | [] => finishReplay d r (if r.complete then stDone else stInvalid)
      | e :: rest =>
        if r.halt && r.compare && decide (0 < r.mismatches) then finishReplay d r stDone
        else if !reproducible d r e then finishReplay d r stInvalid
        else if !cqFree d ctl.cq then d
        else
          let d := restoreData d r e.ord
          let c := childJob d r ctl e
          let r' : Replay := { r with todo := rest, child := some (c.id, e.ord) }
          let d : Dev := { d with jobs := d.jobs ++ [c], nextJob := c.id + 1, replays := d.replays.map fun (y : Replay) => if y.ctl = r.ctl then r' else y }
          proceed admitJob runPlain c.id (d.updCq ctl.cq fun s => { s with reserved := s.reserved + 1 })

/-- Every replay goes on as far as it can. -/
def replayPump (d : Dev) : Dev := d.replays.foldl replayNext d

/-- A replayed job has been posted: its recorded outputs are compared (R348). -/
def replayPosted (d : Dev) (j : Nat) (op : Nat) : Dev :=
  match d.replays.find? fun r => r.child.map (·.1) = some j with
  | none => d
  | some r =>
    let ord := (r.child.map (·.2)).getD 0
    let differs (e : RecEntry) : Bool := match readAddr d (recLe e.payload 0 8) (recLe e.payload 8 8) with
      | .ok l => decide (sha16 (comparedBytes op l) ≠ (e.payload.drop 16).take 16)
      | .error _ => true
    let bad := if r.compare then (r.of reOutput ord).filter differs else []
    let first := if r.mismatches = 0 then ((bad.head?.map (·.entry)).getD r.first) else r.first
    let r' : Replay := { r with child := none, jobs := r.jobs + 1, mismatches := r.mismatches + bad.length, first := first }
    ({ d with replays := d.replays.map fun (y : Replay) => if y.ctl = r.ctl then r' else y } : Dev).incFld forCntCount 9 bad.length

/-- REPLAY_CTL at work: its block and the head of its stream are checked (R348, R349). -/
def runReplay (j : Nat) (d : Dev) : Dev :=
  match d.job j with
  | none => d
  | some x =>
    let d := scanAddr d (some j) x.desc.addr 64
    match readChecked d x.q x.desc.addr 64 with
    | .error st => endJob d j st
    | .ok l =>
      let d := scanAddr d (some j) (recLe l 8 8) (recLe l 16 8)
      let im := recLe l 0 2
      if bits (recLe l 2 1) 7 2 ≠ 0 || !recZero l 3 5 || !recZero l 24 8 || !recZero l 48 16 || im = 0 || !imageUsable d im then
        endJob d j stInvalid
      else match readChecked d x.q (recLe l 8 8) (recLe l 16 8) with
        | .error st => endJob d j st
        | .ok b =>
          let s := parseStream b (b.length / 32 + 1) 0 0
          let r : Replay := { ctl := j, image := im, compare := bit (recLe l 2 1) 0, halt := bit (recLe l 2 1) 1, stream := s.1,
                              todo := s.1.filter fun e => e.type = reJob, complete := s.2 }
          let p := (s.1.head?.map (·.payload)).getD []
          let digest := ((d.image im).map fun i => i.digest.take 16).getD []
          let okHead := (s.1.head?.map (·.type)) = some reStart && p.take 16 = digest && recLe p 16 1 = max 1 (d.fld plkStatusCount) &&
            (recZero p 32 16 || recLe p 32 16 = (Config.stateDigest (stateData d im)).toNat)
          if okHead then replayNext { d with replays := d.replays ++ [r] } r else finishReplay d r stInvalid

/-- A job's work begins, by opcode. -/
def runJob (j : Nat) (d : Dev) : Dev :=
  match d.job j with
  | none => d
  | some x => if x.desc.opcode = opReplay then runReplay j d else runPlain j d

/-! ### The jobs -/

/-- RUN_GRAPH (R318). -/
def execRunGraph (q : Nat) (hm : Outside) (s : State) : Out := onDev (fetchJob q hm (isOp opRunGraph) admitJob runJob) s

/-- LOAD_IMAGE (R319). -/
def execLoadImage (q : Nat) (hm : Outside) (s : State) : Out := onDev (fetchJob q hm (isOp opLoadImage) admitJob runJob) s

/-- UNLOAD_IMAGE (R557). -/
def execUnloadImage (q : Nat) (hm : Outside) (s : State) : Out := onDev (fetchJob q hm (isOp opUnloadImage) admitJob runJob) s

/-- COPY (R363). -/
def execCopy (q : Nat) (hm : Outside) (s : State) : Out := onDev (fetchJob q hm (isOp opCopy) admitJob runJob) s

/-- FILL (R363). -/
def execFill (q : Nat) (hm : Outside) (s : State) : Out := onDev (fetchJob q hm (isOp opFill) admitJob runJob) s

/-- FENCE (R365). -/
def execFence (q : Nat) (hm : Outside) (s : State) : Out := onDev (fetchJob q hm (isOp opFence) admitJob runJob) s

/-- ABORT (R380). -/
def execAbort (q : Nat) (hm : Outside) (s : State) : Out := onDev (fetchJob q hm (isOp opAbort) admitJob runJob) s

/-- The descriptor is a RECORD_CTL whose block names an action. -/
def isRecord (act : Nat) (d : Dev) (x : Desc) : Bool := x.opcode = opRecord && recordAction d x = some act

/-- RECORD_START (R345). A block that cannot be read, or names no action of R345, is handled here as well. -/
def execRecordStart (q : Nat) (hm : Outside) (s : State) : Out :=
  onDev (fetchJob q hm (fun d x => x.opcode = opRecord && recordAction d x ≠ some 1 && recordAction d x ≠ some 2) admitJob runJob) s

/-- RECORD_STOP (R347). -/
def execRecordStop (q : Nat) (hm : Outside) (s : State) : Out := onDev (fetchJob q hm (isRecord 1) admitJob runJob) s

/-- RECORD_SWITCH (R347). -/
def execRecordSwitch (q : Nat) (hm : Outside) (s : State) : Out := onDev (fetchJob q hm (isRecord 2) admitJob runJob) s

/-- REPLAY_CTL (R348). -/
def execReplayCtl (q : Nat) (hm : Outside) (s : State) : Out := onDev (fetchJob q hm (isOp opReplay) admitJob runJob) s

/-- UNDEFINED_OPCODE_JOB (R4, R364): the job completes with INVALID_DESCRIPTOR and runs nothing. -/
def execUndefinedOpcodeJob (q : Nat) (hm : Outside) (s : State) : Out :=
  onDev (fetchJob q hm (fun _ x => !definedOpcodes.contains x.opcode) admitJob runJob) s

/-- The global count has reached a job's start count (R350): the job waits for it no longer. -/
def startAtCount (j : Nat) (d : Dev) : Dev :=
  match d.job j with
  | none => d
  | some x =>
    if x.waitCount && decide (x.desc.startCount ≤ d.gcount) then
      proceed admitJob runJob j (d.updJob j fun y => { y with waitCount := false })
    else d

/-- JOB_START_AT_COUNT (R350). -/
def execJobStartAtCount (j : Nat) (s : State) : Out := onDev (startAtCount j) s

/-- Jobs held back by a FENCE go on once it has completed (R365). -/
def releaseFence (d : Dev) (j : Nat) : Dev :=
  let q := (d.job j).map (·.q)
  let d := match q with
    | some q => if (d.sq q).fence = some j then d.updSq q fun s => { s with fence := none } else d
    | none => d
  (d.jobs.filter fun x => x.waitFence = some j).foldl (fun d x =>
    proceed admitJob runJob x.id (d.updJob x.id fun y => { y with waitFence := none })) d

/-- FENCE_RELEASE (R365): every job ahead of the FENCE has completed; it is done, and later jobs of its ring are released. -/
def fenceRelease (j : Nat) (d : Dev) : Dev :=
  match d.job j with
  | none => d
  | some x =>
    if x.desc.opcode = opFence && x.phase = .running && x.after = [] then releaseFence (endJob d j stDone) j else d

def execFenceRelease (j : Nat) (s : State) : Out := onDev (fenceRelease j) s

/-- AFTER_PREV_RELEASE (R365): the previous job of the ring has completed; the job starts, or its chain is broken. -/
def afterPrevRelease (j : Nat) (d : Dev) : Dev :=
  match d.job j with
  | none => d
  | some x => match x.waitPrev, x.prevDone with
    | some _, some st =>
      let d := d.updJob j fun y => { y with waitPrev := none }
      if st = stDone then proceed admitJob runJob j d else endJob d j stAborted 0xFE
    | _, _ => d

def execAfterPrevRelease (j : Nat) (s : State) : Out := onDev (afterPrevRelease j) s

/-! ### Ring jobs (R351, R352) -/

/-- Go reaches this module's part: late once the start count has passed (R351, R352). -/
def goJob (d : Dev) (j : Nat) : Dev :=
  match d.job j with
  | none => d
  | some x =>
    let n := x.desc.startCount
    let d := if decide (1000 * n < d.now) then d.forCount 5 else d
    proceed admitJob runJob j (d.updJob j fun y => { y with waitGo := false, waitCount := y.waitCount && decide (d.gcount < n) })

/-- The ring job with a TAG that waits for its go: at module 0 for answers, elsewhere for module 0's word. -/
def ringJobOf (d : Dev) (tag : U64) (own : Bool) : Option Job :=
  d.jobs.find? fun x => x.waitGo && x.desc.tag = tag.toNat && x.phase = .waiting && decide ((x.q < 65) = own)

/-- A module's answer: once all are in, go to every module, or cancel (R351). -/
def ringAnswer (m : Nat) (tag : U64) (a : RingAnswer) (d : Dev) : Dev :=
  match ringJobOf d tag true with
  | none => d
  | some x =>
    if !x.ringWait.contains m then d
    else
      let j := x.id
      let d := d.updJob j fun y =>
        { y with ringWait := y.ringWait.filter (· ≠ m), ringRefused := y.ringRefused || a ≠ .admitted,
                 cause := match a with
                   | .refused c => if y.ringRefused then y.cause else c
                   | _ => y.cause,
                 status := if a = .noImage then stInvalid else y.status }
      match d.job j with
      | none => d
      | some y =>
        if y.ringWait ≠ [] then d
        else if y.status = stInvalid then endJob d j stInvalid
        else if y.ringRefused then closeSolve j (refuseJob d j y.cause)
        else goJob (toRing d 3 y.desc.tag []) j

/-- RING_JOB_ANSWER (R351). -/
def execRingJobAnswer (m : Nat) (tag : U64) (a : RingAnswer) (s : State) : Out := onDev (ringAnswer m tag a) s

/-- RING_JOB_GO (R351, R352). -/
def execRingJobGo (tag : U64) (s : State) : Out :=
  onDev (fun d => match ringJobOf d tag false with
    | some x => goJob d x.id
    | none => d) s

/-- This module's part of a ring job is over without a trace: nothing of it was started. -/
def dropPart (d : Dev) (j : Nat) : Dev :=
  let d := withdrawAttn (endJob d j stRefused) j
  { d with jobs := d.jobs.filter fun y => y.id ≠ j,
           solv := { d.solv with problems := d.solv.problems.filter fun p => p.job ≠ j } }

/-- RING_JOB_CANCEL (R351, R352): this module starts nothing of the job. -/
def execRingJobCancel (tag : U64) (s : State) : Out :=
  onDev (fun d => match ringJobOf d tag false with
    | some x => dropPart d x.id
    | none => d) s

end Sys2Proof.Machine
end

