-- ==== Sys2Proof/Machine/Post.lean ====
section
/-! DEFINITION. Completions (R366 to R369), passes of triggered rings (R370, R371), re-execution (R93, R222, R334, R339, R448). -/

namespace Sys2Proof.Machine

/-! ### What a job leaves when it completes (R136, R151, R294, R381, R382) -/

/-- The dirty lines of a tile are discarded. -/
def dropDirty (d : Dev) (t : Nat) : Dev :=
  d.updTile t fun x =>
    { x with dirtyJob := none,
             cache := x.cache.filterMap fun e =>
               let l := e.2.filter fun c => !c.dirty
               if l = [] then none else some (e.1, l) }

/-- The tiles of job `j` are at rest: lines written back, or lost with an abort; no transfer of the job is left. -/
def settleTiles (d : Dev) (j status : Nat) : Dev :=
  let dirty := (upto tileCount).filter fun t => (d.tile t).dirtyJob = some j
  let d := dirty.foldl (fun d t => if status = stAborted then dropDirty d t else writeBackAll d t) d
  let ts := tilesOf d j
  let d := if status ≤ stFallback then d else withdrawCopies (ts.foldl withdrawTile d) j
  let d := freeTiles d ts
  (upto tileCount).foldl (fun d t => d.updTile t fun x => { x with items := x.items.filter fun i => i.job ≠ j }) d

/-! ### The entry (R366, R367) -/

/-- The submitting ring's head. -/
def headOf (d : Dev) (q : Nat) : Nat := if q = 64 then d.fld supqHeadIndex else d.fld sqStatusHead q

/-- The 32 bytes of a completion entry. -/
def cqEntry (d : Dev) (x : Job) (phase : Nat) : List Byte :=
  leBytes 8 x.desc.tag ++ leBytes 1 x.status ++ leBytes 1 x.desc.opcode ++ leBytes 2 x.flags ++ leBytes 1 x.q ++ leBytes 1 phase ++
    leBytes 2 (headOf d x.q) ++ leBytes 4 (x.detailIdx % 16384 + 2 ^ 16 * (x.cause % 256)) ++ leBytes 4 0 ++ leBytes 8 d.now

/-- The entry goes into the supervisor's completion queue (R390). -/
def postSup (d : Dev) (x : Job) : Dev :=
  let t := d.fld supcqTailIndex
  let ph := d.fld supcqTailPhase
  let b := cqEntry d x ph
  let put (b' : Bank) (i : Nat) : Bank := bankSet b' (rSupcqEntry + 32 * t + 4 * i) (BitVec.ofNat 32 (recLe b (4 * i) 4))
  let d : Dev := { d with regs := (upto 8).foldl put d.regs }
  let d := (d.setFld supcqTailIndex (t + 1)).setFld supcqTailPhase (if t = 15 then 1 - ph else ph)
  (d.setFld supStatusCplPending 1).updCq 64 fun c => { c with used := c.used + 1, reserved := c.reserved - 1 }

/-- An entry is lost (R367, R384). -/
def loseEntry (d : Dev) (c : Nat) (failed : Bool) : Dev := (d.incFld cqLostCount c).setIf failed cqStatusWbErr 1 c

/-- The base of a ring lies in host memory. -/
def inHost (a : Nat) : Bool := bits a 63 62 = 0

/-- The entry is written, then the tail, then the vector is signalled (R367, R369). -/
def postHost (d : Dev) (x : Job) (c : Nat) (writeFails : Bool) : Dev :=
  let d := d.updCq c fun s => { s with reserved := s.reserved - 1 }
  if !d.flag cqCfgEnable c then loseEntry d c false
  else if inHost (d.fld cqBaseAddr c) && !linkUp d then loseEntry d c false
  else
    let t := d.fld cqStatusTail c
    let ph := d.fld cqStatusPhase c
    let w := if writeFails then (d, stLinkLost) else writeAddr d (d.fld cqBaseAddr c + 32 * t) (cqEntry d x ph)
    if w.2 ≠ stDone then loseEntry w.1 c true
    else
      let t' := (t + 1) % cqSize d c
      let wb := d.fld cqTailwbAddr c
      let v := if wb = 0 then w else writeAddr w.1 wb (leBytes 4 t')
      if v.2 ≠ stDone then loseEntry v.1 c true
      else
        let d := (v.1.setFld cqStatusTail t' c).setFld cqStatusPhase (if t' = 0 then 1 - ph else ph) c
        let d := d.updCq c fun s => { s with used := s.used + 1, unsignalled := s.unsignalled + 1 }
        if d.flag cqCfgIrqEn c && decide (max 1 (d.fld cqCfgCoalCount c) ≤ (d.cq c).unsignalled) then signalCq d c else d

/-- Everything that waited for the completion of job `j` learns of it. -/
def tellWaiters (d : Dev) (j q status : Nat) : Dev :=
  let jobs := d.jobs.map fun (x : Job) =>
    { x with after := x.after.filter (· ≠ j), prevDone := if x.waitPrev = some j then some status else x.prevDone }
  let d : Dev := { d with jobs := jobs, aborts := d.aborts.map fun (a : AbortRun) => { a with left := a.left.filter (· ≠ j) } }
  if (d.sq q).lastJob = some j then d.updSq q fun s => { s with lastDone := some status } else d

/-- A job that has ended completes (R367). -/
def completionPost (j : Nat) (writeFails : Bool) (d : Dev) : Dev :=
  match d.job j with
  | none => d
  | some x =>
    if x.phase ≠ .ended then d
    else
      let d := withdrawAttn (settleTiles d j x.status) j
      let d : Dev := { d with solv := { d.solv with problems := d.solv.problems.filter fun p => p.job ≠ j } }
      let d := releaseFence d j
      let d := if x.silent || decide (64 < x.q) then
          (if decide (64 < x.q) then d else d.updCq x.cq fun s => { s with reserved := s.reserved - 1 })
        else if x.q = 64 then postSup d x
        else postHost d x x.cq writeFails
      let d := tellWaiters { d with jobs := d.jobs.filter fun y => y.id ≠ j } j x.q x.status
      let d := if x.replayed then replayPosted d j x.desc.opcode else d
      let d := if x.q < 64 then updCqStopped (updStopped (endPass d x.q) x.q) x.cq else d
      replayPump (finishAborts d)

/-- COMPLETION_POST (R367). -/
def execCompletionPost (j : Nat) (writeFails : Bool) (s : State) : Out := onDev (completionPost j writeFails) s

/-- COAL_US has passed since the first unsignalled entry (R369). -/
def coalTimer (k : Nat) (d : Dev) : Dev :=
  if (d.cq k).unsignalled ≠ 0 && d.fld cqCfgCoalUs k ≠ 0 && d.flag cqCfgIrqEn k then signalCq d k else d

/-- COAL_TIMER_EXPIRY (R369). -/
def execCoalTimerExpiry (k : Nat) (s : State) : Out := onDev (coalTimer k) s

/-! ### TRIGGERED_PASS (R370, R371) -/

/-- The pass that an event has started submits the ring's standing list; an event was judged when it came (R370). -/
def triggeredPass (k : Nat) (d : Dev) : Dev :=
  let d := countEvent d k
  match (d.sq k).pass with
  | none => d
  | some p => endPass (d.updSq k fun s => { s with pass := some { p with waits := false } }) k

/-- TRIGGERED_PASS (R370). -/
def execTriggeredPass (k : Nat) (s : State) : Out := onDev (triggeredPass k) s

end Sys2Proof.Machine
end

