-- ==== Sys2Proof/Machine/Plaong.lean ====
section
/-! DEFINITION. The Plaong links and the ring (R351, R415 to R423, R528). The contents of ring control flits and of messages are
the model's choice (DESIGN CHOICE, notes/assumptions/40). -/

namespace Sys2Proof.Machine

def linkIsUp (d : Dev) (l : Nat) : Bool := decide (l < 2) && d.flag plkLinkStatusUp l

/-- Ring control, by what it says: the head's discovery; a break at the sender's side toward `dst`; the formation's end with its
count, closed or not; RING_ERR; a module aligns, or has aligned; a module leaves. -/
def rcDiscover : Nat := 0
def rcBreak : Nat := 1
def rcFormed : Nat := 2
def rcError : Nat := 3
def rcAligning : Nat := 4
def rcAligned : Nat := 5
def rcLeave : Nat := 6

/-- A ring control flit on link `l`, if it is up. -/
def ringControl (d : Dev) (l what dst src : Nat) : Dev :=
  if linkIsUp d l then controlFlit d l .ringControl 0 0 dst src what else d

/-! ### Ring jobs on this module (R351) -/

/-- The hub's number for ring jobs that came from module 0. -/
def partQueue : Nat := 65

/-- This module's answer goes to module 0: 0 admitted, 1 refused with a cause, 2 no image. -/
def answerPart (d : Dev) (tag code cause : Nat) : Dev := sendRing d 0 2 5 tag (leBytes 1 code ++ leBytes 1 cause)

/-- A job from module 0: this module admits its part and waits for go, or refuses it. -/
def takePart (d : Dev) (raw : List Byte) : Dev :=
  let x := parseDesc raw
  if needsImage x && !imageUsable d x.image then answerPart d x.tag 2 0
  else
    let id := d.nextJob
    let job : Job := { id := id, q := partQueue, desc := x, waitGo := true, waitCount := true, silent := true, readAt := d.now,
                       flags := if bit x.flags 0 then cfStrict else 0 }
    let d : Dev := { d with jobs := d.jobs ++ [job], nextJob := id + 1 }
    if admissionOff d x then
      answerPart { d with jobs := d.jobs.filter fun y => y.id ≠ id } x.tag 1 9
    else
      let d := proceed admitJob runJob id d
      match d.job id with
      | none => d
      | some y =>
        if y.phase = .ended then
          let code := if y.status = stInvalid then 2 else 1
          answerPart (dropPart d id) x.tag code y.cause
        else answerPart d x.tag 0 0

/-! ### Sequences that move with a leaving module (R528) -/

/-- The bytes of an entry of a sequence and of its pages. -/
def pageMessage (d : Dev) (s idx : Nat) (q : Seq) (e : PtEntry) : List Byte :=
  let data (p : Nat) : List Byte := if p = noPage then [] else memReadN d.mem (pageAddr d p) pageBytes
  leBytes 2 s ++ leBytes 1 (b2n q.split) ++ leBytes 1 (b2n e.evicted) ++ leBytes 4 q.d ++ leBytes 4 idx ++ leBytes 2 e.fill ++
    leBytes 2 e.score ++ data e.p0 ++ data e.p1

/-- The pages of an entry are written to fresh pages from message bytes; an entry without room holds no page. -/
def takePages (d : Dev) (s idx dd : Nat) (l : List Byte) : Dev × Nat × Nat :=
  let n := l.length / pageBytes
  if n = 0 || d.freePages < n then (d, noPage, noPage)
  else
    let a := allocPage d s idx dd 0
    let d := { a.1 with mem := memWriteN a.1.mem (pageAddr a.1 a.2) (l.take pageBytes) }
    if n < 2 then (d, a.2, noPage)
    else
      let b := allocPage d s idx dd 1
      ({ b.1 with mem := memWriteN b.1.mem (pageAddr b.1 b.2) ((l.drop pageBytes).take pageBytes) }, a.2, b.2)

/-- An entry of a sequence arrives: appended to a sequence that moves here, or put in place of one whose pages lay elsewhere. -/
def takeEntry (d : Dev) (split : Bool) (b : List Byte) : Dev :=
  let s := recLe b 0 2
  let dd := recLe b 4 4
  let idx := recLe b 8 4
  let r := takePages d s idx dd (b.drop 16)
  let d := r.1
  let e : PtEntry := { p0 := r.2.1, p1 := r.2.2, evicted := r.2.1 = noPage && !split, fill := recLe b 12 2, score := recLe b 14 2 }
  let q := d.seq s
  if split then if idx < q.entries.length then (d.setSeq s { q with entries := listSet q.entries idx e }).labDrop s idx else d
  else if idx ≠ q.entries.length then d
  else
    let n := d.attn.births
    let d : Dev := if q.active then d else { d with attn := { d.attn with births := n + 1 } }
    d.setSeq s { q with active := true, d := dd, entries := q.entries ++ [e], ringM := d.modules, born := if q.active then q.born else n }

/-- The pages of split sequences that lie on another module once module `gone` has left: sent to their new place (R310, R528). -/
def moveSplitPages (gone : Nat) (d : Dev) : Dev :=
  let surv := (upto d.modules).filter (· ≠ gone)
  let n := surv.length
  d.attn.seqs.foldl (fun d e =>
    let q := e.2
    if !q.active || !q.split || n = 0 then d
    else
      let d := (upto q.entries.length).foldl (fun d i =>
        let x := (d.seq e.1).entries.getD i { p0 := noPage }
        let t := surv.getD (i % n) 0
        if x.evicted || x.p0 = noPage || t = d.position then d
        else
          let d := sendRing d t 2 7 0 (pageMessage d e.1 i q x)
          let d := dropRef (dropRef d x.p0) x.p1
          let q' := d.seq e.1
          (d.setSeq e.1 { q' with entries := listSet q'.entries i { x with p0 := noPage, p1 := noPage } }).labDrop e.1 i) d
      d.setSeq e.1 { d.seq e.1 with ringM := n }) d

/-- The sequences without SPLIT go to the neighbour at the next lower position, or the next higher from module 0; alone, they are
lost (R528). -/
def moveSequences (d : Dev) : Dev :=
  let t := if d.position = 0 then 1 else d.position - 1
  d.attn.seqs.foldl (fun d e =>
    if !e.2.active || e.2.split then d
    else
      let d := if d.modules < 2 then d
        else (upto e.2.entries.length).foldl (fun d i => sendRing d t 2 6 0 (pageMessage d e.1 i e.2 (e.2.entries.getD i { p0 := noPage }))) d
      seqFree d e.1) d

/-! ### Healing (R422) -/

/-- A job ends because a module that had a part of it is lost. -/
def loseJob (d : Dev) (j : Nat) : Dev :=
  let ps := d.solv.problems.filter fun p => p.job = j && p.phase ≠ .ended
  if ps = [] then jobFault d j stLinkLost else ps.foldl (fun d p => faultProblem d j p.idx stLinkLost) d

/-- The survivors renumber themselves in ascending order; a place is broken between two that were not next to each other. -/
def renumber (surv : List Nat) (d : Dev) : Dev :=
  let m := d.modules
  let n := surv.length
  let old (i : Nat) : Nat := surv.getD (i % n) 0
  let brk := (upto n).filter fun i => old (i + 1) ≠ (old i + 1) % m || d.links.breaks.contains (old i)
  let pos := (surv.filter fun p => decide (p < d.position)).length
  let applied := (upto n).foldl (fun (a : SMap Nat) i => mapSet 0 a i (mapGet 0 d.links.applied (old i))) []
  let place (b : Byte) : Byte := BitVec.ofNat 8 ((surv.filter fun p => decide (p < b.toNat)).length)
  let again (k : Link) : Link := { k with replay := k.replay.map fun f => ({ f.1 with dst := place f.1.dst, src := place f.1.src }, f.2) }
  let d := ((upto 2).foldl (fun d l => d.updLink l again) d).setIf (!surv.contains 0) plkStatusAlignLost 1
  let d : Dev := { d with links := { d.links with breaks := brk, applied := applied, parts := [], aligning := [] } }
  (d.setFld plkStatusPosition pos).setFld plkStatusCount n

/-- After a break: the ring is a line; where modules are lost, ring jobs end and the survivors renumber. -/
def settleRing (leaving : Bool) (d : Dev) : Dev :=
  let surv := reachable d
  let lost := surv.length ≠ d.modules
  let d := (d.setFld plkStatusClosed 0).setFld plkStatusHealed 1
  let jobs := (d.jobs.filter fun x => x.ring && x.phase ≠ .ended && (x.q ≤ 64 || x.q = partQueue)).map (·.id)
  let d := if lost then renumber surv (if leaving then d else losePages (jobs.foldl loseJob d) surv.length) else d
  logEvent d lgHealed (leBytes 1 d.position ++ leBytes 1 d.modules)

/-- The place between positions `a` and `b` is broken. -/
def breakAt (a b : Nat) (d : Dev) : Dev :=
  let m := d.modules
  let e := if (a + 1) % m = b then a else b
  if d.links.breaks.contains e then d else { d with links := { d.links with breaks := d.links.breaks ++ [e] } }

/-- Held flits for modules that remain reachable take the other route; the others are dropped. -/
def resend (l : Nat) (fl : List (Flit × Nat)) (d : Dev) : Dev :=
  fl.foldl (fun d f => match route d f.1.dst.toNat with
    | some k => if k = l then d else queueFlit d k f.1
    | none => d) d

/-- REFORM and a link that goes down meet at one device time: the command is discarded with REFORM_ERR (R417; DEDUCED,
notes/assumptions/85). -/
def reformLost (d : Dev) : Dev :=
  ({ d.setFld plkStatusReformErr 1 with net := { d.net with forming := false } } : Dev).setFld plkCtrlReform 0

/-- Link `l` goes down (R415, R417, R422). A module alone on its side knows of no other. -/
def linkDown (l : Nat) (d : Dev) : Dev :=
  if !linkIsUp d l then d
  else
    let d := if d.net.forming && d.links.reformAt = some d.time then reformLost d else d
    let d : Dev := { d with links := { d.links with downAt := some d.time } }
    let held := (d.link l).replay
    let d := logEvent ((d.setFld plkLinkStatusUp 0 l).setFld plkLinkStatusDownSeen 1 l) lgLinkDown (leBytes 1 l)
    let d := d.updLink l fun _ => {}
    if d.modules < 2 then d
    else
      let m := d.modules
      let p := d.position
      let q := if l = 0 then (p + 1) % m else (p + m - 1) % m
      let d := if l = 0 then breakAt p q d else breakAt q p d
      let d := ringControl d (1 - l) rcBreak q p
      settleRing false (resend l held d)

/-- LANE_LOCK_LOSS (R415). -/
def execLaneLockLoss (l : Nat) (s : State) : Out := onDev (linkDown l) s

/-- ACK_TIMEOUT (R417): flits are outstanding and none was acknowledged. -/
def execAckTimeout (l : Nat) (s : State) : Out := onDev (fun d => if (d.link l).replay = [] then d else linkDown l d) s

/-- A 1 ms window ends (R417). -/
def retryWindow (l : Nat) (ovr : Bool) (d : Dev) : Dev :=
  if !linkIsUp d l then d
  else if !ovr then d.updLink l fun k => { k with badWindows := 0 }
  else
    let d := (d.setFld plkLinkStatusDegraded 1 l).updLink l fun k => { k with badWindows := k.badWindows + 1 }
    if 10 ≤ (d.link l).badWindows then linkDown l d else d

/-- RETRY_WINDOW_END (R417). -/
def execRetryWindowEnd (l : Nat) (ovr : Bool) (s : State) : Out := onDev (retryWindow l ovr) s

/-! ### Formation (R418, R423) -/

/-- Formation begins on module 0: a discover flit on link A. -/
def discover (d : Dev) : Dev :=
  let d : Dev := { d with net := { d.net with forming := true } }
  ringControl d 0 rcDiscover 0 0

/-- LINK_TRAINED (R418): with both links trained, module 0 begins the first formation. -/
def linkTrained (l : Nat) (d : Dev) : Dev :=
  if 2 ≤ l || !d.boot.powered || !d.flag plkCtrlEnable || linkIsUp d l then d
  else
    let d := (d.setFld plkLinkStatusUp 1 l).updLink l fun _ => {}
    if d.flag plkCtrlHead && linkIsUp d 0 && linkIsUp d 1 && !d.links.formed then discover d else d

/-- LINK_TRAINED (R418). -/
def execLinkTrained (l : Nat) (s : State) : Out := onDev (linkTrained l) s

/-- A second head or a ninth position: this module runs alone. -/
def ringError (d : Dev) : Dev :=
  let d := (((d.setFld plkStatusRingErr 1).setFld plkStatusCount 1).setFld plkStatusPosition 0).setFld plkStatusClosed 0
  let d := (d.setFld plkCtrlReform 0).setFld plkStatusAligning 0
  { d with net := { d.net with forming := false, stepDue := false }, links := { d.links with breaks := [], aligning := [] } }

/-- Formation ends with `m` modules. A module other than 0 that has been set up aligns its time first (R421). -/
def formed (m pos : Nat) (closed : Bool) (d : Dev) : Dev :=
  let d := ((d.setFld plkStatusCount m).setFld plkStatusPosition pos).setFld plkStatusClosed (b2n closed)
  let d := d.setFld plkCtrlReform 0
  let d : Dev := { d with net := { d.net with forming := false },
                          links := { d.links with formed := true, breaks := if closed || m < 2 then [] else [m - 1], aligned := 0,
                                                  parts := [] } }
  if pos ≠ 0 && d.flag devCtrlSetupLock && decide (1 < m) then
    let d := d.setFld plkStatusAligning 1
    match route d 0 with
    | some l => ringControl d l rcAligning 0 pos
    | none => d
  else d

/-- A discover flit reaches this module from position `pos`; `own` says that it is this module's own, back on link B. -/
def ringDiscover (pos : Nat) (own : Bool) (d : Dev) : Dev :=
  if !d.flag plkCtrlEnable || !(linkIsUp d 0 || linkIsUp d 1) then d
  else if d.flag plkCtrlHead then
    if !own then ringControl (ringError d) 0 rcError 0 0
    else if !d.net.forming then d
    else ringControl (formed (pos + 1) 0 true d) 0 rcFormed (pos + 1) 1
  else if 8 ≤ pos + 1 then ringControl (ringControl (ringError d) 0 rcError 0 0) 1 rcError 0 0
  else
    let d : Dev := { d.setFld plkStatusPosition (pos + 1) with net := { d.net with forming := true } }
    if linkIsUp d 0 then ringControl d 0 rcDiscover 0 (pos + 1)
    else ringControl (formed (pos + 2) (pos + 1) false d) 1 rcFormed (pos + 2) 0

/-- RING_DISCOVER (R418). -/
def execRingDiscover (pos : Nat) (head : Bool) (s : State) : Out := onDev (ringDiscover pos head) s

/-- PLK_CTRL.REFORM is written: formation repeats; module 0 only (R423). (DEDUCED, notes/assumptions/85.) -/
def reform (d : Dev) : Dev :=
  if !d.flag plkCtrlHead then d
  else if d.links.downAt = some d.time then d.setFld plkStatusReformErr 1
  else discover { d.setFld plkCtrlReform 1 with links := { d.links with reformAt := some d.time } }

/-! ### Ring control that arrives -/

/-- What a ring control flit received on link `l` means here; it travels on by the other link. -/
def takeControl (l : Nat) (f : Flit) (d : Dev) : Dev :=
  let src := f.src.toNat
  let dst := f.dst.toNat
  let pass (d : Dev) : Dev := ringControl d (1 - l) f.msgSeq.toNat dst src
  let what := f.msgSeq.toNat
  if what = rcDiscover then ringDiscover src (d.flag plkCtrlHead && l = 1 && d.net.forming) d
  else if what = rcBreak then
    if d.modules < 2 || src = d.position then d else settleRing false (pass (breakAt src dst d))
  else if what = rcFormed then
    if !d.net.forming then d
    else if d.flag plkCtrlHead then if src = 0 then formed dst 0 false d else d
    else pass (formed dst d.position (src ≠ 0) d)
  else if what = rcError then if d.flag plkStatusRingErr then d else pass (ringError d)
  else if what = rcAligning then
    if d.position = 0 then
      ({ d with links := { d.links with aligning := if d.links.aligning.contains src then d.links.aligning else d.links.aligning ++ [src] } } :
        Dev).setFld plkStatusAligning 1
    else pass d
  else if what = rcAligned then
    if d.position = 0 then
      let rest := d.links.aligning.filter (· ≠ src)
      ({ d with links := { d.links with aligning := rest } } : Dev).setFld plkStatusAligning (b2n (rest ≠ []))
    else pass d
  else if what = rcLeave then
    if d.modules < 2 || src = d.position then d
    else
      let d := pass (moveSplitPages src d)
      let m := d.modules
      settleRing true (breakAt src ((src + 1) % m) (breakAt ((src + m - 1) % m) src d))
  else d

/-! ### FLIT_RECEIVE (R416, R419) -/

/-- A whole message from module `src` takes effect. -/
def takeMessage (src what tag : Nat) (b : List Byte) (d : Dev) : Dev :=
  let t := BitVec.ofNat 64 tag
  match what with
  | 0 => takePart d (b.take 64)
  | 1 =>
    let a := recLe b 1 2
    let x := recLe b 3 4
    let y := recLe b 7 4
    if d.ringCount ≤ 1 || d.ringPos = 0 then d
    else
      let c := match recLe b 0 1 with
        | 0x21 => some (SplitChange.append a x (rowsOfBytes (b.drop 11) ((b.length - 11) / 512)))
        | 0x22 => some (SplitChange.fork a x y)
        | 0x23 => some (SplitChange.free a)
        | 0x24 => some (SplitChange.evict a ((upto x).map fun k => recLe b (11 + 4 * k) 4))
        | _ => none
      match c with
      | some c => queueChange d (.ring c)
      | none => d
  | 2 => ringPartial tag { row := recLe b 0 4, m := recLe b 4 4, l := recLe b 8 4
                           o := (upto ((b.length - 12) / 4)).map fun i => recLe b (12 + 4 * i) 4 } d
  | 3 => match ringJobOf d t false with
    | some x => goJob d x.id
    | none => d
  | 4 => match ringJobOf d t false with
    | some x => dropPart d x.id
    | none => d
  | 5 => ringAnswer src t (match recLe b 0 1 with
    | 0 => .admitted
    | 1 => .refused (recLe b 1 1)
    | _ => .noImage) d
  | 6 => takeEntry d false b
  | 7 => takeEntry d true b
  | 8 => takeFinals tag (recLe b 0 4) (recLe b 4 4)
      ((upto (recLe b 8 4)).map fun i => (recLe b (12 + 12 * i) 4, recLe b (16 + 12 * i) 4, recLe b (20 + 12 * i) 4)) d
  | 9 => takeMasses (recLe b 0 4) (recLe b 4 4) ((upto (recLe b 8 4)).map fun i => (recLe b (12 + 8 * i) 4, recLe b (16 + 8 * i) 4)) d
  | _ => d

/-- A flit for this module: its payload joins the message under way; a whole message takes effect. A number already applied is
discarded. -/
def deliverFlit (f : Flit) (d : Dev) : Dev :=
  let src := f.src.toNat
  let n := f.msgSeq.toNat
  if n ≤ mapGet 0 d.links.applied src then d
  else
    let buf := mapGet [] d.links.parts src ++ f.payload
    let len := 16 + recLe buf 4 4
    let whole := decide (len ≤ buf.length)
    let d : Dev := { d with links := { d.links with applied := mapSet 0 d.links.applied src n,
                                                    parts := mapSet [] d.links.parts src (if whole then [] else buf) } }
    if whole then takeMessage src (recLe buf 0 4) (recLe buf 8 8) ((buf.drop 16).take (len - 16)) d else d

/-- A data flit goes to its module: this one, or on by the route. -/
def routeFlit (f : Flit) (d : Dev) : Dev :=
  if f.dst.toNat = d.position || d.modules < 2 then deliverFlit f d
  else match route d f.dst.toNat with
    | some l => queueFlit d l f
    | none => d

/-- Flits up to number `ack` are acknowledged; those that wait for a place are sent. -/
def takeAck (l ack : Nat) (d : Dev) : Dev :=
  let k := d.link l
  match (upto (min 128 k.replay.length)).find? fun i => ((k.replay[i]?).map fun f => f.1.seq.toNat) = some ack with
  | none => d
  | some i =>
    let rest := k.replay.drop (i + 1)
    let new := (rest.take 128).drop (128 - (i + 1))
    let d := d.updLink l fun k => { k with replay := rest }
    new.foldl (fun d f => emitFlit d l f.1) d

/-- A negative acknowledgement: from the flit it names on, flits are sent again, and a flit sent again 8 times takes the link
down (R416, R417). -/
def takeNack (l want : Nat) (d : Dev) : Dev :=
  let d := takeAck l ((want + 4095) % 4096) d
  let k := d.link l
  if (k.replay.head?.map fun f => f.1.seq.toNat) ≠ some want then d
  else
    let n := min 128 k.replay.length
    let again := (k.replay.take n).map fun f => (f.1, f.2 + 1)
    let d := (d.updLink l fun k => { k with replay := again ++ k.replay.drop n }).incFld plkLinkRetryCount l n
    if again.any fun f => decide (8 ≤ f.2) then linkDown l d else again.foldl (fun d f => emitFlit d l f.1) d

/-- A flit that is not the next good one: one negative acknowledgement names the number expected (R416). -/
def sendNack (l : Nat) (d : Dev) : Dev :=
  if (d.link l).nacked then d
  else controlFlit (d.updLink l fun k => { k with nacked := true }) l .nack (d.link l).expect 0 0 0 0

/-- A flit arrives on link `l`. It is good if its blocks were coded well and its CRC is theirs (R415). -/
def flitReceive (l : Nat) (f : Flit) (ok : Bool) (d : Dev) : Dev :=
  if !linkIsUp d l then d
  else if !ok || f.crc ≠ flitCrc f then sendNack l d
  else match f.type with
    | .ack => takeAck l f.ackSeq.toNat d
    | .nack => takeNack l f.seq.toNat d
    | .delay => d
    | .ringControl => takeControl l f d
    | .data =>
      if f.seq.toNat ≠ (d.link l).expect then sendNack l d
      else
        let d := takeAck l f.ackSeq.toNat d
        let d := d.updLink l fun k => { k with expect := (k.expect + 1) % 4096, nacked := false }
        routeFlit f (controlFlit d l .ack 0 f.seq.toNat 0 0 0)

/-- FLIT_RECEIVE (R416). -/
def execFlitReceive (l : Nat) (x : Flit) (crcOk : Bool) (s : State) : Out := onDev (flitReceive l x crcOk) s

/-! ### Ring time (R420, R421) -/

/-- No deadline-class job, problem with a deadline or job with a start count runs or waits (R421). -/
def noTimedWork (d : Dev) : Bool :=
  d.jobs.all (fun x => x.phase = .ended || (x.desc.cls = 0 && x.desc.startCount = 0)) &&
    d.solv.problems.all fun p => p.phase = .ended || p.deadline.isNone

/-- A measurement: the delay in 1/16 ns, and module 0's time less this module's in ns. The new increment is the servo's, and
free. -/
def delayMeasured (l delay : Nat) (offset : Int) (d : Dev) : Dev :=
  if !linkIsUp d l then d
  else
    let d := d.setFld plkLinkDelayDelay (delay % 2 ^ 24) l
    if d.modules < 2 || d.position = 0 then d
    else if d.flag plkStatusAligning && decide (1000 < offset) && !d.net.stepDue && d.links.aligned = 0 then
      { d with net := { d.net with stepDue := true } }
    else
      let d := (d.bump).setFld timeIncInc (clampInc (Config.freeU64 d.freeCtr).toNat)
      if !d.flag plkStatusAligning || d.net.stepDue then d
      else
        let n := if decide (-4 ≤ offset ∧ offset ≤ 4) then d.links.aligned + 1 else 0
        if n < 16 then { d with links := { d.links with aligned := n } }
        else
          let d := ({ d with links := { d.links with aligned := 0 } } : Dev).setFld plkStatusAligning 0
          match route d 0 with
          | some k => ringControl d k rcAligned 0 d.position
          | none => d

/-- DELAY_MEASUREMENT (R420). -/
def execDelayMeasurement (l : Nat) (delay16 : Nat) (offset : Int) (s : State) : Out := onDev (delayMeasured l delay16 offset) s

/-- The step of R421: forward, at an instant free of timed work. -/
def timeAlign (tgt : Nat) (d : Dev) : Dev :=
  if d.net.stepDue && noTimedWork d && decide (d.now < tgt) then
    ({ d with time := tgt * 2 ^ 32, net := { d.net with stepDue := false } } : Dev).setFld timeStatusStepped 1
  else d

/-- TIME_ALIGN_STEP (R421). -/
def execTimeAlignStep (tgt : U64) (s : State) : Out := onDev (timeAlign tgt.toNat) s

/-! ### Leaving (R423, R528) -/

/-- The module leaves: its sequences move, the ring becomes a line without it. (DEDUCED, notes/assumptions/86.) -/
def leaveRing (d : Dev) : Dev :=
  let d := moveSplitPages d.position (moveSequences d)
  let d := ringControl (ringControl d 0 rcLeave 0 d.position) 1 rcLeave 0 d.position
  let d := ((d.setFld plkStatusCount 1).setFld plkStatusPosition 0).setFld plkStatusClosed 0
  let links : Links := { d.links with breaks := [], aligning := [], parts := [] }
  ({ d with links := links } : Dev).setFld plkStatusAligning 0

end Sys2Proof.Machine
end

