-- ==== Sys2Proof/Machine/Flash.lean ====
section
/-! DEFINITION. The NOR flash (R491, R492): boot pointer, image slots and the validity of an image. -/

namespace Sys2Proof.Machine

/-- The non-volatile write guard holds (R510). -/
def guardHeld (d : Dev) : Bool := d.flag clrGuardHeld

/-! ### The boot pointer (R491, R502) -/

/-- The boot pointer as the firmware has it: in flash, or waiting for the write guard. -/
def State.ptrs (s : State) : SMap BootPtr := s.dev.mgmt.ptr.getD s.nv.boot

/-- Kind `k`'s byte of the boot pointer. -/
def State.bootPtr (s : State) (k : Nat) : BootPtr := mapGet {} s.ptrs k

/-- The kinds of image. -/
def imageKinds : List Nat := [1, 2, 3, 4, 5]

/-- Some kind is in trial, or will be when its switch takes place. -/
def State.inTrial (s : State) : Bool := s.dev.mgmt.switching ≠ [] || imageKinds.any fun k => (s.bootPtr k).trial

/-- MGMT_STATUS.TRIAL follows the boot pointer. -/
def trialStatus (s : State) : State := { s with dev := s.dev.setFld mgmtStatusTrial (b2n s.inTrial) }

/-- The boot pointer is written, or waits while the write guard holds (R502). -/
def setBootPtr (k : Nat) (p : BootPtr) (s : State) : State :=
  let t := mapSet {} s.ptrs k p
  trialStatus (if guardHeld s.dev then { s with dev := { s.dev with mgmt := { s.dev.mgmt with ptr := some t } } }
    else { s with nv := { s.nv with boot := t, gen := s.nv.gen + 1 } })

/-! ### Slots -/

/-- The bytes of a slot of kind `k` (R491). -/
def slotSize (k : Nat) : Nat :=
  match k with
  | 1 => 2 * 2 ^ 20
  | 2 => 2 ^ 20
  | 3 => 8 * 2 ^ 20
  | 4 => 512 * 1024
  | 5 => 256 * 1024
  | _ => 0

/-- Slot A or B of kind `k`. -/
def State.slot (s : State) (k : Nat) (b : Bool) : FlashSlot := mapGet {} s.nv.slots (2 * k + b2n b)

def State.setSlot (s : State) (k : Nat) (b : Bool) (x : FlashSlot) : State :=
  { s with nv := { s.nv with slots := mapSet {} s.nv.slots (2 * k + b2n b) x } }

/-- `n` bytes of a slot from offset `o`; an erased byte reads 0xFF. -/
def FlashSlot.read (x : FlashSlot) (o n : Nat) : List Byte := (upto n).map fun i => mapGet 0xFF x.bytes (o + i)

/-- The body of the image in a slot. -/
def FlashSlot.body (x : FlashSlot) : List Byte := match x.img with
  | some i => x.read 512 i.length
  | none => []

/-! ### Validity (R492, R495, R496) -/

/-- Bytes 0 to 31 of the digest of a root key slot's public key, as fused; slot 0xF is the integrator's. -/
def keyDigest (f : Fuses) (slot : Nat) : Option (List Byte) :=
  if slot < 4 then some ((sha512 (beBytes 133 (Config.slotKey slot).toNat)).take 32)
  else if slot = 15 then f.intKey
  else none

/-- The image written to a slot of kind `k`: its header, and whether the conditions of R492 that do not change hold. A header that does
not have the layout's FORMAT, KEY_SLOT for its kind, or LIB_EPOCH of 0 beside kind 3 is taken as no image (DEDUCED,
notes/assumptions/143). -/
def readImage (f : Fuses) (k : Nat) (x : FlashSlot) : FlashImg :=
  let h := x.read 0 512
  let slot := recLe h 5 1
  let len := recLe h 16 4
  let key := (h.drop 244).take 133
  let serial := (h.drop 32).take 16
  let fits := decide (512 + len ≤ slotSize k)
  let sound := recLe h 0 4 = 1 && recLe h 4 1 = k && fits && decide ((slot = 15) = (k = 5)) &&
    keyDigest f slot = some ((sha512 key).take 32) && (serial = List.replicate 16 0 || serial = moduleSerial) &&
    (k = 3 || recLe h 7 1 = 0) && ecVerify key (sha512 (h.take 112)) ((h.drop 112).take 132) &&
    (h.drop 48).take 64 = sha512 (x.read 512 len)
  { keySlot := slot, svn := recLe h 6 1, libEpoch := recLe h 7 1, version := recLe h 8 8, length := len,
    digest := (h.drop 48).take 64, sound := sound }

/-- An image signed with a revoked slot, or older than the fuse counter, is invalid (R495, R496); kind 5 needs the integrator's
key. -/
def imgValid (f : Fuses) (k : Nat) (i : FlashImg) : Bool :=
  i.sound && (if k = 5 then f.intKey.isSome else !bit f.revoked.toNat i.keySlot && decide (f.f ≤ i.svn))

/-- The valid image of a slot. -/
def State.goodImg (s : State) (k : Nat) (b : Bool) : Option FlashImg := (s.slot k b).img.filter (imgValid s.nv.fuses k)

/-- The image that the boot pointer makes active. -/
def State.activeImg (s : State) (k : Nat) : Option FlashImg := (s.slot k (s.bootPtr k).slotB).img

end Sys2Proof.Machine
end

