-- ==== Sys2Proof/Machine/Lock.lean ====
section
/-! DEFINITION. The lock-time actions (R551). -/

namespace Sys2Proof.Machine

/-- Bytes of the image store, of the recording queue, and the least user DDR4 (R551). -/
def imageStoreBytes : Nat := 256 * 2 ^ 20
def recordQueueBytes : Nat := 256 * 1024
def userLeast : Nat := 0x40000000
/-- Canopy that the reservations may take. -/
def canopyLimit : Nat := 80 * 2 ^ 20

/-- MiB of the warm-start store (R231). -/
def warmMib (d : Dev) : Nat := min 32 (d.fld solvWarmSizeWarmMib)

/-- Orders 1 and 2: DDR4 downward, Canopy upward. A store that cannot hold its share gets no page slots, and POOL_CFG_ERR sets
(DEDUCED, notes/assumptions/33). -/
def reserveStores (d : Dev) : Dev :=
  let nd := d.fld attnPoolDdrPages
  let nc := min 1024 (d.fld attnPoolCanopyPages)
  let store := spareBase - pageTableBytes - imageStoreBytes
  let okD := decide (userLeast + nd * pageBytes ≤ store)
  let slotsD := if okD then store - nd * pageBytes else store
  let warm := warmMib d * 2 ^ 20
  let info := warm + 8 * (nd + nc)
  let slotsC := (info + 511) / 512 * 512
  let okC := decide (info + nc * pageBytes + recordQueueBytes ≤ canopyLimit)
  let free := slotsC + (if okC then nc * pageBytes else 0) + recordQueueBytes
  let nd := if okD then nd else 0
  let nc := if okC then nc else 0
  let d : Dev := { d with
    regions := { imageStore := store, imageStoreLen := imageStoreBytes, canopyFree := canopyBase + free, warmBytes := warm },
    attn := { d.attn with pool := nd + nc, canopyBase := canopyBase + slotsC, ddrBase := slotsD, canopySlots := nc, ddrSlots := nd } }
  let d := (d.setFld memUserTopAddr slotsD).setFld attnStatusPoolCfgErr (b2n (!(okD && okC)))
  d.setFld attnFreePages (nd + nc)

/-- Order 3 (R332). -/
def shareBad (d : Dev) : Bool :=
  let sum (i : Nat) : Nat := d.fld forShareDc1 i + d.fld forShareDc2 i + d.fld forShareDc3 i + d.fld forShareDc4 i
  decide (64 < sum 0 + d.fld forSlackSlack) || (upto 4).any fun i => decide (60 < sum (i + 1))

/-- Order 4 (R372). -/
def fifoBad (d : Dev) : Bool :=
  let stream (n : Nat) : Nat := if d.flag streamCfgEnable n then fifoDepth d n * entryBytes (d.fld streamCfgEntry64 n) else 0
  let plan := if d.flag planCfgEnable then d.planDepth * d.planEntryBytes else 0
  decide (524288 < (upto 8).foldl (fun a n => a + stream n) plan)

/-- Order 5 (R409): templates that are refused. -/
def templatesBad (d : Dev) : List Nat := (upto 64).filter fun k => templateBad (d.tmpl k)

/-- A refused template sets TMPL_ERR, one that was never written included (R409; DEDUCED, notes/assumptions/34). -/
def templateErr (d : Dev) : Bool := !(templatesBad d).isEmpty

/-- Triggered rings take no count tick that fell before LOCK_DONE (R549). -/
def skipTicks (d : Dev) : Dev := (upto 64).foldl (fun d k => d.updSq k fun s => { s with lastTick := d.gcount }) d

/-- The lock-time actions in their order; LOCK_DONE sets at their end. -/
def lockActions (d : Dev) : Dev :=
  let d := reserveStores d
  let d := d.setFld forStatusShareErr (b2n (shareBad d))
  let d := d.setFld hostqStatusFifoCfgErr (b2n (fifoBad d))
  let d := if fifoBad d then hostEvent d else d
  let bad := templatesBad d
  let d : Dev := { d with net := { d.net with badTemplates := bad } }
  let d := d.setFld netStatusTmplErr (b2n (templateErr d))
  (skipTicks d).setFld devStatusLockDone 1

/-- SETUP_LOCK is written with 1: the RWL fields keep their values from now on (R16, R547, R552). -/
def setLock (d : Dev) : Dev :=
  if !d.flag devStatusReady then d.setFld devErrStatusNotReady 1
  else if d.flag devCtrlSetupLock then d
  else lockActions (d.setFld devCtrlSetupLock 1)

end Sys2Proof.Machine
end

