-- ==== Sys2Proof/Machine/LoopCore.lean ====
section
/-! DEFINITION. The loop engine's arithmetic and the path of one sample (R452 to R467, R473 to R477). -/

namespace Sys2Proof.Machine

/-! ### Arithmetic (R455, R457) -/

/-- Rounding to nearest with ties toward +∞ (R455). -/
def rnd (v : Int) (n : Nat) : Int := (v + 2 ^ (n - 1)) / 2 ^ n

def sat16 (v : Int) : Int := max (-32768) (min 32767 v)

/-- A section's coefficients (R457). -/
structure SecCoef where
  b0 : Int
  b1 : Int
  b2 : Int
  a1 : Int
  a2 : Int
  s : Nat
  ef : Bool
  en : Bool
deriving DecidableEq, Repr

/-- One sample through a section: its states, its output, whether it saturated (R457). -/
def secStep (c : SecCoef) (z : SecState) (x : Int) : SecState × Int × Bool :=
  let acc := c.b0 * x + c.b1 * z.x1 + c.b2 * z.x2 - c.a1 * z.y1 - c.a2 * z.y2
  let v := acc * 2 ^ c.s + (if c.ef then z.r else 0)
  let w := (v + 2 ^ 14) / 2 ^ 15
  if 32767 < w ∨ w < -32768 then (⟨x, z.x1, sat16 w, z.y1, 0⟩, sat16 w, true)
  else (⟨x, z.x1, w, z.y1, v - w * 2 ^ 15⟩, w, false)

/-! ### State and registers -/

def Dev.lp (d : Dev) (k : Nat) : LoopS := mapGet {} d.loop.loops k
def Dev.updLp (d : Dev) (k : Nat) (f : LoopS → LoopS) : Dev :=
  { d with loop := { d.loop with loops := mapSet {} d.loop.loops k (f (d.lp k)) } }
def Dev.pin (d : Dev) (c : Nat) : PinS := mapGet {} d.loop.pins c
def Dev.updPin (d : Dev) (c : Nat) (f : PinS → PinS) : Dev :=
  { d with loop := { d.loop with pins := mapSet {} d.loop.pins c (f (d.pin c)) } }

/-- A 16-bit field as a signed number. -/
def Dev.sfld (d : Dev) (f : Fld) (i : Nat := 0) : Int := sx 16 (d.fld f i)
def Dev.setS (d : Dev) (f : Fld) (v : Int) (i : Nat := 0) : Dev := d.setFld f (unsx 16 v) i

/-- The loop states of R468. -/
def lsOpen : Nat := 0
def lsClosed : Nat := 1
def lsTripped : Nat := 2
def lsSafe : Nat := 3

def loopState (d : Dev) (k : Nat) : Nat := d.fld loopkCtrlState k

/-- Word `n` of a section's coefficients (R479). -/
def coefKey (k b s n : Nat) : Nat := 48 * k + 24 * b + 3 * s + n

def secCoef (d : Dev) (k b s : Nat) : SecCoef :=
  let w (n : Nat) : Nat := (mapGet 0 d.loop.coef (coefKey k b s n)).toNat
  { b0 := sx 16 (w 0), b1 := sx 16 (w 0 / 65536), b2 := sx 16 (w 1), a1 := sx 16 (w 1 / 65536), a2 := sx 16 (w 2),
    s := bits (w 2) 18 16, ef := bit (w 2) 19, en := bit (w 2) 20 }

/-- LOOP_STATUS.SAFE follows the loops (R479). -/
def updLoopSafe (d : Dev) : Dev := d.setFld loopStatusSafe (b2n ((upto 16).any fun k => loopState d k = lsSafe))

/-! ### Outputs (R462, R477) -/

/-- The compare value of an output (R462). -/
def pwmCompare (per : Nat) (u : Int) : Nat := ((u + 32768) * (per + 1) / 65536).toNat

def aoutCodeOf (u : Int) : Nat := ((u + 32768) / 16).toNat

/-- A compare waits for the next period of its channel (R462). -/
def setShadow (d : Dev) (c v : Nat) : Dev := { d with loop := { d.loop with shadow := mapSet 0 d.loop.shadow c v } }

/-- The output register takes `u`, and the loop's channel follows (R459, R462). -/
def setOutput (d : Dev) (k : Nat) (u : Int) : Dev :=
  let d := d.setS loopkOutvalU u k
  let c := d.fld loopkOutCh k
  match d.fld loopkOutKind k with
  | 1 => setShadow d c (pwmCompare (d.fld pwmCfgPer c) u)
  | 2 => if c < 4 then d.setFld aoutCodeCode (aoutCodeOf u) c else d
  | _ => d

/-- PWM channel `c` takes its safe value (R477): never active, always active, or the safe compare. -/
def pwmSafe (d : Dev) (c : Nat) : Dev :=
  let v := match d.fld pwmSafeMode c with
    | 1 => d.fld pwmCfgPer c
    | 2 => d.fld pwmSafeCmp c
    | _ => 0
  (setShadow d c v).setFld pwmCmpCmp v c

def aoutSafe (d : Dev) (c : Nat) : Dev := d.setFld aoutCodeCode (d.fld aoutSafeCode c) c

/-- The channel of a loop takes its safe value; an internal output takes MAN (R474). -/
def loopOutSafe (d : Dev) (k : Nat) : Dev :=
  let c := d.fld loopkOutCh k
  match d.fld loopkOutKind k with
  | 1 => pwmSafe d c
  | 2 => if c < 4 then aoutSafe d c else d
  | _ => d.setS loopkOutvalU (d.sfld loopkManMan k) k

/-- The safe state of the loop engine (R477). -/
def loopsSafe (d : Dev) : Dev :=
  let d := (upto 16).foldl (fun d k => (d.updLp k fun l => { l with sample := none }).setFld loopkCtrlState lsSafe k) d
  let d := (upto 8).foldl (fun d c => if d.flag pwmCfgEnable c then pwmSafe d c else d) d
  let d := (upto 4).foldl (fun d c => if d.flag aoutCfgEnable c then aoutSafe d c else d) d
  updLoopSafe ((d.setFld loopInjCtrlRun 0).setFld loopCapCtrlRun 0)

/-! ### Measurement (R456) -/

/-- The calibrated value of an AIN code. -/
def ainValue (d : Dev) (c code : Nat) : Int := sat16 (rnd (((code : Int) - 32768 - d.sfld adcCalOfs c) * d.fld adcCalGain c) 14)

/-- The present value of a pulse input. -/
def pinValue (d : Dev) (c : Nat) : Int :=
  let x := d.pin c
  match d.fld pinCfgMode c with
  | 0 => if x.p = 0 then 0 else min 32767 (d.fld pinScaleScale c / x.p : Nat)
  | 1 => if x.p = 0 ∨ d.flag pinDataStopped c then 0 else min 32767 (x.h * 32768 / x.p : Nat)
  | 2 => sat16 (sx 32 (d.fld pinCountCount c + 2 ^ 32 - x.qzero % 2 ^ 32) * 2 ^ d.fld pinCfgQsh c)
  | _ => 0

/-- PINc_DATA.VALUE is kept current (R456). -/
def refreshPin (d : Dev) (c : Nat) : Dev := d.setS pinDataValue (pinValue d c) c

/-! ### The plan FIFO (R464, R465) -/

/-- The length of a step in ns. -/
def stepNs (d : Dev) : Nat := 1000 * max 1 (d.fld loopPlanStepUs)

/-- t_0 of an entry. -/
def planT0 (d : Dev) (e : PlanEntry) : Int := e.tMeas + sx 32 (d.fld loopPlanOfsOfsNs)

/-- The element of a mask that drives loop `k` (R378). -/
def maskElem (mask k : Nat) : Nat := ((upto k).filter (bit mask)).length

/-- Loop `k` takes part in an entry. -/
def takesPart (d : Dev) (e : PlanEntry) (k : Nat) : Bool :=
  bit e.mask k && d.fld loopkSrcSpsrc k = 4 && decide (maskElem e.mask k < e.nu)

/-- The set-point of an FP32 element (R465); none for a NaN. -/
def planSetpoint (d : Dev) (k u : Nat) : Option Int :=
  if (decodeNum fp32 u).isNan then none
  else match decodeNum fp32 (fmul fp32 u (d.fld loopkPscalePscale k)).1 with
    | .nan _ => none
    | .inf n => some (if n then -32768 else 32767)
    | .fin n m e =>
      let v : Int := roundShift m (-(e + 15)) false
      some (sat16 (if n then -v else v))

/-- Step `s` of the entry becomes active for loop `k` (R465). With cut-through, whether a step beyond the threshold has landed by
its instant is left open (DESIGN CHOICE, notes/assumptions/2). -/
def activateStep (d : Dev) (k s : Nat) : Dev :=
  match (d.lp k).plan with
  | none => d
  | some p =>
    let e := p.use.entry
    let d := d.updLp k fun l => { l with plan := some { p with step := s } }
    let ct := d.fld planCfgCt
    let unlanded := ct ≠ 0 && decide (64 * ct < 4 * (s + 1) * e.nu) && !Config.freeBool d.freeCtr
    let d := if ct ≠ 0 && decide (64 * ct < 4 * (s + 1) * e.nu) then d.bump else d
    if unlanded then d.incFld loopCntPlan0Late
    else match planSetpoint d k (e.u.getD (s * e.nu + maskElem e.mask k) 0) with
      | none => d.incFld loopCntPlan1Nan
      | some v => d.updLp k fun l => { l with psp := v }

/-- Every step that has become active since the last one. -/
def activateSteps (d : Dev) (k frm tgt : Nat) : Dev := (upto (tgt + 1 - frm)).foldl (fun d i => activateStep d k (frm + i)) d

/-- Loop `k` switches to the newest begun entries whose t_0 has come (R464, R465). -/
def switchPlan (d : Dev) (k : Nat) : Dev :=
  d.loop.begun.foldl (fun d b =>
    let l := d.lp k
    if b.ord < l.seen || !takesPart d b.entry k || decide ((d.now : Int) < planT0 d b.entry) then d
    else
      let d := d.updLp k fun l => { l with seen := b.ord + 1 }
      let d := if b.entry.source = 2 then d.incFld loopCntPlan1Fallback else d
      if b.entry.source = 2 && d.flag loopkCtrlFbPolicy k then d
      else
        let d := d.updLp k fun l => { l with plan := some { use := b, step := 0 } }
        if b.entry.steps = 0 then d else activateStep d k 0) d

/-- A loop's plan brought up to device time. -/
def planSync (k : Nat) (d : Dev) : Dev :=
  let d := switchPlan d k
  match (d.lp k).plan with
  | none => d
  | some p =>
    let s := (((d.now : Int) - planT0 d p.use.entry) / stepNs d).toNat
    let d := if p.use.entry.steps = 0 then d else activateSteps d k (p.step + 1) (min s (p.use.entry.steps - 1))
    if p.use.entry.steps ≤ s && !p.exhausted then
      (d.updLp k fun l => { l with plan := l.plan.map fun q => { q with exhausted := true } }).incFld loopCntPlan0Exhausted
    else d

/-- The engine has no further use of a begun entry: every loop of its mask has switched to a newer one, has taken its last step, or
has passed it over for good (R464, R465). -/
def entryOver (d : Dev) (b : Begun) : Bool :=
  (upto 16).all fun k => !takesPart d b.entry k || (decide (b.ord < (d.lp k).seen) &&
    match (d.lp k).plan with
    | some p => p.use.ord ≠ b.ord || decide (b.entry.steps ≤ p.step + 1)
    | none => true)

/-- LOOP_PLAN_STAT names the newest begun entry (R479). -/
def planStat (d : Dev) : Dev :=
  let steps := (upto 16).filterMap fun k => (d.lp k).plan.bind fun p => if p.use.ord + 1 = d.loop.nextOrd then some p.step else none
  d.setFld loopPlanStatStep (steps.foldl max 0)

/-- Entries of which the engine has no further use are released (R464). -/
def releasePlans (d : Dev) : Dev :=
  let ovr := d.loop.begun.filter (entryOver d)
  let gone (e : PlanEntry) : Bool := e.begun && ovr.any fun b => b.entry.seq = e.seq
  planStat { d with loop := { d.loop with begun := d.loop.begun.filter fun b => !entryOver d b },
                    fifos := { d.fifos with plan := d.fifos.plan.filter fun e => !gone e } }

/-- The set-point from the plan FIFO (R464, R465). -/
def planSp (d : Dev) (k : Nat) : Int :=
  match (d.lp k).plan with
  | none => d.sfld loopkSpSp k
  | some p => if p.exhausted && d.flag loopPlanPlanEnd then d.sfld loopkSpSp k else (d.lp k).psp

/-! ### Injection (R475) -/

/-- Entry `i` of a memory of 16-bit words. -/
def half (m : SMap U32) (i : Nat) : Nat := (mapGet 0 m (i / 2)).toNat / 2 ^ (16 * (i % 2)) % 65536

def setHalf (m : SMap U32) (i v : Nat) : SMap U32 :=
  let w := (mapGet 0 m (i / 2)).toNat
  mapSet 0 m (i / 2) (BitVec.ofNat 32 (setBits w (16 * (i % 2) + 15) (16 * (i % 2)) v))

/-- The generator serves loop `k`. -/
def injOn (d : Dev) (k : Nat) : Bool := d.flag loopInjCtrlRun && d.fld loopInjCfgLoop = k

def injValue (d : Dev) (k : Nat) : Int :=
  if !injOn d k then 0
  else if d.flag loopInjCfgSrc then (if d.loop.injS % 2 = 1 then (d.fld loopInjAmpAmp : Int) else -(d.fld loopInjAmpAmp : Int))
  else sx 16 (half d.loop.inj d.loop.injPos)

/-- The generator after a sample: the next entry or register; a table played to its end stops it. -/
def injNext (d : Dev) (k : Nat) : Dev :=
  if !injOn d k then d
  else if d.flag loopInjCfgSrc then
    let s := d.loop.injS
    { d with loop := { d.loop with injS := s / 2 + (if bit s 0 != bit s 1 then 2 ^ 14 else 0) } }
  else if d.loop.injPos < d.fld loopInjCfgLen then { d with loop := { d.loop with injPos := d.loop.injPos + 1 } }
  else
    let n := d.loop.injRep + 1
    let d : Dev := { d with loop := { d.loop with injPos := 0, injRep := n } }
    if d.fld loopInjCfgRepeat ≠ 0 ∧ d.fld loopInjCfgRepeat ≤ n then d.setFld loopInjCtrlRun 0 else d

/-! ### Capture (R476) -/

/-- One word goes into the capture memory. -/
def capPut (d : Dev) (v : Int) : Dev :=
  let n := d.fld loopCapCtrlWords
  if 16384 ≤ n then d
  else ({ d with loop := { d.loop with cap := setHalf d.loop.cap n (unsx 16 v) } } : Dev).setFld loopCapCtrlWords (n + 1)

/-- A sample of loop `k` with its eight signals is captured. -/
def capture (d : Dev) (k instant : Nat) (sig : List Int) : Dev :=
  if !d.flag loopCapCtrlRun || d.fld loopCapCfgLoop ≠ k || d.loop.capWait then d
  else if d.loop.capDec ≠ 0 then { d with loop := { d.loop with capDec := d.loop.capDec - 1 } }
  else
    let d := if d.loop.capFirst then d.setFld loopCapT0T0 instant else d
    let d : Dev := { d with loop := { d.loop with capFirst := false, capDec := d.fld loopCapCfgDec } }
    let sigs := d.fld loopCapCfgSigs
    let d := (upto 4).foldl (fun d n => if bit sigs (4 * n + 3) then capPut d (sig.getD (bits sigs (4 * n + 2) (4 * n)) 0) else d) d
    if d.fld loopCapCtrlWords = 16384 then (d.setFld loopCapCtrlFull 1).setFld loopCapCtrlRun 0 else d

/-! ### Supervision (R473, R474) -/

/-- A loop's trip action. -/
def tripLoop (d : Dev) (k : Nat) : Dev :=
  let act := d.fld loopkSatAction k
  let d := (d.setFld loopkStatusTrip 1 k).setFld loopStatusTrip (d.fld loopStatusTrip ||| 2 ^ k)
  let d := logEvent (d.incFld loopkCntTrips k) lgTrip (leBytes 1 k ++ leBytes 1 act)
  let stop (d : Dev) (j : Nat) : Dev := loopOutSafe (d.setFld loopkCtrlState lsTripped j) j
  match act with
  | 0 => d.setFld loopkSatcCount 0 k
  | 1 => d.setFld loopkCtrlState lsTripped k
  | 2 => stop d k
  | _ => ((upto 16).filter fun j => j = k || (loopState d j = lsClosed && d.fld loopkSatGroup j = d.fld loopkSatGroup k)).foldl stop d

/-- The saturation count after a sample of a CLOSED loop. -/
def supervise (d : Dev) (k : Nat) (clamped : Bool) : Dev :=
  let n := d.fld loopkSatcCount k
  let n := if clamped then min 65535 (n + 1) else n - 1
  let d := d.setFld loopkSatcCount n k
  if d.fld loopkSatLimit k ≠ 0 ∧ n = d.fld loopkSatLimit k then tripLoop d k else d

/-! ### One sample (R459) -/

/-- The repetitive controller's term, stored with e0 (R467). -/
def repetitive (d : Dev) (k : Nat) (e0 : Int) : Dev × Int :=
  if !d.flag loopkRcEn k then (d, 0)
  else
    let len := d.fld loopkRcLm1 k + 1
    let n := (d.lp k).rcn % len
    let base := d.fld loopkRcBase k
    let w (i : Nat) : Nat := (mapGet 0 d.loop.rc (base + i)).toNat
    let old := sx 16 (w n)
    let lead := sx 16 (w ((n + d.fld loopkRcD k) % len) / 65536)
    let rc := sat16 (rnd (d.fld loopkRcgQg k * old + d.sfld loopkRcgKr k * lead) 15)
    let d : Dev := { d with loop := { d.loop with rc := mapSet 0 d.loop.rc (base + n) (BitVec.ofNat 32 (unsx 16 rc + 65536 * unsx 16 e0)) } }
    (d.updLp k fun l => { l with rcn := (n + 1) % len }, rc)

/-- Sections `i` to `n` (R458): the outputs of the first and of the last. -/
def cascade (d : Dev) (k bank : Nat) : List Nat → Int → Dev × List Int
  | [], _ => (d, [])
  | i :: r, x =>
    let c := secCoef d k bank i
    if c.en then
      let y := secStep c (mapGet {} (d.lp k).secs i) x
      let d := d.updLp k fun l => { l with secs := mapSet {} l.secs i y.1 }
      let d := if y.2.2 then d.setFld loopkStatusSecSat 1 k else d
      let q := cascade d k bank r y.2.1
      (q.1, y.2.1 :: q.2)
    else
      let q := cascade d k bank r x
      (q.1, x :: q.2)

/-- The output register of loop `j` as a sample triggered at `instant` reads it: the value a sample of the same tick writes reaches
it only with its next sample (R466). `outs` are the registers before the samples that complete in this cycle. -/
def outerOutput (outs : Nat → Int) (d : Dev) (j instant : Nat) : Int :=
  match (d.lp j).wrote with
  | some (t, v) => if t = instant then v else outs j
  | none => outs j

/-- A sample triggered at `instant` writes the output register of loop `k` (R459, R466). -/
def sampleOutput (d : Dev) (k instant : Nat) (u : Int) : Dev :=
  setOutput (d.updLp k fun l => { l with wrote := some (instant, d.sfld loopkOutvalU k) }) k u

/-- A sample of loop `k` is complete: the loop runs (R459, R460, R468). `outs` are the output registers as the loops that complete
in the same cycle read them (R466). (DESIGN CHOICE, notes/assumptions/77.) -/
def runLoopSample (outs : Nat → Int) (d : Dev) (k : Nat) : Dev :=
  match (d.lp k).sample with
  | none => d
  | some s =>
    let sp := match d.fld loopkSrcSpsrc k with
      | 0 => d.sfld loopkSpSp k
      | 3 => outerOutput outs d (d.fld loopkSrcSpch k) s.instant
      | _ => s.sp
    let sw := (d.lp k).swap
    let d := (d.updLp k fun l => { l with sample := none, swap := false }).setIf sw loopkCtrlAbank (1 - d.fld loopkCtrlAbank k) k
    let d := d.setS loopkOutvalM s.m k
    let st := loopState d k
    let inj := injValue d k
    let pt := if injOn d k then some (d.fld loopInjCfgPoint) else none
    let lo := d.sfld loopkClampUmin k
    let hi := d.sfld loopkClampUmax k
    if st = lsClosed then
      let sp := if pt = some 0 then sat16 (sp + inj) else sp
      let e0 := sat16 (sp - s.m)
      let q := repetitive d k e0
      let d := q.1
      let e := if d.flag loopkRcEn k then sat16 (e0 + q.2) else e0
      let e := if pt = some 1 then sat16 (e + inj) else e
      let n := d.fld loopkCtrlNsec k
      let c := cascade d k (d.fld loopkCtrlAbank k) (upto (n + 1)) e
      let d := c.1
      let y := c.2.getLastD 0
      let u' := if pt = some 2 then sat16 (y + inj) else y
      let u := min (max u' lo) hi
      let clamped := decide (u' < lo ∨ hi < u')
      let d := if clamped && d.flag loopkCtrlClampFb k then
          d.updLp k fun l => { l with secs := mapSet {} l.secs n { mapGet {} l.secs n with y1 := u, r := 0 } }
        else d
      let d := (sampleOutput d k s.instant u).setFld loopkStatusSat (b2n clamped) k
      let d := capture d k s.instant [s.m, sp, e0, e, c.2.headD 0, u', u, inj]
      supervise (injNext d k) k clamped
    else
      let e0 := sat16 (sp - s.m)
      let man := d.sfld loopkManMan k
      let v := (Config.freeU64 d.freeCtr).toNat
      let u' := if st ≠ lsOpen then sx 16 (v / 65536) else if pt = some 2 then sat16 (man + inj) else man
      let d := if st = lsOpen && pt = some 2 then (sampleOutput d k s.instant (min (max u' lo) hi)).setFld loopkStatusSat (b2n (decide (u' < lo ∨ hi < u'))) k
        else d.setFld loopkStatusSat 0 k
      let sec : Int := sx 16 v
      injNext (capture d.bump k s.instant [s.m, sp, e0, e0, sec, u', d.sfld loopkOutvalU k, inj]) k

/-- The samples that complete in one cycle: every loop reads the others' output registers as they stood (R466). -/
def completeSamples (ks : List Nat) (d : Dev) : Dev :=
  ks.foldl (runLoopSample fun j => d.sfld loopkOutvalU j) d

end Sys2Proof.Machine
end

