-- ==== Sys2Proof/Machine/LoopRegs.lean ====
section
/-! DEFINITION. The commands of the loop engine: triggers, conversions, edges, the loop states and the registers of chapter 12. -/

namespace Sys2Proof.Machine

/-! ### Triggers and samples (R454, R456, R461, R466) -/

/-- A set-point from AIN or PIN, and a measurement, name channels (R463). -/
def measAin (d : Dev) (k : Nat) : Option Nat := if d.flag loopkSrcMsrc k then none else some (d.fld loopkSrcMch k)
def spAin (d : Dev) (k : Nat) : Option Nat := if d.fld loopkSrcSpsrc k = 1 then some (d.fld loopkSrcSpch k) else none

/-- The AIN channels that a sample of loop `k` needs. -/
def ainsOf (d : Dev) (k : Nat) : List Nat := ((measAin d k).toList ++ (spAin d k).toList).eraseDups

/-- Loop `k` is triggered: its conversions start unless they run, pulse values and the plan's step are latched. A loop that needs a
channel which does not convert takes no sample (DEDUCED, notes/assumptions/30). -/
def trigger (d : Dev) (k : Nat) : Dev :=
  let ains := ainsOf d k
  if !(ains.all fun c => decide (c < 8) && d.flag adcCfgEnable c) then d
  else
    let d := if d.fld loopkSrcSpsrc k = 4 then planSync k d else d
    let m := if d.flag loopkSrcMsrc k then pinValue d (d.fld loopkSrcMch k) else 0
    let sp := match d.fld loopkSrcSpsrc k with
      | 2 => if d.fld loopkSrcSpch k < 8 then pinValue d (d.fld loopkSrcSpch k) else 0
      | 4 => planSp d k
      | _ => 0
    let d : Dev := { d with loop := { d.loop with converting := (d.loop.converting ++ ains).eraseDups } }
    d.updLp k fun l => { l with sample := some ⟨d.now, ains, m, sp⟩ }

/-- The timer runs: the global count has changed since it was armed. A timer that has run stays armed with no count. -/
def timerDue (d : Dev) (k : Nat) : Bool := d.flag loopCtrlEnable && loopState d k != lsSafe && (d.lp k).armed != d.gcount

/-- Outer loops of loop `k` (R466). -/
def outerLoops (d : Dev) (k : Nat) : List Nat :=
  (upto 16).filter fun j => d.flag loopkSrcTrig j && d.fld loopkSrcTloop j = k && loopState d j != lsSafe

/-- Samples that need no conversion complete in the cycle after the trigger. -/
def completeNow (ks : List Nat) (d : Dev) : Dev :=
  completeSamples (ks.filter fun k => match (d.lp k).sample with
    | some s => s.ains = []
    | none => false) d

/-- The timer of loop `k` fires. -/
def loopTimer (k : Nat) (d : Dev) : Dev :=
  if 16 ≤ k ∨ d.flag loopkSrcTrig k ∨ !timerDue d k then d
  else
    let outer := outerLoops d k
    let due := outer.filter fun j => (d.lp j).outer % (d.fld loopkSrcDiv j + 1) = 0
    let d := d.updLp k fun l => { l with armed := 2 ^ 64 }
    let d := outer.foldl (fun d j => d.updLp j fun l => { l with outer := l.outer + 1 }) d
    let d := (k :: due).foldl trigger d
    releasePlans (completeNow (k :: due) d)

/-- LOOP_TIMER (R461, R466). -/
def execLoopTimer (k : Nat) (s : State) : Out := onDev (loopTimer k) s

/-- A conversion's value reaches the sample of loop `k`. -/
def feedSample (c : Nat) (v : Int) (d : Dev) (k : Nat) : Dev :=
  let isM : Bool := measAin d k = some c
  let isSp : Bool := spAin d k = some c
  let fed (s : LoopSample) : LoopSample :=
    if s.ains.contains c then
      { s with ains := s.ains.erase c, m := (if isM then v else s.m), sp := (if isSp then v else s.sp) }
    else s
  d.updLp k fun l => { l with sample := l.sample.map fed }

/-- The conversion on AINc ends with a code (R453, R454, R456). -/
def conversionDone (c : Nat) (code : Nat) (d : Dev) : Dev :=
  if !d.loop.converting.contains c then d
  else
    let v := ainValue d c code
    let waiting := (upto 16).filter fun k => match (d.lp k).sample with
      | some s => s.ains.contains c
      | none => false
    let d : Dev := { d with loop := { d.loop with converting := d.loop.converting.erase c } }
    let d := (d.setFld adcDataCode code c).setS adcDataValue v c
    let d := waiting.foldl (feedSample c v) d
    releasePlans (completeNow waiting d)

/-- ADC_CONVERSION_DONE (R454). -/
def execAdcConversionDone (c : Nat) (code : U16) (s : State) : Out := onDev (conversionDone c code.toNat) s

/-! ### Pulse inputs (R456) -/

/-- The quadrature pair that channel `c` belongs to, if its even channel counts. -/
def quadOf (d : Dev) (c : Nat) : Option Nat := if d.fld pinCfgMode (c / 2 * 2) = 2 then some (c / 2 * 2) else none

/-- An edge on a quadrature pair: with A ahead of B the count rises (DESIGN CHOICE, notes/assumptions/31); a change of both is illegal. -/
def quadEdge (d : Dev) (a c : Nat) (rising both : Bool) : Dev :=
  if both then
    let d := (d.updPin a fun x => { x with high := !x.high }).updPin (a + 1) fun x => { x with high := !x.high }
    d.setFld pinDataQerr 1 a
  else
    let d := d.updPin c fun x => { x with high := rising }
    let ha := (d.pin a).high
    let hb := (d.pin (a + 1)).high
    let up := if c = a then ha != hb else ha = hb
    let n := d.fld pinCountCount a
    refreshPin (d.setFld pinCountCount (if up then n + 1 else n + (2 ^ 32 - 1)) a) a

/-- An edge on a channel that measures period or duty. -/
def periodEdge (d : Dev) (c : Nat) (rising : Bool) (ticks : Nat) : Dev :=
  let x := d.pin c
  let acc := x.acc + ticks
  let hacc := x.hacc + (if x.high then ticks else 0)
  let sel := rising != d.flag pinCfgEdge c
  if sel then
    let d := d.updPin c fun y => { y with high := rising, acc := 0, hacc := 0, started := true }
    if x.started then
      let d := (d.updPin c fun y => { y with p := acc, h := hacc }).setFld pinCountCount acc c
      refreshPin (d.setFld pinDataStopped 0 c) c
    else d
  else d.updPin c fun y => { y with high := rising, acc := acc, hacc := hacc }

def pinEdge (c : Nat) (rising both : Bool) (ticks : Nat) (d : Dev) : Dev :=
  if 8 ≤ c then d
  else match quadOf d c with
    | some a => quadEdge d a c rising both
    | none => periodEdge d c rising ticks

/-- PIN_EDGE (R456). -/
def execPinEdge (c : Nat) (rising : Bool) (both : Bool) (ticks : Nat) (s : State) : Out := onDev (pinEdge c rising both ticks) s

/-- No edge for 2^24 ticks on a channel that measures period or duty. -/
def pinStop (c : Nat) (d : Dev) : Dev :=
  if 8 ≤ c || (quadOf d c).isSome then d
  else
    let d := d.updPin c fun x => { x with p := 2 ^ 24, h := 0, acc := 0, hacc := 0, started := false }
    refreshPin ((d.setFld pinCountCount (2 ^ 24) c).setFld pinDataStopped 1 c) c

/-- PIN_STOP_TIMEOUT (R456). -/
def execPinStopTimeout (c : Nat) (s : State) : Out := onDev (pinStop c) s

/-- QZERO takes COUNT (R479). -/
def pinZero (c : Nat) (d : Dev) : Dev :=
  if 8 ≤ c then d else refreshPin (d.updPin c fun x => { x with qzero := d.fld pinCountCount c }) c

/-! ### Outputs -/

/-- A period of an enabled PWM channel starts: the compare that waits takes effect (R462). -/
def pwmPeriod (c : Nat) (d : Dev) : Dev :=
  if 8 ≤ c || !d.flag pwmCfgEnable c then d else d.setFld pwmCmpCmp (mapGet 0 d.loop.shadow c) c

/-- PWM_PERIOD_START (R462). -/
def execPwmPeriodStart (c : Nat) (s : State) : Out := onDev (pwmPeriod c) s

/-! ### The plan FIFO (R464, R465) -/

/-- The engine begins the oldest plan it has not begun. -/
def planBegin (d : Dev) : Dev :=
  match d.fifos.plan.find? fun e => !e.begun with
  | none => d
  | some e =>
    let b : Begun := ⟨d.loop.nextOrd, { e with begun := true }⟩
    let plan := d.fifos.plan.map fun (x : PlanEntry) => if x.seq = e.seq && !x.begun then { x with begun := true } else x
    let d : Dev := { d with fifos := { d.fifos with plan := plan },
                            loop := { d.loop with begun := d.loop.begun ++ [b], nextOrd := d.loop.nextOrd + 1 } }
    releasePlans (d.setFld loopPlanStatSeq e.seq)

/-- PLAN_ENTRY_BEGIN (R464). -/
def execPlanEntryBegin (s : State) : Out := onDev planBegin s

/-- PLAN_STEP_ACTIVATE (R465). -/
def execPlanStepActivate (k : Nat) (s : State) : Out := onDev (fun d => if k < 16 then releasePlans (planSync k d) else d) s

/-! ### Loop states (R468 to R472) -/

/-- A write is discarded because of loop `k` (R469). -/
def rejectWrite (d : Dev) (k : Nat) : Dev := (d.setFld loopkStatusChangeErr 1 k).incFld loopkCntRejected k

/-- The references of one kind that start at loop `k`, up to 16 of them. -/
def refChain (nxt : Nat → Option Nat) : Nat → Nat → List Nat
  | 0, _ => []
  | n + 1, k => match nxt k with
    | none => []
    | some j => j :: refChain nxt n j

/-- The SPSRC 3 and the TRIG 1 references of loop `k` do not lead back to it (R466); each kind is followed by itself, since an outer
loop and its inner loop refer to each other by different kinds (DEDUCED, notes/assumptions/32). -/
def refsOk (d : Dev) (k : Nat) : Bool :=
  let sp (j : Nat) : Option Nat := if d.fld loopkSrcSpsrc j = 3 then some (d.fld loopkSrcSpch j) else none
  let tr (j : Nat) : Option Nat := if d.flag loopkSrcTrig j then some (d.fld loopkSrcTloop j) else none
  !(refChain sp 16 k).contains k && !(refChain tr 16 k).contains k

/-- A pulse channel that a loop may name. -/
def pinOk (d : Dev) (c : Nat) : Bool := decide (c < 8) && (decide (d.fld pinCfgMode c < 2) || (d.fld pinCfgMode c = 2 && c % 2 = 0))

/-- Every channel that loop `k` names exists and is enabled (R470). -/
def channelsOk (d : Dev) (k : Nat) : Bool :=
  let c := d.fld loopkOutCh k
  (ainsOf d k).all (fun c => decide (c < 8) && d.flag adcCfgEnable c) &&
  (!d.flag loopkSrcMsrc k || pinOk d (d.fld loopkSrcMch k)) &&
  (d.fld loopkSrcSpsrc k != 2 || pinOk d (d.fld loopkSrcSpch k)) && decide (d.fld loopkSrcSpsrc k < 5) &&
  (match d.fld loopkOutKind k with
   | 0 => true
   | 1 => d.flag pwmCfgEnable c
   | 2 => decide (c < 4) && d.flag aoutCfgEnable c
   | _ => false)

/-- The repetitive controller of loop `k` is in range (R467, R470). -/
def rcOk (d : Dev) (k : Nat) : Bool :=
  !d.flag loopkRcEn k ||
    (let b := d.fld loopkRcBase k
     let l := d.fld loopkRcLm1 k + 1
     decide (2 ≤ l) && decide (b + l ≤ 8192) && decide (d.fld loopkRcD k < l) && !bit (d.fld loopkRcgQg k) 15 &&
       (upto 16).all fun j => j = k || loopState d j != lsClosed || !d.flag loopkRcEn j ||
         decide (b + l ≤ d.fld loopkRcBase j ∨ d.fld loopkRcBase j + d.fld loopkRcLm1 j + 1 ≤ b))

/-- The checks of CLOSE (R470). -/
def closeOk (d : Dev) (k : Nat) : Bool :=
  decide (d.sfld loopkClampUmin k ≤ d.sfld loopkClampUmax k) && decide (d.fld loopkPscalePscale k / 2 ^ 23 % 256 ≠ 255) && rcOk d k &&
    refsOk d k && channelsOk d k

/-- CLOSE (R470). -/
def closeLoop (k : Nat) (d : Dev) : Dev :=
  if 16 ≤ k ∨ loopState d k ≠ lsOpen then d
  else if !closeOk d k then d.setFld loopkStatusCfgErr 1 k
  else
    let u := d.sfld loopkOutvalU k
    let n := d.fld loopkCtrlNsec k
    let secs : SMap SecState := if d.flag loopkCtrlBumpless k then mapSet {} [] n { y1 := u, y2 := u } else []
    let b := d.fld loopkRcBase k
    let e := b + d.fld loopkRcLm1 k + 1
    let rc := if d.flag loopkRcEn k then mapDrop (fun i => decide (b ≤ i) && decide (i < e)) d.loop.rc else d.loop.rc
    let d : Dev := { d with loop := { d.loop with rc := rc } }
    let d := d.updLp k fun l => { l with secs := secs, sample := none, rcn := 0, outer := 0, armed := d.gcount }
    (d.setFld loopkSatcCount 0 k).setFld loopkCtrlState lsClosed k

/-- OPEN (R471). -/
def openLoop (k : Nat) (d : Dev) : Dev :=
  if 16 ≤ k then d
  else
    let d := (d.updLp k fun l => { l with sample := none }).setFld loopkCtrlState lsOpen k
    updLoopSafe (setOutput d k (d.sfld loopkManMan k))

/-- SWAP (R472). -/
def swapLoop (k : Nat) (d : Dev) : Dev :=
  if 16 ≤ k ∨ loopState d k ≠ lsClosed then d else d.updLp k fun l => { l with swap := true }

/-- MAN is written (R468). -/
def manWrite (k v : Nat) (d : Dev) : Dev :=
  if 16 ≤ k then d
  else
    let d := d.setFld loopkManMan v k
    if loopState d k = lsOpen then setOutput d k (d.sfld loopkManMan k) else d

/-! ### Injection and capture (R475, R476) -/

/-- Recording begins with the next sample. -/
def capBegin (d : Dev) (wait : Bool) : Dev :=
  let d : Dev := { d with loop := { d.loop with capWait := wait, capDec := 0, capFirst := true } }
  ((d.setFld loopCapCtrlRun 1).setFld loopCapCtrlFull 0).setFld loopCapCtrlWords 0

/-- START of injection; with SYNC the capture starts too. -/
def injBegin (d : Dev) : Dev :=
  let s := d.fld loopInjAmpSeed
  let d : Dev := { d with loop := { d.loop with injPos := 0, injRep := 0, injS := if s = 0 then 1 else s } }
  let d := d.setFld loopInjCtrlRun 1
  if d.flag loopCapCfgSync then capBegin d false else d

def injEnd (d : Dev) : Dev := d.setFld loopInjCtrlRun 0
def capEnd (d : Dev) : Dev := d.setFld loopCapCtrlRun 0

/-! ### Registers (R469, R479) -/

/-- Loops not OPEN for which `p` holds. -/
def lockedLoops (d : Dev) (p : Nat → Bool) : List Nat := (upto 16).filter fun k => loopState d k != lsOpen && p k

/-- The loops that forbid a write to the * fields of register `i` of the array at `base` (R469). -/
def loopBlockers (d : Dev) (base i : Nat) : List Nat :=
  if base = rPinCfg ∨ base = rPinScale then
    lockedLoops d fun k => (d.flag loopkSrcMsrc k && d.fld loopkSrcMch k = i) || (d.fld loopkSrcSpsrc k = 2 && d.fld loopkSrcSpch k = i)
  else if base = rPwmCfg then lockedLoops d fun k => d.fld loopkOutKind k = 1 && d.fld loopkOutCh k = i
  else if base = rAoutCfg then lockedLoops d fun k => d.fld loopkOutKind k = 2 && d.fld loopkOutCh k = i
  else if base = rLoopInjCfg then (if d.flag loopInjCtrlRun then [d.fld loopInjCfgLoop] else [])
  else if rLoopkCtrl ≤ base then lockedLoops d fun k => k = i
  else []

/-- A write of OUT names a channel that another loop drives (R462). -/
def outTaken (d : Dev) (k v : Nat) : Bool :=
  decide (v % 4 = 1 ∨ v % 4 = 2) &&
    (upto 16).any fun j => j != k && d.fld loopkOutKind j = v % 4 && d.fld loopkOutCh j = bits v 4 2

/-- Bank `b` of loop `k` is its active bank, or will be (R469, R472). -/
def bankActive (d : Dev) (k b : Nat) : Bool := d.fld loopkCtrlAbank k = b || (d.lp k).swap

/-- LOOP_CDATAn written for the loop, bank and section selected. -/
def cdataWrite (d : Dev) (sel n v : Nat) : Dev :=
  let k := bits sel 3 0
  let b := bits sel 4 4
  let s := bits sel 7 5
  if loopState d k ≠ lsOpen ∧ bankActive d k b then rejectWrite d k
  else
    let w : U32 := BitVec.ofNat 32 (if n = 2 then v % 2 ^ 21 else v)
    { d with loop := { d.loop with coef := mapSet 0 d.loop.coef (coefKey k b s n) w } }

/-- LOOP_CDATAn read. -/
def cdataRead (d : Dev) (sel n : Nat) : Nat := (mapGet 0 d.loop.coef (coefKey (bits sel 3 0) (bits sel 4 4) (bits sel 7 5) n)).toNat

/-- LOOP_MDATA read for an LOOP_MSEL. -/
def mdataRead (d : Dev) (sel : Nat) : Nat :=
  let i := bits sel 12 0
  match bits sel 14 13 with
  | 0 => if i < 2048 then (mapGet 0 d.loop.inj i).toNat else 0
  | 1 => (mapGet 0 d.loop.cap i).toNat
  | 2 => (mapGet 0 d.loop.rc i).toNat
  | _ => 0

/-- LOOP_MDATA written: only the injection memory takes it, while the generator is stopped (R475). -/
def mdataWrite (d : Dev) (sel v : Nat) : Dev :=
  let i := bits sel 12 0
  if bits sel 14 13 ≠ 0 ∨ 2048 ≤ i then d
  else if d.flag loopInjCtrlRun then rejectWrite d (d.fld loopInjCfgLoop)
  else { d with loop := { d.loop with inj := mapSet 0 d.loop.inj i (BitVec.ofNat 32 v) } }

/-- The selection after an access to LOOP_MDATA (R479). -/
def mselNext (sel : Nat) : Nat := setBits sel 12 0 (bits sel 12 0 + 1)

/-- What a write of register `i` of the array at `base` sets off, once its fields are written; `old` is what it held.
(DEDUCED, notes/assumptions/74.) -/
def loopAfterWrite (base i old v : Nat) (d : Dev) : Dev :=
  if base = rLoopkCtrl then
    let d := if bit v 3 then openLoop i d else d
    let d := if bit v 2 then closeLoop i d else d
    if bit v 4 then swapLoop i d else d
  else if base = rLoopkMan then manWrite i v d
  else if base = rLoopkOut then setOutput d i (d.sfld loopkOutvalU i)
  else if base = rLoopInjCtrl then
    let d := if bit v 1 then injEnd d else d
    if bit v 0 then injBegin d else d
  else if base = rLoopCapCtrl then
    let d := if bit v 1 then capEnd d else d
    if bit v 0 then capBegin d (d.flag loopCapCfgSync) else d
  else if base = rPinCfg then (if bit v 7 then pinZero i d else refreshPin d i)
  else if base = rPinScale then refreshPin d i
  else if base = rLoopCtrl then
    if bit v 0 && !bit old 0 then (upto 16).foldl (fun d k => if loopState d k = lsOpen then d.updLp k fun l => { l with armed := d.gcount } else d) d
    else d
  else d

end Sys2Proof.Machine
end

