-- ==== Sys2Proof/Machine/Reset.lean ====
section
/-! DEFINITION. The reset domains and their sources (R540 to R543), the safe state (R393, R477, R523, R548). -/

namespace Sys2Proof.Machine

/-! ### Domains -/

/-- The registers of the domains for which `p` holds return to their reset values (R541). -/
def resetRegs (p : Dom → Bool) (d : Dev) : Dev := { d with regs := bankReset p d.regs, supRegs := bankReset p d.supRegs }

/-- TILE_ID shows the physical number, the die and the fused designation (R151). -/
def fuseTiles (saplings : List Nat) (d : Dev) : Dev :=
  (upto tileCount).foldl (fun d t =>
    ((d.setFld tileIdPtile t t).setFld tileIdDie (dieOf t) t).setFld tileIdSapling (b2n (saplings.contains t)) t) d

/-- The spare rows of tile `t`: those of factory test, then those of the repair record (R140). -/
def repairRemap (f : Fuses) (r : Repair) (t : Nat) : SMap Nat :=
  let mine (m : SMap Nat) : SMap Nat := (m.filter fun e => e.1 / 8192 = t).map fun e => (e.1 % 8192, e.2)
  (mine r.tileRows).foldl (fun m e => mapSet 0 m e.1 e.2) (mine f.spared)

/-- MGMT_STATUS shows the fuses (R515). -/
def fuseStatus (f : Fuses) (d : Dev) : Dev :=
  ((d.setFld mgmtStatusDebugOff (b2n f.debugOff)).setFld mgmtStatusSvnFuse f.f).setFld mgmtStatusRevoked f.revoked.toNat

/-- The compute domain: C-dies, M-die and DDR4 (R542). Job numbers go on. -/
def resetCompute (saplings : List Nat) (d : Dev) : Dev :=
  let d := resetRegs (fun x => x = .compute || x = .tile) d
  let d := d.updCq 64 fun c => { c with reserved := 0 }
  fuseTiles saplings { d with
    tiles := [], fabric := [], acks := [], refusals := [], jobs := [], images := [], admitted := [], recs := [], aborts := [],
    replays := [], mem := [], poison := [], flaws := [], solv := {}, attn := {}, regions := {}, scrub := {} }

/-- The host domain: rings, vectors and the FIFO store. The supervisor queue lies in the SUP block. -/
def resetHost (d : Dev) : Dev :=
  let d := resetRegs (fun x => x = .host) d
  { d with host := {}, sqs := d.sqs.filter (fun e => decide (64 ≤ e.1)), cqs := d.cqs.filter (fun e => decide (64 ≤ e.1)), fifos := {},
           fetchRing := 0, fetchCount := 0 }

def resetMgmt (d : Dev) : Dev := { resetRegs (fun x => x = .mgmt) d with mgmt := {} }

def resetNetwork (d : Dev) : Dev :=
  { resetRegs (fun x => x = .network) d with net := {}, time := 0, timeStep := 0, synced := false, links := {},
                                             ppsHigh := false, ppsSecond := 0 }

def resetLoop (d : Dev) : Dev := { resetRegs (fun x => x = .loop) d with loop := {} }

def resetSpadja (d : Dev) : Dev := { resetRegs (fun x => x = .spadja) d with sup := {} }

def resetClearing (d : Dev) : Dev := { resetRegs (fun x => x = .clearing) d with clr := {} }

/-- The set-up domain and the registers of no domain, with the supervisor queue. -/
def resetRest (d : Dev) : Dev :=
  let d := resetRegs (fun x => x = .setup || x = .other) d
  { d with sqs := d.sqs.filter (fun e => e.1 ≠ 64), cqs := d.cqs.filter (fun e => e.1 ≠ 64) }

/-- A reset of every domain but Clearing and Spadja (R541). -/
def resetModule (f : Fuses) (d : Dev) : Dev :=
  fuseStatus f (resetCompute f.saplings (resetHost (resetRest (resetLoop (resetNetwork (resetMgmt d))))))

/-! ### The safe state (R393, R477) -/

/-- Ring `k` is disabled: fetching stops, jobs already fetched run on (R358). The slots reserved for the rest of a pass are free
again. -/
def disableRing (d : Dev) (k : Nat) : Dev :=
  let d := if (d.sq k).pass.isSome then discardRing d k else d
  let d := (d.setFld sqCfgEnable 0 k).updSq k fun s => { s with armed := none }
  updStopped d k

/-- Every submission ring is disabled. -/
def disableRings (d : Dev) : Dev := (upto 64).foldl disableRing d

/-- The safe state is entered: outputs safe, jobs aborted with cause 0xFD, rings disabled, tiles stopped; a start-up is abandoned
(R393, R394, R548). Entered again, it stays as it is. (DEDUCED, notes/assumptions/75.) -/
def enterSafe (cause : Nat) (d : Dev) : Dev :=
  if safeState d then d
  else
    let d := loopsSafe d
    let d := disableRings (startAbort { scope := 3, cause := 0xFD } d)
    let d := (upto tileCount).foldl stopTile d
    let d := ((d.setFld supSafeStatusSafe 1).setFld supSafeStatusSafeCause cause).incFld supSafeStatusEntries
    let d := ((d.setFld supStatusSafe 1).setFld devStatusReady 0).setFld devStatusStage 0
    let d : Dev := { d with boot := { d.boot with running := false } }
    logEvent d lgSafeIn (leBytes 1 cause)

/-- A cause of the safe state holds (R393, R523, R530). (DEDUCED, notes/assumptions/99.) -/
def causeHolds (d : Dev) : Bool := d.clr.supplyCause || d.clr.unseated || d.mgmt.romOnly || d.boot.fatal || d.boot.untrained || d.boot.hot != []

/-- The safe-state exit (R393, R541, R542): compute and host domains are reset, the link is kept, start-up runs from stage 3; one that
has not yet reached its stage 3 goes on (DEDUCED, notes/assumptions/46). -/
def leaveSafe (f : Fuses) (d : Dev) : Dev :=
  if !safeState d || causeHolds d then d
  else
    let up := d.fld hostqStatusLinkUp
    let d := (resetHost (resetCompute f.saplings d)).setFld hostqStatusLinkUp up
    let d := (d.setFld supSafeStatusSafe 0).setFld supStatusSafe 0
    let d := (d.setFld devRstCauseLast 4).incFld devRstCauseComputeResets
    let d := d.setFld devStatusLockDone 0
    let d := if d.boot.running then d else d.setFld devStatusStage 3
    let d : Dev := { d with boot := { d.boot with running := true, compute := true } }
    logEvent d lgSafeOut []

/-! ### Compute stop (R523, R529) -/

/-- C-dies, M-die and DDR4 are switched off: their contents are lost. -/
def dropCompute (d : Dev) : Dev :=
  { d with mem := [], poison := [], flaws := [], tiles := [], fabric := [], acks := [], refusals := [], images := [], solv := {}, attn := {},
           recs := [], replays := [], admitted := [], boot := { d.boot with compute := false } }

/-- Compute stop: the safe state with cause 3, then the compute dies are off (R523). (DEDUCED, notes/assumptions/90.) -/
def computeStop (d : Dev) : Dev :=
  (dropCompute (enterSafe 3 d)).incFld devPwrCntStops

/-! ### FLR and the link (R384, R385, R541) -/

/-- A ring whose base lies in host memory. -/
def hostRing (d : Dev) (k : Nat) : Bool := bits (d.fld sqBaseAddr k) 63 62 = 0
def hostCq (d : Dev) (k : Nat) : Bool := bits (d.fld cqBaseAddr k) 63 62 = 0

/-- The registers at `o`, `n` words, return to their reset values except RWL fields. -/
def resetWords (d : Dev) (o n : Nat) : Dev :=
  let word (b : Bank) (i : Nat) : U32 := wordAfterReset (fun x => x = .host) (o + 4 * i) (bankWord b (o + 4 * i))
  { d with regs := (upto n).foldl (fun b i => bankSet b (o + 4 * i) (word b i)) d.regs }

/-- The host domain as FLR, PERST_N and a new link reset it: rings in host memory are disabled and their jobs aborted without
completion; ring and MSI-X registers return to reset values; rings in device memory go on. -/
def flrReset (d : Dev) : Dev :=
  let rings := (upto 64).filter (hostRing d)
  let cqs := (upto 64).filter (hostCq d)
  let mask := rings.foldl (fun m k => m + 2 ^ k) 0
  let d := rings.foldl disableRing (startAbort { scope := 1, mask := mask, silent := true } d)
  let d := rings.foldl (fun d k => updStopped ((resetWords d (rSqBase + 0x20 * k) 6).updSq k fun s =>
    { s with tail := 0, halted := false, armed := none, pass := none, lastTick := 0 }) k) d
  let d := cqs.foldl (fun d k =>
    updCqStopped ((resetWords d (rCqBase + 0x20 * k) 7).updCq k fun c => { c with head := 0, used := 0, unsignalled := 0 }) k) d
  let d := resetWords d rMsixAddrLo 256
  let d := resetWords d rMsixPba 2
  let d := resetWords d rHostqCtrl 1
  d.setFld hostqStatusFlrSeen 1

end Sys2Proof.Machine
end

