-- ==== Sys2Proof/Machine/TileEvents.lean ====
section
/-! DEFINITION. Events of a tile that no instruction asks for: illegal instructions, timeouts, transfers, banks, live remap
(R85, R102, R107, R119, R125, R131, R142 to R147, R163). -/

namespace Sys2Proof.Machine

/-! ### Issue and traps -/

/-- The word at the program counter of tile `t` is no instruction the tile may issue (R163). -/
def wordIllegal (d : Dev) (t : Nat) : Bool :=
  let x := d.tile t
  if x.pc.toNat % 8 ≠ 0 || decide (x.codeLen ≤ x.pc.toNat / 8) then true
  else
    let e := wordFields (mapGet 0 x.code (x.pc.toNat / 8))
    (opRule e.1 e.2.1).isNone || !classRole d t e.1

/-- ILLEGAL_INSTRUCTION (R163): a word that no instruction encodes, or a program counter outside the code. -/
def execIllegalInstruction (t : Nat) (s : State) : Out :=
  onDev (fun d => if d.fld tileStateState t = tsRunning && !(d.tile t).vendor && wordIllegal d t then illegal d t else d) s

/-- TRAP_DELIVERY_TIMER (R85). -/
def execTrapDeliveryTimer (t : Nat) (s : State) : Out :=
  onDev (fun d => if d.fld tileStateState t = tsRunning then deliverTrap d t else d) s

/-! ### GUARD_TIMEOUT (R125, R126) -/

/-- The first timeout since TIMEOUT was clear is recorded: handle, slot, and whether it was an overwrite. -/
def recordGuard (d : Dev) (t hn slot : Nat) (write : Bool) : Dev :=
  let d := if d.flag tileGuardStatusTimeout t then d
    else ((d.setFld tileGuardStatusHandle hn t).setFld tileGuardStatusSlot slot t).setFld tileGuardStatusKind (b2n write) t
  d.setFld tileGuardStatusTimeout 1 t

/-- The first slot that keeps a held transfer waiting. -/
def blockingSlot (x : Tile) (q : TransferHdr) : Nat :=
  let h := x.hnd q.handle
  ((upto (xferRows q.kind)).find? fun i => (x.slot h (h.slot (q.row + i))).full != xferReads q.kind).elim 0
    fun i => h.slot (q.row + i)

/-- The limit passes for the program's stall, or for a held transfer, while one of the slots of the operation still blocks it; a change
of the slots in time has ended the wait (R126). -/
def guardTimeout (t : Nat) (held : Option Nat) (d : Dev) : Dev :=
  let x := d.tile t
  match held with
  | none => match x.stall with
    | some (.guard ws) =>
      match if d.fld tileStateState t = tsRunning then ws.find? (slotWrong x) else none with
      | some w => tileFault (recordGuard d t w.1 w.2.1 w.2.2) t stGuard
      | none => d
    | _ => d
  | some id => match x.held.find? fun q => q.id = id with
    | none => d
    | some q =>
      if slotBlocked x (x.hnd q.handle) q.row (xferRows q.kind) (xferReads q.kind) then
        let d := recordGuard d t q.handle (blockingSlot x q) (!xferReads q.kind)
        let d := d.updTile t fun y => { y with held := y.held.erase q, guardHeld := y.guardHeld.filter (· ≠ q.id) }
        settle (tileFault (refuseXfer d t q .guardTimeout) t stGuard) t
      else d

/-- GUARD_TIMEOUT (R125). -/
def execGuardTimeout (t : Nat) (held : Option Nat) (s : State) : Out := onDev (guardTimeout t held) s

/-! ### Transfers -/

/-- A header on the fabric reaches its target; a retired tile's logical number is gone from the placement (R102, R334). -/
def transferIngress (t : Nat) (q : TransferHdr) (d : Dev) : Dev :=
  if d.fabric.contains (t, q) then
    let d := { d with fabric := d.fabric.erase (t, q) }
    if d.fld tileStateState t = tsRetired then refuseXfer d t q .roleStale else ingress d t q
  else d

/-- TRANSFER_INGRESS (R102). -/
def execTransferIngress (t : Nat) (x : TransferHdr) (s : State) : Out := onDev (transferIngress t x) s

/-- An admitted transfer lands; the page a lookup pinned for it is free (R119, R281). -/
def transferLanded (t id : Nat) (d : Dev) : Dev :=
  match (d.tile t).admitted.find? fun q => q.id = id with
  | none => d
  | some q =>
    let d := d.updTile t fun x => { x with admitted := x.admitted.erase q }
    match if q.issuer.isNone && xferReads q.kind then q.job else none with
    | some j => outputLanded j t d
    | none => unpinOp (landXfer d t q) id

/-- TRANSFER_LANDED (R119). -/
def execTransferLanded (t x : Nat) (s : State) : Out := onDev (transferLanded t x) s

/-- FABRIC_RESEND (R131): a resend changes timing only. -/
def execFabricResend (_ : Nat) (s : State) : Out := onDev id s

/-- FABRIC_WRITE_PRIORITY (R107): the program access is delayed; nothing is counted. -/
def execFabricWritePriority (_ : Nat) (s : State) : Out := onDev id s

/-! ### Banks (R144 to R147) -/

/-- A valid handle of the tile maps bank `b`: local, or cached in its group. -/
def bankMapped (d : Dev) (t b : Nat) : Bool :=
  (upto 64).any fun k =>
    let h := (d.tile t).hnd k
    h.valid && (if h.kind = 1 then b / 4 = 2 + h.group else mapsBank h b)

/-- Forester may power bank `b` down: an IDLE tile, a sapling out of service, or a bank that no handle of the image maps; no
program runs. -/
def mayDrain (d : Dev) (t b : Nat) : Bool :=
  let x := d.tile t
  let unloading := (x.image.bind d.image).any fun im => im.unloading.isSome
  bit (d.fld tileBankPwrOn t) b && !bit (d.fld tileBankPwrDraining t) b && d.fld tileStateState t ≠ tsRunning && x.job.isNone &&
    (d.fld tileRoleRole t = 0 || x.image.isNone || unloading || !bankMapped d t b)

/-- BANK_DRAIN (R144): the bank enters DRAINING. -/
def execBankDrain (t b : Nat) (s : State) : Out :=
  onDev (fun d => if b < 16 && mayDrain d t b then d.setFld tileBankPwrDraining (d.fld tileBankPwrDraining t + 2 ^ b) t else d) s

/-- The transfer writes rows of bank `b`. -/
def writesBank (x : Tile) (b : Nat) (q : TransferHdr) : Bool :=
  !xferReads q.kind && (upto (xferRows q.kind)).any fun i => (x.hnd q.handle).bank (q.row + i) = b

/-- No admitted write remains: the bank gates and its contents are lost (R144). The handles that map it stay until the tile's next role
change, so a late writer meets BANK_OFF (R147; DEDUCED, notes/assumptions/111). An admitted remote read does not hold the gate back:
R144 names writes only (DESIGN CHOICE, notes/assumptions/121). -/
def bankGate (t b : Nat) (d : Dev) : Dev :=
  let x := d.tile t
  let on := d.fld tileBankPwrOn t
  let dr := d.fld tileBankPwrDraining t
  if b < 16 && bit dr b && !(x.admitted.any (writesBank x b)) then
    let d := (d.setFld tileBankPwrOn (on - (if bit on b then 2 ^ b else 0)) t).setFld tileBankPwrDraining (dr - 2 ^ b) t
    d.updTile t fun x =>
      { x with rows := mapDrop (fun k => k / 528 = b) x.rows, flaws := mapDrop (fun k => k / 528 = b) x.flaws,
               cache := if b < 8 then x.cache else mapDrop (fun k => k / 512 = (b - 8) / 4) x.cache }
  else d

/-- BANK_GATE (R144). -/
def execBankGate (t b : Nat) (s : State) : Out := onDev (bankGate t b) s

/-! ### Live remap (R142, R143) -/

/-- LIVE_REMAP (R142): the handle is paused. -/
def execLiveRemap (t h : Nat) (s : State) : Out :=
  onDev (fun d =>
    let x := d.tile t
    let e := x.hnd h
    if e.valid && e.kind = 0 && !x.paused.contains h then d.updTile t fun x => { x with paused := x.paused ++ [h] } else d) s

/-- The entry with another BASE_ROW (R113). -/
def withBase (e : BitVec 128) (base : Nat) : BitVec 128 := BitVec.ofNat 128 (setBits e.toNat 40 32 base)

/-- Addressable row `r` of bank `b` of tile `t` moves to the next spare row, with its data (R139, R142). -/
def switchRow (t b r : Nat) (d : Dev) : Dev :=
  let x := d.tile t
  let k := rowKey b (x.prow b r)
  let used := d.fld (fldSpare b) t
  let v := x.physRow b r
  let y := { x with remap := mapSet 0 x.remap (512 * b + r) (512 + used), rowErrs := mapSet 0 x.rowErrs k 0,
                    rowBad := x.rowBad.filter (· ≠ k) }
  (d.setTile t (y.setPhysRow b r v)).setFld (fldSpare b) (used + 1) t

/-- The accesses accepted before the pause have completed: a row that is being spared is copied and its remap entry switched, or the rows
are copied and BASE_ROW is switched; the handle resumes. -/
def remapResume (t hn base : Nat) (d : Dev) : Dev :=
  let x := d.tile t
  let h := x.hnd hn
  let l := (upto 64).map x.hnd
  let bases (k : Nat) : Nat := if k = hn then base else (l.getD k (hndOf 0)).baseRow
  match x.sparing with
  | some (h', b, r) =>
    if h' = hn && x.admitted.all (fun q => q.handle ≠ hn) then
      settle ((switchRow t b r d).updTile t fun x => { x with paused := x.paused.erase hn, sparing := none }) t
    else d
  | none =>
  if x.paused.contains hn && x.admitted.all (fun q => q.handle ≠ hn) && decide (base < 512) && basesOk l bases then
    let rows := x.readRows h 0 h.rows
    let e := withBase (mapGet 0 x.handles hn) base
    let h' := hndOf e
    let y : Tile := { x with handles := mapSet 0 x.handles hn e, paused := x.paused.erase hn }
    let y := (rows.zip (upto rows.length)).foldl (fun (y : Tile) r => y.writeRow h' r.2 r.1) y
    let d := d.setTile t y
    settle (if h.baseRow = base then d else d.forCount 6) t
  else d

/-- LIVE_REMAP_RESUME (R142). -/
def execLiveRemapResume (t h newBase : Nat) (s : State) : Out := onDev (remapResume t h newBase) s

end Sys2Proof.Machine
end

