-- ==== Sys2Proof/Machine/Forester.lean ====
section
/-! DEFINITION. Forester and the sensors: retirement and substitution (R333 to R337), draining, re-execution (R93, R222, R223,
R339, R448), row sparing (R139 to R141), thermal control (R329, R483 to R486). -/

namespace Sys2Proof.Machine

/-! ### Moving work -/

/-- Problem `p`'s reservation on tile `t` goes to tile `u`. -/
def moveReserved (t u : Nat) (d : Dev) (p : Problem) : Dev :=
  let d : Dev := { d with admitted := d.admitted.map fun (a : Admitted) =>
    if a.job = p.job && a.prob = p.idx && a.kind = rkTile && a.inst = t then { a with inst := u } else a }
  d.updProb p.job p.idx fun q => { q with reserved := q.reserved.map fun x => if x = t then u else x }

/-- The items of job `j` that wait for tile `t`, and its entries if it is an ATTEND job, go to tile `u`. -/
def moveEntries (t u : Nat) (d : Dev) (j : Nat) : Dev :=
  let mine := (d.tile t).items.filter fun i => i.job = j
  let d := d.updTile t fun x => { x with items := x.items.filter fun i => i.job ≠ j }
  let d := d.updTile u fun x => { x with items := x.items ++ mine }
  let d := d.updAttend j fun a => { a with entries := a.entries.map fun (e : AttendEntry) => if e.tile = t && !e.done then { e with tile := u } else e }
  let d : Dev := { d with admitted := d.admitted.map fun (a : Admitted) =>
    if a.job = j && a.kind = rkTile && a.inst = t then { a with inst := u } else a }
  d.updJob j fun x => { x with tiles := (x.tiles.filter (· ≠ t) ++ [u]).eraseDups }

/-- ATTEND jobs whose work waits for tile `t`. -/
def waitingAttends (d : Dev) (t : Nat) : List Nat :=
  ((d.tile t).items.map (·.job)).eraseDups.filter fun j => (d.attendOf j).isSome

/-- Problems queued with a reservation on tile `t`. -/
def queuedOn (d : Dev) (t : Nat) : List Problem :=
  d.solv.problems.filter fun p => p.phase = .queued && p.reserved.contains t

/-- The reservations that graph jobs hold on tile `t` go to tile `u`. -/
def moveGraphs (d : Dev) (t u : Nat) : Dev :=
  let graph (j : Nat) : Bool := (d.job j).any fun x => x.desc.opcode = opRunGraph
  { d with admitted := d.admitted.map fun (a : Admitted) =>
      if a.kind = rkTile && a.inst = t && graph a.job then { a with inst := u } else a }

/-- Jobs whose items wait for tile `t`. -/
def waitingJobs (d : Dev) (t : Nat) : List Nat := ((d.tile t).items.map (·.job)).eraseDups

/-- Everything that waits for tile `t` waits for tile `u`. -/
def moveWork (d : Dev) (t u : Nat) : Dev :=
  let d := (queuedOn d t).foldl (moveReserved t u) d
  moveGraphs ((waitingJobs d t).foldl (moveEntries t u) d) t u

/-! ### Substitutes (R333, R334, R336) -/

/-- A tile at rest that no image holds. -/
def unheld (d : Dev) (t : Nat) : Bool :=
  let x := d.tile t
  x.image.isNone && x.loadFor.isNone && x.roleTo.isNone && x.job.isNone && x.replaces.isNone && x.drainTo.isNone &&
    !d.flag tileRoleChanging t

/-- The substitute of tile `t`: in service and held by no image, then a sapling, on its own die, then on the other; the lowest
number of each kind (R333). -/
def pickSubstitute (d : Dev) (t : Nat) : Option Nat :=
  let of (same : Bool) (s : Service) : Option Nat := (upto tileCount).find? fun u =>
    u ≠ t && (dieOf u = dieOf t) = same && (d.tile u).service = s && unheld d u
  ((of true .inService).orElse fun _ => (of true .spare).orElse fun _ => (of false .inService).orElse fun _ => of false .spare)

/-- The image's copy in the image store can be read (R448). -/
def copyReadable (d : Dev) (n : Nat) : Bool := match d.image n with
  | some im => !poisoned d im.copyBase im.copyLen
  | none => false

/-- Logical tile `l` of image `n` is prepared on tile `u`, in place of tile `old` (R334). -/
def prepareSub (d : Dev) (n l u old : Nat) : Dev :=
  let role := (((d.image n).map fun im => (im.tiles.getD l { role := 0 }).role)).getD 0
  let d := (d.updTile u fun x => { x with service := .inService, replaces := some old }).updTiles
  roleChangeStart d u role (some (n, l))

/-- A problem for which the image has too few SOLVE tiles left ends (R336). -/
def shortProblem (d : Dev) (p : Problem) : Dev :=
  match d.image p.image with
  | none => d
  | some im =>
    if p.t.grove ≤ (solveTiles d im).length then d
    else if p.reexec then giveUpProblem d p
    else endSolveJob (refuseProblem (releaseItem d p.job p.idx) p.job p.idx 8) p.job

/-- A queued problem finds another tile of its image for a lost one. -/
def replaceReserved (t : Nat) (d : Dev) (p : Problem) : Dev :=
  match d.image p.image with
  | none => d
  | some im => match choose d ((solveTiles d im).filter fun u => !p.reserved.contains u) with
    | (some u, d) => moveReserved t u d p
    | (none, d) => d

/-- An ATTEND job finds another tile for a lost one, or is refused. -/
def replaceEntries (t : Nat) (d : Dev) (j : Nat) : Dev :=
  match choose d ((attendTiles d (((d.job j).map (·.desc.image)).getD 0)).filter (· ≠ t)) with
  | (some u, d) => dispatchTile u (moveEntries t u d j)
  | (none, d) => refuseJob d j 8

/-- No substitute exists: the grove is short (R336). A load that loses a tile is refused and frees what it held. -/
def groveShort (d : Dev) (n t : Nat) : Dev :=
  let d := (d.setFld forStatusNoSapling 1).setFld forStatusGroveShort 1
  match (d.image n).bind (·.loading) with
  | some j => refuseJob (withdrawLoad d j) j 8
  | none =>
    let d := (queuedOn d t).foldl (replaceReserved t) d
    let d := (waitingAttends d t).foldl (replaceEntries t) d
    (d.solv.problems.filter fun p => p.image = n && p.phase = .queued).foldl shortProblem d

/-- Tile `t`, which held logical tile `l` of image `n`, is replaced. -/
def substitute (d : Dev) (n l t old : Nat) : Dev :=
  match if copyReadable d n then pickSubstitute d t else none with
  | some u => moveWork (prepareSub d n l u old) t u
  | none => groveShort d n t

/-- RUN_GRAPH jobs at work that still need tile `t`: its program, or its output rows. -/
def graphsOn (d : Dev) (n l t : Nat) : List Nat :=
  (d.jobs.filter fun x => x.phase = .running && x.desc.opcode = opRunGraph && x.desc.image = n && !x.waitPlace &&
    (x.tiles.contains t || (x.outCopy && (match d.image n with
      | some im => (im.entryIo.getD x.desc.entry {}).outTile = l
      | none => false)))).map (·.id)

/-- Transfers at the ingress of a tile that leaves service are refused. -/
def refuseAll (d : Dev) (t : Nat) : Dev :=
  let x := d.tile t
  let d := d.updTile t fun x => { x with held := [], backlog := [], admitted := [] }
  (x.held ++ x.backlog ++ x.admitted).foldl (fun d q => refuseXfer d t q .roleStale) d

/-- Tile `t` is retired (R333, R334): removed from the placement, its work to be re-executed or moved, a substitute prepared.
(DEDUCED, notes/assumptions/87.) -/
def retireTile (t reason : Nat) (d : Dev) : Dev :=
  if tileCount ≤ t || (d.tile t).service = .retired then d
  else
    let x := d.tile t
    let d := logEvent d lgRetired (leBytes 1 t ++ leBytes 1 reason)
    let d := tileFault d t stRoleStale
    let place := x.image.bind fun n => (d.image n).bind fun im => (upto im.place.length).find? fun l => im.place.getD l none = some t
    let d := match x.image, place with
      | some n, some l => (graphsOn d n l t).foldl (fun d j => jobFault d j stRoleStale) (placeAt d n l none)
      | _, _ => d
    let d := refuseAll (withdrawTile (writeBackAll d t) t) t
    let d := (d.setFld tileStateState tsRetired t).updTile t fun y =>
      { y with service := .retired, job := none, vendor := false, stall := none, roleTo := none, loadFor := none, replaces := none,
               drainTo := none }
    let d := (d.setFld tileRoleChanging 0 t).updTiles
    match x.roleTo, x.loadFor, x.image, place with
    | some _, some (n, l), _, _ => substitute d n l t (x.replaces.getD t)
    | some _, none, _, _ => tileReleased d t
    | none, _, some n, some l =>
      let d := d.updTile t fun y => { y with image := none }
      match x.drainTo with
      | some _ => d
      | none => substitute d n l t t
    | _, _, _, _ => d

/-- A retirement is kept in the repair record (R546; DEDUCED, notes/assumptions/35). -/
def keepRepair (f : Repair → Repair) (s : State) : State :=
  if s.dev.flag clrGuardHeld then
    { s with dev := { s.dev with mgmt := { s.dev.mgmt with repair := some (f (s.dev.mgmt.repair.getD s.nv.repair)) } } }
  else { s with nv := { s.nv with repair := f s.nv.repair } }

/-- The repair record as the firmware has it: in flash, or waiting for the write guard. -/
def State.repair (s : State) : Repair := s.dev.mgmt.repair.getD s.nv.repair

/-- A tile is retired and the record written. (DEDUCED, notes/assumptions/62.) -/
def retire (t reason : Nat) (s : State) : State :=
  if tileCount ≤ t || (s.dev.tile t).service = .retired then s
  else
    keepRepair (fun r => { r with retired := if r.retired.contains t then r.retired else r.retired ++ [t] })
      { s with dev := retireTile t reason s.dev }

/-! ### TILE_DRAIN (R337) -/

/-- Admitted deadline work of tile `t` that has not started: a problem or a job other than the one at work there. -/
def unstarted (d : Dev) (t : Nat) : List Admitted :=
  d.admitted.filter fun a => a.kind = rkTile && a.inst = t && (match d.probOn t with
    | some p => !(a.job = p.job && a.prob = p.idx)
    | none => (d.tile t).job ≠ some a.job)

/-- Every item fits on tile `u`, one after the other. -/
def fitsAll (u : Nat) : List Admitted → Dev → Bool
  | [], _ => true
  | a :: l, d => fits d rkTile u a.cls a.deadline a.demand d.now &&
      fitsAll u l { d with admitted := d.admitted ++ [{ a with inst := u }] }

/-- A drain begins: the substitute takes what has not started and is prepared; the tile takes no new item. -/
def tileDrain (t : Nat) (d : Dev) : Dev :=
  let x := d.tile t
  let busy := (upto tileCount).any fun u => (d.tile u).drainTo.isSome
  let place := x.image.bind fun n => (d.image n).bind fun im =>
    if im.unloading.isSome || im.loading.isSome then none else (upto im.place.length).find? fun l => im.place.getD l none = some t
  match x.image, place, pickSubstitute d t with
  | some n, some l, some u =>
    if busy || x.roleTo.isSome || !copyReadable d n || !fitsAll u (unstarted d t) d then d
    else moveWork (prepareSub (d.updTile t fun y => { y with drainTo := some u }) n l u t) t u
  | _, _, _ => d

/-- TILE_DRAIN (R337). -/
def execTileDrain (t : Nat) (s : State) : Out := onDev (fun d => if fwReady d then tileDrain t d else d) s

/-! ### JOB_REEXECUTE (R93, R222, R223, R334, R339, R448) -/

/-- A tile of the image is being prepared as a substitute (R334). -/
def substituting (d : Dev) (n : Nat) : Bool := (upto tileCount).any fun t => (d.tile t).loadFor.map (·.1) = some n

/-- The tiles on which a problem under decision can run again: for END_CAUSE 3 other tiles than the first (R222). -/
def retryTiles (d : Dev) (p : Problem) : List Nat :=
  match d.image p.image with
  | none => []
  | some im => (solveTiles d im).filter fun t => p.fault.isSome || !p.firstTiles.contains t

/-- The image has too few other SOLVE tiles: one of the suspect tiles is drained, and a tile in reserve takes its place (R222, R337). -/
def bringSpare (d : Dev) (p : Problem) : Option Dev :=
  let placed := ((d.image p.image).map (·.place)).getD []
  match if fwReady d then p.firstTiles.find? fun t => placed.contains (some t) else none with
  | none => none
  | some t =>
    let d := tileDrain t ((freeTiles d p.atWork).updProb p.job p.idx fun q => { q with tiles := [], asm := none })
    if (d.tile t).drainTo.isSome then some d else none

/-- A problem's re-execution, if the slack test passes and tiles are there (R222, R223). -/
def retryProblem (d : Dev) (p : Problem) : Dev :=
  let cs := retryTiles d p
  let slack := slackTest p.deadline (cyclesNs (probBound p.t p.rcd)) d.now
  if cs.length < p.t.grove then
    if substituting d p.image then d
    else if !slack || p.fault.isSome then giveUpProblem d p
    else if (upto tileCount).any fun u => (d.tile u).drainTo.isSome then d
    else (bringSpare d p).getD (giveUpProblem d p)
  else if !slack then giveUpProblem d p
  else
    let c := chooseN p.t.grove cs d
    requeueProblem c.2 p c.1

/-- A row that failed: the image-supplied rows of its handle are written again (R448). -/
def rewriteRows (d : Dev) (t : Nat) : Dev :=
  match (d.tile t).image.bind d.image with
  | none => d
  | some im =>
    if !d.flag tileEccStatusUncorrectable t || !d.flag tileEccAddrHvalid t then d
    else
      let it := im.tiles.getD (d.fld tileIdLtile t) { role := 0 }
      (it.rows.filter fun r => r.1 = d.fld tileEccAddrHandle t).foldl (fun d r => loadRows d t r) d

/-- The declared tile time of a job at the admission rate, in ns (R222, R329). -/
def declaredNs (d : Dev) (j : Nat) : Nat :=
  let c := (d.admitted.filter fun a => a.job = j && a.kind = rkTile).foldl (fun m a => max m a.demand) 0
  (160 * c + 12 * d.floorDuty - 1) / (12 * d.floorDuty)

/-- The job's start over: what it still does is withdrawn, and its work begins anew (R192). -/
def restartJob (d : Dev) (j : Nat) : Dev :=
  let ts := tilesOf d j
  let d := ts.foldl (fun d t => rewriteRows (withdrawTile d t) t) d
  let d := withdrawAttn (withdrawCopies (freeTiles d ts) j) j
  let d := (upto tileCount).foldl (fun d t => d.updTile t fun x => { x with items := x.items.filter fun i => i.job ≠ j }) d
  let d := (d.updJob j fun x => { x with fault := none, flags := x.flags ||| cfReexecuted, tiles := [], outCopy := false }).forCount 2
  runJob j d

/-- Every logical tile that a faulted job needs is placed. -/
def jobPlaced (d : Dev) (x : Job) : Bool :=
  match d.image x.desc.image with
  | none => true
  | some im => x.desc.opcode ≠ opRunGraph || (entryNeeds im x.desc.entry).all fun l => (d.workTile im l).isSome

/-- A tile that the job would run on again is still being prepared (R334), or waits for its test (R55). The slack test counts from the
instant at which it is ready (R222). -/
def tilesPending (d : Dev) (x : Job) : Bool :=
  x.desc.opcode = opRunGraph && (d.image x.desc.image).any fun im =>
    graphWaits d im x.desc.entry || (entryNeeds im x.desc.entry).any fun l => (im.tileAt l).any fun t => (d.tile t).untested

/-- Forester decides on a faulted problem, or on a faulted job (R222). -/
def jobReexecute (j : Nat) (d : Dev) : Dev :=
  match suspectOf d j, d.job j with
  | some p, _ => retryProblem d p
  | none, some x => match x.fault with
    | none => d
    | some st =>
      if x.phase ≠ .running then d
      else if bit x.flags 2 || !jobPlaced d x then endJob d j st
      else if tilesPending d x then d
      else if slackTest x.deadline (declaredNs d j) d.now then restartJob d j
      else endJob d j st
  | none, none => d

/-- The firmware's test of a tile in strict mode ends and passes: the tile returns to service (R55, R93, R222). A tile that fails it is
retired by TILE_RETIRE (R333). (DESIGN CHOICE, notes/assumptions/127.) -/
def tileTested (d : Dev) (t : Nat) : Dev :=
  if (d.tile t).untested then dispatchTile t (d.updTile t fun x => { x with untested := false }) else d

/-- The tests that are under way end. -/
def testsEnd (d : Dev) : Dev := if fwReady d then (d.tiles.map (·.1)).foldl tileTested d else d

/-- The RUN_GRAPH jobs that waited for a substitute begin (R334, R337). -/
def resumeGraphs (d : Dev) : Dev :=
  ((d.jobs.filter fun x => x.waitPlace && x.phase = .running && x.fault.isNone).map (·.id)).foldl (fun d j => runGraphJob j d) d

/-! ### TILE_ROW_SPARE (R139 to R142) -/

/-- The valid LOCAL handle that maps addressable row `r` of bank `b` (R110). -/
def handleOfRow (x : Tile) (b r : Nat) : Option Nat :=
  (upto 64).find? fun k =>
    let h := x.hnd k
    h.valid && h.kind = 0 && mapsBank h b && decide (h.baseRow ≤ r) && decide (r < h.baseRow + h.rows / 2 ^ h.bankLog2)

/-- Addressable row `r` of bank `b` moves to the next spare row: the repair record and the log name it at once; where a handle maps the
row, the handle is paused and the row is copied when its accepted accesses have completed (R142, R143); a bank without a spare row
retires the tile. -/
def tileRowSpare (t b r : Nat) (s : State) : State :=
  let d := s.dev
  let x := d.tile t
  let k := rowKey b (x.prow b r)
  if !fwReady d || decide (tileCount ≤ t) || decide (16 ≤ b) || decide (512 ≤ r) || x.sparing.isSome ||
      !(decide (3 ≤ mapGet 0 x.rowErrs k) || x.rowBad.contains k) then s
  else
    let used := d.fld (fldSpare b) t
    if 16 ≤ used then retire t 0 s
    else
      match handleOfRow x b r with
      | some h =>
        if x.paused.contains h then s
        else
          let d := d.updTile t fun y => { y with paused := y.paused ++ [h], sparing := some (h, b, r) }
          let d := logEvent d lgSpared (leBytes 1 2 ++ leBytes 1 t ++ leBytes 1 b ++ leBytes 4 r)
          keepRepair (fun q => { q with tileRows := mapSet 0 q.tileRows (8192 * t + 512 * b + r) (512 + used) }) { s with dev := d }
      | none =>
        let d := logEvent (switchRow t b r d) lgSpared (leBytes 1 2 ++ leBytes 1 t ++ leBytes 1 b ++ leBytes 4 r)
        keepRepair (fun q => { q with tileRows := mapSet 0 q.tileRows (8192 * t + 512 * b + r) (512 + used) }) { s with dev := d }

/-! ### Thermal control (R329, R484, R485) -/

/-- The tiles of region `r`: eight to a C-die (R483). -/
def regionTiles (r : Nat) : List Nat :=
  let q := r % 8
  let base := 68 * (r / 8)
  if q < 4 then (upto 9).map (base + 9 * q + ·) else (upto 8).map (base + 36 + 8 * (q - 4) + ·)

/-- The duty at which tile `t` issues: never below the floor while the tile holds admitted deadline work (R329). -/
def issueDuty (d : Dev) (t : Nat) : Nat :=
  if hasDeadlineWork d t then max (d.tile t).duty d.floorDuty else (d.tile t).duty

/-- A queued problem leaves a tile held below the floor for one that admits it. -/
def coolProblem (t : Nat) (d : Dev) (p : Problem) : Dev :=
  match d.image p.image, d.admitted.find? fun a => a.job = p.job && a.prob = p.idx && a.kind = rkTile && a.inst = t with
  | some im, some a =>
    match choose d ((solveTiles d im).filter fun u => !p.reserved.contains u && !thermalHeld d u &&
        fits d rkTile u a.cls a.deadline a.demand d.now) with
    | (some u, d) => moveReserved t u d p
    | (none, d) => d
  | _, _ => d

/-- The same for the waiting entries of an ATTEND job. -/
def coolEntries (t : Nat) (d : Dev) (j : Nat) : Dev :=
  match d.admitted.find? fun a => a.job = j && a.kind = rkTile && a.inst = t with
  | none => d
  | some a =>
    match choose d ((attendTiles d (((d.job j).map (·.desc.image)).getD 0)).filter fun u => u ≠ t && !thermalHeld d u &&
        fits d rkTile u a.cls a.deadline a.demand d.now) with
    | (some u, d) => dispatchTile u (moveEntries t u d j)
    | (none, d) => d

/-- Admitted items that have not started leave a tile held below the floor. -/
def coolTile (d : Dev) (t : Nat) : Dev :=
  if thermalHeld d t then
    let d := d.setFld forStatusThermalHold 1
    (waitingAttends d t).foldl (coolEntries t) ((queuedOn d t).foldl (coolProblem t) d)
  else d

/-- THERMAL_HOLD clears when every tile's demanded duty is at the floor or above (R329). -/
def thermalClear (d : Dev) : Dev :=
  if (upto tileCount).any fun t => decide ((d.tile t).demandDuty < d.floorDuty) then d else d.setFld forStatusThermalHold 0

/-- The applied duty follows the demand by one step: a region whose demand falls lowers its tiles with best-effort work alone first, and
those that hold admitted deadline work once no other tile is left to lower (R329; DEDUCED, notes/assumptions/139). -/
def applyDuty (r : Nat) (d : Dev) : Dev :=
  let step (d : Dev) (t : Nat) : Dev := d.updTile t fun x => { x with duty := if x.duty < x.demandDuty then x.duty + 1 else x.duty - 1 }
  let ts := regionTiles r
  let up := ts.filter fun t => decide ((d.tile t).duty < (d.tile t).demandDuty)
  let low := ts.filter fun t => !hasDeadlineWork d t && decide ((d.tile t).demandDuty < (d.tile t).duty)
  let last := ts.filter fun t => hasDeadlineWork d t && decide (max (d.tile t).demandDuty d.floorDuty < (d.tile t).duty)
  (up ++ if low = [] then last else low).foldl step d

/-- The demanded duty of a region's tiles changes (R484), and Forester applies it (R329). -/
def regionDuty (f : Nat → Nat) (r : Nat) (d : Dev) : Dev :=
  let d := (regionTiles r).foldl (fun d t => d.updTile t fun x => { x with demandDuty := f x.demandDuty }) d
  thermalClear ((regionTiles r).foldl coolTile (applyDuty r d))

/-- THROTTLE_C in °C (R484, R515). -/
def throttleC (d : Dev) : Int := min 0x78 (d.fld mgmtThermThrottleC)

/-- THROTTLE_STEP (R484): 1 ms passes above the threshold. -/
def execThrottleStep (r : Nat) (s : State) : Out :=
  onDev (fun d => if fwReady d && decide (r < 16) && decide (16 * throttleC d < d.sfld mgmtTempTemp r) then
      regionDuty (fun n => max 1 (n - 1)) r d
    else d) s

/-- DUTY_RAISE_STEP (R484): 10 ms pass below it. -/
def execDutyRaiseStep (r : Nat) (s : State) : Out :=
  onDev (fun d => if fwReady d && decide (r < 16) && decide (d.sfld mgmtTempTemp r < 16 * (throttleC d - 3)) then
      regionDuty (fun n => min 16 (n + 1)) r d
    else d) s

/-- The limit condition of region `r` (R485). -/
def limitHolds (d : Dev) (r : Nat) : Bool :=
  decide (16 * 125 ≤ d.sfld mgmtTempTemp r) && (regionTiles r).all fun t => decide (issueDuty d t ≤ d.floorDuty)

/-- A region counts an event when its condition begins to hold; the third within an hour retires a tile. -/
def limitEvent (r : Nat) (s : State) : State :=
  let d := s.dev
  if !limitHolds d r then { s with dev := { d with mgmt := { d.mgmt with limits := d.mgmt.limits.filter (· ≠ r) } } }
  else if d.mgmt.limits.contains r then s
  else
    let ts := ((mapGet [] d.mgmt.limitTimes r).filter fun t => decide (d.now < t + 3600 * 10 ^ 9)) ++ [d.now]
    let full := decide (3 ≤ ts.length)
    let d : Dev := { d with mgmt := { d.mgmt with limits := d.mgmt.limits ++ [r],
                                                  limitTimes := mapSet [] d.mgmt.limitTimes r (if full then [] else ts) } }
    let d := logEvent d lgThermal (leBytes 1 r ++ leBytes 2 (d.fld mgmtTempTemp r))
    match if full then (regionTiles r).find? fun t => (d.tile t).service = .inService else none with
    | some t => retire t 3 { s with dev := d }
    | none => { s with dev := d }

/-! ### SENSOR_SAMPLE (R483, R486) -/

/-- The firmware's register for sensor `i` with value `v`: 0 to 23 the dies, 30 the module temperature, 31 the humidity; the rail
currents 24 to 29 have none (DESIGN CHOICE, notes/assumptions/36). -/
def storeReading (i : Nat) (v : Int) (d : Dev) : Dev :=
  if i < 24 then
    let d := d.setS mgmtTempTemp v i
    if d.sfld mgmtTempMax i < d.sfld mgmtTempTemp i then d.setS mgmtTempMax v i else d
  else if i = 30 then d.setS mgmtSupply1TModule v
  else if i = 31 then d.setFld mgmtSupply1Rh (unsx 16 v)
  else d

/-- A sensor is read through its trim. The trip of R486 does not depend on the firmware, and comes before a limit event. -/
def sensorSample (i : Nat) (raw : Int) (s : State) : State :=
  if !s.dev.boot.powered then s
  else
    let v := raw + mapGet 0 s.dev.mgmt.trims i
    let d := s.dev
    let d := if i < 24 then
        let ovr := decide (16 * 130 ≤ v)
        let d : Dev := { d with boot := { d.boot with hot := d.boot.hot.filter (· ≠ i) ++ (if ovr then [i] else []) } }
        if ovr then enterSafe 4 d else d
      else d
    if !fwReady d then { s with dev := d }
    else
      let s := { s with dev := storeReading i v d }
      if i < 16 then limitEvent i s else s

end Sys2Proof.Machine
end

