-- ==== Sys2Proof/Machine/Firmware.lean ====
section
/-! DEFINITION. The boot ROM and the start of the firmware (R493, R503, R537, R543), the writing and sealing of the event log (R487,
R488, R490). -/

namespace Sys2Proof.Machine

/-! ### MEAS registers and the attestation key (R494, R497) -/

/-- A MEAS register. -/
def measOf (d : Dev) (n : Nat) : List Byte := mapGet (List.replicate 64 0) d.mgmt.meas n

/-- The public attestation key of this boot. -/
def akKey (d : Dev) : List Byte := beBytes 133 (Config.akPublic (measOf d 0) (measOf d 1)).toNat

/-- The attestation key signs a message. -/
def akSignature (d : Dev) (msg : List Byte) : Dev × List Byte :=
  (d.bump, beBytes 132 (Config.akSign (measOf d 0) (measOf d 1) (sha512 msg) d.freeCtr).toNat)

/-- The attestation key's certificate. -/
def akCertificate (d : Dev) : List Byte := beBytes 364 (Config.akCert (measOf d 0) (measOf d 1)).toNat

/-! ### The boot chain (R493, R501) -/

/-- An update event's DATA: kind, slot, SVN, key slot. -/
def updateData (k : Nat) (b : Bool) (i : Option FlashImg) : List Byte :=
  leBytes 1 k ++ leBytes 1 (b2n b) ++ leBytes 1 ((i.map (·.svn)).getD 0) ++ leBytes 1 ((i.map (·.keySlot)).getD 0)

/-- Kind `k` comes into use: a trial counts down, or has failed and the other slot becomes active; the chosen slot is validated, then
the other one. The image that runs, if either is valid. -/
def useKind (k : Nat) (s : State) : State × Option FlashImg :=
  let p := s.bootPtr k
  let s :=
    if !p.trial then s
    else if p.tries = 0 then
      let s := setBootPtr k { slotB := !p.slotB } s
      { s with dev := logEvent s.dev lgReverted (updateData k (!p.slotB) (s.slot k (!p.slotB)).img) }
    else setBootPtr k { p with tries := p.tries - 1 } s
  let b := (s.bootPtr k).slotB
  let run (b : Bool) (i : FlashImg) : State × Option FlashImg :=
    let l := s.dev.mgmt.runB.filter (· ≠ k)
    ({ s with dev := { s.dev with mgmt := { s.dev.mgmt with runB := if b then l ++ [k] else l } } }, some i)
  match s.goodImg k b, s.goodImg k (!b) with
  | some i, _ => run b i
  | none, some i => run (!b) i
  | none, none => (s, none)

/-- Steps 1 to 3 of R493: the ROM measures itself and the fuses, validates and measures kind 1, derives the attestation key and locks
the key store. Without a valid image the module stays in the ROM, in the safe state. -/
def bootRom (s : State) : State :=
  let f := s.nv.fuses
  let d := extendMeas s.dev 0 (beBytes 64 (Config.romState f.f f.revoked (f.intKey.getD []) f.debugOff).toNat)
  match useKind 1 { s with dev := d } with
  | (s, some i) =>
    let d := extendMeas s.dev 1 i.digest
    { s with dev := { d with mgmt := { d.mgmt with keyLocked := true } } }
  | (s, none) => { s with dev := enterSafe 4 { s.dev with mgmt := { s.dev.mgmt with romOnly := true } } }

/-- Kind `k` is validated and measured; false where it has no valid slot. -/
def measureKind (k : Nat) (s : State) : State × Bool :=
  match useKind k s with
  | (s, some i) => ({ s with dev := extendMeas s.dev k i.digest }, true)
  | (s, none) => (s, false)

/-! ### Calibration (R503, R537) -/

/-- The bytes of the active calibration set, if it is valid. -/
def State.calBytes (s : State) : Option (List Byte) := (s.nv.cal.filter (·.good)).map (·.bytes)

/-- FACTORY of the active set. -/
def State.calFactory (s : State) : Bool := match s.calBytes with
  | some l => bit (recLe l 4 4) 0
  | none => false

/-- MGMT_STATUS shows what kind of set is active. -/
def calStatus (s : State) : State :=
  { s with dev := (s.dev.setFld mgmtStatusCalInvalid (b2n s.calBytes.isNone)).setFld mgmtStatusCalFactory (b2n s.calFactory) }

/-- The sensors' trims of a set: 24 die sensors, and the humidity (31). -/
def calTrims (l : List Byte) : SMap Int :=
  mapSet 0 ((upto 24).foldl (fun m i => mapSet 0 m i (sx 16 (recLe l (80 + 2 * i) 2))) []) 31 (sx 32 (recLe l 148 4))

/-- The converters take the set's offset and gain; without a set OFS 0 and GAIN 0x4000. (DESIGN CHOICE, notes/assumptions/102.) -/
def applyAdc (l : Option (List Byte)) (d : Dev) : Dev :=
  (upto 8).foldl (fun d c => match l with
    | some b => (d.setFld adcCalOfs (recLe b (32 + 4 * c) 2) c).setFld adcCalGain (recLe b (34 + 4 * c) 2) c
    | none => (d.setFld adcCalOfs 0 c).setFld adcCalGain 0x4000 c) d

/-- TIME_INC is seeded from the crystal's offset: nominal for an offset of 0; the manual does not give the value for another
(DESIGN CHOICE, notes/assumptions/43). -/
def seedInc (l : Option (List Byte)) (d : Dev) : Dev :=
  if ((l.map fun b => recLe b 144 4).getD 0) = 0 then d.setFld timeIncInc 0x280000000
  else (d.setFld timeIncInc (clampInc (Config.freeU64 d.freeCtr).toNat)).bump

/-! ### The configuration image (R493, R515) -/

/-- The CLR registers and the CAN acceptance filters as the configuration image gives them; without one they are empty. -/
def applyCfgRegs (body : Option (List Byte)) (d : Dev) : Dev :=
  let put (b : Bank) (o : Nat) (v : Option U32) : Bank := bankSet b o (v.getD (resetWord o))
  let clr (i : Nat) : Option U32 := body.map fun l => Config.cfgClearing l i
  let r := put (put d.regs rClrCtrl (clr 0)) rClrFilt (clr 1)
  let r := (upto 16).foldl (fun b i => put b (rClrRule + 4 * i) (clr (2 + i))) r
  let r := (upto 128).foldl (fun b i => put b (rCanFilter + 4 * i) (body.map fun l => Config.cfgCanFilter l i)) r
  { d with regs := r }

/-- The bridge tables of the configuration image (R403). -/
def applyCfgNet (body : List Byte) (d : Dev) : Dev :=
  let entry (e : Nat × Nat × Nat) : FdbEntry := { mac := e.1, vid := e.2.1, ports := e.2.2, learned := false }
  let put (m : SMap Nat) (e : Nat × Nat) : SMap Nat := mapInsert m e.1 e.2
  let vlans : SMap Nat := (Config.cfgVlans body).foldl put d.net.vlans
  let fdb : List FdbEntry := d.net.fdb ++ (Config.cfgFdb body).map entry
  { d with net := { d.net with fdb := fdb, vlans := vlans } }

/-- With CFG_EMPTY the bridge and the CAN controllers stay off (R493). (DEDUCED, notes/assumptions/93.) -/
def netOff (d : Dev) : Dev :=
  if d.flag mgmtStatusCfgEmpty then ((d.setFld netCtrlEnable 0).setFld netCanCfgEnable 0 0).setFld netCanCfgEnable 0 1 else d

/-! ### The firmware starts (R493 step 4, R544 stage 2) -/

/-- What only a start-up does: calibration and increment, bridge tables, start-up and wake records, records lost before a sleep. -/
def configure (body : Option (List Byte)) (s : State) : State :=
  let d := seedInc s.calBytes (applyAdc s.calBytes s.dev)
  let d := match body with
    | some l => applyCfgNet l d
    | none => d
  let slots := d.mgmt.runB.foldl (fun n k => n + 2 ^ k) 0
  let d := logEvent d lgStartup (leBytes 1 slots ++ leBytes 1 s.nv.fuses.f ++ leBytes 1 s.nv.fuses.revoked.toNat)
  let d := match d.clr.woke with
    | some w => logEvent d lgWake (leBytes 1 w.1 ++ leBytes 1 w.2)
    | none => d
  let d : Dev := { d with clr := { d.clr with woke := none, lostKept := 0 }, boot := { d.boot with configured := true },
                          mgmt := { d.mgmt with lost := d.mgmt.lost + d.clr.lostKept } }
  { s with dev := d, nv := { s.nv with boots := s.nv.boots + 1 } }

/-- The firmware starts: kinds 4, 2, 3 and 5 are validated and measured, then the calibration set; FW_READY sets. Without a valid
image of kind 2, 3 or 4 the safe state is entered. -/
def firmwareStart (s : State) : State :=
  let a := measureKind 4 s
  let b := measureKind 2 a.1
  let c := measureKind 3 b.1
  let e := measureKind 5 c.1
  let s := e.1
  let body := if e.2 then some (s.slot 5 (s.dev.mgmt.runB.contains 5)).body else none
  let cal := s.calBytes
  let digest := match cal with
    | some l => (l.drop 192).take 64
    | none => List.replicate 64 0
  let d := extendMeas s.dev 6 digest
  let trims : SMap Int := (cal.map calTrims).getD []
  let d : Dev := { d with mgmt := { d.mgmt with trims := trims } }
  let d := (fuseStatus s.nv.fuses d).setFld mgmtStatusCfgEmpty (b2n (!e.2))
  let d := netOff (applyCfgRegs body d)
  let s := trialStatus (calStatus { s with dev := d })
  let s := if s.dev.boot.configured then s else configure body s
  let bad := !(a.2 && b.2 && c.2)
  let d := s.dev.setFld mgmtStatusFwReady 1
  let d : Dev := { d with boot := { d.boot with fatal := bad } }
  { s with dev := if bad then enterSafe 4 d else d }

/-- A reset of the management domain (R541, R543): the ROM runs again. MGMT_CNT counts on (DEDUCED, notes/assumptions/44). -/
def restartMgmt (s : State) : State :=
  let cnt := bankWord s.dev.regs rMgmtCnt
  let d := resetMgmt s.dev
  let d : Dev := { d with regs := bankSet d.regs rMgmtCnt cnt, boot := { d.boot with reloading := false } }
  bootRom { s with dev := fuseStatus s.nv.fuses d }

/-! ### The event log in flash (R487, R488, R490) -/

/-- The current sector is sealed, and records go to the next one; the sector after that is erased.
(DEDUCED, notes/assumptions/113.) -/
def sealSector (s : State) : State :=
  let cur := s.nv.logCur
  let x := mapGet {} s.nv.log cur
  if x.recs = [] then s
  else
    let head := (x.recs.headD []).take 8 ++ leBytes 2 x.recs.length ++ List.replicate 6 0 ++ (sha512 (akKey s.dev)).take 16 ++
      s.nv.prevSeal ++ List.replicate 16 0
    let r := akSignature s.dev (x.recs.flatten ++ head)
    let sealed : LogSector := { x with sealBytes := some (head ++ r.2 ++ List.replicate 60 0xFF) }
    let log : SMap LogSector := mapSet {} (mapSet {} s.nv.log cur sealed) ((cur + 2) % 1024) {}
    { s with dev := r.1, nv := { s.nv with log := log, logCur := (cur + 1) % 1024, prevSeal := sha16 head } }

/-- The 64 bytes of a record. -/
def recordBytes (s : State) (r : LogRec) : List Byte :=
  leBytes 8 s.nv.logSeq ++ leBytes 8 r.time ++ leBytes 4 s.nv.boots ++ leBytes 2 r.code ++ leBytes 1 (logSev r.code) ++ leBytes 1 0 ++
    (r.data ++ List.replicate 24 0).take 24 ++ s.nv.chain

/-- A record is written to the current sector; the 60th seals it. -/
def writeRecord (r : LogRec) (s : State) : State :=
  let b := recordBytes s r
  let x := mapGet {} s.nv.log s.nv.logCur
  let x : LogSector := { x with recs := x.recs ++ [b] }
  let nv : NonVol := { s.nv with log := mapSet {} s.nv.log s.nv.logCur x, logSeq := s.nv.logSeq + 1, chain := sha16 b }
  let s : State := { s with nv := nv }
  if x.recs.length = 60 then sealSector s else s

/-- The next record goes to flash: the number of records lost first, then the oldest that waits. -/
def writeNext (s : State) : State :=
  let m := s.dev.mgmt
  if m.lost ≠ 0 then
    writeRecord ⟨s.dev.now, lgLost, leBytes 4 m.lost⟩ { s with dev := { s.dev with mgmt := { m with lost := 0 } } }
  else match m.log with
    | [] => s
    | r :: l => writeRecord r { s with dev := { s.dev with mgmt := { m with log := l } } }

/-- LOG_RECORD_WRITE (R487, R490, R510). -/
def execLogRecordWrite (s : State) : Out := .next (if fwReady s.dev && !guardHeld s.dev then writeNext s else s)

/-- LOG_SEAL (R488). -/
def execLogSeal (s : State) : Out := .next (if fwReady s.dev && !guardHeld s.dev then sealSector s else s)

/-- Every record that waits is written and the sector sealed, unless the write guard holds (R509, R528). -/
def flushLog (s : State) : State :=
  if guardHeld s.dev || !fwReady s.dev then s else sealSector ((upto (s.dev.mgmt.log.length + 1)).foldl (fun s _ => writeNext s) s)

/-! ### Trials and the hub engine's reload (R500, R501) -/

/-- A trial's condition, as far as state shows it: kind 1 with READY, kind 4 with four trained channels, kind 5 applied. -/
def confirms (d : Dev) (k : Nat) : Bool :=
  fwReady d &&
    match k with
    | 1 => d.flag devStatusReady
    | 2 | 3 => true
    | 4 => d.flag memStatusTrained
    | 5 => !d.flag mgmtStatusCfgEmpty
    | _ => false

/-- The slot that the boot pointer names runs. -/
def runsActive (s : State) (k : Nat) : Bool := s.dev.mgmt.runB.contains k = (s.bootPtr k).slotB

/-- TRIAL_CONFIRM (R501). -/
def execTrialConfirm (kind : Nat) (s : State) : Out :=
  let p := s.bootPtr kind
  .next (if p.trial && confirms s.dev kind && runsActive s kind then setBootPtr kind { p with trial := false, tries := 0 } s else s)

/-- The staged slot of kind `k` becomes active, in trial (R499, R501). -/
def makeActive (k : Nat) (s : State) : State :=
  let b := !(s.bootPtr k).slotB
  let x := s.slot k b
  let s := s.setSlot k b { x with staged := false }
  let m := s.dev.mgmt
  let s : State := { s with dev := logEvent { s.dev with mgmt := { m with switching := m.switching.filter (· ≠ k) } } lgSwitched (updateData k b x.img) }
  setBootPtr k { slotB := b, trial := true, tries := 3 } s

/-- The slot that the boot pointer names runs from now on. -/
def runActive (k : Nat) (s : State) : State :=
  let m := s.dev.mgmt
  let l := m.runB.filter (· ≠ k)
  { s with dev := { s.dev with mgmt := { m with runB := if (s.bootPtr k).slotB then l ++ [k] else l } } }

/-- A deadline item runs on the hub engine. -/
def deadlineRunning (d : Dev) : Bool := d.jobs.any fun j => j.phase = .running && j.desc.cls ≠ 0

/-- HUB_RELOAD (R500): the new hub code runs and admission resumes. -/
def execHubReload (s : State) : Out :=
  .next (if s.dev.mgmt.switching.contains 2 && fwReady s.dev && !guardHeld s.dev && !deadlineRunning s.dev then
      let s := runActive 2 (makeActive 2 s)
      { s with dev := { s.dev with boot := { s.dev.boot with reloading := false } } }
    else s)

/-- A library of another epoch becomes active at the first instant at which no image is loaded (R500). -/
def applyLibrary (s : State) : State :=
  if s.dev.mgmt.switching.contains 3 && s.dev.images.isEmpty && fwReady s.dev && !guardHeld s.dev then runActive 3 (makeActive 3 s) else s

/-! ### Commands after which no image may be loaded -/

/-- UNLOAD_IMAGE_FINISH (R557). -/
def execUnloadImageFinish (j : Nat) (s : State) : Out := .next (applyLibrary { s with dev := unloadFinish j s.dev })

/-- ROLE_CHANGE_DONE (R101). -/
def execRoleChangeDone (t : Nat) (s : State) : Out := .next (applyLibrary { s with dev := resumeGraphs (roleChangeDone t s.dev) })

/-- TILE_RETIRE (R333). (DESIGN CHOICE, notes/assumptions/73.) -/
def execTileRetire (t reason : Nat) (s : State) : Out := .next (if fwReady s.dev then applyLibrary (retire t reason s) else s)

/-- JOB_REEXECUTE (R222). -/
def execJobReexecute (j : Nat) (s : State) : Out :=
  .next (applyLibrary { s with dev := jobReexecute j s.dev })

/-- TILE_ROW_SPARE (R140). -/
def execTileRowSpare (t bank brow : Nat) (s : State) : Out := .next (applyLibrary (tileRowSpare t bank brow s))

/-- SENSOR_SAMPLE (R483). -/
def execSensorSample (sensor : Nat) (v : Int) (s : State) : Out := .next (applyLibrary (sensorSample sensor v s))

end Sys2Proof.Machine
end

