-- ==== Sys2Proof/Machine/Clock.lean ====
section
/-! DEFINITION. The LOOP clock's tick (R398, R533): what a step does when no command waits. -/

namespace Sys2Proof.Machine

/-- One tick of device time: a pending TIME_STEP (R399), then TIME_INC (R398). -/
def tick (d : Dev) : Dev :=
  let t := (d.time : Int) + d.timeStep * 2 ^ 32 + d.fld timeIncInc
  { d with time := unsx 96 t, timeStep := 0 }

/-- Three ARITH cycles pass at a tile that runs a program (DESIGN CHOICE, notes/assumptions/120). -/
def paceTick (d : Dev) (t : Nat) : Dev :=
  if d.fld tileStateState t = tsRunning then d.updTile t fun x => { x with pace := { x.pace with cycle := x.pace.cycle + 3 } } else d

/-- What goes on during a tick: the programs' cycles pass, tests end, what waited at the walker for a pin, a page or a tile goes on
(R294, R310, R328), and the global count triggers its rings (R370). -/
def tilesTick (d : Dev) : Dev := countEvents (pump (testsEnd ((d.tiles.map (·.1)).foldl paceTick d)))

/-- No command waits: one LOOP tick passes (DESIGN CHOICE, notes/assumptions/4). -/
def idle (s : State) : Out := onDev (fun d => tilesTick (tick d)) s

end Sys2Proof.Machine
end

