-- ==== Sys2Proof/Machine/Assist.lean ====
section
/-! DEFINITION. The ASSIST instructions: block LDLᵀ and substitution of the Riccati unit (R205, R206, R556). -/

namespace Sys2Proof.Machine

/-- What each element of the factor rows raised, row by row; the flags of σ count as the first element's (R84, R89). -/
def Ldl.effects (f : Fmt) (s : Ldl) (n : Nat) : List ElemFx :=
  (upto n).flatMap fun i => (upto (4096 / f.width)).map fun j =>
    if i < j then (flNone, false)
    else
      let fl := (s.flags.getD j []).getD i flNone
      (if i = 0 then fl ||| s.sigma else fl, (decodeNum f (s.elem i j)).isNan)

/-- Row `i` of the result (R205): L[i][j] for j < i, D[i] at j = i, zero elsewhere. -/
def factorRow (f : Fmt) (s : Ldl) (i : Nat) : Row :=
  rowOf f.width (((upto i).map fun j => mat s.l i j) ++ [s.d.getD i 0])

/-- RICF (R205, R206, R187). An xC with a RSVD bit set is illegal (R163); so is one whose POS is above 64, the end of the range that R205
gives it (DESIGN CHOICE, notes/assumptions/126). -/
def execRicf (t : Nat) (f : Fields) (s : State) : Out :=
  onDev (issue t 0x9 0x00 f fun d =>
    let x := d.tile t
    let fmt := if bit f.mode 7 then fp32 else fp64
    let n := bits f.mode 5 0 + 1
    let ra := (x.xr f.ra).toNat
    let rb := (x.xr f.rb).toNat
    let c := (x.xr f.rc).toNat
    if bits c 63 23 ≠ 0 ∨ 64 < bits c 22 16 then .illegal
    else withRows d t [⟨f.h1, (upto n).map (ra + ·), false⟩, ⟨f.h2, (upto n).map (rb + ·), true⟩] {} fun d =>
      let x := d.tile t
      let m := (upto n).map fun i => rowElems fmt.width (x.rowData (x.hnd f.h1) (ra + i))
      let r := ldl fmt m n (bits c 22 16) (bits c 7 0) (bits c 15 8)
      let x := (upto n).foldl (fun x i => x.programStore (x.hnd f.h2) (rb + i) (factorRow fmt r i)) x
      .done (raise (d.setTile t (x.xw f.rd (BitVec.ofNat 64 r.replaced))) t (r.effects fmt n))) s

/-- RICS (R556). -/
def execRics (t : Nat) (f : Fields) (s : State) : Out :=
  onDev (issue t 0x9 0x01 f fun d =>
    let x := d.tile t
    let fmt := if bit f.mode 7 then fp32 else fp64
    let n := bits f.mode 5 0 + 1
    let ra := (x.xr f.ra).toNat
    let rb := (x.xr f.rb).toNat
    withRows d t [⟨f.h1, (upto n).map (ra + ·), false⟩, ⟨f.h2, [rb], false⟩] {} fun d =>
      if !reqLegal d t ⟨f.h2, [rb], true⟩ then .illegal
      else
        let x := d.tile t
        let l := (upto n).map fun i => rowElems fmt.width (x.rowData (x.hnd f.h1) (ra + i))
        let old := x.rowData (x.hnd f.h2) rb
        let v := rowElems fmt.width old
        let r := if bit f.mode 6 then backwardSub fmt l v n else forwardSub fmt l v n
        let row := spliceRow old 0 (n * fmt.width) (pack fmt.width (r.map (·.1)))
        .done (raise (d.setTile t (x.programStore (x.hnd f.h2) rb row)) t (r.map (elemOf fmt)))) s

end Sys2Proof.Machine
end

