-- ==== Sys2Proof/Machine/Mailbox.lean ====
section
/-! DEFINITION. The mailbox (R513, R514): its two channels, and what each command does. The layouts of requests that R514 does not give
are the model's (DESIGN CHOICE, notes/assumptions/45). -/

namespace Sys2Proof.Machine

/-! ### The channels -/

/-- The registers that a port sees of those held once per port (R152, R513). -/
def portBank (d : Dev) (p : Port) : Bank := match p with
  | .host => d.regs
  | .spadja => d.supRegs

def setPortBank (d : Dev) (p : Port) (b : Bank) : Dev := match p with
  | .host => { d with regs := b }
  | .spadja => { d with supRegs := b }

/-- A field of a register held per port. -/
def Dev.pfld (d : Dev) (p : Port) (f : Fld) (i : Nat := 0) : Nat := bankFld (portBank d p) f i

def Dev.setPfld (d : Dev) (p : Port) (f : Fld) (v : Nat) (i : Nat := 0) : Dev := setPortBank d p (bankFldSet (portBank d p) f i v)

/-- The first `n` bytes of a port's request buffer. -/
def requestBytes (d : Dev) (p : Port) (n : Nat) : List Byte :=
  ((upto ((n + 3) / 4)).flatMap fun i => leBytes 4 (bankWord (portBank d p) (rMboxReq + 4 * i)).toNat).take n

/-- Bytes in a port's response buffer. -/
def setResponse (d : Dev) (p : Port) (l : List Byte) : Dev :=
  setPortBank d p ((upto ((l.length + 3) / 4)).foldl
    (fun b i => bankSet b (rMboxResp + 4 * i) (BitVec.ofNat 32 (recLe l (4 * i) 4))) (portBank d p))

/-- The result codes of R514. -/
def mrOk : Nat := 0
def mrBadCmd : Nat := 1
def mrBadSig : Nat := 2
def mrRollback : Nat := 3
def mrRevoked : Nat := 4
def mrLocked : Nat := 5
def mrBusy : Nat := 6
def mrFlashErr : Nat := 7

/-- A command's end: the machine, its result and response; none where the reset that it asked for ends the channel as well. -/
abbrev MboxEnd := State × Option (Nat × List Byte)

/-- An answer without a response. -/
def answer (s : State) (r : Nat) : MboxEnd := (s, some (r, []))

/-- The command of a port finishes (R513). -/
def finishMbox (p : Port) (r : Nat × List Byte) (s : State) : State :=
  let d := setResponse s.dev p r.2
  let d := (d.setPfld p mboxStatusBusy 0).setPfld p mboxStatusDone 1
  let d := (d.setPfld p mboxStatusResult r.1).setPfld p mboxStatusRespLen r.2.length
  { s with dev := match p with
      | .host => hostEvent d
      | .spadja => d }

/-! ### Attestation, certificates, log (R497, R498, R514) -/

/-- Bytes 0 to 703 of the attestation report. -/
def attestBody (s : State) (nonce : List Byte) : List Byte :=
  let d := s.dev
  let flags := b2n s.nv.fuses.debugOff + 2 * b2n (safeState d) + 4 * b2n s.inTrial + 8 * b2n (d.flag devCtrlSetupLock) +
    16 * b2n s.calFactory + 32 * b2n (d.flag mgmtStatusCfgEmpty)
  leBytes 4 1 ++ leBytes 4 flags ++ moduleSerial ++ leBytes 4 s.nv.boots ++ leBytes 1 s.nv.fuses.f ++ leBytes 1 s.nv.fuses.revoked.toNat ++
    leBytes 2 (d.mgmt.runB.foldl (fun n k => n + 2 ^ k) 0) ++ nonce ++ leBytes 8 d.now ++ List.replicate 24 0 ++
    (upto 8).flatMap (measOf d) ++ (match s.calBytes with
      | some l => (l.drop 192).take 64
      | none => List.replicate 64 0)

/-- GET_ATTEST. -/
def mboxAttest (req : List Byte) (s : State) : MboxEnd :=
  if req.length ≠ 64 then answer s mrBadCmd
  else
    let b := attestBody s req
    let r := akSignature s.dev b
    ({ s with dev := r.1 }, some (mrOk, b ++ r.2))

/-- GET_CERTS. -/
def mboxCerts (s : State) : MboxEnd := (s, some (mrOk, Config.certChain ++ akCertificate s.dev))

/-- The 4,096 bytes of a log sector; an erased byte reads 0xFF. -/
def sectorBytes (x : LogSector) : List Byte :=
  let b := x.recs.flatten
  b ++ List.replicate (3840 - b.length) 0xFF ++ x.sealBytes.getD (List.replicate 256 0xFF)

/-- READ_LOG. -/
def mboxReadLog (req : List Byte) (flashErr : Bool) (s : State) : MboxEnd :=
  let n := recLe req 0 2
  if req.length ≠ 2 || decide (1024 ≤ n) then answer s mrBadCmd
  else if flashErr then answer s mrFlashErr
  else (s, some (mrOk, sectorBytes (mapGet {} s.nv.log n)))

/-! ### Updates (R499 to R502) -/

/-- The slot of kind `k` that an update writes. -/
def updateSlot (s : State) (k : Nat) : Bool := !(s.bootPtr k).slotB

/-- The kinds with an update under way. -/
def setUpdating (l : List Nat) (s : State) : State := { s with dev := { s.dev with mgmt := { s.dev.mgmt with updating := l } } }

/-- UPDATE_BEGIN: kind, three zero bytes, length. -/
def mboxUpdateBegin (req : List Byte) (flashErr : Bool) (s : State) : MboxEnd :=
  let k := recLe req 0 1
  let n := recLe req 4 4
  let up := s.dev.mgmt.updating
  if req.length ≠ 8 || !imageKinds.contains k || !recZero req 1 3 || decide (slotSize k < n) then answer s mrBadCmd
  else if up.contains k || s.dev.mgmt.switching.contains k then answer s mrBusy
  else if flashErr then answer s mrFlashErr
  else answer (setUpdating (up ++ [k]) (s.setSlot k (updateSlot s k) {})) mrOk

/-- Bytes written to a slot from offset `o`. -/
def FlashSlot.write (x : FlashSlot) (o : Nat) (l : List Byte) : FlashSlot :=
  let put (m : SMap Byte) (e : Byte × Nat) : SMap Byte := mapSet 0xFF m (o + e.2) e.1
  { x with bytes := (l.zip (upto l.length)).foldl put x.bytes }

/-- UPDATE_DATA: kind, three zero bytes, offset, up to 8 KiB. -/
def mboxUpdateData (req : List Byte) (flashErr : Bool) (s : State) : MboxEnd :=
  let k := recLe req 0 1
  let o := recLe req 4 4
  let l := req.drop 8
  if decide (req.length < 8) || decide (8192 < l.length) || !s.dev.mgmt.updating.contains k || !recZero req 1 3 ||
      decide (slotSize k < o + l.length) then answer s mrBadCmd
  else if flashErr then answer s mrFlashErr
  else answer (s.setSlot k (updateSlot s k) ((s.slot k (updateSlot s k)).write o l)) mrOk

/-- The result for an image that is not valid: signature, revoked key, or SVN. -/
def imageRefusal (f : Fuses) (k : Nat) (i : FlashImg) : Nat :=
  if !i.sound then mrBadSig
  else if k ≠ 5 && bit f.revoked.toNat i.keySlot then mrRevoked
  else if k ≠ 5 && decide (i.svn < f.f) then mrRollback
  else mrBadSig

/-- UPDATE_END: kind. The slot is validated, and marked staged or left erased. -/
def mboxUpdateEnd (req : List Byte) (flashErr : Bool) (s : State) : MboxEnd :=
  let k := recLe req 0 1
  if req.length ≠ 1 || !s.dev.mgmt.updating.contains k then answer s mrBadCmd
  else if flashErr then answer s mrFlashErr
  else
    let b := updateSlot s k
    let x := s.slot k b
    let i := readImage s.nv.fuses k x
    let s := setUpdating (s.dev.mgmt.updating.filter (· ≠ k)) s
    if imgValid s.nv.fuses k i then
      let s := s.setSlot k b { x with img := some i, staged := true }
      answer { s with dev := logEvent s.dev lgStaged (updateData k b (some i)) } mrOk
    else answer (s.setSlot k b {}) (imageRefusal s.nv.fuses k i)

/-- A kind's switch waits for its instant. -/
def setSwitching (l : List Nat) (s : State) : State :=
  trialStatus { s with dev := { s.dev with mgmt := { s.dev.mgmt with switching := l } } }

/-- SWITCH: kind. Each kind switches at its instant (R500): kind 1 with a reset of the management domain; kind 2 when the hub engine is
reloaded, admission being stopped until then; kind 3 at once if the epoch is the same, else when no image is loaded; kinds 4 and 5
at the next start-up. (DEDUCED, notes/assumptions/96.) -/
def mboxSwitch (req : List Byte) (flashErr : Bool) (s : State) : MboxEnd :=
  let k := recLe req 0 1
  let x := s.slot k (updateSlot s k)
  let sw := s.dev.mgmt.switching
  if req.length ≠ 1 || !imageKinds.contains k || !x.staged then answer s mrBadCmd
  else if sw.contains k || s.dev.mgmt.updating.contains k then answer s mrBusy
  else if flashErr then answer s mrFlashErr
  else match s.goodImg k (updateSlot s k) with
    | none => answer s ((x.img.map (imageRefusal s.nv.fuses k)).getD mrBadSig)
    | some i =>
      let same := (s.activeImg k).map (·.libEpoch) = some i.libEpoch
      match k with
      | 1 => (restartMgmt (makeActive 1 s), none)
      | 2 =>
        let s := setSwitching (sw ++ [2]) s
        answer { s with dev := { s.dev with boot := { s.dev.boot with reloading := true } } } mrOk
      | 3 => answer (if same then runActive 3 (makeActive 3 s) else applyLibrary (setSwitching (sw ++ [3]) s)) mrOk
      | _ => answer (makeActive k s) mrOk

/-! ### Fuses (R492, R495, R496) -/

/-- The fuses change, and MGMT_STATUS shows them. -/
def blowFuses (f : Fuses) (s : State) : State := { s with nv := { s.nv with fuses := f }, dev := fuseStatus f s.dev }

/-- RATCHET: n. -/
def mboxRatchet (req : List Byte) (s : State) : MboxEnd :=
  let n := recLe req 0 1
  let f := s.nv.fuses
  let covered := [1, 2, 3, 4].all fun k => match s.activeImg k with
    | some i => decide (n ≤ i.svn)
    | none => false
  if req.length ≠ 1 then answer s mrBadCmd
  else if decide (f.f < n) && covered && !s.inTrial && decide (n ≤ 64) then
    let s := blowFuses { f with f := n } s
    answer { s with dev := logEvent s.dev lgRatchet [0, 0, BitVec.ofNat 8 n, 0] } mrOk
  else answer s mrRollback

/-- An active or staged image of any kind is signed with the slot. -/
def slotInUse (s : State) (slot : Nat) : Bool :=
  imageKinds.any fun k => (s.activeImg k).map (·.keySlot) = some slot ||
    ((s.slot k (updateSlot s k)).staged && (s.slot k (updateSlot s k)).img.map (·.keySlot) = some slot)

/-- REVOKE: an order of 256 bytes: slot, signing slot, SERIAL at 16, signature of bytes 0 to 123 at 124. No other slot can sign an
order that names the last one, so that case comes before the signature. -/
def mboxRevoke (req : List Byte) (s : State) : MboxEnd :=
  let slot := recLe req 0 1
  let signer := recLe req 1 1
  let serial := (req.drop 16).take 16
  let f := s.nv.fuses
  let r := f.revoked.toNat
  let last := (upto 4).all fun k => k = slot || bit r k
  if req.length ≠ 256 then answer s mrBadCmd
  else if decide (slot < 4) && last then answer s mrRevoked
  else if decide (4 ≤ slot) || decide (4 ≤ signer) || signer = slot || bit r signer ||
      !(serial = List.replicate 16 0 || serial = moduleSerial) ||
      !ecVerify (beBytes 133 (Config.slotKey signer).toNat) (sha512 (req.take 124)) (req.drop 124) then answer s mrBadSig
  else if slotInUse s slot then answer s mrRevoked
  else
    let s := blowFuses { f with revoked := BitVec.ofNat 4 (r ||| 2 ^ slot) } s
    answer { s with dev := logEvent s.dev lgRevoked [0, 0, 0, BitVec.ofNat 8 slot] } mrOk

/-- SET_INT_KEY: a digest of 32 bytes; before SETUP_LOCK, once. -/
def mboxIntKey (req : List Byte) (s : State) : MboxEnd :=
  if req.length ≠ 32 then answer s mrBadCmd
  else if s.dev.flag devCtrlSetupLock || s.nv.fuses.intKey.isSome then answer s mrLocked
  else answer (blowFuses { s.nv.fuses with intKey := some req } s) mrOk

/-! ### Calibration (R504, R505) -/

/-- The bytes that an export signs: the active set, the serial, the certificate. -/
def exportBody (s : State) (set : List Byte) : List Byte := set ++ moduleSerial ++ akCertificate s.dev

/-- CAL_EXPORT. -/
def mboxCalExport (flashErr : Bool) (s : State) : MboxEnd :=
  match if flashErr then none else s.calBytes with
  | none => answer s mrFlashErr
  | some l =>
    let b := exportBody s l
    let r := akSignature (logEvent s.dev lgCalExported ((l.drop 192).take 16)) b
    ({ s with dev := r.1 }, some (mrOk, b ++ r.2))

/-- A set that R504 accepts: the integrator's with a valid digest, or a factory set of this module.
(DEDUCED, notes/assumptions/97.) -/
def calAccepted (l : List Byte) : Bool :=
  let digest := (l.drop 192).take 64
  l.length = 512 && recLe l 0 4 = 1 && digest = sha512 (l.take 192) &&
    (!bit (recLe l 4 4) 0 ||
      ((l.drop 8).take 16 = moduleSerial && ecVerify (beBytes 133 Config.factoryKey.toNat) digest ((l.drop 256).take 132)))

/-- An accepted set replaces the active one; it takes effect at the next start-up. -/
def writeCal (l : List Byte) (flashErr : Bool) (s : State) : MboxEnd :=
  if s.dev.flag devCtrlSetupLock then answer s mrLocked
  else if !calAccepted l then answer s mrBadSig
  else if flashErr then answer s mrFlashErr
  else
    let s := calStatus { s with nv := { s.nv with cal := some ⟨l, true⟩ } }
    answer { s with dev := logEvent s.dev lgCalWritten ((l.drop 192).take 16) } mrOk

/-- CAL_WRITE: a set of 512 bytes. -/
def mboxCalWrite (req : List Byte) (flashErr : Bool) (s : State) : MboxEnd :=
  if req.length ≠ 512 then answer s mrBadCmd else writeCal req flashErr s

/-- CAL_IMPORT: a blob of 1,024 bytes as CAL_EXPORT returns it. -/
def mboxCalImport (req : List Byte) (flashErr : Bool) (s : State) : MboxEnd :=
  if req.length ≠ 1024 then answer s mrBadCmd
  else if !Config.certVerifies ((req.drop 528).take 364) || (req.drop 512).take 16 ≠ moduleSerial then answer s mrBadSig
  else writeCal (req.take 512) flashErr s

/-! ### CAN and bridge (R403, R414) -/

/-- CAN_TX: controller, buffer, ABORT, zero, then the buffer's 80 bytes, which an abort does not need. -/
def mboxCan (req : List Byte) (s : State) : MboxEnd :=
  let c := recLe req 0 1
  let b := recLe req 1 1
  let abort := bit (recLe req 2 1) 0
  if !(req.length = 84 || (abort && req.length = 4)) || decide (2 ≤ c) || decide (16 ≤ b) then answer s mrBadCmd
  else
    let r := if abort then canAbort c b s.dev else canQueue c b (req.drop 4) s.dev
    answer { s with dev := r.1 } r.2

/-- NET_REQ: what to do, ports, VID, MAC (10 bytes). -/
def tableChange (req : List Byte) : Option TableChange :=
  let ports : BitVec 6 := BitVec.ofNat 6 (recLe req 1 1)
  let vid := recLe req 2 2
  let mac := recLe req 4 6
  if req.length ≠ 10 then none
  else match recLe req 0 1 with
    | 0 => some (.setStatic mac vid ports)
    | 1 => some (.removeStatic mac vid)
    | 2 => some (.setVlan vid ports)
    | 3 => some (.removeVlan vid)
    | _ => none

def mboxNet (req : List Byte) (s : State) : MboxEnd :=
  match tableChange req with
  | none => answer s mrBadCmd
  | some c =>
    let r := applyChange c s.dev
    answer { s with dev := r.1 } (if r.2 then mrOk else mrBadCmd)

/-! ### A command runs -/

/-- The opcodes of R514. -/
def mboxOpcodes : List Nat :=
  [0x01, 0x02, 0x03, 0x10, 0x11, 0x12, 0x13, 0x14, 0x15, 0x16, 0x20, 0x21, 0x22, 0x30, 0x31]

/-- A command that writes flash waits while the write guard holds (R502, R510). -/
def writesFlash (op : Nat) : Bool := decide (0x10 ≤ op ∧ op ≤ 0x13) || op = 0x21 || op = 0x22

/-- The command with an opcode; the ROM accepts kind 1 update commands alone (R493). -/
def runMbox (op : Nat) (req : List Byte) (flashErr : Bool) (s : State) : MboxEnd :=
  if s.dev.mgmt.romOnly && !(decide (0x10 ≤ op ∧ op ≤ 0x13) && recLe req 0 1 = 1) then answer s mrBadCmd
  else match op with
    | 0x01 => mboxAttest req s
    | 0x02 => mboxCerts s
    | 0x03 => mboxReadLog req flashErr s
    | 0x10 => mboxUpdateBegin req flashErr s
    | 0x11 => mboxUpdateData req flashErr s
    | 0x12 => mboxUpdateEnd req flashErr s
    | 0x13 => mboxSwitch req flashErr s
    | 0x14 => mboxRatchet req s
    | 0x15 => mboxRevoke req s
    | 0x16 => mboxIntKey req s
    | 0x20 => mboxCalExport flashErr s
    | 0x21 => mboxCalWrite req flashErr s
    | 0x22 => mboxCalImport req flashErr s
    | 0x30 => mboxCan req s
    | 0x31 => mboxNet req s
    | _ => answer s mrBadCmd

/-- The opcode and the request of a port. -/
def mboxOp (d : Dev) (p : Port) : Nat := d.pfld p mboxCmdOpcode

def mboxRequest (d : Dev) (p : Port) : List Byte := requestBytes d p (min 16384 (d.pfld p mboxCmdLength))

/-- The command that has waited longest is taken and runs, if the firmware or the ROM serves the mailbox (R513). -/
def mboxStep (s : State) : State :=
  match s.dev.mgmt.mbox with
  | [] => s
  | (p, flashErr) :: rest =>
    if !fwReady s.dev && !s.dev.mgmt.romOnly then s
    else
      let op := mboxOp s.dev p
      let s : State := { s with dev := (s.dev.setPfld p mboxCtrlGo 0).setPfld p mboxStatusBusy 1 }
      if writesFlash op && guardHeld s.dev then s
      else
        let s : State := { s with dev := { s.dev with mgmt := { s.dev.mgmt with mbox := rest } } }
        match runMbox op (mboxRequest s.dev p) flashErr s with
        | (s, some r) => finishMbox p r s
        | (s, none) => s

/-- Every command that can run does, one at a time in arrival order; each channel has one. -/
def pumpMbox (s : State) : State := mboxStep (mboxStep s)

/-- GO of a port (R513); a channel whose command waits or runs takes no other. -/
def mboxGo (p : Port) (flashErr : Bool) (s : State) : State :=
  let m := s.dev.mgmt
  if m.mbox.any (fun e => e.1 = p) then s
  else pumpMbox { s with dev := ({ s.dev with mgmt := { m with mbox := m.mbox ++ [(p, flashErr)] } } : Dev).setPfld p mboxCtrlGo 1 }

end Sys2Proof.Machine
end

