-- ==== Sys2Proof/Machine/Power.lean ====
section
/-! DEFINITION. The supply and the write guard (R510 to R512, R520 to R525), the watchdog (R482), the external reference (R538, R539),
the PCIe link (R384, R385). -/

namespace Sys2Proof.Machine

/-! ### The write guard -/

/-- The guard trips: writes are held. A trip while the guard's 100 ms run restarts them (R510, R512).
(DEDUCED, notes/assumptions/89.) -/
def tripGuard (d : Dev) : Dev :=
  if guardHeld d && !d.clr.recovering then d
  else
    let d := ((d.setFld clrGuardHeld 1).setFld clrGuardTripped 1).incFld clrGuardTrips
    logEvent { d with clr := { d.clr with recovering := false } } lgGuardIn (leBytes 2 d.clr.vin ++ leBytes 2 d.clr.vhold)

/-- What waited for flash is written, and the mailbox goes on (R502, R512). -/
def resumeWrites (s : State) : State :=
  let m := s.dev.mgmt
  let nv := s.nv
  let nv : NonVol := match m.repair with
    | some r => { nv with repair := r }
    | none => nv
  let nv : NonVol := match m.ptr with
    | some t => { nv with boot := t, gen := nv.gen + 1 }
    | none => nv
  applyLibrary (pumpMbox { s with dev := { s.dev with mgmt := { m with repair := none, ptr := none } }, nv := nv })

/-- The input and the hold-up rail let the guard's 100 ms run (R512, R522). -/
def supplyGood (d : Dev) : Bool := decide (16000 ≤ d.clr.vin) && decide (38000 < d.clr.vhold)

/-- WRITE_GUARD_RELEASE (R512). -/
def execWriteGuardRelease (s : State) : Out :=
  .next (if guardHeld s.dev && s.dev.clr.recovering && supplyGood s.dev then
      let d := s.dev.setFld clrGuardHeld 0
      let d : Dev := { d with clr := { d.clr with recovering := false } }
      resumeWrites { s with dev := logEvent d lgGuardOut (leBytes 2 d.clr.vin ++ leBytes 2 d.clr.vhold) }
    else s)

/-! ### SUPPLY_SAMPLE (R523, R525) -/

/-- A compute stop for the supply; a stop already made is not repeated. -/
def supplyStop (f : Fld) (d : Dev) : Dev :=
  let d : Dev := { d with clr := { d.clr with supplyCause := true } }
  if d.boot.compute then computeStop (d.setFld f 1) else d

/-- A sample of the input and of the hold-up rail, in mV. (DEDUCED, notes/assumptions/98.) -/
def supplySample (vin vhold : Nat) (d : Dev) : Dev :=
  if !d.clr.on then d
  else
    let d : Dev := { d with clr := { d.clr with vin := vin, vhold := vhold } }
    if !d.boot.powered then d
    else
      let d := (d.setFld mgmtSupply0Vin (min 65535 vin)).setFld mgmtSupply0Vhold (min 65535 vhold)
      let d := if vin < 14000 ∨ vhold < 38000 then tripGuard d else d
      let d : Dev := { d with clr := { d.clr with recovering := guardHeld d && supplyGood d } }
      if vin < 10500 then supplyStop devPwrUvStop d else d

/-- SUPPLY_SAMPLE (R523). -/
def execSupplySample (vin vhold : Nat) (s : State) : Out := .next (applyLibrary { s with dev := supplySample vin vhold s.dev })

/-- OVERVOLTAGE_STOP (R523): 500 ms above 36.5 V. -/
def execOvervoltageStop (s : State) : Out :=
  let f (d : Dev) : Dev := if d.boot.powered && decide (36500 < d.clr.vin) then supplyStop devPwrOvStop d else d
  .next (applyLibrary { s with dev := f s.dev })

/-- SUPPLY_RECOVERY (R523, R525): 100 ms within 14.0 V to 36.0 V. -/
def execSupplyRecovery (s : State) : Out :=
  onDev (fun d => if decide (14000 ≤ d.clr.vin ∧ d.clr.vin ≤ 36000) then { d with clr := { d.clr with supplyCause := false } } else d) s

/-! ### Clearing's own power (R523, R526) -/

/-- CLEARING_POWER_ON_RESET (R523, R541): every domain is reset; host memory is not the module's. -/
def execClearingPowerOnReset (s : State) : Out :=
  onDev (fun d => if d.clr.on && decide (d.clr.vin < 6000) && decide (d.clr.vhold < 15000) then
      { hostMem := d.hostMem, out := d.out, freeCtr := d.freeCtr, nextJob := d.nextJob }
    else d) s

/-- CLEARING_POWER_ON (R526): Clearing and the Spadja port come up, with an empty rule table. -/
def execClearingPowerOn (s : State) : Out :=
  onDev (fun d => if d.clr.on then d else { d with clr := { d.clr with on := true } }) s

/-! ### The watchdog (R482) -/

/-- The management domain is reset; the third expiry in 10 minutes enters the safe state. -/
def watchdogExpiry (s : State) : State :=
  let s := restartMgmt s
  let d := s.dev.incFld mgmtCntWatchdog
  let d := logEvent d lgWatchdog (leBytes 2 (d.fld mgmtCntWatchdog))
  let times := (d.boot.expiries.filter fun t => decide (d.now < t + 600 * 10 ^ 9)) ++ [d.now]
  let d : Dev := { d with boot := { d.boot with expiries := times } }
  { s with dev := if 3 ≤ times.length then enterSafe 4 d else d }

/-- WATCHDOG_EXPIRY (R482). -/
def execWatchdogExpiry (s : State) : Out := .next (if s.dev.boot.powered && fwReady s.dev then watchdogExpiry s else s)

/-- FIRMWARE_READY (R482, R543): the firmware runs again, or for the first time where a start-up was abandoned before it ran. -/
def firmwareReady (s : State) : State :=
  let d := s.dev
  if !d.boot.powered || !d.boot.stage0Done || fwReady d || d.mgmt.romOnly || (d.boot.running && decide (d.fld devStatusStage ≤ 2)) then s
  else
    let s := if d.mgmt.keyLocked then s else bootRom s
    if s.dev.mgmt.romOnly then s else pumpMbox (firmwareStart s)

def execFirmwareReady (s : State) : Out := .next (firmwareReady s)

/-! ### The external reference (R538, R539) -/

/-- The root PLL begins to move to a reference. (DEDUCED, notes/assumptions/92.) -/
def switchRef (ext : Bool) (d : Dev) : Dev := (d.setFld clkStatusRefActive (b2n ext)).setFld clkStatusSwitching 1

/-- REF_SWITCHOVER_DONE (R538). -/
def execRefSwitchoverDone (s : State) : Out := onDev (fun d => d.setFld clkStatusSwitching 0) s

/-- REF_SEL is written (R538). -/
def refSelect (old new : Nat) (d : Dev) : Dev :=
  if old = new then d else switchRef (new = 1) { d with boot := { d.boot with extLost := false } }

/-- EXTREF_LOSS (R539). The event's code is not in the table of R489: a free value. (DESIGN CHOICE, notes/assumptions/91.) -/
def execExtrefLoss (s : State) : Out :=
  onDev (fun d => if d.boot.powered && d.flag clkCtrlRefSel && !d.boot.extLost then
      let d := (switchRef false { d with boot := { d.boot with extLost := true } }).setFld clkStatusRefLost 1
      (logEvent d ((Config.freeU64 d.freeCtr).toNat % 65536) []).bump
    else d) s

/-- EXTREF_RESTORE (R539). -/
def execExtrefRestore (s : State) : Out :=
  onDev (fun d => if d.boot.powered && d.flag clkCtrlRefSel && d.boot.extLost then
      switchRef true { d with boot := { d.boot with extLost := false } }
    else d) s

/-! ### The PCIe link (R384, R385, R541, R547) -/

/-- The link goes down. -/
def pcieDown (d : Dev) : Dev := hostEvent ((d.setFld hostqStatusLinkUp 0).setFld hostqStatusLinkLost 1)

/-- PCIE_LINK_DOWN (R384). -/
def execPcieLinkDown (s : State) : Out := onDev (fun d => if linkUp d then pcieDown d else d) s

/-- PCIE_LINK_UP (R385). -/
def execPcieLinkUp (s : State) : Out :=
  onDev (fun d => if d.boot.powered && d.boot.stage0Done && !d.boot.perst && !linkUp d then (flrReset d).setFld hostqStatusLinkUp 1 else d) s

/-- FLR (R385). -/
def execFlr (s : State) : Out := onDev (fun d => if linkUp d then flrReset d else d) s

/-- PERST_ASSERT (R384, R541): a host reset; the link goes down. (DEDUCED, notes/assumptions/101.) -/
def execPerstAssert (s : State) : Out :=
  onDev (fun d =>
    let d : Dev := { d with boot := { d.boot with perst := true } }
    if !d.boot.powered then d else flrReset (if linkUp d then pcieDown d else d)) s

/-- PERST_RELEASE (R547): the link can train again. -/
def execPerstRelease (s : State) : Out := onDev (fun d => { d with boot := { d.boot with perst := false } }) s

end Sys2Proof.Machine
end

