-- ==== Sys2Proof/Machine/Clearing.lean ====
section
/-! DEFINITION. Clearing (R506 to R509, R526), sleep, announced and surprise removal (R528 to R530). -/

namespace Sys2Proof.Machine

/-! ### Removal of power -/

/-- Power is removed from everything but Clearing (R509): what else the module held is lost. The number of records that did not reach
flash is kept (R490); the status that the Spadja port still answers stands, but for CPL_PENDING, since no entry is left in SUPCQ
(R396). (DEDUCED, notes/assumptions/100.) -/
def powerOff (s : State) : State :=
  let d := s.dev
  let kept := d.mgmt.log.length + d.mgmt.lost
  let st := bankWord (d.setFld supStatusCplPending 0).regs rSupStatus
  let d := resetSpadja (resetModule s.nv.fuses d)
  let d : Dev := { d with
    regs := bankSet d.regs rSupStatus st, boot := { perst := d.boot.perst },
    clr := { d.clr with asleep := true, lostKept := kept, recovering := false } }
  { s with dev := (d.setFld clrStatusAwake 0).setFld clrStatusSleepReq 0 }

/-! ### Announced removal (R528) -/

/-- An announced removal begins: fetching stops, triggered rings are disabled, ring jobs are refused. -/
def beginRemoval (d : Dev) : Dev :=
  if d.flag devPwrDraining || !d.boot.powered then d
  else
    let d := ((upto 64).filter fun k => d.flag sqCfgTriggered k && d.flag sqCfgEnable k).foldl disableRing d
    ({ d with net := { d.net with leaving := true } } : Dev).setFld devPwrDraining 1

/-- DRAIN_TIMEOUT (R528): jobs that still run are aborted. -/
def execDrainTimeout (s : State) : Out := onDev (fun d => if d.flag devPwrDraining then startAbort { scope := 3 } d else d) s

/-- Steps 3 to 7 of R528: sequences move, the ring closes up, loops take their safe values, the log is sealed, power goes. -/
def finishRemoval (s : State) : State :=
  let s := flushLog { s with dev := loopsSafe (leaveRing s.dev) }
  let s := powerOff s
  { s with dev := ((s.dev.setFld devPwrDraining 0).setFld devPwrEjectOk 1).incFld devPwrCntEjects }

/-- EJECT_OK (R528): every job has ended and been posted. -/
def execEjectOk (s : State) : Out := .next (if s.dev.flag devPwrDraining && s.dev.jobs.isEmpty then finishRemoval s else s)

/-- SURPRISE_REMOVAL (R529, R530): compute stop, write guard; an announced removal in progress ends. -/
def surpriseRemoval (d : Dev) : Dev :=
  if !d.boot.powered then d
  else
    let d := tripGuard (if d.boot.compute then computeStop d else d)
    let d : Dev := { d with clr := { d.clr with unseated := true, seatRun := 0 }, net := { d.net with leaving := false } }
    ((d.setFld devPwrUnseatStop 1).setFld devPwrSeated 0).setFld devPwrDraining 0

def execSurpriseRemoval (s : State) : Out := .next (applyLibrary { s with dev := surpriseRemoval s.dev })

/-! ### Sleep (R509) -/

/-- The firmware stops admission; once every job has ended, it seals and drains the log and removes power.
(DEDUCED, notes/assumptions/95.) -/
def sleepSequence (s : State) : State :=
  let d := s.dev
  if !d.flag clrStatusSleepReq || !d.boot.powered || !fwReady d then s
  else
    let s : State := { s with dev := { d with boot := { d.boot with sleeping := true } } }
    if d.jobs.isEmpty then powerOff (flushLog s) else s

/-- SLEEP_SEQUENCE (R509). -/
def execSleepSequence (s : State) : Out := .next (sleepSequence s)

/-- SLEEP_DELAY_EXPIRY (R509): jobs that still run are aborted. -/
def execSleepDelayExpiry (s : State) : Out := onDev (fun d => if d.boot.sleeping then startAbort { scope := 3 } d else d) s

/-! ### CLEARING_SAMPLE (R506 to R508) -/

/-- A wake input's run of equal samples. -/
def wakeRun (x : WakeRun) (high : Bool) : WakeRun := if x.high = high then { x with run := min (x.run + 1) 15 } else ⟨high, 1⟩

/-- The filter length of wake input `n`; 0 is taken as 1. -/
def filtLen (d : Dev) (n : Nat) : Nat := max 1 (bits (d.fld clrFiltFilt) (4 * n + 3) (4 * n))

/-- Wake input `n` is sampled and filtered. -/
def sampleWake (x : ClrInputs) (d : Dev) (n : Nat) : Dev :=
  let w := wakeRun (mapGet {} d.clr.wakes n) (x.wake.getLsbD n)
  let old := d.fld clrStatusWake
  let now := if filtLen d n ≤ w.run then w.high else bit old n
  let d : Dev := { d with clr := { d.clr with wakes := mapSet {} d.clr.wakes n w } }
  d.setFld clrStatusWake (setBits old n n (b2n now))

/-- The supply, by the mean of the last 8 samples, reaches `mv`. -/
def supplyAtLeast (d : Dev) (mv : Nat) : Bool :=
  d.clr.supply ≠ [] && decide (mv * d.clr.supply.length ≤ d.clr.supply.foldl (· + ·) 0)

/-- The condition of a rule's own fields (R507). -/
def ruleCond (d : Dev) (i : Nat) : Bool :=
  let r := d.fld clrRuleRule i
  let thr := bits r 15 8
  let wake := bit (d.fld clrStatusWake) (bits r 4 3)
  let temp (p : Int → Bool) : Bool := (d.clr.temp.map p).getD false
  match bits r 2 0 with
  | 1 => wake
  | 2 => !wake
  | 3 => supplyAtLeast d (250 * thr)
  | 4 => d.clr.supply ≠ [] && !supplyAtLeast d (250 * thr)
  | 5 => temp fun t => decide ((thr : Int) - 64 ≤ t)
  | 6 => temp fun t => decide (t < (thr : Int) - 64)
  | _ => false

/-- The condition of a rule with that of the rule it is joined to. -/
def ruleHolds (d : Dev) (i : Nat) : Bool :=
  let r := d.fld clrRuleRule i
  ruleCond d i && (!bit r 28 || ruleCond d (bits r 27 24))

/-- The hold count of a rule (R507, R508). -/
def countHold (d : Dev) (i : Nat) : Dev :=
  let n := if ruleHolds d i then min 2550 (mapGet 0 d.clr.holds i + 1) else 0
  { d with clr := { d.clr with holds := mapSet 0 d.clr.holds i n } }

/-- Condition and hold of a rule are met. -/
def ruleMet (d : Dev) (i : Nat) : Bool := decide (max 1 (10 * bits (d.fld clrRuleRule i) 23 16) ≤ mapGet 0 d.clr.holds i)

/-- The rule that decides, and its action (R508). -/
def decideRule (d : Dev) : Option (Nat × Nat) :=
  let action (i : Nat) : Nat := bits (d.fld clrRuleRule i) 30 29
  let part (i : Nat) : Bool := if d.clr.asleep then action i ≠ 3 else action i = 3
  ((upto 16).find? fun i => bit (d.fld clrRuleRule i) 31 && part i && ruleMet d i).map fun i => (i, action i)

/-- Power-up begins (R508, R526). (DEDUCED, notes/assumptions/94.) -/
def startPowerUp (d : Dev) : Dev :=
  ({ d with clr := { d.clr with asleep := false, rising := true } } : Dev).setFld devPwrEjectOk 0

/-- A rule's decision: wake while asleep, a request to sleep while awake. -/
def applyDecision (d : Dev) : Dev :=
  let inputs := d.fld clrStatusWake
  match decideRule d with
  | none => d
  | some (i, a) =>
    if d.clr.asleep then
      if a = 1 then
        let d := ((d.setFld clrStatusLastRule i).setFld clrStatusLastValid 1).incFld clrStatusWakes
        startPowerUp { d with clr := { d.clr with woke := some (i, inputs) } }
      else d
    else if d.boot.powered && !d.flag clrStatusSleepReq then logEvent (d.setFld clrStatusSleepReq 1) lgSleep (leBytes 1 i ++ leBytes 1 inputs)
    else d

/-- SEATED_N and EJECT_REQ_N are counted (R526, R528, R530). -/
def samplePins (x : ClrInputs) (d : Dev) : Dev :=
  let seat := if x.seatedN then 0 else min 21 (d.clr.seatRun + 1)
  let eject := if x.ejectReqN then 0 else min 10 (d.clr.ejectRun + 1)
  let out := x.seatedN && !d.boot.powered
  let c : Clr := { d.clr with
    seatRun := seat, ejectRun := eject, unseated := d.clr.unseated && decide (seat < 21), fresh := d.clr.fresh || out,
    inserted := d.clr.inserted || out }
  let d : Dev := { d with clr := c }
  (d.setFld devPwrSeated (b2n (seat = 21))).setFld devPwrEjectReq (b2n (eject = 10))

/-- One sample. -/
def clearingSample (x : ClrInputs) (d : Dev) : Dev :=
  if !d.clr.on then d
  else
    let d := (upto 4).foldl (sampleWake x) d
    let supply := (x.supplyMv :: d.clr.supply).take 8
    let temp := x.tempC.orElse fun _ => d.clr.temp
    let d : Dev := { d with clr := { d.clr with supply := supply, temp := temp } }
    let d := applyDecision ((upto 16).foldl countHold (samplePins x d))
    let d := if d.clr.fresh && !d.boot.powered && !d.clr.rising && d.clr.seatRun = 21 && supplyAtLeast d 16000 then startPowerUp d else d
    if d.flag devPwrEjectReq && d.flag devPwrCfgEjectEn && !d.flag devPwrEjectOk then beginRemoval d else d

/-- CLEARING_SAMPLE (R506). -/
def execClearingSample (x : ClrInputs) (s : State) : Out := onDev (clearingSample x) s

end Sys2Proof.Machine
end

