-- ==== Sys2Proof/Machine/Bringup.lean ====
section
/-! DEFINITION. Power-good, start-up and DEV_RESET (R541 to R546). -/

namespace Sys2Proof.Machine

/-! ### The beginning of a start-up -/

/-- A start-up begins at stage 0: power-good or DEV_RESET. A safe state outlives both (R394, R540). -/
def beginStartup (cause : Nat) (compute : Bool) (f : Fuses) (d : Dev) : Dev :=
  let perst := d.boot.perst
  let d := resetModule f d
  let d : Dev := { d with boot := { powered := true, compute := compute, running := true, perst := perst } }
  (d.setFld devRstCauseLast cause).setFld supStatusSafe (d.fld supSafeStatusSafe)

/-- DEV_RST_CAUSE at power-good (R553): 0 Clearing's power-on, 1 a sleep, 2 an insertion. -/
def powerGoodCause (c : Clr) : Nat := if !c.fresh then 1 else if c.inserted then 2 else 0

/-- Power-good (R526, R541, R544): REFCLK_SEL is latched and AWAKE sets. -/
def powerGood (sris : Bool) (s : State) : State :=
  let d := s.dev
  if !d.clr.rising || d.boot.powered then s
  else
    let cause := powerGoodCause d.clr
    let d := beginStartup cause true s.nv.fuses (resetSpadja d)
    let d : Dev := { d with clr := { d.clr with rising := false, fresh := false, inserted := false } }
    { s with dev := (d.setFld clrStatusAwake 1).setFld devPwrRefclkSel (b2n sris) }

/-- POWER_GOOD (R544). -/
def execPowerGood (srisPin : Bool) (s : State) : Out := .next (powerGood srisPin s)

/-- DEV_RESET with its key (R541). -/
def devReset (s : State) : State := { s with dev := beginStartup 3 (!s.dev.clr.supplyCause) s.nv.fuses s.dev }

/-! ### The stages (R544) -/

/-- Stage 0: the root PLL and the SerDes PLLs have locked. -/
def stageReset (d : Dev) : Dev :=
  let d := ((d.setFld clkStatusRootLock 1).setFld clkStatusPcieLock 1).setFld clkStatusUsxLock 1
  let d : Dev := { d with boot := { d.boot with stage0Done := true } }
  (d.setFld clkStatusPlkLock 1).setFld devStatusStage 1

/-- The start-up ends here: the module is in the safe state (R548). -/
def abandonStartup (d : Dev) : Dev := ({ d with boot := { d.boot with running := false } } : Dev).setFld devStatusStage 0

/-- Stage 2 has ended: the next begins, unless the module is in the safe state (R548). -/
def afterFirmware (d : Dev) : Dev := if safeState d then abandonStartup d else d.setFld devStatusStage 3

/-- Stage 3 (R545): a channel that failed training enters the safe state; otherwise memory is zero and the spares of the repair record
are in use. (DESIGN CHOICE, notes/assumptions/61.) -/
def stageMemory (r : Repair) (trained : BitVec 4) (d : Dev) : Dev :=
  if trained ≠ 0xF then
    let d := enterSafe 4 { d with boot := { d.boot with untrained := true } }
    (logEvent d ((Config.freeU64 d.freeCtr).toNat % 65536) (leBytes 1 (trained ^^^ 0xF).toNat)).bump
  else
    let used (c : Nat) : Nat := (r.ddrRows.filter fun e => e.1 = c).length
    let d : Dev := { d with mem := [], poison := [], flaws := [] }
    let d := (upto 4).foldl (fun d c => d.setFld memChRemapUsed (used c) c) d
    let d := d.setIf ((upto 4).any fun c => decide (64 ≤ used c)) memStatusRemapFull 1
    (d.setFld memStatusTrained 1).setFld devStatusStage 4

/-- A tile that the repair record names is retired (R546). -/
def recordedRetired (d : Dev) (t : Nat) : Dev :=
  (d.updTile t fun x => { x with service := .retired }).setFld tileStateState tsRetired t

/-- Stage 4 (R546): a tile that fails its self-test is retired. -/
def stageSelftest (failed : List Nat) (s : State) : State :=
  let s : State := { s with dev := s.repair.retired.foldl recordedRetired s.dev }
  let bad := failed.filter fun t => decide (t < tileCount) && !decide ((s.dev.tile t).service = .retired)
  let s := bad.foldl (fun s t => retire t 1 s) s
  { s with dev := (s.dev.setIf (bad ≠ []) devStatusSelftestRetired 1).setFld devStatusStage 5 }

/-- The sapling that takes the place of retired tile `t` (R546). -/
def saplingFor (d : Dev) (t : Nat) : Option Nat :=
  let free (same : Bool) : Option Nat := (upto tileCount).find? fun u =>
    d.flag tileIdSapling u && (d.tile u).service = .spare && (dieOf u = dieOf t) = same
  (free true).orElse fun _ => free false

/-- One retired tile is made up for. -/
def makeUp (d : Dev) (t : Nat) : Dev := match saplingFor d t with
  | some u => d.updTile u fun x => { x with service := .inService }
  | none => d

/-- The placement (R546): every tile that is neither sapling nor retired is in service, IDLE with its banks off; saplings make up for
the retired ones. The spare rows of factory test and of the repair record are in use (R140). (DEDUCED, notes/assumptions/76.) -/
def placeTiles (f : Fuses) (r : Repair) (d : Dev) : Dev :=
  let d := (upto tileCount).foldl (fun d t =>
    let m := repairRemap f r t
    let d := d.updTile t fun x => { x with
      remap := m, service := if x.service = .retired then .retired else if d.flag tileIdSapling t then .spare else .inService }
    (upto 16).foldl (fun d b => d.setFld (fldSpare b) ((m.filter fun e => e.1 / 512 = b).length) t) d) d
  let lost := (upto tileCount).filter fun t => (d.tile t).service = .retired && !d.flag tileIdSapling t
  (lost.foldl makeUp d).updTiles

/-- Stages 5 and 6 (R544, R551): placement; the lock-time actions where SETUP_LOCK is 1; READY. -/
def stageReady (f : Fuses) (r : Repair) (us : Nat) (d : Dev) : Dev :=
  let d := placeTiles f r d
  let d := if d.flag devCtrlSetupLock then lockActions d else d
  let d := (d.setFld devStatusStage 6).setFld devStatusReady 1
  let d : Dev := { d with boot := { d.boot with running := false } }
  (logEvent d lgReady (leBytes 4 us)).setFld devBootTimeUs us

/-- The stage that runs completes. -/
def stageDone (x : StageReport) (s : State) : State :=
  let d := s.dev
  if !d.boot.powered || !d.boot.running then s
  else match d.fld devStatusStage with
    | 0 => { s with dev := stageReset d }
    | 1 =>
      let s := bootRom s
      { s with dev := if s.dev.mgmt.romOnly then abandonStartup s.dev else s.dev.setFld devStatusStage 2 }
    | 2 =>
      let s := pumpMbox (if fwReady d then s else firmwareStart s)
      { s with dev := afterFirmware s.dev }
    | 3 => { s with dev := stageMemory s.repair x.channelsTrained d }
    | 4 => stageSelftest x.failedTiles s
    | 5 => { s with dev := stageReady s.nv.fuses s.repair x.microseconds d }
    | _ => s

/-- STARTUP_STAGE_DONE (R544). -/
def execStartupStageDone (x : StageReport) (s : State) : Out := .next (stageDone x s)

end Sys2Proof.Machine
end

