-- ==== Sys2Proof/Machine/MemEvents.lean ====
section
/-! DEFINITION. Refresh, temperature polls, scrubbing and row sparing of the stores (R433 to R437, R443, R446). -/

namespace Sys2Proof.Machine

/-- DDR_REFRESH (R437): a refresh blocks the channel's banks for a time; no data changes. -/
def execDdrRefresh (_ : Nat) (s : State) : Out := onDev id s

/-- The refresh interval of channel `ch` (R433): 3.9 µs once a device is hot, 7.8 µs after all have been cool for 1 s. -/
def tempPoll (ch : Nat) (hot cool : Bool) (d : Dev) : Dev :=
  let v := d.fld memStatusHotRefresh
  if 4 ≤ ch || !d.boot.compute then d
  else if hot then d.setFld memStatusHotRefresh (v ||| 2 ^ ch)
  else if cool && bit v ch then d.setFld memStatusHotRefresh (v - 2 ^ ch)
  else d

/-- DDR_TEMP_POLL (R433). -/
def execDdrTempPoll (ch : Nat) (hot coolFor1s : Bool) (s : State) : Out := onDev (tempPoll ch hot coolFor1s) s

/-! ### DDR_SCRUB_READ (R434) -/

/-- The scrub of a channel goes on to its next burst; a pass is complete when every channel has completed it (R450). -/
def ddrScrubNext (ch : Nat) (d : Dev) : Dev :=
  let k := mapGet 0 d.scrub.ddr ch + 1
  if k < channelBursts then { d with scrub := { d.scrub with ddr := mapSet 0 d.scrub.ddr ch k } }
  else
    let ps := mapSet 0 d.scrub.passes ch (mapGet 0 d.scrub.passes ch + 1)
    let d : Dev := { d with scrub := { d.scrub with ddr := mapSet 0 d.scrub.ddr ch 0, passes := ps } }
    d.setFld memScrubPasses (min 0xFFFF ((upto 4).foldl (fun m c => min m (mapGet 0 ps c)) (mapGet 0 ps 0)))

/-- Channel `ch` reads its next burst. A corrected burst is written back with the same data; with ECC_T 2 nothing is corrected
(R431). -/
def ddrScrub (ch : Nat) (e : Ecc) (d : Dev) : Dev :=
  if 4 ≤ ch || !d.boot.compute || !d.flag memStatusTrained || !d.flag memCtrlScrubEn then d
  else
    let a := burstAddr ch (mapGet 0 d.scrub.ddr ch)
    let e := if e = .clean then mapGet Ecc.clean d.flaws a else e
    let e := if e = .corrected && eccCorrects d = 0 then .uncorrectable else e
    let d : Dev := { d with flaws := mapErase d.flaws a }
    let d := if d.poison.contains a then d
      else match e with
        | .clean => d
        | .corrected => ddrRowError a ((d.incFld memChCorrCount ch).setFld memStatusCorrected 1)
        | .uncorrectable => foundUncorr d a ekScrub
    ddrScrubNext ch d

/-- DDR_SCRUB_READ (R434). -/
def execDdrScrubRead (ch : Nat) (e : Ecc) (s : State) : Out := onDev (ddrScrub ch e) s

/-! ### CANOPY_SCRUB (R443) -/

/-- A slice reads its next row. -/
def canopyScrub (slice : Nat) (e : Ecc) (d : Dev) : Dev :=
  if 32 ≤ slice || !d.boot.compute then d
  else
    let r := mapGet 0 d.scrub.canopy slice
    let a := sliceAddr slice r
    let e := if e = .clean then mapGet Ecc.clean d.flaws a else e
    let d : Dev := { d with flaws := mapErase d.flaws a }
    let d := if d.poison.contains a then d
      else match e with
        | .clean => d
        | .corrected => (d.incFld memCanCorrCount).setFld memStatusCorrected 1
        | .uncorrectable => foundUncorr d a ekScrub
    { d with scrub := { d.scrub with canopy := mapSet 0 d.scrub.canopy slice ((r + 1) % sliceRows) } }

/-- CANOPY_SCRUB (R443). -/
def execCanopyScrub (slice : Nat) (e : Ecc) (s : State) : Out := onDev (canopyScrub slice e) s

/-! ### TILE_SCRUB (R443) -/

/-- The valid handle that a physical row serves: a LOCAL one that maps the addressable row it stands for. -/
def handleOfPhys (x : Tile) (b p : Nat) : Option Nat :=
  if p < 512 then (if mapGet 0 x.remap (512 * b + p) = 0 then handleOfRow x b p else none)
  else match x.remap.find? fun e => e.1 / 512 = b && e.2 = p with
    | some e => handleOfRow x b (e.1 % 512)
    | none => none

/-- A powered bank reads its next physical row; an uncorrectable one is recorded and affects no job (R448). -/
def tileScrub (t b : Nat) (e : Ecc) (d : Dev) : Dev :=
  if tileCount ≤ t || 16 ≤ b || !bit (d.fld tileBankPwrOn t) b then d
  else
    let k := 16 * t + b
    let r := mapGet 0 d.scrub.tile k
    let d := match if mapGet Ecc.clean (d.tile t).flaws (rowKey b r) = .clean then e else mapGet Ecc.clean (d.tile t).flaws (rowKey b r) with
      | .clean => d
      | .corrected => eccCorrected d t b r
      | .uncorrectable => eccRecord d t b r (handleOfPhys (d.tile t) b r)
    { d with scrub := { d.scrub with tile := mapSet 0 d.scrub.tile k ((r + 1) % 528) } }

/-- TILE_SCRUB (R443). -/
def execTileScrub (t bank : Nat) (e : Ecc) (s : State) : Out := onDev (tileScrub t bank e) s

/-! ### DDR_ROW_SPARE (R446) -/

/-- The first spare row of every bank. -/
def firstSpareRow : Nat := 131064

/-- A failing row gets a spare row of its bank, in the repair record; it takes effect at the next start-up.
(DEDUCED, notes/assumptions/88.) -/
def ddrRowSpare (ch bank row : Nat) (s : State) : State :=
  let d := s.dev
  let k := ddrRowKey ch bank row
  let mine := s.repair.ddrRows.filter fun r => r.1 = ch && r.2.1 = bank
  if !fwReady d || 4 ≤ ch || 8 ≤ bank || decide (firstSpareRow ≤ row) || mine.any (fun r => r.2.2.1 = row) || decide (8 ≤ mine.length) ||
      !(decide (3 ≤ mapGet 0 d.scrub.rowErrs k) || d.scrub.rowBad.contains k) then s
  else
    let used := (s.repair.ddrRows.filter fun r => r.1 = ch).length + 1
    let d := (d.setFld memChRemapUsed used ch).setIf (used = 64) memStatusRemapFull 1
    let d := logEvent d lgSpared (leBytes 1 0 ++ leBytes 1 ch ++ leBytes 1 bank ++ leBytes 4 row)
    keepRepair (fun r => { r with ddrRows := r.ddrRows ++ [(ch, bank, row, firstSpareRow + mine.length)] }) { s with dev := d }

/-- DDR_ROW_SPARE (R446). -/
def execDdrRowSpare (ch bank row : Nat) (s : State) : Out := .next (ddrRowSpare ch bank row s)

end Sys2Proof.Machine
end

