-- ==== Sys2Proof/Machine/Ports.lean ====
section
/-! DEFINITION. Register access by the two ports (R8 to R17, R547): availability, faulty accesses, two-word accesses, field codes, and
what a write or a read of each register sets off. -/

namespace Sys2Proof.Machine

/-! ### Blocks and availability (R8, R12, R13, R509, R547) -/

/-- Offsets of no block. -/
def rsvdBlock (off : Nat) : Bool := decide (0x62000 ≤ off) || decide (0x20000 ≤ off ∧ off < 0x40000)

def inSup (off : Nat) : Bool := decide (0xF000 ≤ off ∧ off < 0x10000)
def inClr (off : Nat) : Bool := decide (0x1F000 ≤ off ∧ off < 0x20000)
def inMgmt (off : Nat) : Bool := decide (0x10000 ≤ off ∧ off < 0x20000)

/-- A port reaches the module: the PCIe link is up; Clearing is powered. -/
def portAlive (d : Dev) (p : Port) : Bool := match p with
  | .host => linkUp d
  | .spadja => d.clr.on

/-- The block that holds the offset answers (R547). Reads stay available in the safe state (R393).
(DEDUCED, notes/assumptions/17.) (DEDUCED, notes/assumptions/18.) -/
def available (d : Dev) (p : Port) (off : Nat) (wr : Bool) : Bool :=
  let early := !wr && p = .spadja && (inClr off || inSup off || off / 4 = rDevPwr / 4)
  if !(d.boot.powered && d.boot.stage0Done) then early
  else early || d.flag devStatusReady || decide (off < 0x2000) || inSup off || (inMgmt off && (fwReady d || d.mgmt.romOnly)) ||
    (safeState d && !wr)

/-- A faulty access or one to an unassigned offset (R11, R12). -/
def badAccess (d : Dev) : Dev := d.setFld devErrStatusBadAccess 1

/-- An access to a block that does not answer yet (R547). -/
def notReady (d : Dev) : Dev := d.setFld devErrStatusNotReady 1

/-- How an access of `size` bytes at an offset is treated. -/
inductive Reach where
  | faulty
  | unassigned
  | early
  | reg (r : RDef) (i : Nat)
deriving DecidableEq, Repr

/-- The treatment of an access (R11 to R13, R547). (DEDUCED, notes/assumptions/15.) (DEDUCED, notes/assumptions/16.)
(DEDUCED, notes/assumptions/57.) -/
def reach (d : Dev) (p : Port) (off size : Nat) (wr : Bool) : Reach :=
  if !(size = 4 || size = 8) || off % size ≠ 0 then .faulty
  else if rsvdBlock off || (p = .host && inSup off) then .unassigned
  else if !available d p off wr then .early
  else match findReg off with
    | none => .unassigned
    | some r => if size = 8 && !r.wide then .faulty else .reg r (r.index off)

/-- Asleep, the port answers reads of CLR alone (R509). -/
def portAsleep (d : Dev) (p : Port) : Bool := p = .spadja && d.clr.asleep

/-! ### Latches (R10) -/

def portState (d : Dev) (p : Port) : PortState := match p with
  | .host => d.host
  | .spadja => d.sup

def setPortState (d : Dev) (p : Port) (x : PortState) : Dev := match p with
  | .host => { d with host := x }
  | .spadja => { d with sup := x }

/-! ### Reading -/

/-- The word of a handle entry that a port has selected (R151, R152). -/
def hentWord (d : Dev) (p : Port) (t n : Nat) : Nat :=
  bits (mapGet 0 (d.tile t).handles (d.pfld p tileHselHandle t)).toNat (32 * n + 31) (32 * n)

/-- The sequence record that a port has selected (R276, R313). (DEDUCED, notes/assumptions/56.) -/
def seqInfo0 (d : Dev) (p : Port) : Nat :=
  let s := mapGet {} d.attn.seqs (d.pfld p attnSeqSelSeq)
  b2n s.active + 2 * b2n s.split + 4 * (s.d % 512) + 2 ^ 11 * (s.entries.length % 2048)

def seqInfo1 (d : Dev) (p : Port) : Nat := (mapGet {} d.attn.seqs (d.pfld p attnSeqSelSeq)).length

/-- The value that a read of register `i` of the array at `base` returns, for the registers whose value is not what they hold. -/
def viewOf (d : Dev) (p : Port) (base i : Nat) : Option Nat :=
  if base = rTileHent0 then some (hentWord d p i 0)
  else if base = rTileHent1 then some (hentWord d p i 1)
  else if base = rTileHent2 then some (hentWord d p i 2)
  else if base = rTileHent3 then some (hentWord d p i 3)
  else if base = rTileSbStatus then some (d.tile i).pace.busy
  else if base = rTileState then some (setBits (bankWord d.regs (rTileState + 0x400 * i)).toNat 8 4 (issueDuty d i))
  else if base = rAttnSeqInfo0 then some (seqInfo0 d p)
  else if base = rAttnSeqInfo1 then some (seqInfo1 d p)
  else if base = rAttnCtrl && d.flag attnStatusPoolCfgErr then some (setBits (bankWord d.regs rAttnCtrl).toNat 0 0 0)
  else if base = rTimeNow then some d.now
  else if base = rTimeGcount then some d.gcount
  else if base = rLoopCdata0 then some (cdataRead d (bankWord (portBank d p) rLoopCsel).toNat 0)
  else if base = rLoopCdata1 then some (cdataRead d (bankWord (portBank d p) rLoopCsel).toNat 1)
  else if base = rLoopCdata2 then some (cdataRead d (bankWord (portBank d p) rLoopCsel).toNat 2)
  else if base = rLoopMdata then some (mdataRead d (bankWord (portBank d p) rLoopMsel).toNat)
  else if base = rNetCanTxstat then some (setBits (bankWord d.regs (rNetCanTxstat + 0x100 * i)).toNat 15 0 (canPendingMask d i))
  else if base = rNetCan0Filtview then some (bankWord d.regs (rCanFilter + 4 * i)).toNat
  else if base = rNetCan1Filtview then some (bankWord d.regs (rCanFilter + 0x100 + 4 * i)).toNat
  else none

/-- The index of LOOP_MSEL moves on for the port (R479). -/
def mselStep (d : Dev) (p : Port) : Dev :=
  setPortBank d p (bankSet (portBank d p) rLoopMsel (BitVec.ofNat 32 (mselNext (bankWord (portBank d p) rLoopMsel).toNat)))

/-- TIME_TSQn_INFO is read: the oldest stamp leaves the queue and is latched for the port (R408). -/
def readTsqInfo (d : Dev) (p : Port) (n : Nat) : Dev × Nat :=
  let r := tsqRead n d
  (match r.2.2 with
    | some ns => r.1.setPfld p timeTsqStampNs ns n
    | none => r.1, r.2.1)

/-- Register `i` of an array is read: the device after the read, and the value. -/
def readReg (p : Port) (r : RDef) (i : Nat) (d : Dev) : Dev × Nat :=
  let v := (viewOf d p r.base i).getD (bankReg (if r.perPort then portBank d p else d.regs) r.wide (r.at i))
  if r.base = rTimeNow then (d.setPfld p timeNowFracFrac (d.time % 2 ^ 32), v)
  else if r.base = rTimeTsqInfo then readTsqInfo d p i
  else if r.base = rLoopMdata then (mselStep d p, v)
  else (d, v)

/-- One word of a 64-bit register is read: the low word latches the high one (R10). -/
def readWord (p : Port) (r : RDef) (i off : Nat) (d : Dev) : Dev × Nat :=
  let x := portState d p
  if off = r.at i then
    let e := readReg p r i d
    (setPortState e.1 p { x with latch := mapInsert x.latch (off + 4) (BitVec.ofNat 32 (e.2 / 2 ^ 32)) }, e.2 % 2 ^ 32)
  else match mapFind x.latch off with
    | some w => (setPortState d p { x with latch := mapErase x.latch off }, w.toNat)
    | none => (d, (viewOf d p r.base i).getD (bankReg (if r.perPort then portBank d p else d.regs) true (r.at i)) / 2 ^ 32)

/-- All ones in the width of an access. -/
def allOnes (size : Nat) : Nat := 2 ^ (8 * size) - 1

/-- Registers that may take longer than the Spadja port waits: the TILE windows and the MGMT mailbox (R389). -/
def slowBlock (off : Nat) : Bool := decide (0x40000 ≤ off ∧ off < 0x62000) || (inMgmt off && !inClr off)

/-- The register answers the Spadja port too late; the manual does not say when one does (R389; DESIGN CHOICE, notes/assumptions/140). -/
def lateRead (d : Dev) (p : Port) (off : Nat) : Bool := p = .spadja && slowBlock off && Config.freeBool d.freeCtr

/-- A read by a port that reaches the module. -/
def portRead (p : Port) (off size : Nat) (d : Dev) : Dev × Nat :=
  if portAsleep d p && !inClr off then (d.setFld supStatusRdTimeout 1, 0xFFFFFFFF)
  else if lateRead d p off then (d.bump.setFld supStatusRdTimeout 1, 0xFFFFFFFF)
  else match reach d p off size false with
    | .faulty => (badAccess d, allOnes size)
    | .unassigned => (badAccess d, 0)
    | .early => (notReady d, 0)
    | .reg r i =>
      let d := if p = .spadja && slowBlock off then d.bump else d
      if r.wide && size = 4 then readWord p r i off d else readReg p r i d

/-! ### Writing: the field codes (R15, R16, R469) -/

/-- The field's bits after a write of `v` over `old`. -/
def writeField (locked blocked : Bool) (old v : Nat) (f : FDef) : Nat :=
  let o := bits old f.hi f.lo
  let x := bits v f.hi f.lo
  match f.acc with
  | .rw => x
  | .rwl => if locked then o else x
  | .rws => if blocked then o else x
  | .w1c => o - (o &&& x)
  | _ => o

/-- The register after a write of `v` over `old`, field by field. -/
def writeFields (locked blocked : Bool) (fs : List FDef) (old v : Nat) : Nat :=
  fs.foldl (fun a f => setBits a f.hi f.lo (writeField locked blocked old v f)) old

/-- A field with an access code would change. -/
def changes (fs : List FDef) (a : Acc) (old v : Nat) : Bool :=
  fs.any fun f => f.acc = a && decide (bits old f.hi f.lo ≠ bits v f.hi f.lo)

def hasAcc (fs : List FDef) (a : Acc) : Bool := fs.any fun f => f.acc = a

/-- The write counts as one of the register's * fields: of a register that mixes them with commands only if one would change. -/
def touchesStar (fs : List FDef) (old v : Nat) : Bool := hasAcc fs .rws && (!hasAcc fs .w1s || changes fs .rws old v)

/-- A write by the field codes alone. -/
def writeByCodes (p : Port) (r : RDef) (i v : Nat) (d : Dev) : Dev :=
  let bank := if r.perPort then portBank d p else d.regs
  let old := bankReg bank r.wide (r.at i)
  let locked := d.flag devCtrlSetupLock
  let loops := if touchesStar r.fields old v || r.base = rLoopInjCfg then loopBlockers d r.base i else []
  let new := if r.base = rLoopInjCfg && loops ≠ [] then old else writeFields locked (loops ≠ []) r.fields old v
  let bank := bankRegSet bank r.wide (r.at i) new
  let d := if r.perPort then setPortBank d p bank else { d with regs := bank }
  loops.foldl rejectWrite (d.setIf (locked && changes r.fields .rwl old v) devErrStatusLockedWrite 1)

/-! ### Rings (R358, R360, R370, R390) -/

/-- Base, size or CQ of an enabled or unstopped ring would change (R358). -/
def ringFrozen (d : Dev) (base i old v : Nat) : Bool :=
  let sq := d.flag sqCfgEnable i || !d.flag sqStatusStopped i
  let cq := d.flag cqCfgEnable i || !d.flag cqStatusStopped i
  (base = rSqBase && sq && decide (old ≠ v)) || (base = rCqBase && cq && decide (old ≠ v)) ||
    (base = rSqCfg && sq && decide (bits old 4 1 ≠ bits v 4 1 ∨ bits old 11 6 ≠ bits v 11 6)) ||
    (base = rCqCfg && cq && decide (bits old 4 1 ≠ bits v 4 1))

/-- SQk_CFG.ENABLE changes: head and tail start at 0; or fetching stops. A FENCE that has not completed holds back the jobs read after
it all the same (R365). -/
def sqEnableChange (k old v : Nat) (d : Dev) : Dev :=
  if bit v 0 && !bit old 0 then updStopped ((d.setFld sqStatusHead 0 k).setSq k { lastTick := d.gcount, fence := (d.sq k).fence }) k
  else if !bit v 0 && bit old 0 then disableRing d k
  else d

/-- CQk_CFG.ENABLE changes: head and tail start at 0 and the phase at 1. -/
def cqEnableChange (k old v : Nat) (d : Dev) : Dev :=
  let d := if bit v 0 && !bit old 0 then
      ((d.setFld cqStatusTail 0 k).setFld cqStatusPhase 1 k).updCq k fun c => { c with head := 0, used := 0, unsignalled := 0 }
    else d
  replayPump (updCqStopped d k)

/-- Entries from `a` up to `b` in a ring of `n`. -/
def ringDist (n a b : Nat) : Nat := (b + n - a % n) % n

/-- DB_ERR sets; the ring stops fetching where the doorbell was refused (R360). -/
def tailRefused (k : Nat) (halt : Bool) (d : Dev) : Dev :=
  let d := d.setFld sqStatusDbErr 1 k
  if halt then updStopped (d.updSq k fun s => { s with halted := true }) k else d

/-- SQ_TAIL_DB (R360, R370). -/
def tailDoorbell (k t : Nat) (d : Dev) : Dev :=
  let n := sqSize d k
  let s := d.sq k
  let h := d.fld sqStatusHead k
  if !sqRunning d k then tailRefused k false d
  else if d.flag sqCfgTriggered k then
    if s.armed.isSome then tailRefused k false d
    else if n ≤ t then tailRefused k true d
    else d.updSq k fun s => { s with armed := some t }
  else if n ≤ t ∨ ringDist n h t < ringDist n h s.tail then tailRefused k true d
  else d.updSq k fun s => { s with tail := t }

/-- CQ_HEAD_DB (R360): slots come back; a bad value is discarded. -/
def headDoorbell (k h : Nat) (d : Dev) : Dev :=
  let n := cqSize d k
  let c := d.cq k
  if n ≤ h ∨ c.used < ringDist n c.head h then d.setFld cqStatusDbErr 1 k
  else replayPump (d.updCq k fun c => { c with head := h, used := c.used - ringDist n c.head h })

/-- ABORT_DB with its value (R359, R380). -/
def abortDoorbell (k v : Nat) (d : Dev) : Dev := if v = 0xAB0B then startAbort { scope := 1, mask := 2 ^ k } d else d

/-- The doorbells of page `k`, by their offsets; every other offset of the page ignores writes (R359). -/
def pageDoorbell (k off v : Nat) (d : Dev) : Dev :=
  match off with
  | 0x000 => tailDoorbell k (v % 65536) d
  | 0x100 => headDoorbell k (v % 65536) d
  | 0x200 => abortDoorbell k v d
  | _ => d

/-- A write to offset `off` of page `k` of BAR2 (R359, R547). (DEDUCED, notes/assumptions/55.) -/
def pageWrite (k off size v : Nat) (d : Dev) : Dev :=
  if !linkUp d || decide (64 ≤ k) then d
  else if size ≠ 4 then badAccess d
  else if !d.flag devStatusReady then notReady d
  else pageDoorbell k off v d

/-- SUPQ_TAIL is written (R390). -/
def supTailWrite (v : Nat) (d : Dev) : Dev :=
  let t := v % 16
  let h := d.fld supqHeadIndex
  if ringDist 16 h t < ringDist 16 h (d.fld supqTailIndex) then d.setFld supStatusQErr 1 else d.setFld supqTailIndex t

/-- SUPCQ_HEAD is written (R390). -/
def supHeadWrite (v : Nat) (d : Dev) : Dev :=
  let h := v % 16
  let c := d.cq 64
  let n := ringDist 16 (d.fld supcqHeadIndex) h
  if c.used < n then d.setFld supStatusQErr 1
  else
    let d := (d.setFld supcqHeadIndex h).updCq 64 fun c => { c with head := h, used := c.used - n }
    replayPump (d.setFld supStatusCplPending (b2n (decide (c.used ≠ n))))

/-! ### What a write sets off -/

/-- A vector whose mask bit clears while it is pending sends its message (R369). -/
def vectorUnmasked (v : Nat) (d : Dev) : Dev :=
  let o := rMsixPba + 4 * (v / 32)
  let w := (bankWord d.regs o).toNat
  if bit w (v % 32) then signalVector { d with regs := bankSet d.regs o (BitVec.ofNat 32 (w - 2 ^ (v % 32))) } v else d

/-- ENABLE of a FIFO changes: its store is empty and its numbers start again (R373, R378). (DEDUCED, notes/assumptions/59.) -/
def fifoEnabled (base n old v : Nat) (d : Dev) : Dev :=
  if bit old 0 = bit v 0 then d
  else if base = rPlanCfg then { d with fifos := { d.fifos with plan := [], planSeq := 0 } }
  else d.updFifo n fun f => { f with entries := [], nextSeq := 0 }

/-- PLK_CTRL's commands (R418, R423). -/
def plkCommands (v : Nat) (d : Dev) : Dev :=
  let d := if bit v 2 then reform d else d
  if bit v 3 then beginRemoval (d.setFld plkCtrlLeave 1) else d

/-- What follows a write of `v` over `old` to a register that the field codes have written. -/
def afterWrite (base i old v : Nat) (d : Dev) : Dev :=
  if base = rSqCfg then sqEnableChange i old v d
  else if base = rCqCfg then cqEnableChange i old v d
  else if base = rSqTrig then d.updSq i fun s => { s with lastTick := d.gcount }
  else if base = rMsixCtrl then (if bit old 0 && !bit v 0 then vectorUnmasked i d else d)
  else if base = rStreamCfg || base = rPlanCfg then fifoEnabled base i old (bankWord d.regs (base + 0x10 * i)).toNat d
  else if base = rClkCtrl then refSelect (old % 2) (d.fld clkCtrlRefSel) d
  else if base = rSupHbChal then { d with mgmt := { d.mgmt with chal := some (BitVec.ofNat 32 v) } }
  else if base = rTimeInc then d.setFld timeIncInc (clampInc (d.fld timeIncInc))
  else if base = rPlkCtrl then plkCommands v d
  else if base = rNetPortGcl then (if bit v 7 then gclChangeBit i d else d)
  else if base = rNetCtrl || base = rNetCanCfg then netOff d
  else if decide (0xE000 ≤ base ∧ base < 0xF000) then loopAfterWrite base i old v d
  else d

/-- TIME_STEP (R399): RWL, and write-only in effect. -/
def timeStepWrite (v : Nat) (d : Dev) : Dev :=
  if d.flag devCtrlSetupLock then d.setIf (decide (v ≠ 0)) devErrStatusLockedWrite 1 else { d with timeStep := d.timeStep + sx 64 v }

/-- SUP_SAFE (R393). -/
def safeWrite (v : Nat) (s : State) : State :=
  if v = 0x5AFE then { s with dev := enterSafe 1 s.dev }
  else if v = 0x15AFE then applyLibrary { s with dev := leaveSafe s.nv.fuses s.dev }
  else s

/-- DEV_RESET (R541): the host's write is faulty, and another value is ignored. -/
def resetWrite (p : Port) (v : Nat) (s : State) : State :=
  match p with
  | .host => { s with dev := badAccess s.dev }
  | .spadja => if v = 0xB007 then devReset s else s

/-- A change of the device within a state. -/
def State.mapDev (s : State) (f : Dev → Dev) : State := { s with dev := f s.dev }

/-- Register `i` of an array is written with the value `v` in its full width. -/
def writeReg (p : Port) (r : RDef) (i v : Nat) (s : State) : State :=
  let d := s.dev
  let old := bankReg (if r.perPort then portBank d p else d.regs) r.wide (r.at i)
  let csel := (bankWord (portBank d p) rLoopCsel).toNat
  if r.base = rDevCtrl then (if bit v 0 then s.mapDev setLock else s)
  else if r.base = rDevReset then resetWrite p v s
  else if r.base = rSupSafe then safeWrite v s
  else if r.base = rMboxCtrl then (if bit v 0 then mboxGo p false s else s)
  else if r.base = rSupqTail then s.mapDev (supTailWrite v)
  else if r.base = rSupcqHead then s.mapDev (supHeadWrite v)
  else if r.base = rTimeStep then s.mapDev (timeStepWrite v)
  else if r.base = rLoopCdata0 then s.mapDev (cdataWrite · csel 0 v)
  else if r.base = rLoopCdata1 then s.mapDev (cdataWrite · csel 1 v)
  else if r.base = rLoopCdata2 then s.mapDev (cdataWrite · csel 2 v)
  else if r.base = rLoopMdata then s.mapDev fun d => mselStep (mdataWrite d (bankWord (portBank d p) rLoopMsel).toNat v) p
  else if ringFrozen d r.base i old v then s.mapDev badAccess
  else if r.base = rLoopkOut && loopState d i = lsOpen && outTaken d i v then s.mapDev (·.setFld loopkStatusCfgErr 1 i)
  else s.mapDev fun d => afterWrite r.base i old v (writeByCodes p r i v d)

/-- One word of a 64-bit register is written: the low word waits for the high one (R10). -/
def writeWord (p : Port) (r : RDef) (i off v : Nat) (s : State) : State :=
  let x := portState s.dev p
  if off = r.at i then s.mapDev fun d => setPortState d p { x with held := mapInsert x.held off (BitVec.ofNat 32 v) }
  else
    let low := ((mapFind x.held (r.at i)).map (·.toNat)).getD
      (bankReg (if r.perPort then portBank s.dev p else s.dev.regs) true (r.at i) % 2 ^ 32)
    writeReg p r i (low + 2 ^ 32 * (v % 2 ^ 32)) (s.mapDev fun d => setPortState d p { x with held := mapErase x.held (r.at i) })

/-- A write by a port that reaches the module. -/
def portWrite (p : Port) (off size v : Nat) (s : State) : State :=
  if portAsleep s.dev p then s
  else match reach s.dev p off size true with
    | .faulty => s.mapDev badAccess
    | .unassigned => s.mapDev badAccess
    | .early => s.mapDev notReady
    | .reg r i =>
      let v := v % 2 ^ (8 * size)
      if r.wide && size = 4 then writeWord p r i off v s else writeReg p r i v s

/-- A write command: nothing happens where the port is dead (DESIGN CHOICE, notes/assumptions/3). -/
def cmdWrite (p : Port) (off size v : Nat) (s : State) : State := if portAlive s.dev p then portWrite p off size v s else s

/-- A read command: its answer leaves by the port. -/
def cmdRead (p : Port) (off size : Nat) (s : State) : State :=
  if portAlive s.dev p then s.mapDev fun d =>
    let e := portRead p off size d
    e.1.emit (.readData p size (BitVec.ofNat 64 e.2))
  else s

end Sys2Proof.Machine
end

