-- ==== Sys2Proof/Machine/PortCmds.lean ====
section
/-! DEFINITION. The commands of the two ports (chapters 09 to 15): register writes and reads with a row of their own, doorbells, the
heartbeat, Spadja transactions (R386 to R389), mailbox commands. -/

namespace Sys2Proof.Machine

/-! ### Registers -/

/-- REGISTER_WRITE (R15). -/
def execRegisterWrite (p : Port) (off size : Nat) (v : U64) (s : State) : Out := .next (cmdWrite p off size v.toNat s)

/-- LOW_WORD_READ_LATCH (R10). -/
def execLowWordReadLatch (p : Port) (off size : Nat) (s : State) : Out := .next (cmdRead p off size s)

/-- SETUP_LOCK (R16). -/
def execSetupLock (p : Port) (s : State) : Out := .next (cmdWrite p rDevCtrl 4 1 s)

/-- DEV_RESET (R541). -/
def execDevReset (p : Port) (v : U32) (s : State) : Out := .next (cmdWrite p rDevReset 4 v.toNat s)

/-- SAFE_ENTER_WRITE (R393). -/
def execSafeEnterWrite (p : Port) (s : State) : Out := .next (cmdWrite p rSupSafe 4 0x5AFE s)

/-- SAFE_EXIT_WRITE (R393). -/
def execSafeExitWrite (p : Port) (s : State) : Out := .next (cmdWrite p rSupSafe 4 0x15AFE s)

/-- REF_SEL_WRITE (R538). -/
def execRefSelWrite (p : Port) (sel : Bool) (s : State) : Out := .next (cmdWrite p rClkCtrl 4 (b2n sel) s)

/-- TIME_INC_WRITE (R398). -/
def execTimeIncWrite (p : Port) (v : U64) (s : State) : Out := .next (cmdWrite p rTimeInc 8 v.toNat s)

/-- TIME_STEP_WRITE (R399). -/
def execTimeStepWrite (p : Port) (v : U64) (s : State) : Out := .next (cmdWrite p rTimeStep 8 v.toNat s)

/-- A write of a register of an array of `n`; there is none beyond it. -/
def arrayWrite (p : Port) (base stride n k v : Nat) (s : State) : State :=
  if k < n then cmdWrite p (base + stride * k) 4 v s else s

/-- TSQ_INFO_READ (R408). -/
def execTsqInfoRead (p : Port) (n : Nat) (s : State) : Out := .next (if n < 5 then cmdRead p (rTimeTsqInfo + 0x10 * n) 4 s else s)

/-- GCL_CHANGE (R404). -/
def execGclChange (p : Port) (n : Nat) (v : U32) (s : State) : Out := .next (arrayWrite p rNetPortGcl 0x20 5 n (v.toNat ||| 0x80) s)

/-! ### Commands of registers that also hold settings: the settings are written back as they stand -/

/-- A command bit of the register at `off`. (DESIGN CHOICE, notes/assumptions/58.) -/
def commandBit (p : Port) (off mask : Nat) (s : State) : State :=
  cmdWrite p off 4 ((bankWord s.dev.regs off).toNat ||| mask) s

/-- The same for a register of an array of `n`. -/
def arrayBit (p : Port) (base stride n k mask : Nat) (s : State) : State :=
  if k < n then commandBit p (base + stride * k) mask s else s

/-- PLK_REFORM (R423). -/
def execPlkReform (p : Port) (s : State) : Out := .next (commandBit p rPlkCtrl 4 s)

/-- PLK_LEAVE (R423). -/
def execPlkLeave (p : Port) (s : State) : Out := .next (commandBit p rPlkCtrl 8 s)

/-- LOOP_CLOSE (R470). -/
def execLoopClose (p : Port) (k : Nat) (s : State) : Out := .next (arrayBit p rLoopkCtrl 0x40 16 k 4 s)

/-- LOOP_OPEN (R471). -/
def execLoopOpen (p : Port) (k : Nat) (s : State) : Out := .next (arrayBit p rLoopkCtrl 0x40 16 k 8 s)

/-- LOOP_SWAP (R472). -/
def execLoopSwap (p : Port) (k : Nat) (s : State) : Out := .next (arrayBit p rLoopkCtrl 0x40 16 k 16 s)

/-- PIN_ZERO (R479). -/
def execPinZero (p : Port) (k : Nat) (s : State) : Out := .next (arrayBit p rPinCfg 0x10 8 k 0x80 s)

/-- MAN_WRITE (R468). -/
def execManWrite (p : Port) (k : Nat) (v : U16) (s : State) : Out := .next (arrayWrite p rLoopkMan 0x40 16 k v.toNat s)

/-- INJ_START (R475). -/
def execInjStart (p : Port) (s : State) : Out := .next (cmdWrite p rLoopInjCtrl 4 1 s)

/-- INJ_STOP (R475). -/
def execInjStop (p : Port) (s : State) : Out := .next (cmdWrite p rLoopInjCtrl 4 2 s)

/-- CAP_START (R476). -/
def execCapStart (p : Port) (s : State) : Out := .next (cmdWrite p rLoopCapCtrl 4 1 s)

/-- CAP_STOP (R476). -/
def execCapStop (p : Port) (s : State) : Out := .next (cmdWrite p rLoopCapCtrl 4 2 s)

/-- LOOP_MDATA_ACCESS (R479). -/
def execLoopMdataAccess (p : Port) (a : MdataAccess) (s : State) : Out :=
  .next (match a with
    | .read => cmdRead p rLoopMdata 4 s
    | .write v => cmdWrite p rLoopMdata 4 v.toNat s)

/-! ### Rings -/

/-- SQ_TAIL_DB (R360). -/
def execSqTailDb (k size : Nat) (v : U32) (s : State) : Out := onDev (pageWrite k 0x000 size v.toNat) s

/-- CQ_HEAD_DB (R360). -/
def execCqHeadDb (k size : Nat) (v : U32) (s : State) : Out := onDev (pageWrite k 0x100 size v.toNat) s

/-- ABORT_DB (R380). -/
def execAbortDb (k size : Nat) (v : U32) (s : State) : Out := onDev (pageWrite k 0x200 size v.toNat) s

/-- SQ_ENABLE (R358). -/
def execSqEnable (p : Port) (k : Nat) (v : U32) (s : State) : Out := .next (arrayWrite p rSqCfg 0x20 64 k (setBits v.toNat 0 0 1) s)

/-- SQ_DISABLE (R358). -/
def execSqDisable (p : Port) (k : Nat) (v : U32) (s : State) : Out := .next (arrayWrite p rSqCfg 0x20 64 k (setBits v.toNat 0 0 0) s)

/-- CQ_ENABLE (R358). -/
def execCqEnable (p : Port) (k : Nat) (v : U32) (s : State) : Out := .next (arrayWrite p rCqCfg 0x20 64 k (setBits v.toNat 0 0 1) s)

/-- CQ_DISABLE (R367). -/
def execCqDisable (p : Port) (k : Nat) (v : U32) (s : State) : Out := .next (arrayWrite p rCqCfg 0x20 64 k (setBits v.toNat 0 0 0) s)

/-- MSIX_UNMASK (R369). -/
def execMsixUnmask (p : Port) (v : Nat) (s : State) : Out := .next (arrayWrite p rMsixCtrl 0x10 64 v 0 s)

/-- SUPQ_TAIL (R390). -/
def execSupqTail (p : Port) (v : U32) (s : State) : Out := .next (cmdWrite p rSupqTail 4 v.toNat s)

/-- SUPCQ_HEAD (R390). -/
def execSupcqHead (p : Port) (v : U32) (s : State) : Out := .next (cmdWrite p rSupcqHead 4 v.toNat s)

/-! ### The heartbeat (R391, R392) -/

/-- HB_CHALLENGE (R391). -/
def execHbChallenge (p : Port) (v : U32) (s : State) : Out := .next (cmdWrite p rSupHbChal 4 v.toNat s)

/-- The response to challenge `c`. -/
def hbResp (c : U32) : U32 := c.rotateLeft 13 ^^^ 0x5EEDC0DE

/-- The firmware answers the challenge that waits, if all that it checks is healthy. -/
def hbAnswer (healthy : Bool) (d : Dev) : Dev :=
  match d.mgmt.chal with
  | none => d
  | some c =>
    if !fwReady d then d
    else
      let d : Dev := { d with mgmt := { d.mgmt with chal := none } }
      if healthy then (((d.setFld supHbRespResp (hbResp c).toNat).setFld supHbRespEcho c.toNat).incFld supHbCountCount) else d

/-- HB_RESPONSE (R391). -/
def execHbResponse (hub keeper dog : Bool) (s : State) : Out := onDev (hbAnswer (hub && keeper && dog)) s

/-- The heartbeat timer runs (R392). -/
def hbTimerRuns (d : Dev) : Bool :=
  d.boot.powered && d.fld supHbCfgTimeoutMs ≠ 0 && d.flag devStatusLockDone && !safeState d

/-- TIMEOUT_MS pass without a challenge. -/
def hbTimeout (d : Dev) : Dev :=
  if !hbTimerRuns d then d
  else
    let d := logEvent (d.setFld supStatusSupLost 1) lgSupLost []
    if d.flag supHbCfgLostSafe then enterSafe 2 d else d

/-- HB_TIMEOUT (R392). -/
def execHbTimeout (s : State) : Out := onDev hbTimeout s

/-! ### Spadja transactions (R386 to R389) -/

/-- One byte more in the CRC-16 with polynomial 0x1021, not reflected (R388). -/
def crcByte (c : Nat) (b : Byte) : Nat :=
  (upto 8).foldl (fun r _ => if bit r 15 then (2 * r) % 65536 ^^^ 0x1021 else 2 * r) (c ^^^ (256 * b.toNat))

/-- The CRC of a transaction's bytes in wire order. -/
def crc16 (l : List Byte) : Nat := l.foldl crcByte 0xFFFF

/-- The CRC as sent: most significant byte first. -/
def crcBytes (l : List Byte) : List Byte := beBytes 2 (crc16 l)

/-- The module drives data and their CRC; `sent` are the bytes that came before. -/
def spadjaAnswer (sent data : List Byte) (d : Dev) : Dev := d.emit (.spadja (data ++ crcBytes (sent ++ data)))

/-- A transaction without effect (R388). -/
def crcError (d : Dev) : Dev := (d.setFld supStatusCrcErr 1).incFld supStatusCrcCount

/-- `n` words read from consecutive registers. -/
def readWords (a : Nat) : Nat → Dev → Dev × List Byte
  | 0, d => (d, [])
  | n + 1, d =>
    let r := portRead .spadja a 4 d
    let t := readWords (a + 4) n r.1
    (t.1, leBytes 4 r.2 ++ t.2)

/-- Words written to consecutive registers. -/
def writeWords (a : Nat) : List Nat → State → State
  | [], s => s
  | v :: l, s => writeWords (a + 4) l (portWrite .spadja a 4 v s)

/-- The address of a transaction, and its number of words (R387). -/
def wireAddr (w : List Byte) : Nat := bits (beNat ((w.drop 2).take 4)) 23 0
def wireCount (w : List Byte) : Nat := bits (beNat ((w.drop 2).take 4)) 29 24 + 1

/-- The bytes before the CRC, and whether the CRC follows them and matches. -/
def crcGood (w : List Byte) : Bool := decide (2 ≤ w.length) && w.drop (w.length - 2) = crcBytes (w.take (w.length - 2))

/-- READ_ID's eight bytes (R387). -/
def idBytes : List Byte := [0x4D, 0x49, 0x48, 0x56, 0x80, 0x01, 0x01, 0x00]

/-- READ_ID. (DEDUCED, notes/assumptions/60.) -/
def wireReadId (w : List Byte) (d : Dev) : Dev :=
  if d.clr.asleep then spadjaAnswer (w.take 2) (List.replicate 8 0xFF) (d.setFld supStatusRdTimeout 1)
  else spadjaAnswer (w.take 2) idBytes d

/-- READ: nothing happens before its address phase has ended. -/
def wireRead (w : List Byte) (d : Dev) : Dev :=
  if w.length < 6 then d
  else
    let r := readWords (wireAddr w) (wireCount w) d
    spadjaAnswer (w.take 6) r.2 r.1

/-- STATUS. -/
def wireStatus (w : List Byte) (d : Dev) : Dev := spadjaAnswer (w.take 2) (leBytes 4 (bankWord d.regs rSupStatus).toNat) d

/-- WRITE. -/
def wireWrite (w : List Byte) (s : State) : State :=
  if w.length = 8 + 4 * wireCount w ∧ crcGood w then
    writeWords (wireAddr w) ((upto (wireCount w)).map fun i => recLe w (6 + 4 * i) 4) s
  else s.mapDev crcError

/-- The keyed commands: length, key and CRC are right. (DEDUCED, notes/assumptions/103.) -/
def keyGood (w : List Byte) (key : Nat) : Bool := decide (w.length = 8) && beNat ((w.drop 2).take 4) = key && crcGood w

/-- ABORT of the Spadja port (R380). -/
def spadjaAbort (d : Dev) : Dev :=
  if !d.boot.powered then d
  else ((upto 64).filter fun k => d.flag sqCfgTriggered k).foldl disableRing (startAbort { scope := 3 } d)

/-- SAFE of the Spadja port (R393). -/
def spadjaSafe (d : Dev) : Dev := if d.boot.powered then enterSafe 1 d else d

/-- A transaction, by its two command bytes. -/
def spadjaTransaction (w : List Byte) (s : State) : State :=
  if !s.dev.clr.on then s
  else
    let c := w.take 2
    if c = [0x9F, 0x60] then s.mapDev (wireReadId w)
    else if c = [0xA5, 0x5A] then s.mapDev (wireRead w)
    else if c = [0x05, 0xFA] then s.mapDev (wireStatus w)
    else if s.dev.clr.asleep then s
    else if c = [0x5A, 0xA5] then wireWrite w s
    else if c = [0xC3, 0x3C] && keyGood w 0xAB0B then s.mapDev spadjaAbort
    else if c = [0x3C, 0xC3] && keyGood w 0x5AFE then s.mapDev spadjaSafe
    else s.mapDev crcError

/-- READ_ID (R387). -/
def execReadId (w : List Byte) (s : State) : Out := .next (spadjaTransaction w s)

/-- SPADJA_READ (R387). -/
def execSpadjaRead (w : List Byte) (s : State) : Out := .next (spadjaTransaction w s)

/-- SPADJA_WRITE (R387). -/
def execSpadjaWrite (w : List Byte) (s : State) : Out := .next (spadjaTransaction w s)

/-- SPADJA_STATUS (R387). -/
def execSpadjaStatus (w : List Byte) (s : State) : Out := .next (spadjaTransaction w s)

/-- SPADJA_ABORT (R380). -/
def execSpadjaAbort (w : List Byte) (s : State) : Out := .next (spadjaTransaction w s)

/-- SPADJA_SAFE (R393). -/
def execSpadjaSafe (w : List Byte) (s : State) : Out := .next (spadjaTransaction w s)

/-- SPADJA_RESET (R541): CS low for 10 µs without a clock edge. -/
def execSpadjaReset (s : State) : Out := onDev (fun d => if d.clr.on then resetSpadja d else d) s

/-! ### The mailbox (R513, R514) -/

/-- GO of a port's channel, where the channel holds a command that `sel` accepts. -/
def mailbox (p : Port) (flashErr : Bool) (sel : Dev → Bool) (s : State) : State :=
  if portAlive s.dev p && !portAsleep s.dev p && available s.dev p rMboxCtrl true && sel s.dev then mboxGo p flashErr s else s

/-- The channel's OPCODE. -/
def mboxIs (p : Port) (op : Nat) (d : Dev) : Bool := mboxOp d p = op

/-- A CAN_TX request asks for an abort (R414; DESIGN CHOICE, notes/assumptions/45). -/
def mboxAborts (p : Port) (d : Dev) : Bool := bit (recLe (mboxRequest d p) 2 1) 0

/-- GET_ATTEST (R498). -/
def execGetAttest (p : Port) (e : Bool) (s : State) : Out := .next (mailbox p e (mboxIs p 0x01) s)

/-- GET_CERTS (R497). -/
def execGetCerts (p : Port) (e : Bool) (s : State) : Out := .next (mailbox p e (mboxIs p 0x02) s)

/-- READ_LOG (R514). -/
def execReadLog (p : Port) (e : Bool) (s : State) : Out := .next (mailbox p e (mboxIs p 0x03) s)

/-- UPDATE_BEGIN (R499). -/
def execUpdateBegin (p : Port) (e : Bool) (s : State) : Out := .next (mailbox p e (mboxIs p 0x10) s)

/-- UPDATE_DATA (R499). -/
def execUpdateData (p : Port) (e : Bool) (s : State) : Out := .next (mailbox p e (mboxIs p 0x11) s)

/-- UPDATE_END (R499). -/
def execUpdateEnd (p : Port) (e : Bool) (s : State) : Out := .next (mailbox p e (mboxIs p 0x12) s)

/-- SWITCH (R500). -/
def execSwitch (p : Port) (e : Bool) (s : State) : Out := .next (mailbox p e (mboxIs p 0x13) s)

/-- RATCHET (R496). -/
def execRatchet (p : Port) (e : Bool) (s : State) : Out := .next (mailbox p e (mboxIs p 0x14) s)

/-- REVOKE (R495). -/
def execRevoke (p : Port) (e : Bool) (s : State) : Out := .next (mailbox p e (mboxIs p 0x15) s)

/-- SET_INT_KEY (R492). -/
def execSetIntKey (p : Port) (e : Bool) (s : State) : Out := .next (mailbox p e (mboxIs p 0x16) s)

/-- CAL_EXPORT (R505). -/
def execCalExport (p : Port) (e : Bool) (s : State) : Out := .next (mailbox p e (mboxIs p 0x20) s)

/-- CAL_WRITE (R504). -/
def execCalWrite (p : Port) (e : Bool) (s : State) : Out := .next (mailbox p e (mboxIs p 0x21) s)

/-- CAL_IMPORT (R505). -/
def execCalImport (p : Port) (e : Bool) (s : State) : Out := .next (mailbox p e (mboxIs p 0x22) s)

/-- CAN_TX (R414). -/
def execCanTx (p : Port) (e : Bool) (s : State) : Out := .next (mailbox p e (fun d => mboxIs p 0x30 d && !mboxAborts p d) s)

/-- CAN_TX_ABORT (R414). -/
def execCanTxAbort (p : Port) (e : Bool) (s : State) : Out := .next (mailbox p e (fun d => mboxIs p 0x30 d && mboxAborts p d) s)

/-- NET_REQ (R403). -/
def execNetReq (p : Port) (req : TableChange) (s : State) : Out :=
  .next (mailbox p false (fun d => mboxIs p 0x31 d && tableChange (mboxRequest d p) = some req) s)

/-- MBOX_BAD_CMD (R514). -/
def execMboxBadCmd (p : Port) (e : Bool) (s : State) : Out := .next (mailbox p e (fun d => !mboxOpcodes.contains (mboxOp d p)) s)

end Sys2Proof.Machine
end

