-- ==== Sys2Proof/Machine/Dispatch.lean ====
section
/-! DEFINITION. One arm per command: the direct call of its meaning. -/

namespace Sys2Proof.Machine

/-- The effect of a command on everything but the queue. (DEDUCED, notes/assumptions/114.) -/
def exec (i : Instr) (s : State) : Host.Outcome State Fault Refusal :=
  match i with
  | .registerWrite p off size v => Sys2Proof.Machine.execRegisterWrite p off size v s
  | .lowWordReadLatch p off size => Sys2Proof.Machine.execLowWordReadLatch p off size s
  | .setupLock p => Sys2Proof.Machine.execSetupLock p s
  | .devReset p v => Sys2Proof.Machine.execDevReset p v s
  | .safeEnterWrite p => Sys2Proof.Machine.execSafeEnterWrite p s
  | .safeExitWrite p => Sys2Proof.Machine.execSafeExitWrite p s
  | .hbChallenge p v => Sys2Proof.Machine.execHbChallenge p v s
  | .hbResponse hub keeper dog => Sys2Proof.Machine.execHbResponse hub keeper dog s
  | .hbTimeout => Sys2Proof.Machine.execHbTimeout s
  | .supqTail p v => Sys2Proof.Machine.execSupqTail p v s
  | .supcqHead p v => Sys2Proof.Machine.execSupcqHead p v s
  | .sqTailDb k size v => Sys2Proof.Machine.execSqTailDb k size v s
  | .cqHeadDb k size v => Sys2Proof.Machine.execCqHeadDb k size v s
  | .abortDb k size v => Sys2Proof.Machine.execAbortDb k size v s
  | .sqEnable p k v => Sys2Proof.Machine.execSqEnable p k v s
  | .sqDisable p k v => Sys2Proof.Machine.execSqDisable p k v s
  | .cqEnable p k v => Sys2Proof.Machine.execCqEnable p k v s
  | .cqDisable p k v => Sys2Proof.Machine.execCqDisable p k v s
  | .timeIncWrite p v => Sys2Proof.Machine.execTimeIncWrite p v s
  | .timeStepWrite p v => Sys2Proof.Machine.execTimeStepWrite p v s
  | .refSelWrite p sel => Sys2Proof.Machine.execRefSelWrite p sel s
  | .refSwitchoverDone => Sys2Proof.Machine.execRefSwitchoverDone s
  | .tsqInfoRead p n => Sys2Proof.Machine.execTsqInfoRead p n s
  | .loopMdataAccess p a => Sys2Proof.Machine.execLoopMdataAccess p a s
  | .manWrite p k v => Sys2Proof.Machine.execManWrite p k v s
  | .gclChange p n v => Sys2Proof.Machine.execGclChange p n v s
  | .gclInstall n => Sys2Proof.Machine.execGclInstall n s
  | .plkReform p => Sys2Proof.Machine.execPlkReform p s
  | .plkLeave p => Sys2Proof.Machine.execPlkLeave p s
  | .loopClose p k => Sys2Proof.Machine.execLoopClose p k s
  | .loopOpen p k => Sys2Proof.Machine.execLoopOpen p k s
  | .loopSwap p k => Sys2Proof.Machine.execLoopSwap p k s
  | .injStart p => Sys2Proof.Machine.execInjStart p s
  | .injStop p => Sys2Proof.Machine.execInjStop p s
  | .capStart p => Sys2Proof.Machine.execCapStart p s
  | .capStop p => Sys2Proof.Machine.execCapStop p s
  | .pinZero p k => Sys2Proof.Machine.execPinZero p k s
  | .readId w => Sys2Proof.Machine.execReadId w s
  | .spadjaRead w => Sys2Proof.Machine.execSpadjaRead w s
  | .spadjaWrite w => Sys2Proof.Machine.execSpadjaWrite w s
  | .spadjaStatus w => Sys2Proof.Machine.execSpadjaStatus w s
  | .spadjaAbort w => Sys2Proof.Machine.execSpadjaAbort w s
  | .spadjaSafe w => Sys2Proof.Machine.execSpadjaSafe w s
  | .spadjaReset => Sys2Proof.Machine.execSpadjaReset s
  | .getAttest p flashErr => Sys2Proof.Machine.execGetAttest p flashErr s
  | .getCerts p flashErr => Sys2Proof.Machine.execGetCerts p flashErr s
  | .readLog p flashErr => Sys2Proof.Machine.execReadLog p flashErr s
  | .updateBegin p flashErr => Sys2Proof.Machine.execUpdateBegin p flashErr s
  | .updateData p flashErr => Sys2Proof.Machine.execUpdateData p flashErr s
  | .updateEnd p flashErr => Sys2Proof.Machine.execUpdateEnd p flashErr s
  | .switch p flashErr => Sys2Proof.Machine.execSwitch p flashErr s
  | .ratchet p flashErr => Sys2Proof.Machine.execRatchet p flashErr s
  | .revoke p flashErr => Sys2Proof.Machine.execRevoke p flashErr s
  | .setIntKey p flashErr => Sys2Proof.Machine.execSetIntKey p flashErr s
  | .calExport p flashErr => Sys2Proof.Machine.execCalExport p flashErr s
  | .calWrite p flashErr => Sys2Proof.Machine.execCalWrite p flashErr s
  | .calImport p flashErr => Sys2Proof.Machine.execCalImport p flashErr s
  | .canTx p flashErr => Sys2Proof.Machine.execCanTx p flashErr s
  | .canTxAbort p flashErr => Sys2Proof.Machine.execCanTxAbort p flashErr s
  | .netReq p req => Sys2Proof.Machine.execNetReq p req s
  | .runGraph q hm => Sys2Proof.Machine.execRunGraph q hm s
  | .loadImage q hm => Sys2Proof.Machine.execLoadImage q hm s
  | .unloadImage q hm => Sys2Proof.Machine.execUnloadImage q hm s
  | .solve q hm => Sys2Proof.Machine.execSolve q hm s
  | .solveBatch q hm => Sys2Proof.Machine.execSolveBatch q hm s
  | .estimate q hm => Sys2Proof.Machine.execEstimate q hm s
  | .scenarioSolve q hm => Sys2Proof.Machine.execScenarioSolve q hm s
  | .attend q hm => Sys2Proof.Machine.execAttend q hm s
  | .kvAppend q hm => Sys2Proof.Machine.execKvAppend q hm s
  | .seqFork q hm => Sys2Proof.Machine.execSeqFork q hm s
  | .seqFree q hm => Sys2Proof.Machine.execSeqFree q hm s
  | .seqEvict q hm => Sys2Proof.Machine.execSeqEvict q hm s
  | .copy q hm => Sys2Proof.Machine.execCopy q hm s
  | .fill q hm => Sys2Proof.Machine.execFill q hm s
  | .fence q hm => Sys2Proof.Machine.execFence q hm s
  | .abort q hm => Sys2Proof.Machine.execAbort q hm s
  | .recordStart q hm => Sys2Proof.Machine.execRecordStart q hm s
  | .recordStop q hm => Sys2Proof.Machine.execRecordStop q hm s
  | .recordSwitch q hm => Sys2Proof.Machine.execRecordSwitch q hm s
  | .replayCtl q hm => Sys2Proof.Machine.execReplayCtl q hm s
  | .jobStartAtCount j => Sys2Proof.Machine.execJobStartAtCount j s
  | .fenceRelease j => Sys2Proof.Machine.execFenceRelease j s
  | .afterPrevRelease j => Sys2Proof.Machine.execAfterPrevRelease j s
  | .itemDispatch t => Sys2Proof.Machine.execItemDispatch t s
  | .graphOutputCopy j => Sys2Proof.Machine.execGraphOutputCopy j s
  | .unloadImageFinish j => Sys2Proof.Machine.execUnloadImageFinish j s
  | .completionPost j writeFails => Sys2Proof.Machine.execCompletionPost j writeFails s
  | .coalTimerExpiry k => Sys2Proof.Machine.execCoalTimerExpiry k s
  | .triggeredPass k => Sys2Proof.Machine.execTriggeredPass k s
  | .jobReexecute j => Sys2Proof.Machine.execJobReexecute j s
  | .ringJobAnswer m tag a => Sys2Proof.Machine.execRingJobAnswer m tag a s
  | .ringJobGo tag => Sys2Proof.Machine.execRingJobGo tag s
  | .ringJobCancel tag => Sys2Proof.Machine.execRingJobCancel tag s
  | .problemStart j ix => Sys2Proof.Machine.execProblemStart j ix s
  | .assemblyDone j ix => Sys2Proof.Machine.execAssemblyDone j ix s
  | .solveIteration j ix upset => Sys2Proof.Machine.execSolveIteration j ix upset s
  | .deadlineExpiry j ix => Sys2Proof.Machine.execDeadlineExpiry j ix s
  | .add t imm f => Sys2Proof.Machine.execAdd t imm f s
  | .sub t imm f => Sys2Proof.Machine.execSub t imm f s
  | .andI t imm f => Sys2Proof.Machine.execAndI t imm f s
  | .orI t imm f => Sys2Proof.Machine.execOrI t imm f s
  | .xor t imm f => Sys2Proof.Machine.execXor t imm f s
  | .sll t imm f => Sys2Proof.Machine.execSll t imm f s
  | .srl t imm f => Sys2Proof.Machine.execSrl t imm f s
  | .sra t imm f => Sys2Proof.Machine.execSra t imm f s
  | .slt t imm f => Sys2Proof.Machine.execSlt t imm f s
  | .sltu t imm f => Sys2Proof.Machine.execSltu t imm f s
  | .mul t imm f => Sys2Proof.Machine.execMul t imm f s
  | .mulh t imm f => Sys2Proof.Machine.execMulh t imm f s
  | .mulhu t imm f => Sys2Proof.Machine.execMulhu t imm f s
  | .div t imm f => Sys2Proof.Machine.execDiv t imm f s
  | .divu t imm f => Sys2Proof.Machine.execDivu t imm f s
  | .rem t imm f => Sys2Proof.Machine.execRem t imm f s
  | .remu t imm f => Sys2Proof.Machine.execRemu t imm f s
  | .lih t f => Sys2Proof.Machine.execLih t f s
  | .faddS t f => Sys2Proof.Machine.execFaddS t f s
  | .fsubS t f => Sys2Proof.Machine.execFsubS t f s
  | .fmulS t f => Sys2Proof.Machine.execFmulS t f s
  | .fmaS t f => Sys2Proof.Machine.execFmaS t f s
  | .fdivS t f => Sys2Proof.Machine.execFdivS t f s
  | .fsqrtS t f => Sys2Proof.Machine.execFsqrtS t f s
  | .fminS t f => Sys2Proof.Machine.execFminS t f s
  | .fmaxS t f => Sys2Proof.Machine.execFmaxS t f s
  | .feqS t f => Sys2Proof.Machine.execFeqS t f s
  | .fltS t f => Sys2Proof.Machine.execFltS t f s
  | .fleS t f => Sys2Proof.Machine.execFleS t f s
  | .faddD t f => Sys2Proof.Machine.execFaddD t f s
  | .fsubD t f => Sys2Proof.Machine.execFsubD t f s
  | .fmulD t f => Sys2Proof.Machine.execFmulD t f s
  | .fmaD t f => Sys2Proof.Machine.execFmaD t f s
  | .fdivD t f => Sys2Proof.Machine.execFdivD t f s
  | .fsqrtD t f => Sys2Proof.Machine.execFsqrtD t f s
  | .fminD t f => Sys2Proof.Machine.execFminD t f s
  | .fmaxD t f => Sys2Proof.Machine.execFmaxD t f s
  | .feqD t f => Sys2Proof.Machine.execFeqD t f s
  | .fltD t f => Sys2Proof.Machine.execFltD t f s
  | .fleD t f => Sys2Proof.Machine.execFleD t f s
  | .fcvt t f => Sys2Proof.Machine.execFcvt t f s
  | .beq t f => Sys2Proof.Machine.execBeq t f s
  | .bne t f => Sys2Proof.Machine.execBne t f s
  | .blt t f => Sys2Proof.Machine.execBlt t f s
  | .bge t f => Sys2Proof.Machine.execBge t f s
  | .bltu t f => Sys2Proof.Machine.execBltu t f s
  | .bgeu t f => Sys2Proof.Machine.execBgeu t f s
  | .jal t f => Sys2Proof.Machine.execJal t f s
  | .jr t f => Sys2Proof.Machine.execJr t f s
  | .endProg t f => Sys2Proof.Machine.execEndProg t f s
  | .ld t f a => Sys2Proof.Machine.execLd t f a s
  | .st t f a => Sys2Proof.Machine.execSt t f a s
  | .ldt t f a => Sys2Proof.Machine.execLdt t f a s
  | .lds t f a => Sys2Proof.Machine.execLds t f a s
  | .accld t f a => Sys2Proof.Machine.execAccld t f a s
  | .accst t f a => Sys2Proof.Machine.execAccst t f a s
  | .cwb t f => Sys2Proof.Machine.execCwb t f s
  | .vadd t f => Sys2Proof.Machine.execVadd t f s
  | .vsub t f => Sys2Proof.Machine.execVsub t f s
  | .vmul t f => Sys2Proof.Machine.execVmul t f s
  | .vfma t f => Sys2Proof.Machine.execVfma t f s
  | .vmin t f => Sys2Proof.Machine.execVmin t f s
  | .vmax t f => Sys2Proof.Machine.execVmax t f s
  | .vceq t f => Sys2Proof.Machine.execVceq t f s
  | .vclt t f => Sys2Proof.Machine.execVclt t f s
  | .vcle t f => Sys2Proof.Machine.execVcle t f s
  | .vsel t f => Sys2Proof.Machine.execVsel t f s
  | .vand t f => Sys2Proof.Machine.execVand t f s
  | .vor t f => Sys2Proof.Machine.execVor t f s
  | .vxor t f => Sys2Proof.Machine.execVxor t f s
  | .viadd t f => Sys2Proof.Machine.execViadd t f s
  | .vexp2 t f => Sys2Proof.Machine.execVexp2 t f s
  | .vlog2 t f => Sys2Proof.Machine.execVlog2 t f s
  | .vrcp t f => Sys2Proof.Machine.execVrcp t f s
  | .vrsq t f => Sys2Proof.Machine.execVrsq t f s
  | .vbcast t f => Sys2Proof.Machine.execVbcast t f s
  | .vext t f => Sys2Proof.Machine.execVext t f s
  | .vins t f => Sys2Proof.Machine.execVins t f s
  | .vmov t f => Sys2Proof.Machine.execVmov t f s
  | .vrsum t f => Sys2Proof.Machine.execVrsum t f s
  | .vrmax t f => Sys2Proof.Machine.execVrmax t f s
  | .vdot t f => Sys2Proof.Machine.execVdot t f s
  | .vcvt t f => Sys2Proof.Machine.execVcvt t f s
  | .cvtb t f => Sys2Proof.Machine.execCvtb t f s
  | .dcvb t f => Sys2Proof.Machine.execDcvb t f s
  | .mma t f a abft => Sys2Proof.Machine.execMma t f a abft s
  | .accz t f => Sys2Proof.Machine.execAccz t f s
  | .waita t f => Sys2Proof.Machine.execWaita t f s
  | .waitTimeout t => Sys2Proof.Machine.execWaitTimeout t s
  | .fpbar t f => Sys2Proof.Machine.execFpbar t f s
  | .ebar t f => Sys2Proof.Machine.execEbar t f s
  | .nop t f => Sys2Proof.Machine.execNop t f s
  | .send t f => Sys2Proof.Machine.execSend t f s
  | .rread t f => Sys2Proof.Machine.execRread t f s
  | .fillr t f => Sys2Proof.Machine.execFillr t f s
  | .copyr t f => Sys2Proof.Machine.execCopyr t f s
  | .sig t f => Sys2Proof.Machine.execSig t f s
  | .rdflg t f => Sys2Proof.Machine.execRdflg t f s
  | .clrflg t f => Sys2Proof.Machine.execClrflg t f s
  | .trapen t f => Sys2Proof.Machine.execTrapen t f s
  | .rdmax t f => Sys2Proof.Machine.execRdmax t f s
  | .clrmax t f => Sys2Proof.Machine.execClrmax t f s
  | .rdblk t f => Sys2Proof.Machine.execRdblk t f s
  | .clrblk t f => Sys2Proof.Machine.execClrblk t f s
  | .rdid t f => Sys2Proof.Machine.execRdid t f s
  | .rdcyc t f => Sys2Proof.Machine.execRdcyc t f s
  | .rdtime t f => Sys2Proof.Machine.execRdtime t f s
  | .rdarr t f => Sys2Proof.Machine.execRdarr t f s
  | .ricf t f => Sys2Proof.Machine.execRicf t f s
  | .rics t f => Sys2Proof.Machine.execRics t f s
  | .pgreq t f => Sys2Proof.Machine.execPgreq t f s
  | .pgapp t f => Sys2Proof.Machine.execPgapp t f s
  | .illegalInstruction t => Sys2Proof.Machine.execIllegalInstruction t s
  | .trapDeliveryTimer t => Sys2Proof.Machine.execTrapDeliveryTimer t s
  | .guardTimeout t held => Sys2Proof.Machine.execGuardTimeout t held s
  | .cacheLineArrival t => Sys2Proof.Machine.execCacheLineArrival t s
  | .transferIngress t x => Sys2Proof.Machine.execTransferIngress t x s
  | .transferLanded t x => Sys2Proof.Machine.execTransferLanded t x s
  | .transferAck t x => Sys2Proof.Machine.execTransferAck t x s
  | .refusalReturn t x st => Sys2Proof.Machine.execRefusalReturn t x st s
  | .fabricResend t => Sys2Proof.Machine.execFabricResend t s
  | .fabricWritePriority t => Sys2Proof.Machine.execFabricWritePriority t s
  | .roleChangeDone t => Sys2Proof.Machine.execRoleChangeDone t s
  | .bankDrain t b => Sys2Proof.Machine.execBankDrain t b s
  | .bankGate t b => Sys2Proof.Machine.execBankGate t b s
  | .liveRemap t h => Sys2Proof.Machine.execLiveRemap t h s
  | .liveRemapResume t h newBase => Sys2Proof.Machine.execLiveRemapResume t h newBase s
  | .tileRowSpare t bank brow => Sys2Proof.Machine.execTileRowSpare t bank brow s
  | .tileRetire t reason => Sys2Proof.Machine.execTileRetire t reason s
  | .tileDrain t => Sys2Proof.Machine.execTileDrain t s
  | .throttleStep region => Sys2Proof.Machine.execThrottleStep region s
  | .dutyRaiseStep region => Sys2Proof.Machine.execDutyRaiseStep region s
  | .pageMove ppn toCanopy => Sys2Proof.Machine.execPageMove ppn toCanopy s
  | .pageMoveDone ppn => Sys2Proof.Machine.execPageMoveDone ppn s
  | .walkerMissReturn sq ix uncorrectable => Sys2Proof.Machine.execWalkerMissReturn sq ix uncorrectable s
  | .pageCopyDone sq => Sys2Proof.Machine.execPageCopyDone sq s
  | .appendCommit sq => Sys2Proof.Machine.execAppendCommit sq s
  | .attendOutputWrite j e uncorrectable => Sys2Proof.Machine.execAttendOutputWrite j e uncorrectable s
  | .splitChangeMessage c => Sys2Proof.Machine.execSplitChangeMessage c s
  | .ringSplitPartial j row m l o => Sys2Proof.Machine.execRingSplitPartial j row m l o s
  | .pcieLinkDown => Sys2Proof.Machine.execPcieLinkDown s
  | .pcieLinkUp => Sys2Proof.Machine.execPcieLinkUp s
  | .flr => Sys2Proof.Machine.execFlr s
  | .perstAssert => Sys2Proof.Machine.execPerstAssert s
  | .fifoTake n j ix => Sys2Proof.Machine.execFifoTake n j ix s
  | .fifoCutThrough n j ix landed => Sys2Proof.Machine.execFifoCutThrough n j ix landed s
  | .fifoCreditReturn n seq => Sys2Proof.Machine.execFifoCreditReturn n seq s
  | .planEntryBegin => Sys2Proof.Machine.execPlanEntryBegin s
  | .planStepActivate k => Sys2Proof.Machine.execPlanStepActivate k s
  | .frameIngress port b fcsOk stamp => Sys2Proof.Machine.execFrameIngress port b fcsOk stamp s
  | .syncTimeout => Sys2Proof.Machine.execSyncTimeout s
  | .timeSyncStep gm => Sys2Proof.Machine.execTimeSyncStep gm s
  | .gateIntervalEnd n => Sys2Proof.Machine.execGateIntervalEnd n s
  | .frameLaunch n => Sys2Proof.Machine.execFrameLaunch n s
  | .launchLate n => Sys2Proof.Machine.execLaunchLate n s
  | .frameEgress n stamp => Sys2Proof.Machine.execFrameEgress n stamp s
  | .ppsInEdge stamp => Sys2Proof.Machine.execPpsInEdge stamp s
  | .canFrameRx c id dlc data => Sys2Proof.Machine.execCanFrameRx c id dlc data s
  | .canFrameTx c b => Sys2Proof.Machine.execCanFrameTx c b s
  | .canBusOffRecovery c => Sys2Proof.Machine.execCanBusOffRecovery c s
  | .flitReceive l x crcOk => Sys2Proof.Machine.execFlitReceive l x crcOk s
  | .ackTimeout l => Sys2Proof.Machine.execAckTimeout l s
  | .laneLockLoss l => Sys2Proof.Machine.execLaneLockLoss l s
  | .retryWindowEnd l ovr => Sys2Proof.Machine.execRetryWindowEnd l ovr s
  | .linkTrained l => Sys2Proof.Machine.execLinkTrained l s
  | .ringDiscover pos head => Sys2Proof.Machine.execRingDiscover pos head s
  | .delayMeasurement l delay16 offset => Sys2Proof.Machine.execDelayMeasurement l delay16 offset s
  | .timeAlignStep target => Sys2Proof.Machine.execTimeAlignStep target s
  | .ddrRefresh ch => Sys2Proof.Machine.execDdrRefresh ch s
  | .ddrTempPoll ch hot coolFor1s => Sys2Proof.Machine.execDdrTempPoll ch hot coolFor1s s
  | .ddrScrubRead ch e => Sys2Proof.Machine.execDdrScrubRead ch e s
  | .canopyScrub slice e => Sys2Proof.Machine.execCanopyScrub slice e s
  | .tileScrub t bank e => Sys2Proof.Machine.execTileScrub t bank e s
  | .ddrRowSpare ch bank row => Sys2Proof.Machine.execDdrRowSpare ch bank row s
  | .loopTimer k => Sys2Proof.Machine.execLoopTimer k s
  | .adcConversionDone c code => Sys2Proof.Machine.execAdcConversionDone c code s
  | .pinEdge c rising both ticks => Sys2Proof.Machine.execPinEdge c rising both ticks s
  | .pinStopTimeout c => Sys2Proof.Machine.execPinStopTimeout c s
  | .pwmPeriodStart c => Sys2Proof.Machine.execPwmPeriodStart c s
  | .sensorSample sensor v => Sys2Proof.Machine.execSensorSample sensor v s
  | .supplySample vin vhold => Sys2Proof.Machine.execSupplySample vin vhold s
  | .writeGuardRelease => Sys2Proof.Machine.execWriteGuardRelease s
  | .overvoltageStop => Sys2Proof.Machine.execOvervoltageStop s
  | .supplyRecovery => Sys2Proof.Machine.execSupplyRecovery s
  | .clearingPowerOnReset => Sys2Proof.Machine.execClearingPowerOnReset s
  | .watchdogExpiry => Sys2Proof.Machine.execWatchdogExpiry s
  | .firmwareReady => Sys2Proof.Machine.execFirmwareReady s
  | .logRecordWrite => Sys2Proof.Machine.execLogRecordWrite s
  | .logSeal => Sys2Proof.Machine.execLogSeal s
  | .hubReload => Sys2Proof.Machine.execHubReload s
  | .trialConfirm kind => Sys2Proof.Machine.execTrialConfirm kind s
  | .clearingSample x => Sys2Proof.Machine.execClearingSample x s
  | .sleepSequence => Sys2Proof.Machine.execSleepSequence s
  | .sleepDelayExpiry => Sys2Proof.Machine.execSleepDelayExpiry s
  | .powerGood srisPin => Sys2Proof.Machine.execPowerGood srisPin s
  | .startupStageDone x => Sys2Proof.Machine.execStartupStageDone x s
  | .surpriseRemoval => Sys2Proof.Machine.execSurpriseRemoval s
  | .drainTimeout => Sys2Proof.Machine.execDrainTimeout s
  | .ejectOk => Sys2Proof.Machine.execEjectOk s
  | .extrefLoss => Sys2Proof.Machine.execExtrefLoss s
  | .extrefRestore => Sys2Proof.Machine.execExtrefRestore s
  | .clearingPowerOn => Sys2Proof.Machine.execClearingPowerOn s
  | .perstRelease => Sys2Proof.Machine.execPerstRelease s
  | .streamRecoveryReset f => Sys2Proof.Machine.execStreamRecoveryReset f s
  | .msixUnmask p v => Sys2Proof.Machine.execMsixUnmask p v s
  | .ppsOutPulse high => Sys2Proof.Machine.execPpsOutPulse high s
  | .undefinedOpcodeJob q hm => Sys2Proof.Machine.execUndefinedOpcodeJob q hm s
  | .mboxBadCmd p flashErr => Sys2Proof.Machine.execMboxBadCmd p flashErr s

end Sys2Proof.Machine
end

