-- ==== Sys2Proof/Safety.lean ====
section
/-! DEFINITION. The terms in which claims about runs are stated: what it takes for a tile instruction to issue, how it leaves
issue, and what a command changes. -/

namespace Sys2Proof.Machine

/-- The outcome is a next state. -/
def Ran (o : Out) : Prop := ∃ t, o = .next t

/-- Instruction (`cls`, `op`, `f`) stands at the program counter of tile `t`, which runs it and whose role may issue it (R158,
R159, R163). -/
def Issues (s : State) (t cls op : Nat) (f : Fields) : Prop :=
  atIssue s.dev t (instrWord cls op f) = true ∧ classRole s.dev t cls = true

/-- The next state in which the instruction has completed with the device left as `d`: the program counter moves on by 8, the
ordinal rises (R82), and transfers held at the tile go on as they may. -/
def completes (s : State) (t : Nat) (d : Dev) : Out := .next { s with dev := settle (advance s.dev d t none) t }

/-- The next state in which a branch is taken to `pc`. -/
def jumps (s : State) (t : Nat) (d : Dev) (pc : U32) : Out := .next { s with dev := advance s.dev d t (some pc) }

/-- The next state with only the device changed, to `d`. -/
def leaves (s : State) (d : Dev) : Out := .next { s with dev := d }

/-- The row accesses of an instruction are permitted, no handle of them is paused, and none waits for a slot or a line. -/
def RowsReady (d : Dev) (t : Nat) (reqs : List RowReq) : Prop :=
  (∀ q ∈ reqs, reqLegal d t q = true) ∧ (∀ q ∈ reqs, q.hn ∉ (d.tile t).paused) ∧ (∀ q ∈ reqs, reqStall d t q = none)

/-- The device after the row accesses: their timing and what the codes of the rows read found (R108, R117, R148). -/
def marked (d : Dev) (t : Nat) (reqs : List RowReq) (a : Access) : Dev := (accessed d t reqs a).1

/-- No row that the accesses read is uncorrectable (R149). -/
def ReadsSound (d : Dev) (t : Nat) (reqs : List RowReq) (a : Access) : Prop := (accessed d t reqs a).2 = false

/-- No transfer is held or waits at the ingress of tile `t`. -/
def QuietIngress (d : Dev) (t : Nat) : Prop := (d.tile t).held = [] ∧ (d.tile t).backlog = []

/-- The two states differ in nothing but the device. -/
def SameBesideDev (s u : State) : Prop := u.nv = s.nv ∧ u.pending = s.pending

/-- The two devices agree in everything but their tiles. -/
def SameBesideTiles (d e : Dev) : Prop := { e with tiles := d.tiles } = d

/-- The two devices agree in everything but their registers and tiles. -/
def SameBesideTilesRegs (d e : Dev) : Prop := { e with tiles := d.tiles, regs := d.regs } = d

/-- The two devices hold every tile alike, but perhaps tile `t`. -/
def SameOtherTiles (d e : Dev) (t : Nat) : Prop := ∀ k, k ≠ t → e.tile k = d.tile k

/-- Every register word but those at the offsets listed is the same. -/
def SameRegsBut (d e : Dev) (os : List Nat) : Prop := ∀ o, o ∉ os → bankWord e.regs o = bankWord d.regs o

/-- The offsets of the trap record of tile `t`: TILE_FP_TRAP and TILE_TRAP_CAUSE to TILE_TRAP_ELEM (R90). -/
def trapWords (t : Nat) : List Nat :=
  [rTileFpTrap, rTileTrapCause, rTileTrapPc, rTileTrapOrd, rTileTrapOrd + 4, rTileTrapElem].map (· + 0x400 * t)

/-- `e` is `d` with an illegal instruction of tile `t` recorded and delivered (R87, R163): CAUSE 0, the program counter, ordinal and
logical tile of the instruction, TRAPPED set, nothing pending. -/
def IllegalRecorded (d e : Dev) (t : Nat) : Prop :=
  SameBesideTilesRegs d e ∧ (∀ k, e.tile k = d.tile k) ∧ SameRegsBut d e (trapWords t) ∧
    e.fld tileTrapCauseTrapped t = 1 ∧ e.fld tileTrapCauseCause t = 0 ∧ e.fld tileTrapCauseNanwatch t = 0 ∧
    e.fld tileFpTrapPending t = 0 ∧ e.fld tileTrapPcPc t = (d.tile t).pc.toNat ∧
    e.fld tileTrapOrdOrdinal t = (d.tile t).ordinal % 2 ^ 64 ∧ e.fld tileTrapElemLtile t = d.fld tileIdLtile t % 128

/-- The device in which a descriptor `x` fetched from ring `q` has become a job, and the job's number; `hm` is what the host placed in
its memory before (R360 to R365). -/
def opened (d : Dev) (q : Nat) (hm : Outside) (x : Desc) : Dev × Nat := openJob (placeHost d hm) q x

/-- The device with what came from outside, the descriptor at the front of ring `q` read. -/
def scanned (d : Dev) (q : Nat) (hm : Outside) : Dev := fetchScan (placeHost d hm) q

/-- The next descriptor to be fetched is `x`, of ring `q`, and it is read without an error (R360 to R362). -/
def Fetches (d : Dev) (q : Nat) (hm : Outside) (x : Desc) : Prop :=
  nextFetch (placeHost d hm) = some q ∧ (∃ raw, descBytes (scanned d q hm) q = .ok raw ∧ parseDesc raw = x) ∧
    ((scanned d q hm).net.stepDue && timedWork (scanned d q hm) x) = false

/-- The descriptor fetched is well formed and nothing keeps its job out; it is no ring job, and its start count, if it has one, has
not passed (R350, R364, R365, R380, R400). -/
def Accepted (d : Dev) (q : Nat) (hm : Outside) (x : Desc) : Prop :=
  let p := opened d q hm x
  Fetches d q hm x ∧ descBad (scanned d q hm) q x = false ∧ chainBroken (scanned d q hm) q x = false ∧
    abortedAtFetch p.1 p.2 = none ∧ admissionOff p.1 x = false ∧ bit x.flags 5 = false ∧
    (∀ y, p.1.job p.2 = some y → y.ring = false) ∧ (x.startCount ≠ 0 → p.1.now ≤ 1000 * x.startCount)

/-- The access of `size` bytes at `off` by port `p` reaches register `i` of the array `r`; a read is answered in time (R389,
notes/assumptions/140). -/
def Reached (d : Dev) (p : Port) (off size : Nat) (wr : Bool) (r : RDef) (i : Nat) : Prop :=
  portAlive d p = true ∧ portAsleep d p = false ∧ reach d p off size wr = .reg r i ∧ (wr = true ∨ lateRead d p off = false)

/-- Registers a write of which sets off more than its field codes say: keys, doorbells, commands, windows, and those whose fields R358
or R469 guard. -/
def commandRegs : List Nat :=
  [rDevCtrl, rDevReset, rSupSafe, rMboxCtrl, rSupqTail, rSupcqHead, rTimeStep, rSqBase, rCqBase, rSqCfg, rCqCfg, rSqTrig, rMsixCtrl, rStreamCfg,
   rPlanCfg, rClkCtrl, rSupHbChal, rTimeInc, rPlkCtrl, rNetPortGcl, rNetCtrl, rNetCanCfg]

/-- A register whose write does what the access codes of its fields say and nothing else (R15, R16). -/
def plainRegister (r : RDef) : Bool :=
  !r.perPort && !commandRegs.contains r.base && !decide (0xE000 ≤ r.base ∧ r.base < 0xF000)

/-- Port `p`'s mailbox channel holds command `op` and nothing waits: the port reaches the module, the block answers, the firmware runs,
no flash write is held back (R510, R513). -/
def MailboxReady (s : State) (p : Port) (op : Nat) : Prop :=
  portAlive s.dev p = true ∧ portAsleep s.dev p = false ∧ available s.dev p rMboxCtrl true = true ∧ s.dev.mgmt.mbox = [] ∧
    fwReady s.dev = true ∧ s.dev.mgmt.romOnly = false ∧ guardHeld s.dev = false ∧ s.dev.pfld p mboxCmdOpcode = op

/-- The first `n` bytes of port `p`'s response buffer. -/
def responseOf (d : Dev) (p : Port) (n : Nat) : List Byte :=
  ((upto ((n + 3) / 4)).flatMap fun i => leBytes 4 (bankWord (portBank d p) (rMboxResp + 4 * i)).toNat).take n

/-- Port `p`'s command has finished with a result code and a response (R513, R514). -/
def Answered (d : Dev) (p : Port) (code : Nat) (resp : List Byte) : Prop :=
  d.pfld p mboxCtrlGo = 0 ∧ d.pfld p mboxStatusBusy = 0 ∧ d.pfld p mboxStatusDone = 1 ∧ d.pfld p mboxStatusResult = code ∧
    d.pfld p mboxStatusRespLen = resp.length % 65536 ∧ responseOf d p resp.length = resp ∧ d.mgmt.mbox = []

/-- A Spadja transaction is taken: Clearing and the port are powered. `awake` as R509 has it. -/
def WireAwake (d : Dev) : Prop := d.clr.on = true ∧ d.clr.asleep = false

end Sys2Proof.Machine
end

