-- ==== Sys2Proof/WellFormed.lean ====
section
/-! DEFINITION. Well-formed commands: the operand ranges that the manual gives, and the instruction words that LOAD_IMAGE lets
reach a tile (R162). -/

namespace Sys2Proof

/-- Physical tile numbers (R6). -/
def tileOk (t : Nat) : Bool := decide (t < 136)

/-- Banks of a scratchpad (R103). -/
def bankOk (b : Nat) : Bool := decide (b < 16)

/-- Submission and completion rings of the host (R358). -/
def ringOk (k : Nat) : Bool := decide (k < 64)

/-- Submission rings, 64 for the supervisor queue (R390). -/
def jobRingOk (q : Nat) : Bool := decide (q ≤ 64)

/-- Host memory placed by a command: bytes at 64-bit addresses. -/
def hostOk (m : Outside) : Bool := m.cells.all fun c => decide (c.1 < 2 ^ 64)

/-- At most two cycles of delay (R107); rows of the tile's banks (R104). -/
def accessOk (a : Access) : Bool := decide (a.delay ≤ 2) && a.flaws.all fun e => decide (e.1 < 16 * 528)

/-- Stream FIFOs, 8 for the plan FIFO (R372, R377). -/
def fifoOk (n : Nat) : Bool := decide (n ≤ 8)

/-- The bridge's ports with registers of their own, and its external ports (R402, R424). -/
def timedPortOk (n : Nat) : Bool := decide (n < 5)
def macPortOk (n : Nat) : Bool := decide (n < 4)

def canOk (c : Nat) : Bool := decide (c < 2)
def linkOk (l : Nat) : Bool := decide (l < 2)
def ddrOk (ch : Nat) : Bool := decide (ch < 4)
def loopOk (k : Nat) : Bool := decide (k < 16)
def channelOk (c : Nat) : Bool := decide (c < 8)

/-- Sequence identifiers (R264). -/
def seqOk (s : Nat) : Bool := decide (s < 4096)

/-- A word that LOAD_IMAGE accepts, its handle numbers and branch targets apart, which depend on the tile it is loaded to
(R162). -/
def wordOk (cls op : Nat) (f : Fields) : Bool :=
  Machine.instrOk 1 0 (if cls = 0x9 then 2 else 3) (fun _ => true) (Machine.instrWord cls op (if cls = 0x1 && op < 0x09 then { f with ext := 0 } else f))

/-- The tile, class, operation and fields of a tile instruction (R158, R164 to R187); none for the other commands. -/
def Instr.tileOp (i : Instr) : Option (Nat × Nat × Nat × Fields) :=
  match i with
  | .registerWrite _ _ _ _ => none
  | .lowWordReadLatch _ _ _ => none
  | .setupLock _ => none
  | .devReset _ _ => none
  | .safeEnterWrite _ => none
  | .safeExitWrite _ => none
  | .hbChallenge _ _ => none
  | .hbResponse _ _ _ => none
  | .hbTimeout => none
  | .supqTail _ _ => none
  | .supcqHead _ _ => none
  | .sqTailDb _ _ _ => none
  | .cqHeadDb _ _ _ => none
  | .abortDb _ _ _ => none
  | .sqEnable _ _ _ => none
  | .sqDisable _ _ _ => none
  | .cqEnable _ _ _ => none
  | .cqDisable _ _ _ => none
  | .timeIncWrite _ _ => none
  | .timeStepWrite _ _ => none
  | .refSelWrite _ _ => none
  | .refSwitchoverDone => none
  | .tsqInfoRead _ _ => none
  | .loopMdataAccess _ _ => none
  | .manWrite _ _ _ => none
  | .gclChange _ _ _ => none
  | .gclInstall _ => none
  | .plkReform _ => none
  | .plkLeave _ => none
  | .loopClose _ _ => none
  | .loopOpen _ _ => none
  | .loopSwap _ _ => none
  | .injStart _ => none
  | .injStop _ => none
  | .capStart _ => none
  | .capStop _ => none
  | .pinZero _ _ => none
  | .readId _ => none
  | .spadjaRead _ => none
  | .spadjaWrite _ => none
  | .spadjaStatus _ => none
  | .spadjaAbort _ => none
  | .spadjaSafe _ => none
  | .spadjaReset => none
  | .getAttest _ _ => none
  | .getCerts _ _ => none
  | .readLog _ _ => none
  | .updateBegin _ _ => none
  | .updateData _ _ => none
  | .updateEnd _ _ => none
  | .switch _ _ => none
  | .ratchet _ _ => none
  | .revoke _ _ => none
  | .setIntKey _ _ => none
  | .calExport _ _ => none
  | .calWrite _ _ => none
  | .calImport _ _ => none
  | .canTx _ _ => none
  | .canTxAbort _ _ => none
  | .netReq _ _ => none
  | .runGraph _ _ => none
  | .loadImage _ _ => none
  | .unloadImage _ _ => none
  | .solve _ _ => none
  | .solveBatch _ _ => none
  | .estimate _ _ => none
  | .scenarioSolve _ _ => none
  | .attend _ _ => none
  | .kvAppend _ _ => none
  | .seqFork _ _ => none
  | .seqFree _ _ => none
  | .seqEvict _ _ => none
  | .copy _ _ => none
  | .fill _ _ => none
  | .fence _ _ => none
  | .abort _ _ => none
  | .recordStart _ _ => none
  | .recordStop _ _ => none
  | .recordSwitch _ _ => none
  | .replayCtl _ _ => none
  | .jobStartAtCount _ => none
  | .fenceRelease _ => none
  | .afterPrevRelease _ => none
  | .itemDispatch _ => none
  | .graphOutputCopy _ => none
  | .unloadImageFinish _ => none
  | .completionPost _ _ => none
  | .coalTimerExpiry _ => none
  | .triggeredPass _ => none
  | .jobReexecute _ => none
  | .ringJobAnswer _ _ _ => none
  | .ringJobGo _ => none
  | .ringJobCancel _ => none
  | .problemStart _ _ => none
  | .assemblyDone _ _ => none
  | .solveIteration _ _ _ => none
  | .deadlineExpiry _ _ => none
  | .add t imm f => some (t, 0x0, if imm then 0x80 else 0x0, f)
  | .sub t imm f => some (t, 0x0, if imm then 0x81 else 0x1, f)
  | .andI t imm f => some (t, 0x0, if imm then 0x82 else 0x2, f)
  | .orI t imm f => some (t, 0x0, if imm then 0x83 else 0x3, f)
  | .xor t imm f => some (t, 0x0, if imm then 0x84 else 0x4, f)
  | .sll t imm f => some (t, 0x0, if imm then 0x85 else 0x5, f)
  | .srl t imm f => some (t, 0x0, if imm then 0x86 else 0x6, f)
  | .sra t imm f => some (t, 0x0, if imm then 0x87 else 0x7, f)
  | .slt t imm f => some (t, 0x0, if imm then 0x88 else 0x8, f)
  | .sltu t imm f => some (t, 0x0, if imm then 0x89 else 0x9, f)
  | .mul t imm f => some (t, 0x0, if imm then 0x8A else 0xA, f)
  | .mulh t imm f => some (t, 0x0, if imm then 0x8B else 0xB, f)
  | .mulhu t imm f => some (t, 0x0, if imm then 0x8C else 0xC, f)
  | .div t imm f => some (t, 0x0, if imm then 0x8D else 0xD, f)
  | .divu t imm f => some (t, 0x0, if imm then 0x8E else 0xE, f)
  | .rem t imm f => some (t, 0x0, if imm then 0x8F else 0xF, f)
  | .remu t imm f => some (t, 0x0, if imm then 0x90 else 0x10, f)
  | .lih t f => some (t, 0x0, 0x91, f)
  | .faddS t f => some (t, 0x0, 0x20, f)
  | .fsubS t f => some (t, 0x0, 0x21, f)
  | .fmulS t f => some (t, 0x0, 0x22, f)
  | .fmaS t f => some (t, 0x0, 0x23, f)
  | .fdivS t f => some (t, 0x0, 0x24, f)
  | .fsqrtS t f => some (t, 0x0, 0x25, f)
  | .fminS t f => some (t, 0x0, 0x26, f)
  | .fmaxS t f => some (t, 0x0, 0x27, f)
  | .feqS t f => some (t, 0x0, 0x28, f)
  | .fltS t f => some (t, 0x0, 0x29, f)
  | .fleS t f => some (t, 0x0, 0x2A, f)
  | .faddD t f => some (t, 0x0, 0x30, f)
  | .fsubD t f => some (t, 0x0, 0x31, f)
  | .fmulD t f => some (t, 0x0, 0x32, f)
  | .fmaD t f => some (t, 0x0, 0x33, f)
  | .fdivD t f => some (t, 0x0, 0x34, f)
  | .fsqrtD t f => some (t, 0x0, 0x35, f)
  | .fminD t f => some (t, 0x0, 0x36, f)
  | .fmaxD t f => some (t, 0x0, 0x37, f)
  | .feqD t f => some (t, 0x0, 0x38, f)
  | .fltD t f => some (t, 0x0, 0x39, f)
  | .fleD t f => some (t, 0x0, 0x3A, f)
  | .fcvt t f => some (t, 0x0, 0x40, f)
  | .beq t f => some (t, 0x1, 0x0, f)
  | .bne t f => some (t, 0x1, 0x1, f)
  | .blt t f => some (t, 0x1, 0x2, f)
  | .bge t f => some (t, 0x1, 0x3, f)
  | .bltu t f => some (t, 0x1, 0x4, f)
  | .bgeu t f => some (t, 0x1, 0x5, f)
  | .jal t f => some (t, 0x1, 0x8, f)
  | .jr t f => some (t, 0x1, 0x9, f)
  | .endProg t f => some (t, 0x1, 0xF, f)
  | .ld t f _ => some (t, 0x2, 0x0, f)
  | .st t f _ => some (t, 0x2, 0x1, f)
  | .ldt t f _ => some (t, 0x2, 0x2, f)
  | .lds t f _ => some (t, 0x2, 0x3, f)
  | .accld t f _ => some (t, 0x2, 0x4, f)
  | .accst t f _ => some (t, 0x2, 0x5, f)
  | .cwb t f => some (t, 0x2, 0x6, f)
  | .vadd t f => some (t, 0x3, 0x0, f)
  | .vsub t f => some (t, 0x3, 0x1, f)
  | .vmul t f => some (t, 0x3, 0x2, f)
  | .vfma t f => some (t, 0x3, 0x3, f)
  | .vmin t f => some (t, 0x3, 0x4, f)
  | .vmax t f => some (t, 0x3, 0x5, f)
  | .vceq t f => some (t, 0x3, 0x6, f)
  | .vclt t f => some (t, 0x3, 0x7, f)
  | .vcle t f => some (t, 0x3, 0x8, f)
  | .vsel t f => some (t, 0x3, 0x9, f)
  | .vand t f => some (t, 0x3, 0xA, f)
  | .vor t f => some (t, 0x3, 0xB, f)
  | .vxor t f => some (t, 0x3, 0xC, f)
  | .viadd t f => some (t, 0x3, 0xD, f)
  | .vexp2 t f => some (t, 0x3, 0x10, f)
  | .vlog2 t f => some (t, 0x3, 0x11, f)
  | .vrcp t f => some (t, 0x3, 0x12, f)
  | .vrsq t f => some (t, 0x3, 0x13, f)
  | .vbcast t f => some (t, 0x3, 0x18, f)
  | .vext t f => some (t, 0x3, 0x19, f)
  | .vins t f => some (t, 0x3, 0x1A, f)
  | .vmov t f => some (t, 0x3, 0x1B, f)
  | .vrsum t f => some (t, 0x3, 0x20, f)
  | .vrmax t f => some (t, 0x3, 0x21, f)
  | .vdot t f => some (t, 0x3, 0x22, f)
  | .vcvt t f => some (t, 0x3, 0x23, f)
  | .cvtb t f => some (t, 0x4, 0x0, f)
  | .dcvb t f => some (t, 0x4, 0x1, f)
  | .mma t f _ _ => some (t, 0x5, 0x0, f)
  | .accz t f => some (t, 0x5, 0x1, f)
  | .waita t f => some (t, 0x7, 0x0, f)
  | .waitTimeout _ => none
  | .fpbar t f => some (t, 0x7, 0x1, f)
  | .ebar t f => some (t, 0x7, 0x2, f)
  | .nop t f => some (t, 0x7, 0x3, f)
  | .send t f => some (t, 0x6, 0x0, f)
  | .rread t f => some (t, 0x6, 0x1, f)
  | .fillr t f => some (t, 0x6, 0x2, f)
  | .copyr t f => some (t, 0x6, 0x3, f)
  | .sig t f => some (t, 0x6, 0x4, f)
  | .rdflg t f => some (t, 0x8, 0x0, f)
  | .clrflg t f => some (t, 0x8, 0x1, f)
  | .trapen t f => some (t, 0x8, 0x2, f)
  | .rdmax t f => some (t, 0x8, 0x3, f)
  | .clrmax t f => some (t, 0x8, 0x4, f)
  | .rdblk t f => some (t, 0x8, 0x5, f)
  | .clrblk t f => some (t, 0x8, 0x6, f)
  | .rdid t f => some (t, 0x8, 0x7, f)
  | .rdcyc t f => some (t, 0x8, 0x10, f)
  | .rdtime t f => some (t, 0x8, 0x11, f)
  | .rdarr t f => some (t, 0x8, 0x12, f)
  | .ricf t f => some (t, 0x9, 0x0, f)
  | .rics t f => some (t, 0x9, 0x1, f)
  | .pgreq t f => some (t, 0xA, 0x0, f)
  | .pgapp t f => some (t, 0xA, 0x1, f)
  | .illegalInstruction _ => none
  | .trapDeliveryTimer _ => none
  | .guardTimeout _ _ => none
  | .cacheLineArrival _ => none
  | .transferIngress _ _ => none
  | .transferLanded _ _ => none
  | .transferAck _ _ => none
  | .refusalReturn _ _ _ => none
  | .fabricResend _ => none
  | .fabricWritePriority _ => none
  | .roleChangeDone _ => none
  | .bankDrain _ _ => none
  | .bankGate _ _ => none
  | .liveRemap _ _ => none
  | .liveRemapResume _ _ _ => none
  | .tileRowSpare _ _ _ => none
  | .tileRetire _ _ => none
  | .tileDrain _ => none
  | .throttleStep _ => none
  | .dutyRaiseStep _ => none
  | .pageMove _ _ => none
  | .pageMoveDone _ => none
  | .walkerMissReturn _ _ _ => none
  | .pageCopyDone _ => none
  | .appendCommit _ => none
  | .attendOutputWrite _ _ _ => none
  | .splitChangeMessage _ => none
  | .ringSplitPartial _ _ _ _ _ => none
  | .pcieLinkDown => none
  | .pcieLinkUp => none
  | .flr => none
  | .perstAssert => none
  | .fifoTake _ _ _ => none
  | .fifoCutThrough _ _ _ _ => none
  | .fifoCreditReturn _ _ => none
  | .planEntryBegin => none
  | .planStepActivate _ => none
  | .frameIngress _ _ _ _ => none
  | .syncTimeout => none
  | .timeSyncStep _ => none
  | .gateIntervalEnd _ => none
  | .frameLaunch _ => none
  | .launchLate _ => none
  | .frameEgress _ _ => none
  | .ppsInEdge _ => none
  | .canFrameRx _ _ _ _ => none
  | .canFrameTx _ _ => none
  | .canBusOffRecovery _ => none
  | .flitReceive _ _ _ => none
  | .ackTimeout _ => none
  | .laneLockLoss _ => none
  | .retryWindowEnd _ _ => none
  | .linkTrained _ => none
  | .ringDiscover _ _ => none
  | .delayMeasurement _ _ _ => none
  | .timeAlignStep _ => none
  | .ddrRefresh _ => none
  | .ddrTempPoll _ _ _ => none
  | .ddrScrubRead _ _ => none
  | .canopyScrub _ _ => none
  | .tileScrub _ _ _ => none
  | .ddrRowSpare _ _ _ => none
  | .loopTimer _ => none
  | .adcConversionDone _ _ => none
  | .pinEdge _ _ _ _ => none
  | .pinStopTimeout _ => none
  | .pwmPeriodStart _ => none
  | .sensorSample _ _ => none
  | .supplySample _ _ => none
  | .writeGuardRelease => none
  | .overvoltageStop => none
  | .supplyRecovery => none
  | .clearingPowerOnReset => none
  | .watchdogExpiry => none
  | .firmwareReady => none
  | .logRecordWrite => none
  | .logSeal => none
  | .hubReload => none
  | .trialConfirm _ => none
  | .clearingSample _ => none
  | .sleepSequence => none
  | .sleepDelayExpiry => none
  | .powerGood _ => none
  | .startupStageDone _ => none
  | .surpriseRemoval => none
  | .drainTimeout => none
  | .ejectOk => none
  | .extrefLoss => none
  | .extrefRestore => none
  | .clearingPowerOn => none
  | .perstRelease => none
  | .streamRecoveryReset _ => none
  | .msixUnmask _ _ => none
  | .ppsOutPulse _ => none
  | .undefinedOpcodeJob _ _ => none
  | .mboxBadCmd _ _ => none

/-- The operands of a command are in range. -/
def Instr.wf (i : Instr) : Bool :=
  match i with
  | .registerWrite _ _ size _ => [1, 2, 4, 8].contains size
  | .lowWordReadLatch _ _ size => [1, 2, 4, 8].contains size
  | .setupLock _ => true
  | .devReset _ _ => true
  | .safeEnterWrite _ => true
  | .safeExitWrite _ => true
  | .hbChallenge _ _ => true
  | .hbResponse _ _ _ => true
  | .hbTimeout => true
  | .supqTail _ _ => true
  | .supcqHead _ _ => true
  | .sqTailDb k _ _ => ringOk k
  | .cqHeadDb k _ _ => ringOk k
  | .abortDb k _ _ => ringOk k
  | .sqEnable _ k _ => ringOk k
  | .sqDisable _ k _ => ringOk k
  | .cqEnable _ k _ => ringOk k
  | .cqDisable _ k _ => ringOk k
  | .timeIncWrite _ _ => true
  | .timeStepWrite _ _ => true
  | .refSelWrite _ _ => true
  | .refSwitchoverDone => true
  | .tsqInfoRead _ n => timedPortOk n
  | .loopMdataAccess _ _ => true
  | .manWrite _ k _ => loopOk k
  | .gclChange _ n _ => timedPortOk n
  | .gclInstall n => timedPortOk n
  | .plkReform _ => true
  | .plkLeave _ => true
  | .loopClose _ k => loopOk k
  | .loopOpen _ k => loopOk k
  | .loopSwap _ k => loopOk k
  | .injStart _ => true
  | .injStop _ => true
  | .capStart _ => true
  | .capStop _ => true
  | .pinZero _ k => channelOk k
  | .readId _ => true
  | .spadjaRead _ => true
  | .spadjaWrite _ => true
  | .spadjaStatus _ => true
  | .spadjaAbort _ => true
  | .spadjaSafe _ => true
  | .spadjaReset => true
  | .getAttest _ _ => true
  | .getCerts _ _ => true
  | .readLog _ _ => true
  | .updateBegin _ _ => true
  | .updateData _ _ => true
  | .updateEnd _ _ => true
  | .switch _ _ => true
  | .ratchet _ _ => true
  | .revoke _ _ => true
  | .setIntKey _ _ => true
  | .calExport _ _ => true
  | .calWrite _ _ => true
  | .calImport _ _ => true
  | .canTx _ _ => true
  | .canTxAbort _ _ => true
  | .netReq _ _ => true
  | .runGraph q hm => jobRingOk q && hostOk hm
  | .loadImage q hm => jobRingOk q && hostOk hm
  | .unloadImage q hm => jobRingOk q && hostOk hm
  | .solve q hm => jobRingOk q && hostOk hm
  | .solveBatch q hm => jobRingOk q && hostOk hm
  | .estimate q hm => jobRingOk q && hostOk hm
  | .scenarioSolve q hm => jobRingOk q && hostOk hm
  | .attend q hm => jobRingOk q && hostOk hm
  | .kvAppend q hm => jobRingOk q && hostOk hm
  | .seqFork q hm => jobRingOk q && hostOk hm
  | .seqFree q hm => jobRingOk q && hostOk hm
  | .seqEvict q hm => jobRingOk q && hostOk hm
  | .copy q hm => jobRingOk q && hostOk hm
  | .fill q hm => jobRingOk q && hostOk hm
  | .fence q hm => jobRingOk q && hostOk hm
  | .abort q hm => jobRingOk q && hostOk hm
  | .recordStart q hm => jobRingOk q && hostOk hm
  | .recordStop q hm => jobRingOk q && hostOk hm
  | .recordSwitch q hm => jobRingOk q && hostOk hm
  | .replayCtl q hm => jobRingOk q && hostOk hm
  | .jobStartAtCount _ => true
  | .fenceRelease _ => true
  | .afterPrevRelease _ => true
  | .itemDispatch t => tileOk t
  | .graphOutputCopy _ => true
  | .unloadImageFinish _ => true
  | .completionPost _ _ => true
  | .coalTimerExpiry k => ringOk k
  | .triggeredPass k => ringOk k
  | .jobReexecute _ => true
  | .ringJobAnswer _ _ _ => true
  | .ringJobGo _ => true
  | .ringJobCancel _ => true
  | .problemStart _ _ => true
  | .assemblyDone _ _ => true
  | .solveIteration _ _ _ => true
  | .deadlineExpiry _ _ => true
  | .add t imm f => tileOk t && wordOk 0x0 (if imm then 0x80 else 0x0) f
  | .sub t imm f => tileOk t && wordOk 0x0 (if imm then 0x81 else 0x1) f
  | .andI t imm f => tileOk t && wordOk 0x0 (if imm then 0x82 else 0x2) f
  | .orI t imm f => tileOk t && wordOk 0x0 (if imm then 0x83 else 0x3) f
  | .xor t imm f => tileOk t && wordOk 0x0 (if imm then 0x84 else 0x4) f
  | .sll t imm f => tileOk t && wordOk 0x0 (if imm then 0x85 else 0x5) f
  | .srl t imm f => tileOk t && wordOk 0x0 (if imm then 0x86 else 0x6) f
  | .sra t imm f => tileOk t && wordOk 0x0 (if imm then 0x87 else 0x7) f
  | .slt t imm f => tileOk t && wordOk 0x0 (if imm then 0x88 else 0x8) f
  | .sltu t imm f => tileOk t && wordOk 0x0 (if imm then 0x89 else 0x9) f
  | .mul t imm f => tileOk t && wordOk 0x0 (if imm then 0x8A else 0xA) f
  | .mulh t imm f => tileOk t && wordOk 0x0 (if imm then 0x8B else 0xB) f
  | .mulhu t imm f => tileOk t && wordOk 0x0 (if imm then 0x8C else 0xC) f
  | .div t imm f => tileOk t && wordOk 0x0 (if imm then 0x8D else 0xD) f
  | .divu t imm f => tileOk t && wordOk 0x0 (if imm then 0x8E else 0xE) f
  | .rem t imm f => tileOk t && wordOk 0x0 (if imm then 0x8F else 0xF) f
  | .remu t imm f => tileOk t && wordOk 0x0 (if imm then 0x90 else 0x10) f
  | .lih t f => tileOk t && wordOk 0x0 0x91 f
  | .faddS t f => tileOk t && wordOk 0x0 0x20 f
  | .fsubS t f => tileOk t && wordOk 0x0 0x21 f
  | .fmulS t f => tileOk t && wordOk 0x0 0x22 f
  | .fmaS t f => tileOk t && wordOk 0x0 0x23 f
  | .fdivS t f => tileOk t && wordOk 0x0 0x24 f
  | .fsqrtS t f => tileOk t && wordOk 0x0 0x25 f
  | .fminS t f => tileOk t && wordOk 0x0 0x26 f
  | .fmaxS t f => tileOk t && wordOk 0x0 0x27 f
  | .feqS t f => tileOk t && wordOk 0x0 0x28 f
  | .fltS t f => tileOk t && wordOk 0x0 0x29 f
  | .fleS t f => tileOk t && wordOk 0x0 0x2A f
  | .faddD t f => tileOk t && wordOk 0x0 0x30 f
  | .fsubD t f => tileOk t && wordOk 0x0 0x31 f
  | .fmulD t f => tileOk t && wordOk 0x0 0x32 f
  | .fmaD t f => tileOk t && wordOk 0x0 0x33 f
  | .fdivD t f => tileOk t && wordOk 0x0 0x34 f
  | .fsqrtD t f => tileOk t && wordOk 0x0 0x35 f
  | .fminD t f => tileOk t && wordOk 0x0 0x36 f
  | .fmaxD t f => tileOk t && wordOk 0x0 0x37 f
  | .feqD t f => tileOk t && wordOk 0x0 0x38 f
  | .fltD t f => tileOk t && wordOk 0x0 0x39 f
  | .fleD t f => tileOk t && wordOk 0x0 0x3A f
  | .fcvt t f => tileOk t && wordOk 0x0 0x40 f
  | .beq t f => tileOk t && wordOk 0x1 0x0 f
  | .bne t f => tileOk t && wordOk 0x1 0x1 f
  | .blt t f => tileOk t && wordOk 0x1 0x2 f
  | .bge t f => tileOk t && wordOk 0x1 0x3 f
  | .bltu t f => tileOk t && wordOk 0x1 0x4 f
  | .bgeu t f => tileOk t && wordOk 0x1 0x5 f
  | .jal t f => tileOk t && wordOk 0x1 0x8 f
  | .jr t f => tileOk t && wordOk 0x1 0x9 f
  | .endProg t f => tileOk t && wordOk 0x1 0xF f
  | .ld t f a => tileOk t && wordOk 0x2 0x0 f && accessOk a
  | .st t f a => tileOk t && wordOk 0x2 0x1 f && accessOk a
  | .ldt t f a => tileOk t && wordOk 0x2 0x2 f && accessOk a
  | .lds t f a => tileOk t && wordOk 0x2 0x3 f && accessOk a
  | .accld t f a => tileOk t && wordOk 0x2 0x4 f && accessOk a
  | .accst t f a => tileOk t && wordOk 0x2 0x5 f && accessOk a
  | .cwb t f => tileOk t && wordOk 0x2 0x6 f
  | .vadd t f => tileOk t && wordOk 0x3 0x0 f
  | .vsub t f => tileOk t && wordOk 0x3 0x1 f
  | .vmul t f => tileOk t && wordOk 0x3 0x2 f
  | .vfma t f => tileOk t && wordOk 0x3 0x3 f
  | .vmin t f => tileOk t && wordOk 0x3 0x4 f
  | .vmax t f => tileOk t && wordOk 0x3 0x5 f
  | .vceq t f => tileOk t && wordOk 0x3 0x6 f
  | .vclt t f => tileOk t && wordOk 0x3 0x7 f
  | .vcle t f => tileOk t && wordOk 0x3 0x8 f
  | .vsel t f => tileOk t && wordOk 0x3 0x9 f
  | .vand t f => tileOk t && wordOk 0x3 0xA f
  | .vor t f => tileOk t && wordOk 0x3 0xB f
  | .vxor t f => tileOk t && wordOk 0x3 0xC f
  | .viadd t f => tileOk t && wordOk 0x3 0xD f
  | .vexp2 t f => tileOk t && wordOk 0x3 0x10 f
  | .vlog2 t f => tileOk t && wordOk 0x3 0x11 f
  | .vrcp t f => tileOk t && wordOk 0x3 0x12 f
  | .vrsq t f => tileOk t && wordOk 0x3 0x13 f
  | .vbcast t f => tileOk t && wordOk 0x3 0x18 f
  | .vext t f => tileOk t && wordOk 0x3 0x19 f
  | .vins t f => tileOk t && wordOk 0x3 0x1A f
  | .vmov t f => tileOk t && wordOk 0x3 0x1B f
  | .vrsum t f => tileOk t && wordOk 0x3 0x20 f
  | .vrmax t f => tileOk t && wordOk 0x3 0x21 f
  | .vdot t f => tileOk t && wordOk 0x3 0x22 f
  | .vcvt t f => tileOk t && wordOk 0x3 0x23 f
  | .cvtb t f => tileOk t && wordOk 0x4 0x0 f
  | .dcvb t f => tileOk t && wordOk 0x4 0x1 f
  | .mma t f a _ => tileOk t && wordOk 0x5 0x0 f && accessOk a
  | .accz t f => tileOk t && wordOk 0x5 0x1 f
  | .waita t f => tileOk t && wordOk 0x7 0x0 f
  | .waitTimeout t => tileOk t
  | .fpbar t f => tileOk t && wordOk 0x7 0x1 f
  | .ebar t f => tileOk t && wordOk 0x7 0x2 f
  | .nop t f => tileOk t && wordOk 0x7 0x3 f
  | .send t f => tileOk t && wordOk 0x6 0x0 f
  | .rread t f => tileOk t && wordOk 0x6 0x1 f
  | .fillr t f => tileOk t && wordOk 0x6 0x2 f
  | .copyr t f => tileOk t && wordOk 0x6 0x3 f
  | .sig t f => tileOk t && wordOk 0x6 0x4 f
  | .rdflg t f => tileOk t && wordOk 0x8 0x0 f
  | .clrflg t f => tileOk t && wordOk 0x8 0x1 f
  | .trapen t f => tileOk t && wordOk 0x8 0x2 f
  | .rdmax t f => tileOk t && wordOk 0x8 0x3 f
  | .clrmax t f => tileOk t && wordOk 0x8 0x4 f
  | .rdblk t f => tileOk t && wordOk 0x8 0x5 f
  | .clrblk t f => tileOk t && wordOk 0x8 0x6 f
  | .rdid t f => tileOk t && wordOk 0x8 0x7 f
  | .rdcyc t f => tileOk t && wordOk 0x8 0x10 f
  | .rdtime t f => tileOk t && wordOk 0x8 0x11 f
  | .rdarr t f => tileOk t && wordOk 0x8 0x12 f
  | .ricf t f => tileOk t && wordOk 0x9 0x0 f
  | .rics t f => tileOk t && wordOk 0x9 0x1 f
  | .pgreq t f => tileOk t && wordOk 0xA 0x0 f
  | .pgapp t f => tileOk t && wordOk 0xA 0x1 f
  | .illegalInstruction t => tileOk t
  | .trapDeliveryTimer t => tileOk t
  | .guardTimeout t _ => tileOk t
  | .cacheLineArrival t => tileOk t
  | .transferIngress t _ => tileOk t
  | .transferLanded t _ => tileOk t
  | .transferAck t _ => tileOk t
  | .refusalReturn t _ _ => tileOk t
  | .fabricResend t => tileOk t
  | .fabricWritePriority t => tileOk t
  | .roleChangeDone t => tileOk t
  | .bankDrain t b => tileOk t && bankOk b
  | .bankGate t b => tileOk t && bankOk b
  | .liveRemap t h => tileOk t && decide (h < 64)
  | .liveRemapResume t h newBase => tileOk t && decide (h < 64) && decide (newBase < 512)
  | .tileRowSpare t bank brow => tileOk t && bankOk bank && decide (brow < 512)
  | .tileRetire t reason => tileOk t && decide (reason < 4)
  | .tileDrain t => tileOk t
  | .throttleStep region => decide (region < 16)
  | .dutyRaiseStep region => decide (region < 16)
  | .pageMove ppn _ => decide (ppn < Machine.noPage)
  | .pageMoveDone ppn => decide (ppn < Machine.noPage)
  | .walkerMissReturn sq i _ => seqOk sq && decide (i < 1024)
  | .pageCopyDone sq => seqOk sq
  | .appendCommit sq => seqOk sq
  | .attendOutputWrite _ _ _ => true
  | .splitChangeMessage _ => true
  | .ringSplitPartial _ _ _ _ _ => true
  | .pcieLinkDown => true
  | .pcieLinkUp => true
  | .flr => true
  | .perstAssert => true
  | .fifoTake n _ _ => fifoOk n
  | .fifoCutThrough n _ _ landed => fifoOk n && decide (landed ≤ 128)
  | .fifoCreditReturn n _ => fifoOk n
  | .planEntryBegin => true
  | .planStepActivate k => loopOk k
  | .frameIngress port _ _ _ => macPortOk port || port = 5
  | .syncTimeout => true
  | .timeSyncStep _ => true
  | .gateIntervalEnd n => timedPortOk n
  | .frameLaunch n => macPortOk n
  | .launchLate n => macPortOk n
  | .frameEgress n _ => macPortOk n
  | .ppsInEdge _ => true
  | .canFrameRx c _ dlc data => canOk c && decide (dlc.toNat < 16) && decide (data.length ≤ 64)
  | .canFrameTx c b => canOk c && decide (b < 16)
  | .canBusOffRecovery c => canOk c
  | .flitReceive l x _ => linkOk l && (x.payload.length = if x.type = .data then 256 else 0)
  | .ackTimeout l => linkOk l
  | .laneLockLoss l => linkOk l
  | .retryWindowEnd l _ => linkOk l
  | .linkTrained l => linkOk l
  | .ringDiscover pos _ => decide (pos < 8)
  | .delayMeasurement l _ _ => linkOk l
  | .timeAlignStep _ => true
  | .ddrRefresh ch => ddrOk ch
  | .ddrTempPoll ch _ _ => ddrOk ch
  | .ddrScrubRead ch _ => ddrOk ch
  | .canopyScrub slice _ => decide (slice < 32)
  | .tileScrub t bank _ => tileOk t && bankOk bank
  | .ddrRowSpare ch bank row => ddrOk ch && decide (bank < 8) && decide (row < 131064)
  | .loopTimer k => loopOk k
  | .adcConversionDone c _ => channelOk c
  | .pinEdge c _ _ _ => channelOk c
  | .pinStopTimeout c => channelOk c
  | .pwmPeriodStart c => channelOk c
  | .sensorSample sensor _ => decide (sensor < 32)
  | .supplySample _ _ => true
  | .writeGuardRelease => true
  | .overvoltageStop => true
  | .supplyRecovery => true
  | .clearingPowerOnReset => true
  | .watchdogExpiry => true
  | .firmwareReady => true
  | .logRecordWrite => true
  | .logSeal => true
  | .hubReload => true
  | .trialConfirm kind => decide (1 ≤ kind) && decide (kind ≤ 5)
  | .clearingSample _ => true
  | .sleepSequence => true
  | .sleepDelayExpiry => true
  | .powerGood _ => true
  | .startupStageDone _ => true
  | .surpriseRemoval => true
  | .drainTimeout => true
  | .ejectOk => true
  | .extrefLoss => true
  | .extrefRestore => true
  | .clearingPowerOn => true
  | .perstRelease => true
  | .streamRecoveryReset f => decide (f < 16)
  | .msixUnmask _ v => decide (v < 64)
  | .ppsOutPulse _ => true
  | .undefinedOpcodeJob q hm => jobRingOk q && hostOk hm
  | .mboxBadCmd _ _ => true

end Sys2Proof
end

