-- ==== Sys2Proof/Certificates/Slice0/Obligations.lean ====
section
/-! DEFINITION. The statements about the model: what each command does, what it leaves unchanged, and what every step keeps. -/

open Sys2Proof Sys2Proof.Machine

/-! ## The queue and reset -/

/-- The command at the front of the queue runs on the state with the queue's rest. -/
def Obligations.StepRunsFrontCommand : Prop :=
  ∀ (c : Instr) (r : List Instr) (s : State), step { s with pending := c :: r } = exec c { s with pending := r }

/-- No command stops the module, and none touches the queue: every command answers a next state whose queue is that of the state
it ran on. -/
def Obligations.EveryCommandGoesOnAndKeepsQueue : Prop :=
  ∀ (c : Instr) (s : State), ∃ u, exec c s = .next u ∧ u.pending = s.pending

/-- R398, R419, R491, R515, R531, R541: Clearing's power-on reset leaves every register word at its reset value, and no memory, job or
queue (the fuses and flash of a new module are this model's, notes/assumptions/41). -/
def Obligations.ResetState : Prop :=
  let d := State.reset.dev
  State.reset.pending = [] ∧ d.mem = [] ∧ d.tiles = [] ∧ d.jobs = [] ∧ d.images = [] ∧ d.clr.on = false ∧ d.boot.powered = false ∧
    State.reset.nv.fuses.f = 0 ∧ State.reset.nv.log = [] ∧ State.reset.nv.logCur = 0 ∧ (∀ o, bankWord d.regs o = resetWord o) ∧
    d.fld devPwrCfgDrainMs = 0x1F4 ∧ d.fld devPwrCfgEjectEn = 1 ∧ d.fld timeIncInc = 0x280000000 ∧ d.fld devStatusStage = 0 ∧
    d.fld sqStatusStopped 5 = 1 ∧ d.fld clrGuardHeld = 0 ∧ d.flag devCtrlSetupLock = false

/-! ## Tile instructions -/

/-- R158, R159: the fields that issue reads from a word are those that encode the instruction; no two instructions share a class and
operation; and every class and operation that the manual defines is an instruction. -/
def Obligations.TileWordsReadBack : Prop :=
  (∀ (i : Instr) (t cls op : Nat) (f : Fields), i.tileOp = some (t, cls, op, f) →
    wordFields (instrWord cls op f) = (cls, op, f) ∧ (opRule cls op).isSome = true) ∧
  (∀ (i j : Instr) (t cls op : Nat) (f : Fields), i.tileOp = some (t, cls, op, f) → j.tileOp = some (t, cls, op, f) →
    i.ctorIdx = j.ctorIdx) ∧
  (∀ (t cls op : Nat) (f : Fields), (opRule cls op).isSome = true → ∃ i : Instr, i.tileOp = some (t, cls, op, f))

/-- R164, R94, R95: the integer operations and their immediate forms. -/
def Obligations.ScalarIntegerResults : Prop :=
  ∀ (s : State) (t : Nat) (imm : Bool) (f : Fields), ∀ e ∈
    ([(.add t imm f, 0x00, fun a b => a + b),
      (.sub t imm f, 0x01, fun a b => a - b),
      (.andI t imm f, 0x02, fun a b => a &&& b),
      (.orI t imm f, 0x03, fun a b => a ||| b),
      (.xor t imm f, 0x04, fun a b => a ^^^ b),
      (.sll t imm f, 0x05, fun a b => a <<< (b.toNat % 64)),
      (.srl t imm f, 0x06, fun a b => a >>> (b.toNat % 64)),
      (.sra t imm f, 0x07, fun a b => a.sshiftRight (b.toNat % 64)),
      (.slt t imm f, 0x08, fun a b => if a.toInt < b.toInt then 1 else 0),
      (.sltu t imm f, 0x09, fun a b => if a.toNat < b.toNat then 1 else 0),
      (.mul t imm f, 0x0A, fun a b => BitVec.ofNat 64 (a.toNat * b.toNat)),
      (.mulh t imm f, 0x0B, fun a b => BitVec.ofInt 64 ((a.toInt * b.toInt) / 2 ^ 64)),
      (.mulhu t imm f, 0x0C, fun a b => BitVec.ofNat 64 (a.toNat * b.toNat / 2 ^ 64)),
      (.div t imm f, 0x0D, fun a b => if b = 0 then BitVec.allOnes 64 else BitVec.ofInt 64 (a.toInt.tdiv b.toInt)),
      (.divu t imm f, 0x0E, fun a b => if b = 0 then BitVec.allOnes 64 else BitVec.ofNat 64 (a.toNat / b.toNat)),
      (.rem t imm f, 0x0F, fun a b => if b = 0 then a else BitVec.ofInt 64 (a.toInt.tmod b.toInt)),
      (.remu t imm f, 0x10, fun a b => if b = 0 then a else BitVec.ofNat 64 (a.toNat % b.toNat))] :
      List (Instr × Nat × (U64 → U64 → U64))),
    Issues s t 0x0 (if imm then e.2.1 + 0x80 else e.2.1) f →
    exec e.1 s = completes s t (s.dev.updTile t fun x => x.xw f.rd
      (e.2.2 (x.xr f.ra) (if imm then f.ext.signExtend 64 else x.xr f.rb)))

/-- R94, R186, R164, R168: the other instructions whose result is a scalar register computed from registers and the tile's
state: LIH, VEXT, RDFLG, RDMAX, RDBLK, RDID, RDTIME, RDARR; RDCYC gives the cycle of its issue, which the manual lets vary (R189)
and this model counts (notes/assumptions/120).
R42, R48, R80, R81, R186: the STATE instructions that clear or set what the tile's registers hold. -/
def Obligations.ScalarRegisterReads : Prop :=
  (∀ (s : State) (t : Nat) (f : Fields),
    let d := s.dev
    let x := d.tile t
    let sets (v : U64) : Out := completes s t (d.updTile t fun x => x.xw f.rd v)
    (Issues s t 0x0 0x91 f → exec (.lih t f) s = sets (f.ext ++ (x.xr f.ra).truncate 32)) ∧
    (Issues s t 0x3 0x19 f → exec (.vext t f) s = sets (BitVec.ofNat 64 ((x.vr f.ra.toNat).toNat / 2 ^ (32 * f.e 6 0) % 2 ^ 32))) ∧
    (Issues s t 0x8 0x00 f → exec (.rdflg t f) s = sets (BitVec.ofNat 64
      (d.fld tileFpFlagsInvalid t + 2 * d.fld tileFpFlagsDivzero t + 4 * d.fld tileFpFlagsOverflow t +
        8 * d.fld tileFpFlagsUnderflow t + 16 * d.fld tileFpFlagsInexact t + 32 * d.fld tileFpFlagsIntOverflow t))) ∧
    (Issues s t 0x8 0x03 f → exec (.rdmax t f) s = sets (BitVec.ofNat 64 (d.fld (fldRunmax (f.e 2 0)) t))) ∧
    (Issues s t 0x8 0x05 f → f.e 1 0 ≠ 3 → exec (.rdblk t f) s = sets (BitVec.ofNat 64
      (if f.e 1 0 = 0 then d.fld tileFmtUflowBlockUnderflow t else if f.e 1 0 = 1 then d.fld tileFmtSatBlockSaturate t
        else d.fld tileFmtStatusNanBlock t))) ∧
    (Issues s t 0x8 0x07 f → exec (.rdid t f) s = sets (BitVec.ofNat 64
      (d.fld tileIdLtile t + 2 ^ 8 * x.groveSize + 2 ^ 16 * d.fld tileRoleRole t))) ∧
    (Issues s t 0x8 0x10 f → exec (.rdcyc t f) s = sets (BitVec.ofNat 64 (issueCycle x))) ∧
    (Issues s t 0x8 0x11 f → exec (.rdtime t f) s = sets (BitVec.ofNat 64 (d.time / 2 ^ 32))) ∧
    (Issues s t 0x8 0x12 f → exec (.rdarr t f) s = sets (BitVec.ofNat 64 (d.fld (tileArrival (f.e 4 0)) t)))) ∧
  (∀ (s : State) (t : Nat) (f : Fields),
    let d := s.dev
    (Issues s t 0x8 0x01 f →
      let o := rTileFpFlags + 0x400 * t
      exec (.clrflg t f) s = completes s t
        { d with regs := bankSet d.regs o (bankWord d.regs o &&& ~~~(BitVec.ofNat 32 (f.e 5 0))) }) ∧
    (Issues s t 0x8 0x02 f → exec (.trapen t f) s = completes s t (d.setFld tileFpTrapTrapEn (f.e 4 0) t)) ∧
    (Issues s t 0x8 0x04 f → ∃ e : Dev, exec (.clrmax t f) s = completes s t e ∧ e = { d with regs := e.regs } ∧
      (∀ n < 8, e.fld (fldRunmax n) t = if bit (f.e 7 0) n then 0 else d.fld (fldRunmax n) t) ∧
      (∀ o, (∀ n < 8, o ≠ rTileRunmax0 + 4 * n + 0x400 * t) → bankWord e.regs o = bankWord d.regs o)) ∧
    (Issues s t 0x8 0x06 f → exec (.clrblk t f) s = completes s t
      (((d.setIf (f.e 0 0 = 1) tileFmtUflowBlockUnderflow 0 t).setIf (f.e 1 1 = 1) tileFmtSatBlockSaturate 0 t).setIf
        (f.e 2 2 = 1) tileFmtStatusNanBlock 0 t)))

/-- R74, R77, R154, R164: the scalar floating-point operations compute on the low half (FP32) or the whole (FP64) of each
register, write the result with [63:32] clear for FP32, and merge their flags.
R76, R44: compares write 1 or 0 and raise invalid for a signalling NaN; FCVT converts between the pairs of R44. -/
def Obligations.ScalarFloatResults : Prop :=
  (∀ (s : State) (t : Nat) (f : Fields), ∀ e ∈
    ([(.faddS t f, 0x20, fp32, fun a b _ => fadd fp32 a b), (.fsubS t f, 0x21, fp32, fun a b _ => fsub fp32 a b),
      (.fmulS t f, 0x22, fp32, fun a b _ => fmul fp32 a b), (.fmaS t f, 0x23, fp32, fun a b c => ffma fp32 a b c),
      (.fdivS t f, 0x24, fp32, fun a b _ => fdiv fp32 a b), (.fsqrtS t f, 0x25, fp32, fun a _ _ => fsqrt fp32 a),
      (.fminS t f, 0x26, fp32, fun a b _ => fminmax fp32 false a b), (.fmaxS t f, 0x27, fp32, fun a b _ => fminmax fp32 true a b),
      (.faddD t f, 0x30, fp64, fun a b _ => fadd fp64 a b), (.fsubD t f, 0x31, fp64, fun a b _ => fsub fp64 a b),
      (.fmulD t f, 0x32, fp64, fun a b _ => fmul fp64 a b), (.fmaD t f, 0x33, fp64, fun a b c => ffma fp64 a b c),
      (.fdivD t f, 0x34, fp64, fun a b _ => fdiv fp64 a b), (.fsqrtD t f, 0x35, fp64, fun a _ _ => fsqrt fp64 a),
      (.fminD t f, 0x36, fp64, fun a b _ => fminmax fp64 false a b), (.fmaxD t f, 0x37, fp64, fun a b _ => fminmax fp64 true a b)] :
      List (Instr × Nat × Fmt × (Nat → Nat → Nat → FRes))),
    Issues s t 0x0 e.2.1 f →
    let x := s.dev.tile t
    let v (r : BitVec 5) : Nat := (x.xr r).toNat % 2 ^ e.2.2.1.width
    let r := e.2.2.2 (v f.ra) (v f.rb) (v f.rc)
    exec e.1 s = completes s t (raise (s.dev.setTile t (x.xw f.rd (BitVec.ofNat 64 r.1))) t
      [(r.2, (decodeNum e.2.2.1 r.1).isNan)])) ∧
  ((∀ (s : State) (t : Nat) (f : Fields), ∀ e ∈
    ([(.feqS t f, 0x28, fp32, numEq), (.fltS t f, 0x29, fp32, numLt), (.fleS t f, 0x2A, fp32, numLe),
      (.feqD t f, 0x38, fp64, numEq), (.fltD t f, 0x39, fp64, numLt), (.fleD t f, 0x3A, fp64, numLe)] :
      List (Instr × Nat × Fmt × (FpNum → FpNum → Bool))),
    Issues s t 0x0 e.2.1 f →
    let x := s.dev.tile t
    let v (r : BitVec 5) : FpNum := decodeNum e.2.2.1 ((x.xr r).toNat % 2 ^ e.2.2.1.width)
    let holds := !(v f.ra).isNan && !(v f.rb).isNan && e.2.2.2 (v f.ra) (v f.rb)
    exec e.1 s = completes s t (raise (s.dev.setTile t (x.xw f.rd (if holds then 1 else 0))) t
      [(if (v f.ra).isSnan || (v f.rb).isSnan then flIV else flNone, false)])) ∧
  (∀ (s : State) (t : Nat) (f : Fields) (a b : EFmt) (r : U64 × ElemFx),
    efmtOf (f.e 3 0) = some a → efmtOf (f.e 7 4) = some b → fcvtRes a b ((s.dev.tile t).xr f.ra) = some r →
    Issues s t 0x0 0x40 f →
    exec (.fcvt t f) s = completes s t (raise (s.dev.updTile t fun x => x.xw f.rd r.1) t [r.2])))

/-- R165, R163: conditional branches, JAL and JR. The target is PC + 8 × EXT; JR's target is xA, a multiple of 8 inside the
code. -/
def Obligations.BranchResults : Prop :=
  ∀ (s : State) (t : Nat) (f : Fields),
    let d := s.dev
    let x := d.tile t
    let target : U32 := x.pc + 8 * f.ext
    (∀ e ∈
      ([(.beq t f, 0x00, decide (x.xr f.ra = x.xr f.rb)), (.bne t f, 0x01, decide (x.xr f.ra ≠ x.xr f.rb)),
        (.blt t f, 0x02, decide ((x.xr f.ra).toInt < (x.xr f.rb).toInt)),
        (.bge t f, 0x03, decide ((x.xr f.rb).toInt ≤ (x.xr f.ra).toInt)),
        (.bltu t f, 0x04, decide ((x.xr f.ra).toNat < (x.xr f.rb).toNat)),
        (.bgeu t f, 0x05, decide ((x.xr f.rb).toNat ≤ (x.xr f.ra).toNat))] : List (Instr × Nat × Bool)),
      Issues s t 0x1 e.2.1 f →
      exec e.1 s = if e.2.2 then jumps s t d target else completes s t d) ∧
    (Issues s t 0x1 0x08 f → exec (.jal t f) s = jumps s t (d.updTile t fun x => x.xw f.rd ((x.pc + 8).zeroExtend 64)) target) ∧
    (Issues s t 0x1 0x09 f → (x.xr f.ra).toNat % 8 = 0 → (x.xr f.ra).toNat / 8 < x.codeLen →
      exec (.jr t f) s = jumps s t d ((x.xr f.ra).truncate 32))

/-- R87, R163, R166: END with no operation in flight and no trap pending writes dirty lines back and, unless one of them cannot be read,
ends the tile's work; with a fabric operation in flight it does not complete.
R86, R120, R178: NOP, FPBAR and EBAR complete when what they wait for is over; WAITA gives 0 once its counter has reached the
target, and otherwise stalls issue with its target and timeout; the timeout of a stalled wait gives 1. -/
def Obligations.EndAndSynchronisationResults : Prop :=
  (∀ (s : State) (t : Nat) (f : Fields), Issues s t 0x1 0x0F f → (s.dev.tile t).trap = none →
    ((s.dev.tile t).inflight = [] →
      let e := writeBackAll s.dev t
      exec (.endProg t f) s = leaves s (if e.fld tileStateState t = tsRunning then finishTile e t else e) ∧
      ((s.dev.tile t).flaws = [] → exec (.endProg t f) s = leaves s (finishTile e t))) ∧
    ((s.dev.tile t).inflight ≠ [] → exec (.endProg t f) s = .next s)) ∧
  (∀ (s : State) (t : Nat) (f : Fields),
    let d := s.dev
    let x := d.tile t
    let count := arrivalCount d t (f.e 4 0)
    let goal : U32 := (x.xr f.ra).truncate 32
    (Issues s t 0x7 0x03 f → exec (.nop t f) s = completes s t d) ∧
    (Issues s t 0x7 0x01 f → x.trap = none → exec (.fpbar t f) s = completes s t d) ∧
    (Issues s t 0x7 0x02 f → x.inflight = [] → exec (.ebar t f) s = completes s t d) ∧
    (Issues s t 0x7 0x02 f → x.inflight ≠ [] → exec (.ebar t f) s = .next s) ∧
    (Issues s t 0x7 0x00 f → x.trap = none → replayedOn d t = none → (count - goal).toNat < 2 ^ 31 →
      exec (.waita t f) s = completes s t (d.updTile t fun x => x.xw f.rd 0)) ∧
    (Issues s t 0x7 0x00 f → x.trap = none → replayedOn d t = none → 2 ^ 31 ≤ (count - goal).toNat → x.stall = none →
      exec (.waita t f) s = leaves s (d.updTile t fun x =>
        { x with stall := some (.arrival (f.e 4 0) goal ((x.xr f.rb).truncate 32) f.rd) })) ∧
    (∀ (c : Nat) (g w : U32) (rd : BitVec 5), x.stall = some (.arrival c g w rd) → w ≠ 0 → d.fld tileStateState t = tsRunning →
      replayedOn d t = none →
      exec (.waitTimeout t) s = leaves s (if ((arrivalCount d t c) - g).toNat < 2 ^ 31 then completeWait d t rd 0
        else completeWait (recordWait d t) t rd 1)))

/-- R74, R75, R76, R77, R168: the lane-wise floating-point instructions compute each of the 128 lanes on its own and merge the
flags of every lane; a compare gives all ones in a true lane.
R168: the instructions that move, select and combine lanes without flags. -/
def Obligations.VectorLaneResults : Prop :=
  (∀ (s : State) (t : Nat) (f : Fields),
    let x := s.dev.tile t
    let a := lanes (x.vr f.ra.toNat)
    let b := lanes (x.vr f.rb.toNat)
    let c := lanes (x.vr f.rc.toNat)
    (∀ e ∈
      ([(.vadd t f, 0x00, fun a b _ => fadd fp32 a b), (.vsub t f, 0x01, fun a b _ => fsub fp32 a b),
        (.vmul t f, 0x02, fun a b _ => fmul fp32 a b), (.vfma t f, 0x03, fun a b c => ffma fp32 a b c),
        (.vmin t f, 0x04, fun a b _ => fminmax fp32 false a b), (.vmax t f, 0x05, fun a b _ => fminmax fp32 true a b),
        (.vexp2 t f, 0x10, fun a _ _ => fexp2 a), (.vlog2 t f, 0x11, fun a _ _ => flog2 a), (.vrcp t f, 0x12, fun a _ _ => frcp a),
        (.vrsq t f, 0x13, fun a _ _ => frsqrt a)] : List (Instr × Nat × (Nat → Nat → Nat → FRes))),
      Issues s t 0x3 e.2.1 f →
      let rs := (a.zip (b.zip c)).map fun p => e.2.2 p.1 p.2.1 p.2.2
      exec e.1 s = completes s t (raise (s.dev.setTile t (x.vw f.rd.toNat (ofLanes (rs.map (·.1))))) t
        (rs.map fun r => (r.2, (decodeNum fp32 r.1).isNan)))) ∧
    (∀ e ∈ ([(.vceq t f, 0x06, numEq), (.vclt t f, 0x07, numLt), (.vcle t f, 0x08, numLe)] : List (Instr × Nat × (FpNum → FpNum → Bool))),
      Issues s t 0x3 e.2.1 f →
      let rs := (a.zip b).map fun p => fcmp fp32 e.2.2 p.1 p.2
      exec e.1 s = completes s t (raise (s.dev.setTile t (x.vw f.rd.toNat
        (ofLanes (rs.map fun r => if r.1 then 0xFFFFFFFF else 0)))) t (rs.map fun r => (r.2, false))))) ∧
  (∀ (s : State) (t : Nat) (f : Fields),
    let x := s.dev.tile t
    let a := x.vr f.ra.toNat
    let b := x.vr f.rb.toNat
    let c := x.vr f.rc.toNat
    ∀ e ∈
      ([(.vsel t f, 0x09, ofLanes (((lanes a).zip ((lanes b).zip (lanes c))).map fun p => if p.2.2 = 0 then p.2.1 else p.1)),
        (.vand t f, 0x0A, a &&& b), (.vor t f, 0x0B, a ||| b), (.vxor t f, 0x0C, a ^^^ b),
        (.viadd t f, 0x0D, ofLanes (((lanes a).zip (lanes b)).map fun p => (p.1 + p.2) % 2 ^ 32)),
        (.vbcast t f, 0x18, ofLanes (List.replicate 128 ((x.xr f.ra).toNat % 2 ^ 32))),
        (.vins t f, 0x1A, ofLanes (listSet (lanes (x.vr f.rd.toNat)) (f.e 6 0) ((x.xr f.ra).toNat % 2 ^ 32))),
        (.vmov t f, 0x1B, a)] : List (Instr × Nat × Row)),
      Issues s t 0x3 e.2.1 f → exec e.1 s = completes s t (s.dev.updTile t fun x => x.vw f.rd.toNat e.2.2))

/-- R73, R64, R168 to R170: VRSUM adds lanes 0 to n - 1 in ascending order, one FMA each; VRMAX takes their maximum; VDOT is the dot
product of R64 to R72 of two registers into xD; VCVT converts 128 elements. -/
def Obligations.VectorReductionsDotConvert : Prop :=
  ∀ (s : State) (t : Nat) (f : Fields),
    let d := s.dev
    let x := d.tile t
    let first := (lanes (x.vr f.ra.toNat)).take (f.e 6 0 + 1)
    let sets (r : FRes) (nan : Bool) : Out := completes s t (raise (d.setTile t (x.xw f.rd (BitVec.ofNat 64 r.1))) t [(r.2, nan)])
    (Issues s t 0x3 0x20 f →
      let r := first.foldl (fun (a : FRes) v => let m := ffma fp32 v 0x3F800000 a.1; (m.1, a.2 ||| m.2)) (0, flNone)
      exec (.vrsum t f) s = sets r (decodeNum fp32 r.1).isNan) ∧
    (Issues s t 0x3 0x21 f →
      let r := maxLanes first
      exec (.vrmax t f) s = sets r (decodeNum fp32 r.1).isNan) ∧
    (∀ (fa fb : EFmt) (m : DotMode), Issues s t 0x3 0x22 f → efmtOf (f.e 3 0) = some fa → efmtOf (f.e 7 4) = some fb →
      dotMode fa fb (f.e 19 19 = 1) (f.e 20 20 = 1) = some m → 1 ≤ f.e 17 8 → f.e 17 8 ≤ min (kMax fa) (kMax fb) →
      (f.e 19 19 = 1 ∨ f.e 20 20 = 1 → f.e 17 8 % 32 = 0) → (m ≠ .multi → f.e 22 21 = 0) →
      let side (e : EFmt) (r : BitVec 5) (blocked : Bool) (base : Nat) : DotSide :=
        ⟨e, unpack e.width (f.e 17 8) (x.vr r.toNat).toNat, if blocked then rowBytes (x.vr f.rc.toNat) base 16 else []⟩
      let a := side fa f.ra (f.e 19 19 = 1) 0
      let b := side fb f.rb (f.e 20 20 = 1) 16
      let acc := if f.e 18 18 = 1 then 0 else (x.xr f.rd).toNat % 2 ^ (if m = .fp64 then 64 else 32)
      let r := if m = .multi ∧ f.e 22 21 = 0 then vecFp32Run a.codes b.codes acc flNone
        else dotRun (d.tileStrict t) m (f.e 22 21) a b acc
      exec (.vdot t f) s = sets r (m ≠ .integer && (decodeNum m.acc r.1).isNan)) ∧
    (∀ (fa fb : EFmt) (rs : List (Nat × ElemFx)), Issues s t 0x3 0x23 f → efmtOf (f.e 3 0) = some fa → efmtOf (f.e 7 4) = some fb →
      (unpack fa.width 128 ((x.vr f.ra.toNat).toNat / 2 ^ vcvtOffset fa (f.e 8 8))).map (vcvtElem fa fb) = rs.map some →
      exec (.vcvt t f) s = completes s t (raise (d.setTile t (x.vw f.rd.toNat
        (spliceRow (x.vr f.rd.toNat) (vcvtOffset fb (f.e 8 8)) (128 * fb.width) (pack fb.width (rs.map (·.1)))))) t (rs.map (·.2))))

/-- R39 to R43, R171, R172: DCVB decodes blocks with their scales; CVTB converts the blocks of vA and writes the bytes of its own
blocks and scales, every other byte keeping its value, counts what R40 and R41 count and updates one running maximum. -/
def Obligations.BlockConversionResults : Prop :=
  ∀ (s : State) (t : Nat) (f : Fields) (src dst : Fmt), efmtOf (f.e 3 0) = some (.fl src) → efmtOf (f.e 7 4) = some (.fl dst) →
    let d := s.dev
    let x := d.tile t
    let b0 := f.e 18 13
    let sb := f.e 27 19
    (Issues s t 0x4 0x00 f → isLong src = true → isShort dst = true →
      let n := if src = fp32 then 4 else 8
      b0 + n ≤ blockLimit dst.width → f.rd.toNat + packedRegs dst.width ≤ 32 → sb + n ≤ 512 →
      let values := rowElems src.width (x.vr f.ra.toNat)
      let given (b : Nat) : Option Nat :=
        if f.e 8 8 = 0 then none else if f.e 9 9 = 0 then some ((x.xr f.rb).toNat % 256)
        else some ((rowBytes (x.vr f.rc.toNat) (sb + b) 1).headD 0)
      let rs := (upto n).map fun b => convBlock src dst (given b) ((values.drop (32 * b)).take 32)
      let packed := spliceNat (packedOf x f.rd.toNat dst.width) (32 * dst.width * b0) (32 * dst.width * n)
        (pack dst.width (rs.flatMap (·.codes)))
      let y := x.vwList f.rd.toNat (natRows (packedRegs dst.width) packed)
      let y := y.vw f.rc.toNat (spliceRow (y.vr f.rc.toNat) (8 * sb) (8 * n) (pack 8 (rs.map (·.scale))))
      exec (.cvtb t f) s = completes s t (raise (noteBlocks (d.setTile t y) t (f.e 12 10) src values rs) t
        (List.replicate (32 * b0) (flNone, false) ++ rs.flatMap fun r => r.flags.map fun fl => (fl, r.nanBlock)))) ∧
    (Issues s t 0x4 0x01 f → isShort src = true → isLong dst = true →
      let n := if dst = fp32 then 4 else 8
      b0 + n ≤ blockLimit src.width → f.ra.toNat + packedRegs src.width ≤ 32 → sb + n ≤ 512 →
      let codes := unpack src.width (32 * n) (packedOf x f.ra.toNat src.width / 2 ^ (32 * src.width * b0))
      let rs := ((chunks 32 codes).zip (rowBytes (x.vr f.rc.toNat) sb n)).flatMap fun p => p.1.map (decodeElem src dst p.2)
      exec (.dcvb t f) s = completes s t (raise (d.setTile t (x.vw f.rd.toNat (rowOf dst.width (rs.map (·.1))))) t
        (rs.map fun r => (r.2, (decodeNum dst r.1).isNan))))

/-- R173 to R177: ACCZ clears an accumulator; an MMA whose operands are well formed and whose rows are ready computes the 64 dot
products of its rows into accD and captures B.
R205, R206, R556: RICF factors the lower triangle of a block by LDLᵀ with static pivots and writes the factor's rows; RICS
substitutes with a stored factor; both complete when their rows are ready. -/
def Obligations.ArrayAndRiccatiResults : Prop :=
  (∀ (s : State) (t : Nat) (f : Fields),
    (Issues s t 0x5 0x01 f → f.rd.toNat < 8 → exec (.accz t f) s = completes s t (s.dev.updTile t fun x => x.aw f.rd.toNat 0)) ∧
    (∀ (a : Access) (fa fb : EFmt) (mode : DotMode), Issues s t 0x5 0x00 f → f.rd.toNat < 8 →
      let x := s.dev.tile t
      let m := mmaMode f.mode
      let c := (x.xr f.rc).toNat
      let k := bits c 9 0
      let ra := (x.xr f.ra).toNat
      let rb := (x.xr f.rb).toNat
      efmtOf m.fmtA = some fa → efmtOf m.fmtB = some fb → dotMode fa fb m.scaleA m.scaleB = some mode →
      bits c 15 10 = 0 → bits c 63 30 = 0 → 1 ≤ k → k ≤ min (kMax fa) (kMax fb) →
      ((m.scaleA = true ∨ m.scaleB = true) → k % 32 = 0) → (fa.width = 6 → ra % 3 = 0) →
      (fb.width = 6 → m.keepB = false → rb % 3 = 0) → (mode = .multi ↔ m.pass ≠ 0) →
      (m.keepB = true → keepMatches x m k = true) →
      let reqs := mmaReqs f m fa fb ra rb (bits c 29 16)
      RowsReady s.dev t reqs → ReadsSound s.dev t reqs a →
      let d := marked s.dev t reqs a
      let y := d.tile t
      let scale := if m.scaleA || m.scaleB then y.rowData (y.hnd f.h3) (bits c 29 16) else 0
      let capB : CapturedB := if m.keepB then y.capB.getD ⟨0, 0, false, [], 0⟩ else
        ⟨m.fmtB, k, m.scaleB, (upto (operandRows fb.width)).map (fun i => y.rowData (y.hnd f.h2) (rb + i)), scale⟩
      let aStr := rowsNat ((upto (operandRows fa.width)).map fun i => y.rowData (y.hnd f.h1) (ra + i))
      let rs := mmaElems (d.tileStrict t) mode m fa fb k aStr (rowsNat capB.rows) scale capB.scaleRow (rowElems 64 (y.ar f.rd.toNat))
      let z := reqs.foldl (fun x q => x.afterReads (x.hnd q.hn) false q.rows) y
      exec (.mma t f a false) s = completes s t (raise (d.setTile t { z.aw f.rd.toNat (rowOf 64 (rs.map (·.1))) with capB := some capB }) t
        (rs.map fun r => (r.2, mode ≠ .integer && (decodeNum mode.acc r.1).isNan))))) ∧
  (∀ (s : State) (t : Nat) (f : Fields),
    let x := s.dev.tile t
    let fmt := if bit f.mode 7 then fp32 else fp64
    let n := bits f.mode 5 0 + 1
    let ra := (x.xr f.ra).toNat
    let rb := (x.xr f.rb).toNat
    let c := (x.xr f.rc).toNat
    (let reqs : List RowReq := [⟨f.h1, (upto n).map (ra + ·), false⟩, ⟨f.h2, (upto n).map (rb + ·), true⟩]
     Issues s t 0x9 0x00 f → bits c 63 23 = 0 → bits c 22 16 ≤ 64 → RowsReady s.dev t reqs → ReadsSound s.dev t reqs {} →
      let d := marked s.dev t reqs {}
      let y := d.tile t
      let r := ldl fmt ((upto n).map fun i => rowElems fmt.width (y.rowData (y.hnd f.h1) (ra + i))) n (bits c 22 16) (bits c 7 0) (bits c 15 8)
      let z := (upto n).foldl (fun x i => x.programStore (x.hnd f.h2) (rb + i) (factorRow fmt r i)) y
      exec (.ricf t f) s = completes s t (raise (d.setTile t (z.xw f.rd (BitVec.ofNat 64 r.replaced))) t (r.effects fmt n))) ∧
    (let reqs : List RowReq := [⟨f.h1, (upto n).map (ra + ·), false⟩, ⟨f.h2, [rb], false⟩]
     Issues s t 0x9 0x01 f → RowsReady s.dev t reqs → ReadsSound s.dev t reqs {} → reqLegal (marked s.dev t reqs {}) t ⟨f.h2, [rb], true⟩ = true →
      let d := marked s.dev t reqs {}
      let y := d.tile t
      let l := (upto n).map fun i => rowElems fmt.width (y.rowData (y.hnd f.h1) (ra + i))
      let old := y.rowData (y.hnd f.h2) rb
      let r := if bit f.mode 6 then backwardSub fmt l (rowElems fmt.width old) n else forwardSub fmt l (rowElems fmt.width old) n
      exec (.rics t f) s = completes s t (raise (d.setTile t (y.programStore (y.hnd f.h2) rb
        (spliceRow old 0 (n * fmt.width) (pack fmt.width (r.map (·.1)))))) t (r.map (elemOf fmt)))))

/-- R106, R110, R115, R123, R135, R167: a load or store whose row is permitted, not paused, not waiting for a slot or a line and not
uncorrectable moves one row between a register and the handle's row.
R132, R167: the transposing load of eight rows, the strided load of up to sixteen rows, and CWB. -/
def Obligations.RowLoadStoreResults : Prop :=
  (∀ (s : State) (t : Nat) (f : Fields) (a : Access),
    let r := ((s.dev.tile t).xr f.ra).toNat
    let load : List RowReq := [⟨f.h1, [r], false⟩]
    let store : List RowReq := [⟨f.h1, [r], true⟩]
    (Issues s t 0x2 0x00 f → RowsReady s.dev t load → ReadsSound s.dev t load a →
      exec (.ld t f a) s = completes s t ((marked s.dev t load a).updTile t fun x =>
        (x.vw f.rd.toNat (x.rowData (x.hnd f.h1) r)).afterRead (x.hnd f.h1) r (bit f.mode 0))) ∧
    (Issues s t 0x2 0x01 f → RowsReady s.dev t store → exec (.st t f a) s = completes s t ((marked s.dev t store a).updTile t fun x =>
      x.programStore (x.hnd f.h1) r (x.vr f.rd.toNat))) ∧
    (Issues s t 0x2 0x04 f → f.rd.toNat < 8 → RowsReady s.dev t load → ReadsSound s.dev t load a →
      exec (.accld t f a) s = completes s t ((marked s.dev t load a).updTile t fun x =>
        (x.aw f.rd.toNat (accOfRow (bit f.mode 1) (x.rowData (x.hnd f.h1) r))).afterRead (x.hnd f.h1) r (bit f.mode 0))) ∧
    (Issues s t 0x2 0x05 f → f.rd.toNat < 8 → RowsReady s.dev t store →
      exec (.accst t f a) s = completes s t ((marked s.dev t store a).updTile t fun x =>
        x.programStore (x.hnd f.h1) r (rowOfAcc (bit f.mode 1) (x.ar f.rd.toNat))))) ∧
  (∀ (s : State) (t : Nat) (f : Fields) (a : Access),
    let x := s.dev.tile t
    let h := x.hnd f.h1
    let r := (x.xr f.ra).toNat
    let n := (x.xr f.rb).toNat
    (Issues s t 0x2 0x02 f → r % 8 = 0 → f.rd.toNat ≤ 24 → h.kind = 0 →
      let rows := (upto 8).map (r + ·)
      RowsReady s.dev t [⟨f.h1, rows, false⟩] → ReadsSound s.dev t [⟨f.h1, rows, false⟩] a →
      exec (.ldt t f a) s = completes s t ((marked s.dev t [⟨f.h1, rows, false⟩] a).updTile t fun x =>
        (x.vwList f.rd.toNat (transpose (8 * 2 ^ bits f.mode 2 1) (rows.map (x.rowData (x.hnd f.h1))))).afterReads
          (x.hnd f.h1) (bit f.mode 0) rows)) ∧
    (Issues s t 0x2 0x03 f → n ≠ 0 → f.rd.toNat + bits f.mode 5 2 + 1 ≤ 32 → h.kind = 0 →
      let rows := (upto (bits f.mode 5 2 + 1)).map fun j => r + j * n
      RowsReady s.dev t [⟨f.h1, rows, false⟩] → ReadsSound s.dev t [⟨f.h1, rows, false⟩] a →
      exec (.lds t f a) s = completes s t ((marked s.dev t [⟨f.h1, rows, false⟩] a).updTile t fun x =>
        (x.vwList f.rd.toNat (rows.map (x.rowData (x.hnd f.h1)))).afterReads (x.hnd f.h1) (bit f.mode 0) rows)) ∧
    (Issues s t 0x2 0x06 f → h.valid = true → r + n ≤ h.rows → (h.kind = 1 → cacheOn s.dev t h.group = true) →
      (h.kind ≠ 1 → exec (.cwb t f) s = completes s t s.dev) ∧
      (h.kind = 1 →
        let e := writeBackRows s.dev t h.group ((upto n).map fun i => h.maddr + (r + i))
        exec (.cwb t f) s = (if e.fld tileStateState t = tsRunning then completes s t e else leaves s e) ∧
        (x.flaws = [] → exec (.cwb t f) s = completes s t e))))

/-- R105, R110, R123, R139: a store through a LOCAL handle changes exactly one physical row of its tile, the one that bank, bank row
and remap table give, and a load changes none; neither changes another tile, device memory or host memory. -/
def Obligations.LocalStoreFrame : Prop :=
  ∀ (s : State) (t : Nat) (f : Fields) (a : Access) (u : State),
    let x := s.dev.tile t
    let h := x.hnd f.h1
    let r := (x.xr f.ra).toNat
    let key := rowKey (h.bank r) (x.prow (h.bank r) (h.brow r))
    h.kind = 0 → QuietIngress s.dev t →
    (Issues s t 0x2 0x01 f → RowsReady s.dev t [⟨f.h1, [r], true⟩] → exec (.st t f a) s = .next u →
      mapGet 0 (u.dev.tile t).rows key = x.vr f.rd.toNat ∧
      (∀ k, k ≠ key → mapGet 0 (u.dev.tile t).rows k = mapGet 0 x.rows k) ∧
      (u.dev.tile t).x = x.x ∧ (u.dev.tile t).v = x.v ∧ (u.dev.tile t).acc = x.acc ∧
      (∀ k, k ≠ t → u.dev.tile k = s.dev.tile k) ∧ u.dev.mem = s.dev.mem ∧ u.dev.hostMem = s.dev.hostMem) ∧
    (Issues s t 0x2 0x00 f → RowsReady s.dev t [⟨f.h1, [r], false⟩] → ReadsSound s.dev t [⟨f.h1, [r], false⟩] a →
      exec (.ld t f a) s = .next u →
      (u.dev.tile t).rows = x.rows ∧ (u.dev.tile t).vr f.rd.toNat = mapGet 0 x.rows key ∧
      (∀ q, q ≠ f.rd.toNat → (u.dev.tile t).vr q = x.vr q) ∧ (u.dev.tile t).x = x.x ∧ (u.dev.tile t).acc = x.acc ∧
      (∀ k, k ≠ t → u.dev.tile k = s.dev.tile k) ∧ u.dev.mem = s.dev.mem ∧ u.dev.hostMem = s.dev.hostMem)

/-- R154, R158, R164 to R172, R178, R186: what the instructions without row accesses and fabric operations leave unchanged. An
instruction of SCALAR, BRANCH (END apart), VECTOR, CONVERT, STATE, ACCZ or NOP that issues on a tile whose ingress holds nothing is
illegal, or changes at most its destination registers (RD; in CONVERT up to three registers from RD, and RC), the tile's
program counter, ordinal, stall, trap record and instruction times (this model's own, notes/assumptions/120), and the registers of the
tile's format, flag and trap group. -/
def Obligations.RegisterInstructionFrame : Prop :=
  ∀ (i : Instr) (s u : State) (t cls op : Nat) (f : Fields), i.tileOp = some (t, cls, op, f) →
    cls = 0x0 ∨ cls = 0x3 ∨ cls = 0x4 ∨ cls = 0x8 ∨ (cls = 0x1 ∧ op ≠ 0x0F) ∨ (cls = 0x5 ∧ op = 0x01) ∨ (cls = 0x7 ∧ op = 0x03) →
    Issues s t cls op f → QuietIngress s.dev t → exec i s = .next u →
    u = { s with dev := illegal s.dev t } ∨
    let x := s.dev.tile t
    let y := u.dev.tile t
    SameBesideDev s u ∧ SameOtherTiles s.dev u.dev t ∧
    SameBesideTilesRegs s.dev u.dev ∧
    (∀ o, o < 0x40100 + 0x400 * t ∨ 0x40168 + 0x400 * t ≤ o → bankWord u.dev.regs o = bankWord s.dev.regs o) ∧
    { y with x := x.x, v := x.v, acc := x.acc, pc := x.pc, ordinal := x.ordinal, trap := x.trap, stall := x.stall,
             pace := x.pace } = x ∧
    y.ordinal = x.ordinal + 1 ∧ y.stall = none ∧
    (∀ q : BitVec 5, q ≠ f.rd → y.xr q = x.xr q) ∧
    (∀ q, q ≠ f.rd.toNat → ¬(cls = 0x4 ∧ (q = f.rc.toNat ∨ (f.rd.toNat ≤ q ∧ q < f.rd.toNat + 3))) → y.vr q = x.vr q) ∧
    (∀ q, ¬(cls = 0x5 ∧ q = f.rd.toNat) → y.ar q = x.ar q)

/-- R85, R87, R159, R163: an instruction of a class that the tile's role does not allow, and a word that no instruction encodes, are
recorded as illegal and delivered, and the work on the tile ends with INVALID_DESCRIPTOR; an earlier pending trap is delivered in its
place; the delivery timer delivers a pending trap with the status of its cause. A command for an instruction that does not stand
at the program counter of a running tile changes nothing (this model's choice, notes/assumptions/3).
R84, R85, R89: an operation that raises an enabled flag records a trap with its program counter, ordinal and lowest element, and
completes; a trap already recorded stays. -/
def Obligations.IllegalInstructionsAndTraps : Prop :=
  (∀ (s : State) (t : Nat),
    (∀ (i : Instr) (cls op : Nat) (f : Fields), i.tileOp = some (t, cls, op, f) →
      (atIssue s.dev t (instrWord cls op f) = false → exec i s = .next s) ∧
      (atIssue s.dev t (instrWord cls op f) = true → classRole s.dev t cls = false → (s.dev.tile t).trap = none →
        ∃ e, IllegalRecorded s.dev e t ∧ exec i s = leaves s (tileFault e t stInvalid))) ∧
    (s.dev.fld tileStateState t = tsRunning → (s.dev.tile t).vendor = false → wordIllegal s.dev t = true → (s.dev.tile t).trap = none →
      ∃ e, IllegalRecorded s.dev e t ∧ exec (.illegalInstruction t) s = leaves s (tileFault e t stInvalid)) ∧
    (∀ r, s.dev.fld tileStateState t = tsRunning → (s.dev.tile t).trap = some r →
      ∃ e, SameBesideTilesRegs s.dev e ∧ SameOtherTiles s.dev e t ∧ e.tile t = { s.dev.tile t with trap := none } ∧
        SameRegsBut s.dev e (trapWords t) ∧ e.fld tileTrapCauseTrapped t = 1 ∧ e.fld tileFpTrapPending t = 0 ∧
        exec (.trapDeliveryTimer t) s =
          leaves s (tileFault e t (if r.illegal then stInvalid else if r.nan then stNanTrapped else stNumeric)) ∧
        ((s.dev.tile t).vendor = false → wordIllegal s.dev t = true →
          exec (.illegalInstruction t) s = exec (.trapDeliveryTimer t) s))) ∧
  (∀ (d : Dev) (t : Nat) (fl : Fl) (r : List ElemFx) (n : Nat),
    d.fld tileFpTrapTrapEn t &&& fl.toNat ≠ 0 → fl.toNat < 32 → (∀ e ∈ r, e = (flNone, false)) →
    let x := d.tile t
    let e := raise d t (List.replicate n (flNone, false) ++ (fl, false) :: r)
    (x.trap = none → (e.tile t).trap =
        some ⟨x.pc, x.ordinal, n, BitVec.ofNat 5 (d.fld tileFpTrapTrapEn t &&& fl.toNat), false, false⟩ ∧
      e.fld tileTrapPcPc t = x.pc.toNat ∧ e.fld tileTrapElemElement t = n % 2 ^ 16) ∧
    (∀ p, x.trap = some p → (e.tile t).trap = some p) ∧
    e.fld tileFpTrapPending t = d.fld tileFpTrapPending t ||| (d.fld tileFpTrapTrapEn t &&& fl.toNat) ∧
    { (e.tile t) with trap := x.trap } = x)

/-- R129, R180 to R182: a fabric instruction with well-formed operands, fewer than sixteen operations in flight and no trap pending
completes; the operation takes the next number and a place in flight, and its header is on the way to the tile that the placement
gives. Targets in memory (MEM = 1) take the rows at once and acknowledge (R181); sources in memory are read at once, those of another
tile by a remote read. -/
def Obligations.FabricInstructionResults : Prop :=
  ∀ (s : State) (t : Nat) (f : Fields) (a : FabAddr),
    let d := s.dev
    let x := d.tile t
    fabAddr (x.xr f.ra) = some a → x.inflight.length < 16 → x.trap = none →
    let begun (e : Dev) : Dev := ({ e with nextXfer := e.nextXfer + 1 }).updTile t fun x =>
      { x with inflight := x.inflight ++ [FabOp.mk e.nextXfer (fabAck f)] }
    (Issues s t 0x6 0x04 f → exec (.sig t f) s = completes s t
      (if a.mem then sendAck (begun d) (some t) d.nextXfer
        else sendTo (begun d) t d.nextXfer a.tile 0 0 (fabCounter f) .signal none)) ∧
    (∀ r n, fabLocal (x.xr f.rb) = some (r, n) →
      (a.mem = true → memLegal d t f.h2 a.row n = true ∧ (x.hnd f.h2).writable = true) →
      (Issues s t 0x6 0x02 f → exec (.fillr t f) s = completes s t
        (deliverRows (begun d) t d.nextXfer a f.h2 (fabCounter f) (.fill n (x.xr f.rc)))) ∧
      (let rows := (upto n).map (r + ·)
       Issues s t 0x6 0x00 f → RowsReady d t [⟨f.h1, rows, false⟩] → ReadsSound d t [⟨f.h1, rows, false⟩] {} →
        let e := marked d t [⟨f.h1, rows, false⟩] {}
        exec (.send t f) s = completes s t (deliverRows (begun (e.updTile t fun x => x.afterReads (x.hnd f.h1) false rows)) t
          e.nextXfer a f.h2 (fabCounter f) (.rows (rows.map ((e.tile t).rowData ((e.tile t).hnd f.h1))))))) ∧
    (∀ r n, fabLocal (x.xr f.rb) = some (r, n) → a.mem = false → reqLegal d t ⟨f.h1, (upto n).map (r + ·), false⟩ = true →
      Issues s t 0x6 0x01 f → exec (.rread t f) s = completes s t (sendTo (begun d) t d.nextXfer a.tile f.h2 a.row (fabCounter f)
        (.remoteRead n) (some { image := x.image.getD 0, ltile := d.fld tileIdLtile t, handle := f.h1, row := r, counter := fabCounter f }))) ∧
    (∀ r n e l, fabLocal (x.xr f.rb) = some (r, n) → a.mem = true → memLegal d t f.h2 a.row n = true →
      reqLegal d t ⟨f.h1, (upto n).map (r + ·), false⟩ = true → memRowsAt (begun d) t (memRowAddr d t f.h2 a.row) n = (e, some l) →
      Issues s t 0x6 0x01 f → exec (.rread t f) s = completes s t { e with fabric := e.fabric ++
        [(t, { id := d.nextXfer, epoch := d.epoch t, handle := f.h1, row := r, counter := fabCounter f, kind := .rows l,
               issuer := some t, job := x.job })] }) ∧
    (∀ r n c, fabLocal (x.xr f.rb) = some (r, n) → fabAddr (x.xr f.rc) = some c → c.mem = false → c.tile ≠ d.fld tileIdLtile t →
      (a.mem = true → memLegal d t f.h2 a.row n = true ∧ (x.hnd f.h2).writable = true) →
      Issues s t 0x6 0x03 f → exec (.copyr t f) s = completes s t (sendTo (begun d) t d.nextXfer c.tile f.h3 c.row (fabCounter f)
        (.remoteRead n) (some (if a.mem
          then { image := 0, ltile := 0, handle := f.h2, row := memRowAddr d t f.h2 a.row, counter := 0, mem := true }
          else { image := x.image.getD 0, ltile := a.tile, handle := f.h2, row := a.row, counter := fabCounter f })))) ∧
    (∀ r n c e l, fabLocal (x.xr f.rb) = some (r, n) → fabAddr (x.xr f.rc) = some c → c.mem = true →
      memLegal d t f.h3 c.row n = true → (a.mem = true → memLegal d t f.h2 a.row n = true ∧ (x.hnd f.h2).writable = true) →
      memRowsAt (begun d) t (memRowAddr d t f.h3 c.row) n = (e, some l) →
      Issues s t 0x6 0x03 f →
        exec (.copyr t f) s = completes s t (deliverRows e t d.nextXfer a f.h2 (fabCounter f) (.rows l))) ∧
    (∀ r n c, fabLocal (x.xr f.rb) = some (r, n) → fabAddr (x.xr f.rc) = some c → c.mem = false → c.tile = d.fld tileIdLtile t →
      (a.mem = true → memLegal d t f.h2 a.row n = true ∧ (x.hnd f.h2).writable = true) →
      let rows := (upto n).map (c.row + ·)
      Issues s t 0x6 0x03 f → RowsReady d t [⟨f.h3, rows, false⟩] → ReadsSound d t [⟨f.h3, rows, false⟩] {} →
        let e := marked d t [⟨f.h3, rows, false⟩] {}
        exec (.copyr t f) s = completes s t (deliverRows (begun (e.updTile t fun x => x.afterReads (x.hnd f.h3) false rows)) t
          e.nextXfer a f.h2 (fabCounter f) (.rows (rows.map ((e.tile t).rowData ((e.tile t).hnd f.h3))))))

/-! ## The fabric and the tiles -/

/-- R102, R119, R124, R127, R129, R144, R334: a header that reaches its tile is refused by an old epoch, put behind full hold places,
or checked; an admitted write lands in the handle's rows and counts its arrival; an admitted remote read whose rows can be read sends
them on, under the epoch of the tile that the placement gives then. -/
def Obligations.TransferResults : Prop :=
  ∀ (s : State) (t : Nat) (q : TransferHdr),
    let d := s.dev
    let x := d.tile t
    let e : Dev := { d with fabric := d.fabric.erase (t, q) }
    ((t, q) ∈ d.fabric → d.fld tileStateState t ≠ tsRetired →
      (4 ≤ x.held.length → exec (.transferIngress t q) s = leaves s (e.updTile t fun x => { x with backlog := x.backlog ++ [q] })) ∧
      (x.held.length < 4 → headerVerdict d t q = .admits →
        exec (.transferIngress t q) s = leaves s (e.updTile t fun x => { x with admitted := x.admitted ++ [q] })) ∧
      (x.held.length < 4 → q.epoch ≠ d.epoch t → ∀ i, q.issuer = some i → exec (.transferIngress t q) s =
        leaves s (let c := e.incFld tileStaleCountCount t; { c with refusals := c.refusals ++ [(i, q.id, .roleStale)] })) ∧
      (x.held.length < 4 → headerVerdict d t q = .hold → slotBlocked x (x.hnd q.handle) q.row (xferRows q.kind) (xferReads q.kind) = true →
        q.id ∉ x.guardHeld → exec (.transferIngress t q) s =
          leaves s (((e.updTile t fun x => { x with held := x.held ++ [q] }).incFld tileGuardStallsCount t).updTile t fun x =>
            { x with guardHeld := x.guardHeld ++ [q.id] }))) ∧
    (x.admitted.find? (fun p => p.id = q.id) = some q →
      let e := d.updTile t fun x => { x with admitted := x.admitted.erase q }
      (∀ l, q.kind = .rows l → (x.hnd q.handle).kind = 0 → exec (.transferLanded t q.id) s = leaves s (unpinOp
        (settle (sendAck (arrive (e.updTile t fun x => x.storeRows (x.hnd q.handle) q.row l) t q.counter) q.issuer q.id) t) q.id)) ∧
      (∀ n r p, q.kind = .remoteRead n → q.reply = some r → r.mem = false → q.issuer ≠ none ∨ q.job = none →
        (x.hnd q.handle).kind = 0 → bankOff d t (x.hnd q.handle) q.row n = false → x.flaws = [] → d.placed r.image r.ltile = some p →
        exec (.transferLanded t q.id) s = leaves s (unpinOp
          { e with fabric := e.fabric ++ [(p, { q with epoch := d.epoch p, handle := r.handle, row := r.row, counter := r.counter,
                                                       kind := .rows (x.readRows (x.hnd q.handle) q.row n), reply := none })] } q.id)))

/-- R119, R120, R181, R184, R339, and R107, R131: an acknowledgement ends its operation and counts; a refusal ends it, is counted
where it is ROLE_STALE, and stops the work on the tile with its status; an arrival counts modulo 2^32 and completes a wait that it
satisfies; resends and the priority of fabric writes change timing only.
R125, R126, R135, R447: a guarded wait that reaches its limit is recorded and stops the work with GUARD_TIMEOUT, but not once the
slot has changed; a line that arrives takes a free way of its set and holds the memory row. -/
def Obligations.FabricReturnResults : Prop :=
  (∀ (s : State) (t id : Nat),
    let d := s.dev
    let ended (e : Dev) : Dev := e.updTile t fun x => { x with inflight := x.inflight.filter fun o => o.id ≠ id }
    (∀ o, (t, id) ∈ d.acks → (d.tile t).inflight.find? (fun o => o.id = id) = some o →
      let e := ended { d with acks := d.acks.erase (t, id) }
      exec (.transferAck t id) s = leaves s (match o.ack with
        | some c => arrive e t c
        | none => e)) ∧
    (∀ st, (t, id, st) ∈ d.refusals → st ≠ .uncorrectableMemory → st ≠ .resourceRefused →
      let e := ended { d with refusals := d.refusals.erase (t, id, st) }
      exec (.refusalReturn t id st) s =
        leaves s (tileFault (unpinOp (if st = .roleStale then e.incFld forCntCount 4 else e) id) t (refusalStatus st))) ∧
    (∀ c < 32, (arrive d t c).fld (tileArrival c) t = (d.fld (tileArrival c) t + 1) % 2 ^ 32 ∧
      (∀ (g w : U32) (rd : BitVec 5), (d.tile t).stall = some (.arrival c g w rd) → d.fld tileStateState t = tsRunning →
        (BitVec.ofNat 32 (d.fld (tileArrival c) t + 1) - g).toNat < 2 ^ 31 →
        ((arrive d t c).tile t).stall = none ∧ ((arrive d t c).tile t).pc = (d.tile t).pc + 8 ∧
        ((arrive d t c).tile t).xr rd = 0)) ∧
    exec (.fabricResend t) s = .next s ∧ exec (.fabricWritePriority t) s = .next s) ∧
  (∀ (s : State) (t : Nat),
    let d := s.dev
    let x := d.tile t
    (∀ ws, x.stall = some (.guard ws) → d.fld tileStateState t = tsRunning →
      ((∀ w ∈ ws, slotWrong x w = false) → exec (.guardTimeout t none) s = .next s) ∧
      (∀ hn slot write, ws.find? (slotWrong x) = some (hn, slot, write) → ∃ e, e = { d with regs := e.regs } ∧
        SameRegsBut d e [rTileGuardStatus + 0x400 * t] ∧ e.fld tileGuardStatusTimeout t = 1 ∧
        (d.flag tileGuardStatusTimeout t = true → bankWord e.regs (rTileGuardStatus + 0x400 * t) = bankWord d.regs (rTileGuardStatus + 0x400 * t)) ∧
        (d.flag tileGuardStatusTimeout t = false → e.fld tileGuardStatusHandle t = hn % 64 ∧ e.fld tileGuardStatusSlot t = slot % 256 ∧
          e.fld tileGuardStatusKind t = b2n write) ∧
        exec (.guardTimeout t none) s = leaves s (tileFault e t stGuard))) ∧
    (∀ q ∈ x.held, x.held.find? (fun p => p.id = q.id) = some q →
      slotBlocked x (x.hnd q.handle) q.row (xferRows q.kind) (xferReads q.kind) = false →
      exec (.guardTimeout t (some q.id)) s = .next s) ∧
    (∀ g set tag, x.stall = some (.line g set tag) →
      let ls := mapGet [] x.cache (512 * g + set)
      ls.length < 4 → d.flaws = [] → rowPoisoned d (lineAddr set tag) = false →
      exec (.cacheLineArrival t) s = leaves s (d.updTile t fun x =>
        ({ x with stall := none, cache := mapSet [] x.cache (512 * g + set) (⟨freeWay ls, tag, false⟩ :: ls) }).setPhysRow
          (wayBank g (freeWay ls)) set (memRow d.mem (512 * (512 * tag + set))))))

/-- R144, R146, R147: a bank that Forester powers down drains, and gates once no admitted write remains: ON and DRAINING clear, its
rows are lost and read 0, and every other bank keeps its rows (the handles stay, notes/assumptions/111).
R101, R102, R122, R146, R153, R319, R557: the end of a role change leaves the tile with its new role and nothing of its old state;
it then leaves its image, or holds the logical tile that it was being loaded with. -/
def Obligations.BankAndRoleResults : Prop :=
  (∀ (s : State) (t b : Nat), b < 16 →
    let d := s.dev
    let x := d.tile t
    (bit (d.fld tileBankPwrOn t) b = true → bit (d.fld tileBankPwrDraining t) b = false → d.fld tileStateState t ≠ tsRunning →
      x.job = none → d.fld tileRoleRole t = 0 ∨ x.image = none ∨ bankMapped d t b = false ∨
        (∃ n im, x.image = some n ∧ d.image n = some im ∧ im.unloading ≠ none) →
      exec (.bankDrain t b) s = leaves s (d.setFld tileBankPwrDraining (d.fld tileBankPwrDraining t + 2 ^ b) t)) ∧
    (bit (d.fld tileBankPwrDraining t) b = true → x.admitted.any (writesBank x b) = false →
      ∃ e : Dev, exec (.bankGate t b) s = leaves s e ∧ { e with tiles := d.tiles, regs := d.regs } = d ∧ SameOtherTiles d e t ∧
        SameRegsBut d e [rTileBankPwr + 0x400 * t] ∧
        (∀ c < 16, bit (e.fld tileBankPwrOn t) c = (bit (d.fld tileBankPwrOn t) c && c ≠ b) ∧
          bit (e.fld tileBankPwrDraining t) c = (bit (d.fld tileBankPwrDraining t) c && c ≠ b)) ∧
        (∀ k, mapGet 0 (e.tile t).rows k = if k / 528 = b then 0 else mapGet 0 x.rows k) ∧ (e.tile t).handles = x.handles) ∧
    (bit (d.fld tileBankPwrDraining t) b = true → x.admitted.any (writesBank x b) = true → exec (.bankGate t b) s = .next s)) ∧
  (∀ (s : State) (t role : Nat), role < 4 →
    let d := s.dev
    let x := d.tile t
    x.roleTo = some role → x.admitted = [] → d.flag tileRoleChanging t = true → drainBusy d t = false →
    d.fld tileStateState t ≠ tsRetired →
    ∃ e : Dev, { e with tiles := d.tiles, regs := d.regs } = d ∧ SameOtherTiles d e t ∧
      e.fld tileRoleRole t = role ∧ e.fld tileRoleChanging t = 0 ∧ e.fld tileRoleEpoch t = d.fld tileRoleEpoch t ∧
      e.fld tileStateState t = tsReady ∧ e.fld tileIdLvalid t = 0 ∧ (∀ c < 32, e.fld (tileArrival c) t = 0) ∧
      (role ≠ 0 → e.fld tileBankPwrOn t = 0xFFFF) ∧ bankWord e.regs (rTileFpFlags + 0x400 * t) = 0 ∧
      (let y := e.tile t
       y.rows = [] ∧ y.handles = [] ∧ y.slots = [] ∧ y.cache = [] ∧ y.codeLen = 0 ∧ y.x = [] ∧ y.v = [] ∧ y.acc = [] ∧ y.capB = none ∧
        y.trap = none ∧ y.flaws = [] ∧ y.pace = {} ∧ y.sparing = none ∧ y.roleTo = none ∧ y.loadFor = none ∧ y.job = none ∧
        (x.sparing = none → y.remap = x.remap)) ∧
      exec (.roleChangeDone t) s = .next (applyLibrary { s with dev := resumeGraphs (match x.loadFor with
        | none => tileReleased e t
        | some (n, l) => match d.image n with
          | none => e
          | some im => substituted (loadProgress (placeAt (loadTile e t im l) n l (some t)) n) t) }))

/-- R142, R143: a live remap pauses a local handle; when what was accepted before has completed, the rows are copied to the new base,
BASE_ROW is switched and the handle goes on.
R139, R140, R142, R546: a row that reported three corrected errors or an uncorrectable one moves with its data to the bank's next spare
row, is logged and kept in the repair record; a handle that maps the row is paused first, and the row moves when what was accepted before
has completed; a bank without a spare row retires the tile. -/
def Obligations.RemapAndSparingResults : Prop :=
  (∀ (s : State) (t h base : Nat),
    let d := s.dev
    let x := d.tile t
    let old := x.hnd h
    ((x.hnd h).valid = true → old.kind = 0 → h ∉ x.paused →
      exec (.liveRemap t h) s = leaves s (d.updTile t fun x => { x with paused := x.paused ++ [h] })) ∧
    (h ∈ x.paused → x.sparing = none → (∀ q ∈ x.admitted, q.handle ≠ h) → base < 512 →
      basesOk ((upto 64).map x.hnd) (fun k => if k = h then base else (((upto 64).map x.hnd).getD k (hndOf 0)).baseRow) = true →
      let e := withBase (mapGet 0 x.handles h) base
      let y : Tile := { x with handles := mapSet 0 x.handles h e, paused := x.paused.erase h }
      let rows := (upto old.rows).map fun i => x.readRow old (0 + i)
      let z := (rows.zip (upto rows.length)).foldl (fun y r => y.writeRow (hndOf e) r.2 r.1) y
      exec (.liveRemapResume t h base) s =
        leaves s (settle (if old.baseRow = base then d.setTile t z else (d.setTile t z).forCount 6) t)) ∧
    (∀ b r, x.sparing = some (h, b, r) → (∀ q ∈ x.admitted, q.handle ≠ h) → exec (.liveRemapResume t h base) s =
      leaves s (settle ((switchRow t b r d).updTile t fun x => { x with paused := x.paused.erase h, sparing := none }) t)) ∧
    (base < 512 → (hndOf (withBase (mapGet 0 x.handles h) base)).baseRow = base)) ∧
  (∀ (s : State) (t b r : Nat), t < 136 → b < 16 → r < 512 → fwReady s.dev = true →
    let d := s.dev
    let x := d.tile t
    let k := rowKey b (x.prow b r)
    3 ≤ mapGet 0 x.rowErrs k ∨ k ∈ x.rowBad → x.sparing = none →
    let used := d.fld (fldSpare b) t
    let recorded (e : Dev) : State := keepRepair
      (fun q => { q with tileRows := mapSet 0 q.tileRows (8192 * t + 512 * b + r) (512 + used) })
      { s with dev := logEvent e lgSpared (leBytes 1 2 ++ leBytes 1 t ++ leBytes 1 b ++ leBytes 4 r) }
    (16 ≤ used → exec (.tileRowSpare t b r) s = .next (applyLibrary (retire t 0 s))) ∧
    (∀ h, used < 16 → handleOfRow x b r = some h → h ∉ x.paused → exec (.tileRowSpare t b r) s =
      .next (applyLibrary (recorded (d.updTile t fun y => { y with paused := y.paused ++ [h], sparing := some (h, b, r) })))) ∧
    (used < 16 → handleOfRow x b r = none → exec (.tileRowSpare t b r) s = .next (applyLibrary (recorded (switchRow t b r d)))) ∧
    (used < 16 →
      let z := (switchRow t b r d).tile t
      z.prow b r = 512 + used ∧ z.physRow b r = x.physRow b r ∧ (switchRow t b r d).fld (fldSpare b) t = used + 1 ∧
      (∀ k, k ≠ rowKey b (512 + used) → mapGet 0 z.rows k = mapGet 0 x.rows k)))

/-- R333, R334, R337, R546: TILE_RETIRE takes a tile out of service for good and writes it into the repair record; TILE_DRAIN prepares
the substitute that R333 names and gives it what has not started.
R329, R484, R485: while a region's sensor reads above THROTTLE_C, or 3 °C and more below it, its tiles' demanded duty falls or
rises by one sixteenth, between 1 and 16, and the applied duties follow; then deadline work below the floor moves, and THERMAL_HOLD shows
whether a tile is held below it. -/
def Obligations.TileServiceResults : Prop :=
  (∀ (s : State) (t reason : Nat), t < 136 → fwReady s.dev = true →
    let d := s.dev
    ((d.tile t).service ≠ .retired → exec (.tileRetire t reason) s = .next (applyLibrary (keepRepair
      (fun r => { r with retired := if t ∈ r.retired then r.retired else r.retired ++ [t] }) { s with dev := retireTile t reason d }))) ∧
    (∀ n im l u, (d.tile t).image = some n → d.image n = some im → im.unloading = none → im.loading = none →
      (upto im.place.length).find? (fun l => im.place.getD l none = some t) = some l → pickSubstitute d t = some u →
      (∀ k < 136, (d.tile k).drainTo = none) → (d.tile t).roleTo = none → copyReadable d n = true →
      fitsAll u (unstarted d t) d = true →
      exec (.tileDrain t) s = leaves s (moveWork (prepareSub (d.updTile t fun y => { y with drainTo := some u }) n l u t) t u))) ∧
  (∀ (s : State) (r : Nat), r < 16 → fwReady s.dev = true →
    let d := s.dev
    let temp := d.sfld mgmtTempTemp r
    let demanded (f : Nat → Nat) : Dev :=
      (regionTiles r).foldl (fun d t => d.updTile t fun x => { x with demandDuty := f x.demandDuty }) d
    (16 * throttleC d < temp → exec (.throttleStep r) s =
      leaves s (thermalClear ((regionTiles r).foldl coolTile (applyDuty r (demanded fun n => max 1 (n - 1)))))) ∧
    (temp < 16 * (throttleC d - 3) → exec (.dutyRaiseStep r) s =
      leaves s (thermalClear ((regionTiles r).foldl coolTile (applyDuty r (demanded fun n => min 16 (n + 1)))))) ∧
    (16 * (throttleC d - 3) ≤ temp → temp ≤ 16 * throttleC d →
      exec (.throttleStep r) s = .next s ∧ exec (.dutyRaiseStep r) s = .next s))

/-! ## Jobs and completions -/

/-- R318, R319, R347, R348, R361 to R365, R380, R557: the command of a job's row fetches the descriptor at the front of its ring when
the opcode, and for RECORD_CTL the action of its block, is the row's; a descriptor that R364 accepts becomes a job that is
admitted when it is read and runs as far as its waits allow. A descriptor of another row is left for its own command. -/
def Obligations.JobFetchResults : Prop :=
  ∀ (s : State) (q : Nat) (hm : Outside) (x : Desc),
    let d := scanned s.dev q hm
    let p := opened s.dev q hm x
    let all : List (Instr × Nat) :=
      [(.runGraph q hm, 0x01), (.loadImage q hm, 0x02), (.unloadImage q hm, 0x03), (.copy q hm, 0x30), (.fill q hm, 0x31),
       (.fence q hm, 0x40), (.abort q hm, 0x41), (.replayCtl q hm, 0x51)]
    let solving : List (Instr × Nat) :=
      [(.solve q hm, 0x10), (.solveBatch q hm, 0x11), (.estimate q hm, 0x12), (.scenarioSolve q hm, 0x13)]
    let attending : List (Instr × Nat) :=
      [(.attend q hm, 0x20), (.kvAppend q hm, 0x21), (.seqFork q hm, 0x22), (.seqFree q hm, 0x23), (.seqEvict q hm, 0x24)]
    let recording : List (Instr × Nat) := [(.recordStart q hm, 0), (.recordStop q hm, 1), (.recordSwitch q hm, 2)]
    (Accepted s.dev q hm x →
      (∀ e ∈ all, x.opcode = e.2 → exec e.1 s = leaves s (proceed admitJob runJob p.2 p.1)) ∧
      (∀ e ∈ solving, x.opcode = e.2 → exec e.1 s = leaves s (proceed admitSolve runSolve p.2 p.1)) ∧
      (∀ e ∈ attending, x.opcode = e.2 → exec e.1 s = leaves s (proceed admitAttn runAttn p.2 p.1)) ∧
      (∀ e ∈ recording, x.opcode = 0x50 → recordAction d x = some e.2 →
        exec e.1 s = leaves s (proceed admitJob runJob p.2 p.1))) ∧
    (Fetches s.dev q hm x →
      (∀ e ∈ all ++ solving ++ attending, x.opcode ≠ e.2 → exec e.1 s = leaves s d))

/-- R4, R358, R360, R364, R365: a descriptor with a defect, an undefined opcode among them, completes with INVALID_DESCRIPTOR and runs
nothing; a job whose chain is broken is ABORTED; a descriptor that cannot be read stops its ring.
R360, R361, R366, R390: the supervisor queue is fetched ahead of every ring; its head moves on modulo 16 and a completion slot is
reserved; the job takes the next number and the fields of its descriptor.
R327, R383: a job ends once: its first status and cause stand, its reservations are released, and no other job changes. -/
def Obligations.RejectedDescriptors : Prop :=
  (∀ (s : State) (q : Nat) (hm : Outside) (x : Desc),
    let d := scanned s.dev q hm
    let p := opened s.dev q hm x
    (Fetches s.dev q hm x → x.opcode ∉ definedOpcodes → exec (.undefinedOpcodeJob q hm) s = leaves s (endJob p.1 p.2 0x4)) ∧
    (Fetches s.dev q hm x → x.opcode = 0x30 →
      (descBad d q x = true → exec (.copy q hm) s = leaves s (endJob p.1 p.2 0x4)) ∧
      (descBad d q x = false → chainBroken d q x = true → exec (.copy q hm) s = leaves s (endJob p.1 p.2 0x3 0xFE))) ∧
    (8 ≤ x.cls ∨ x.flags / 64 % 1024 ≠ 0 ∨ 63 < x.entry ∨ 16 < x.image → descBad d q x = true) ∧
    (∀ st, nextFetch (placeHost s.dev hm) = some q → descBytes d q = .error st → exec (.fill q hm) s = leaves s (updStopped
      ((d.setFld sqStatusFetchErr 1 q).updSq q fun c => { c with halted := true }) q))) ∧
  (∀ (d : Dev) (q : Nat) (x : Desc),
    (nextFetch d ≠ none → supEligible d = true → nextFetch d = some 64) ∧
    (takeDesc d 64).fld supqHeadIndex = (d.fld supqHeadIndex + 1) % 16 ∧
    ((takeDesc d 64).cq 64).reserved = (d.cq 64).reserved + 1 ∧
    (q < 64 → (d.sq q).pass = none → d.fld sqCfgCq q < 64 →
      (takeDesc d q).fld sqStatusHead q = (d.fld sqStatusHead q + 1) % sqSize d q % 2 ^ 16 ∧
      ((takeDesc d q).cq (d.fld sqCfgCq q)).reserved = (d.cq (d.fld sqCfgCq q)).reserved + 1) ∧
    (∃ j : Job, (newJob d q x).1.jobs = d.jobs ++ [j] ∧ j.id = d.nextJob ∧ (newJob d q x).2 = d.nextJob ∧
      (newJob d q x).1.nextJob = d.nextJob + 1 ∧ j.q = q ∧ j.desc = x ∧ j.phase = .waiting ∧ j.admitted = false ∧
      j.waitFence = (d.sq q).fence ∧ (j.waitCount = true ↔ x.startCount ≠ 0 ∧ d.now / 1000 < x.startCount))) ∧
  (∀ (d : Dev) (j status cause : Nat) (x : Job), d.job j = some x →
    ∃ y, (endJob d j status cause).job j = some y ∧ y.phase = .ended ∧
      (x.phase ≠ .ended → y.status = status ∧ y.cause = cause) ∧ (x.phase = .ended → y = x) ∧
      (∀ k, k ≠ j → (endJob d j status cause).job k = d.job k) ∧
      (∀ a ∈ (endJob d j status cause).admitted, a.job ≠ j))

/-- R222, R350, R351, R352, R365: a job goes on when its start count is reached, when the FENCE ahead of it completes, when the job it
follows has completed, and when a ring job's answers are all in; a previous job that failed breaks the chain; a refused or cancelled
ring job starts nothing. -/
def Obligations.JobReleaseResults : Prop :=
  ∀ (s : State) (j : Nat) (x : Job), s.dev.job j = some x →
    let d := s.dev
    (x.waitCount = true → x.desc.startCount ≤ d.gcount →
      exec (.jobStartAtCount j) s = leaves s (proceed admitJob runJob j (d.updJob j fun y => { y with waitCount := false }))) ∧
    (x.waitCount = true → d.gcount < x.desc.startCount → exec (.jobStartAtCount j) s = .next s) ∧
    (x.desc.opcode = 0x40 → x.phase = .running → x.after = [] →
      exec (.fenceRelease j) s = leaves s (releaseFence (endJob d j stDone) j)) ∧
    (x.desc.opcode = 0x40 → x.after ≠ [] → exec (.fenceRelease j) s = .next s) ∧
    (∀ k st, x.waitPrev = some k → x.prevDone = some st → exec (.afterPrevRelease j) s =
      leaves s (let e := d.updJob j fun y => { y with waitPrev := none }
        if st = stDone then proceed admitJob runJob j e else endJob e j stAborted 0xFE)) ∧
    (∀ tag, ringJobOf d tag false = some x →
      exec (.ringJobGo tag) s = leaves s (let e := (if 1000 * x.desc.startCount < d.now then d.forCount 5 else d)
        proceed admitJob runJob x.id (e.updJob x.id fun y =>
          { y with waitGo := false, waitCount := y.waitCount && decide (d.gcount < x.desc.startCount) })) ∧
      exec (.ringJobCancel tag) s = leaves s (dropPart d x.id)) ∧
    (∀ m tag, ringJobOf d tag true = some x → x.ringWait = [m] → x.ringRefused = false → x.status = 0 → x.id = j →
      exec (.ringJobAnswer m tag .admitted) s =
        leaves s (goJob (toRing (d.updJob j fun z => { z with ringWait := z.ringWait.filter (· ≠ m) }) 3 x.desc.tag []) j) ∧
      (∀ c, exec (.ringJobAnswer m tag (.refused c)) s = leaves s (closeSolve j (refuseJob (d.updJob j fun z =>
        { z with ringWait := z.ringWait.filter (· ≠ m), ringRefused := true, cause := if z.ringRefused then z.cause else c }) j c)))) ∧
    (∀ st, suspectOf d j = none → x.fault = some st → x.phase = .running →
      (bit x.flags 2 = true → exec (.jobReexecute j) s = .next (applyLibrary { s with dev := endJob d j st })) ∧
      (bit x.flags 2 = false → jobPlaced d x = true → tilesPending d x = false →
        slackTest x.deadline (declaredNs d j) d.now = true →
        exec (.jobReexecute j) s = .next (applyLibrary { s with dev := restartJob d j })))

/-- R318, R322, R328, R557: a free tile starts its next item of work, the earliest deadline first; after END on every tile of a graph
its output block is copied to AUX and the job ends; an UNLOAD_IMAGE with no earlier job of its image left changes the image's
tiles to IDLE. -/
def Obligations.ForesterResults : Prop :=
  ∀ (s : State) (t j : Nat) (x : Job),
    let d := s.dev
    (∀ i, tileFree d t = true → nextItem (d.tile t).items = some i → d.job i.job = some x →
      (∀ p ∈ d.solv.problems, t ∉ p.reserved) → (i.deadline = none → i.bound ≤ d.blockCycles) →
      (x.desc.opcode ≠ 0x01 → exec (.itemDispatch t) s =
        leaves s (startTile (d.updTile t fun y => { y with items := y.items.erase i }) t x 0 true)) ∧
      (∀ pc, x.desc.opcode = 0x01 → entryPc d t x.desc.entry = some pc → exec (.itemDispatch t) s =
        leaves s (startTile (d.updTile t fun y => { y with items := y.items.erase i }) t x (BitVec.ofNat 32 pc) false))) ∧
    (∀ i, nextItem (d.tile t).items = some i → i.deadline = none → hasDeadlineWork d t = true → d.blockCycles < i.bound →
      exec (.itemDispatch t) s = .next s) ∧
    (∀ (l : List Item) (i : Item), nextItem l = some i → i ∈ l ∧ ∀ k ∈ l, ∀ a, k.deadline = some a → ∃ b, i.deadline = some b ∧ b ≤ a) ∧
    (∀ im u, d.job j = some x → d.image x.desc.image = some im → x.phase = .running → x.outCopy = true → x.tiles = [] → x.fault = none →
      let io := im.entryIo.getD x.desc.entry {}
      let y := d.tile u
      im.tileAt io.outTile = some u → outputWaits y j = false → headerVerdict d u (outputHdr d u j io) = .admits →
      (y.hnd io.outHandle).kind = 0 → y.flaws = [] →
      let w := writeAddr d x.desc.aux ((y.readRows (y.hnd io.outHandle) io.outRow io.outRows).flatMap bytesOfRow)
      exec (.graphOutputCopy j) s = leaves s (endJob (w.1.updJob j fun y => { y with outCopy := false }) j w.2)) ∧
    (∀ im, d.job j = some x → d.image x.desc.image = some im → x.phase = .running → x.desc.opcode = 0x03 → x.after = [] → im.unloading = none →
      let n := x.desc.image
      let e := d.updImage n fun im => { im with unloading := some j }
      let ts := (upto 136).filter fun t => (e.tile t).image = some n || (e.tile t).loadFor.map (·.1) = some n
      exec (.unloadImageFinish j) s = .next (applyLibrary { s with dev :=
        if ts = [] then (endJob (dropImage e n) j stDone) else ts.foldl (fun d t => roleChangeStart (d.updTile t fun x => { x with image := some n, replaces := none }) t 0 none) e }))

/-- R136, R151, R294, R366, R367, R383, R390: an ended job's tiles come to rest, its entry goes to its completion ring or, for a
supervisor job, into the supervisor's completion queue, and everything that waited for it learns of it.
R366: the fields of a completion entry.
R366, R367, R384: an entry posted to an enabled ring in host memory stands at base + 32 × tail, the tail moves on modulo the size,
and the phase turns when it wraps; without a link the entry is lost and counted. -/
def Obligations.CompletionPostResults : Prop :=
  (∀ (s : State) (j : Nat) (fails : Bool) (x : Job), s.dev.job j = some x → x.replayed = false →
    (x.phase ≠ .ended → exec (.completionPost j fails) s = .next s) ∧
    (x.phase = .ended →
      let d := withdrawAttn (settleTiles s.dev j x.status) j
      let d := releaseFence { d with solv := { d.solv with problems := d.solv.problems.filter fun p => p.job ≠ j } } j
      let told (d : Dev) : Dev := tellWaiters { d with jobs := d.jobs.filter fun y => y.id ≠ j } j x.q x.status
      (x.q = 64 → x.silent = false → exec (.completionPost j fails) s = leaves s (replayPump (finishAborts (told (postSup d x))))) ∧
      (x.q < 64 → x.silent = false → exec (.completionPost j fails) s =
        leaves s (let e := told (postHost d x x.cq fails)
          let e := endPass e x.q
          replayPump (finishAborts (updCqStopped (updStopped e x.q) x.cq)))))) ∧
  (∀ (d : Dev) (x : Job) (ph : Nat), x.desc.tag < 2 ^ 64 → x.status < 256 → x.desc.opcode < 256 → x.flags < 2 ^ 16 → x.q ≤ 64 → ph < 2 →
    let b := cqEntry d x ph
    b.length = 32 ∧ recLe b 0 8 = x.desc.tag ∧ recLe b 8 1 = x.status ∧ recLe b 9 1 = x.desc.opcode ∧ recLe b 10 2 = x.flags ∧
      recLe b 12 1 = x.q ∧ recLe b 13 1 = ph ∧ recLe b 14 2 = headOf d x.q % 2 ^ 16 ∧
      recLe b 16 4 = x.detailIdx % 16384 + 2 ^ 16 * (x.cause % 256) ∧ recLe b 20 4 = 0 ∧ recLe b 24 8 = d.now % 2 ^ 64) ∧
  (∀ (d : Dev) (x : Job) (c : Nat), c < 64 → d.flag cqCfgEnable c = true → d.fld cqTailwbAddr c = 0 → d.flag cqCfgIrqEn c = false →
    d.fld cqBaseAddr c + 32 * 65536 < 2 ^ 62 →
    let t := d.fld cqStatusTail c
    let e := postHost d x c false
    (linkUp d = true → t < cqSize d c → cqSize d c ≤ 65535 →
      memReadN e.hostMem (d.fld cqBaseAddr c + 32 * t) 32 = cqEntry d x (d.fld cqStatusPhase c) ∧
      e.fld cqStatusTail c = (t + 1) % cqSize d c ∧
      e.fld cqStatusPhase c = (if (t + 1) % cqSize d c = 0 then 1 - d.fld cqStatusPhase c else d.fld cqStatusPhase c) ∧
      (e.cq c).used = (d.cq c).used + 1 ∧ (e.cq c).reserved = (d.cq c).reserved - 1) ∧
    (linkUp d = false → e.hostMem = d.hostMem ∧ e.fld cqStatusTail c = t ∧
      e.fld cqLostCount c = min (d.fld cqLostCount c + 1) (2 ^ 32 - 1)))

/-- R369, R370, R371: the coalescing timer signals a ring with entries not yet signalled; an unmasked vector sends its message while
the link is up and a masked one sets its pending bit; a pass that an event has started submits its list; the global count at a multiple
of its period starts one pass of an armed list, or is discarded and counted. -/
def Obligations.SignalAndTriggerResults : Prop :=
  ∀ (s : State) (k : Nat), k < 64 →
    let d := s.dev
    (let quiet := d.updCq k fun c => { c with unsignalled := 0 }
     (d.cq k).unsignalled ≠ 0 → d.fld cqCfgCoalUs k ≠ 0 → d.flag cqCfgIrqEn k = true →
      (d.flag msixCtrlMask (d.fld cqCfgVector k) = false → linkUp d = true → exec (.coalTimerExpiry k) s = leaves s (quiet.emit (.msix
        (d.fld cqCfgVector k) (BitVec.ofNat 64 (d.fld msixAddrLoWord (d.fld cqCfgVector k) + 2 ^ 32 * d.fld msixAddrHiWord (d.fld cqCfgVector k)))
        (BitVec.ofNat 32 (d.fld msixDataWord (d.fld cqCfgVector k)))))) ∧
      (d.flag msixCtrlMask (d.fld cqCfgVector k) = true →
        let v := d.fld cqCfgVector k
        let o := rMsixPba + 4 * (v / 32)
        exec (.coalTimerExpiry k) s = leaves s { quiet with regs := bankSet d.regs o (bankWord d.regs o ||| BitVec.ofNat 32 (2 ^ (v % 32))) })) ∧
    (∀ i n, takesEvents d k 9 = false → (d.sq k).pass = some ⟨0, i, true⟩ → (d.sq k).armed = some n → 0 < n →
      ∃ u, exec (.triggeredPass k) s = leaves s u ∧ u = { d with sqs := u.sqs } ∧
        u.sq k = { d.sq k with pass := some ⟨0, i, false⟩ } ∧ ∀ m, m ≠ k → u.sq m = d.sq m) ∧
    (let p := d.fld sqTrigPeriodUs k
     let g := d.now / 1000
     takesEvents d k 9 = true → p ≠ 0 → waitSync d = false → (d.sq k).lastTick / p < g / p → (d.sq k).pass = none →
      ∃ u, exec (.triggeredPass k) s = leaves s u ∧ (u.sq k).lastTick = g ∧ (u.sq k).armed = (d.sq k).armed ∧
        ((d.sq k).armed = none → (u.sq k).pass = none ∧ u = { d.incFld sqDiscardCount k with sqs := u.sqs }) ∧
        (∀ n, (d.sq k).armed = some n → 0 < n →
          (cqRoom d (d.fld sqCfgCq k) n = true → (u.sq k).pass = some ⟨0, 1000 * (g / p * p), false⟩ ∧
            u = { d with sqs := u.sqs, cqs := u.cqs } ∧ (u.cq (d.fld sqCfgCq k)).reserved = (d.cq (d.fld sqCfgCq k)).reserved + n) ∧
          (cqRoom d (d.fld sqCfgCq k) n = false → (u.sq k).pass = none ∧ u = { d.incFld sqDiscardCount k with sqs := u.sqs })))

/-! ## Solve and Attend -/

/-- R199, R208, R210, R212, R218, R224: a ready problem whose inputs can be read starts on its reserved tiles once they are free; its
assembly ends with the iterations begun from valid data; an iteration counts on with the method's next iterate, or ends the problem
if the method failed; at the deadline the problem ends with its best or its fallback.
R212, R213, R220 to R222: an iterate that meets the internal targets ends the problem if its certificate passes them, is offered as
best if it passes the acceptances, and is suspect otherwise; at a checkpoint, and at the cap, it is offered as best if it passes the
acceptances; a best is replaced only by an iterate whose score is not larger. -/
def Obligations.ProblemResults : Prop :=
  (∀ (s : State) (j i : Nat) (p : Problem) (x : Job), s.dev.prob j i = some p → s.dev.job j = some x →
    let d := s.dev
    let timely : Prop := ∀ a, p.deadline = some a → d.now < a
    (∀ inp, probReady d p = true → p.t.kind ≠ 1 → p.t.asmPlace = 0 → p.reserved ≠ [] → d.flaws = [] → timely →
      (∀ t ∈ p.reserved, t < 136 ∧ tileFree d t = true ∧
        sooner d t (p.deadline.map fun a => (a, admOrder d p.job p.idx)) = false) →
      readInputs d p = .ok inp → seqMapBad d inp.map = false →
      ∃ u q, exec (.problemStart j i) s = leaves s u ∧ u.prob j i = some q ∧ q.phase = .assembling ∧ q.tiles = p.reserved ∧
        q.it = 0 ∧ q.best = none ∧ q.pivots = 0 ∧ q.deadline = p.deadline ∧ q.xhat = inp.xhat ∧ q.params = inp.params ∧
        q.weights = inp.weights ∧ (∀ t ∈ p.reserved, (u.tile t).job = some j ∧ u.fld tileStateState t = tsRunning)) ∧
    (probReady d p = false → exec (.problemStart j i) s = .next s) ∧
    (let r := assemble (coefBlock d p) p.t p.rcd.perStage p.params p.weights
     let pts := r.map (·.1)
     p.phase = .assembling → p.rcd.x0Src = 0 → p.taken = none → p.est = none →
      ((pts.all ptFinite && p.weights.all f64Pos) = true → pts.any ptNan = false → p.replayStop = none →
        ∃ u q, exec (.assemblyDone j i) s = leaves s u ∧ u.prob j i = some q ∧ q.phase = .iterating ∧ q.pts = pts ∧
          q.start = startIterate p pts ∧ q.cur = startIterate p pts ∧ q.it = p.it ∧ q.tiles = p.tiles ∧ q.asm = none) ∧
      ((pts.all ptFinite && p.weights.all f64Pos) = false → x.nanWatch = false → exec (.assemblyDone j i) s =
        leaves s (endProblem ((mergePts d p r).updProb j i fun q => { q with xhat := p.xhat }) j i stNumeric 4 .fallback))) ∧
    (∀ upset, p.phase = .iterating → (∀ a, p.deadline = some a → d.now ≤ a) →
      let r := methodStep p upset
      let e := (mergeTiles d p (r.flags p)).solvCount 6 r.pivots
      let q := { p with it := p.it + 1, pivots := (p.pivots + r.pivots) % 2 ^ 32 }
      let n := { q with cur := r.next }
      let due : Prop := p.t.method = 0 ∨ n.it % p.t.checkEvery = 0 ∨ n.it = p.rcd.itCap
      let failed : Dev := endProblem (e.updProb j i fun _ => q) j i stNumeric 4 .fallback
      x.nanWatch = false →
      (¬due → p.replayStop = none → exec (.solveIteration j i upset) s =
        leaves s (if r.fails p.t.prec = true then failed else e.updProb j i fun _ => n)) ∧
      (due → exec (.solveIteration j i upset) s =
        leaves s (if r.fails p.t.prec = true then failed else endAtCap (certifyIfDue (e.updProb j i fun _ => n) n) n))) ∧
    (∀ t, p.deadline = some t → p.phase ≠ .ended → x.phase = .running →
      (t ≤ d.now → exec (.deadlineExpiry j i) s = leaves s (match p.best with
        | some b => endProblem (p.atWork.foldl stopTile d) j i stDeadlineBest 2 (.iterate b 1)
        | none => endProblem (p.atWork.foldl stopTile d) j i stFallback 2 .fallback)) ∧
      (d.now < t → exec (.deadlineExpiry j i) s = .next s))) ∧
  (∀ (d : Dev) (p : Problem),
    let r := internalTest p.t p.pts p.xhat p.cur
    let c := certify p.t p.pts p.xhat p.cur
    let e := commitCert d p
    let checkpoint : Prop := 0 < p.t.checkEvery ∧ p.it % p.t.checkEvery = 0 ∧ passAccept p.rcd r = true
    ((d.job p.job).any (·.nanWatch) = false →
      (passTarget p.rcd r = true → certifyIfDue d p =
        if passTarget p.rcd c then endDone e p c else if passAccept p.rcd c then offerBest e p c else suspectEnd e p) ∧
      (passTarget p.rcd r = false → checkpoint ∨ p.it = p.rcd.itCap →
        certifyIfDue d p = if passAccept p.rcd c then offerBest e p c else e) ∧
      (passTarget p.rcd r = false → ¬checkpoint → p.it ≠ p.rcd.itCap → certifyIfDue d p = d)) ∧
    (∀ b, p.best = some b →
      (f64Le (score p.rcd c) (score p.rcd b.cert) = false → offerBest d p c = d) ∧
      (f64Le (score p.rcd c) (score p.rcd b.cert) = true → offerBest d p c =
        (writePlanCopy d p p.cur (1 - b.copy)).1.updProb p.job p.idx fun q => { q with best := some ⟨p.it, p.cur, c, 1 - b.copy⟩ })))

/-- R187, R277 to R283, R448: PGREQ looks its page entry up, from the lookaside buffer or through the walker; PGAPP sends rows to the
append's turn; a missed entry that comes back serves every page request that missed it, and changes whose lookups are all in go on. -/
def Obligations.WalkerResults : Prop :=
  ∀ (s : State) (t : Nat) (f : Fields) (r n : Nat),
    let d := s.dev
    let x := d.tile t
    let a := (x.xr f.ra).toNat
    let e : Dev := ({ d with nextXfer := d.nextXfer + 1 }).updTile t fun x => { x with inflight := x.inflight ++ [FabOp.mk d.nextXfer none] }
    let l : Lookup := { tile := t, op := d.nextXfer, seq := bits a 11 0, idx := bits a 25 16, part := bits f.mode 1 0, half := bits f.mode 2 2,
                        handle := f.h1, row := r, counter := fabCounter f, reserved := false, waiting := false, deadline := tileDeadline d t }
    (fabLocal (x.xr f.rb) = some (r, n) → x.inflight.length < 16 → Issues s t 0xA 0x00 f →
      tileLookups d t < 4 → (x.hnd f.h1).valid = true → (x.hnd f.h1).kind = 0 →
      r + (partRows (bits f.mode 1 0)).2 ≤ (x.hnd f.h1).rows →
      exec (.pgreq t f) s = completes s t (if (l.seq, l.idx) ∈ e.attn.lab then serveLookup (labLookup e l.seq l.idx).1 l
        else missLookup (e.attnCount 1) l)) ∧
    (let reqs : List RowReq := [⟨f.h1, (upto n).map (r + ·), false⟩]
     fabLocal (x.xr f.rb) = some (r, n) → x.inflight.length < 16 → Issues s t 0xA 0x01 f →
      RowsReady d t reqs → ReadsSound d t reqs {} →
      let d := marked d t reqs {}
      let x := d.tile t
      let g : Dev := ({ d with nextXfer := d.nextXfer + 1 }).updTile t fun x => { x with inflight := x.inflight ++ [FabOp.mk d.nextXfer (fabAck f)] }
      exec (.pgapp t f) s = completes s t (queueChange g (.app (.tile t d.nextXfer) (bits (x.xr f.ra).toNat 11 0) 0
        ((upto n).map fun i => x.rowData (x.hnd f.h1) (r + i))))) ∧
    (∀ q i u,
      let ls := d.attn.lookups.filter fun l => !l.waiting && l.seq = q && l.idx = i
      let read (g : Dev) : Dev := let w := walkerRead g q i u
        if w.2 then (w.1.loseEntry q i).labDrop q i else w.1
      (ls ≠ [] →
        let g : Dev := { d with attn := { d.attn with lookups := d.attn.lookups.filter fun l => !ls.contains l
                                                      lab := ((q, i) :: d.attn.lab.erase (q, i)).take 256 } }
        exec (.walkerMissReturn q i u) s =
          leaves s (pump (grantSlots ((ls.filter fun l => l.walk.isNone).foldl serveLookup (read g))))) ∧
      (ls = [] → (q, i) ∉ d.attn.lab → exec (.walkerMissReturn q i u) s = .next s))

/-- R291, R292: when the copy of a shared tail is complete, the sequence's last entry names the fresh page or pair and keeps the rest
of what it held; its other entries and every other sequence are as before.
R287: a commit makes the sequence longer by the tokens of its rows, ends the append, and its job is DONE; every other sequence is as
before. After either, changes that waited take their turns (R266).
R303: an entry of an ATTEND job is computed on its tile and its rows, statistics and scores are written; uncorrectable pages end the
job. R310, R311: a change from module 0 joins the order of changes; a row's partial result waits for this module's own, is combined
with it and goes on to the next module, or on module 0 is divided and written. -/
def Obligations.SequenceEventResults : Prop :=
  (∀ (s : State) (q : Nat) (a : Append) (src dst : Nat × Nat),
    let d := s.dev
    d.append q = some a → a.copy = some (src, dst) → d.flaws = [] → pagePoisoned d src.1 = false → pagePoisoned d src.2 = false →
    (d.seq q).entries ≠ [] → splitLost d (d.seq q) = false →
    let i := (d.seq q).entries.length - 1
    ∃ e old, exec (.pageCopyDone q) s = leaves s (pump e) ∧ (d.seq q).entries[i]? = some old ∧
      (e.seq q).entries[i]? = some { old with p0 := dst.1, p1 := dst.2 } ∧
      (∀ k < i, (e.seq q).entries[k]? = (d.seq q).entries[k]?) ∧ (∀ k, k ≠ q → e.seq k = d.seq k) ∧
      e.append q = some { a with copy := none }) ∧
  (∀ (s : State) (q : Nat) (a : Append),
    let d := s.dev
    let x := appendSeq d q a.d a.split
    let tail := x.entries.getLast?.getD { p0 := noPage }
    let n := a.rows.length / (2 * tokenHalves a.d)
    d.append q = some a → a.copy = none → d.flaws = [] → pagePoisoned d tail.p0 = false → pagePoisoned d tail.p1 = false →
    splitLost d x = false → 0 < n → x.entries.length + a.fresh.length = pagesOf (x.length + n) →
    ∃ e, exec (.appendCommit q) s = leaves s (pump e) ∧ (e.seq q).active = true ∧ (e.seq q).d = x.d ∧
      (e.seq q).length = x.length + n ∧
      (∀ k < x.entries.length - 1, (e.seq q).entries[k]? = x.entries[k]?) ∧ (∀ k, k ≠ q → e.seq k = d.seq k) ∧
      e.append q = none ∧
      (∀ j y, a.who = .job j → d.job j = some y → y.phase = .running →
        ∃ z, e.job j = some z ∧ z.phase = .ended ∧ z.status = stDone)) ∧
  (∀ (s : State) (j k : Nat) (a : AttendJob) (x : Job) (e : AttendEntry),
    let d := s.dev
    d.attendOf j = some a → d.job j = some x → a.entries[k]? = some e → e.done = false → (a.entries.take k).any (!·.done) = false →
    (d.tile e.tile).job = some j → d.fld tileStateState e.tile = tsRunning → d.flaws = [] → e.ring a = false →
    (exec (.attendOutputWrite j k true) s =
      leaves s (let g := match (pagesRead [e]).head? with
          | some p => foundUncorr d (pageAddr d p) ekJob
          | none => d
        pump (endJob (restTiles (dropAttend g a) j) j stUncorrectable))) ∧
    (∀ qs, (pagesRead [e]).any (pagePoisoned d) = false → readQueries d a (entryRows a e) = .ok qs → x.nanWatch = false →
      let rs := qs.map fun q => (q.1, q.2.1, rowPartial d x.strict a.d a.smScale q.2.2 e q.1)
      let parts := rs.map fun r => r.2.2.part r.2.1
      let outs := rs.map fun r => (r.2.1, rowOutput e r.1 r.2.2.m r.2.2.l r.2.2.o)
      let flags := outs.foldl (fun f o => o.2.2.2.foldl (fun f v => f ||| v.2) f) flNone
      let g := mergeFlags (noteRows d e.tile (rs.map (·.2.2))) e.tile flags
      let g := outs.foldl (fun g o => writeRow g a o.1 (o.2.1, o.2.2.1, o.2.2.2.map (·.1))) g
      let g := g.attnCount 10 (rs.filter fun r => !attendsAny e r.1).length
      let g := updateScores g e (entryMasses e a.hq ((parts.zip outs).map fun p => (p.1, p.2.2.1, p.2.2.2.1)))
      exec (.attendOutputWrite j k false) s =
        leaves s (endAttend (g.updAttend j fun a => { a with entries := listSet a.entries k { e with done := true } }) j))) ∧
  (∀ (s : State) (c : SplitChange),
    let d := s.dev
    (1 < d.ringCount → d.ringPos ≠ 0 → exec (.splitChangeMessage c) s =
      leaves s (pump { d with attn := { d.attn with waiting := d.attn.waiting ++ [.ring c] } })) ∧
    (d.ringPos = 0 → exec (.splitChangeMessage c) s = .next s)) ∧
  (∀ (s : State) (j row : Nat) (m l : U32) (o : List U32) (a : AttendJob) (x : Job) (e : AttendEntry),
    let d := s.dev
    let k := entryOfRow a row
    let r : RowPart := { row := row, m := m.toNat, l := l.toNat, o := o.map (·.toNat) }
    let note (e : AttendEntry) (g : Dev) : Dev :=
      g.updAttend j fun a => { a with ringRows := a.ringRows ++ [row], entries := listSet a.entries k e }
    d.attendOf j = some a → d.job j = some x → a.entries[k]? = some e → e.ring a = true → ringLost d a e = false →
    d.jobs.find? (fun y => y.desc.tag = x.desc.tag && y.desc.opcode = 0x20 && y.phase ≠ .ended) = some x →
    row ∉ a.ringRows → o.length = a.d → x.nanWatch = false →
    (e.done = false → (x.desc.tag, r) ∉ d.attn.early → exec (.ringSplitPartial j row m l o) s =
      leaves s { d with attn := { d.attn with early := d.attn.early ++ [(x.desc.tag, r)] } }) ∧
    (e.done = true → d.ringPos = 0 →
      let i := (row - e.row0) / a.hq
      let out := rowOutput e i r.m r.l r.o
      let g := mergeFlags d e.tile (out.2.2.foldl (fun f v => f ||| v.2) flNone)
      let g := if attendsAny e i then g else g.attnCount 10
      let g := note { e with finals := e.finals ++ [(row, out.1, out.2.1)] } (writeRow g a row (out.1, out.2.1, out.2.2.map (·.1)))
      exec (.ringSplitPartial j row m l o) s = leaves s (endAttend (closeEntry x k g) j)) ∧
    (∀ own, e.done = true → d.ringPos ≠ 0 → e.parts.find? (fun p => p.row = row) = some own →
      let c := combinePartial r own
      exec (.ringSplitPartial j row m l o) s = leaves s (endAttend (sendPartial (note e (mergeFlags d e.tile c.2)) x
        (if d.ringPos + 1 = e.ringM then 0 else d.ringPos + 1) c.1) j)))

/-- R274, R323: a page without pins moves to a free slot of the other store if every admitted item that reads it still fits, counted at
that store's terms; its bytes stand there when the move is done, and a page pinned or freed meanwhile stays and the slot is given
back. -/
def Obligations.PageMoveResults : Prop :=
  ∀ (s : State) (p : Nat) (toCanopy : Bool),
    let d := s.dev
    let i := d.page p
    let js := readersOf d p
    let moved := js.foldl recharge (d.setPage p { i with canopy := toCanopy })
    let free := if toCanopy then freeSlots d.attn.canopyUsed d.attn.canopySlots else freeSlots d.attn.ddrUsed d.attn.ddrSlots
    (i.alloc = true → i.pin = 0 → i.canopy = !toCanopy → (∀ m ∈ d.attn.moves, m.1 ≠ p) → js.all (stillFits moved) = true → free ≠ [] →
      ∃ k ∈ free, ∃ u, exec (.pageMove p toCanopy) s = leaves s u ∧
        u = { d with admitted := moved.admitted, freeCtr := u.freeCtr, attn := { d.attn with
          moves := d.attn.moves ++ [(p, toCanopy, k)]
          canopyUsed := if toCanopy then d.attn.canopyUsed ++ [k] else d.attn.canopyUsed
          ddrUsed := if toCanopy then d.attn.ddrUsed else d.attn.ddrUsed ++ [k] } }) ∧
    (i.pin ≠ 0 ∨ js.all (stillFits moved) = false → exec (.pageMove p toCanopy) s = .next s) ∧
    (∀ k, d.attn.moves.find? (fun m => m.1 = p) = some (p, toCanopy, k) →
      (i.alloc = true → i.pin = 0 → i.canopy = !toCanopy → d.flaws = [] →
        ∃ e : Dev, exec (.pageMoveDone p) s = leaves s e ∧ (e.page p).canopy = toCanopy ∧ (e.page p).slot = k ∧
          memReadN e.mem (pageAddr e p) pageBytes = memReadN d.mem (pageAddr d p) pageBytes ∧ (∀ q, q ≠ p → e.page q = d.page q) ∧
          e.attn.moves = d.attn.moves.erase (p, toCanopy, k)) ∧
      (i.alloc = false ∨ i.pin ≠ 0 →
        ∃ e : Dev, exec (.pageMoveDone p) s = leaves s e ∧ (∀ q, e.page q = d.page q) ∧ e.mem = d.mem ∧
          e.attn.moves = d.attn.moves.erase (p, toCanopy, k) ∧
          e.attn.canopyUsed = (if toCanopy then d.attn.canopyUsed.erase k else d.attn.canopyUsed) ∧
          e.attn.ddrUsed = (if toCanopy then d.attn.ddrUsed else d.attn.ddrUsed.erase k)))

/-! ## Registers, rings and the two ports -/

/-- R11, R12, R13: faulty accesses, and accesses to RSVD blocks, to SUP from the host and to unassigned offsets. A write changes
nothing but BAD_ACCESS; a read that is answered in time (R389) answers all ones, or zero. -/
def Obligations.FaultyAndUnassignedAccesses : Prop :=
  ∀ (s : State) (p : Port) (off size : Nat) (v : U64), portAlive s.dev p = true → portAsleep s.dev p = false →
    let bad := s.dev.setFld devErrStatusBadAccess 1
    let inTime := lateRead s.dev p off = false
    (size ≠ 4 ∧ size ≠ 8 ∨ off % size ≠ 0 →
      exec (.registerWrite p off size v) s = leaves s bad ∧
      (inTime → exec (.lowWordReadLatch p off size) s = leaves s (bad.emit (.readData p size (BitVec.ofNat 64 (2 ^ (8 * size) - 1)))))) ∧
    (∀ r, off % 8 = 0 → rsvdBlock off = false → ¬ (p = .host ∧ inSup off = true) → findReg off = some r → r.wide = false →
      (available s.dev p off true = true → exec (.registerWrite p off 8 v) s = leaves s bad) ∧
      (available s.dev p off false = true → inTime →
        exec (.lowWordReadLatch p off 8) s = leaves s (bad.emit (.readData p 8 (BitVec.allOnes 64))))) ∧
    (size = 4 ∨ size = 8 → off % size = 0 →
      (rsvdBlock off = true ∨ (p = .host ∧ inSup off = true) ∨ (findReg off = none ∧ available s.dev p off true = true) →
        exec (.registerWrite p off size v) s = leaves s bad) ∧
      (inTime → rsvdBlock off = true ∨ (p = .host ∧ inSup off = true) ∨ (findReg off = none ∧ available s.dev p off false = true) →
        exec (.lowWordReadLatch p off size) s = leaves s (bad.emit (.readData p size 0))))

/-- R10: a 64-bit register accessed as two words. A read of the low word latches the high one for the port's next read of it; a
write of the low word waits for the high word, and both take effect as one write; a high word alone goes with the present low one. -/
def Obligations.TwoWordAccesses : Prop :=
  ∀ (s : State) (p : Port) (r : RDef) (i : Nat) (lo hi : U32),
    let d := s.dev
    let off := r.at i
    let val := readReg p r i d
    r.wide = true →
    (Reached d p off 4 false r i →
      ∃ t, exec (.lowWordReadLatch p off 4) s = .next t ∧
        t.dev.out = val.1.out ++ [.readData p 4 (BitVec.ofNat 64 (val.2 % 2 ^ 32))] ∧
        ∀ u : State, portState u.dev p = portState t.dev p → Reached u.dev p (off + 4) 4 false r i →
          ∃ w, exec (.lowWordReadLatch p (off + 4) 4) u = .next w ∧
            w.dev.out = u.dev.out ++ [.readData p 4 (BitVec.ofNat 64 (val.2 / 2 ^ 32 % 2 ^ 32))]) ∧
    (Reached d p off 8 true r i → Reached d p off 4 true r i → Reached d p (off + 4) 4 true r i →
      let x := portState d p
      let free : State := { s with dev := setPortState d p { x with held := mapErase x.held off } }
      (∃ t, exec (.registerWrite p off 4 (lo.setWidth 64)) s = .next t ∧ t.dev.regs = d.regs ∧ t.dev.supRegs = d.supRegs ∧
        exec (.registerWrite p (off + 4) 4 (hi.setWidth 64)) t = exec (.registerWrite p off 8 (hi ++ lo)) free) ∧
      (mapFind x.held off = none →
        exec (.registerWrite p (off + 4) 4 (hi.setWidth 64)) s =
          exec (.registerWrite p off 8 (hi ++ bankWord (if r.perPort then portBank d p else d.regs) off)) s))

/-- R14, R15, R16: a write of a register whose fields only hold settings and error bits. Each field follows its access code; bits of no
field keep what they hold; a discarded change of an RWL field sets LOCKED_WRITE; nothing else changes. -/
def Obligations.WritesFollowFieldCodes : Prop :=
  ∀ (s : State) (p : Port) (off : Nat) (v : U64) (r : RDef) (i : Nat),
    let d := s.dev
    let size := if r.wide then 8 else 4
    let locked := d.flag devCtrlSetupLock
    let old := bankReg d.regs r.wide (r.at i)
    Reached d p off size true r i → plainRegister r = true →
    ∃ w, exec (.registerWrite p off size v) s =
        leaves s (({ d with regs := bankRegSet d.regs r.wide (r.at i) w } : Dev).setIf
          (locked && r.fields.any fun f => f.acc = .rwl && decide (bits old f.hi f.lo ≠ bits v.toNat f.hi f.lo))
          devErrStatusLockedWrite 1) ∧
      (∀ f ∈ r.fields,
        (f.acc = .rw → bits w f.hi f.lo = bits v.toNat f.hi f.lo) ∧
        (f.acc = .rwl → bits w f.hi f.lo = if locked then bits old f.hi f.lo else bits v.toNat f.hi f.lo) ∧
        (f.acc = .w1c → bits w f.hi f.lo = bits old f.hi f.lo - (bits old f.hi f.lo &&& bits v.toNat f.hi f.lo)) ∧
        (f.acc = .ro ∨ f.acc = .rc → bits w f.hi f.lo = bits old f.hi f.lo)) ∧
      ∀ k, (∀ f ∈ r.fields, ¬ (f.lo ≤ k ∧ k ≤ f.hi)) → w.testBit k = old.testBit k

/-- The four conditions under which a doorbell acts: the link is up, the page exists, the write has 32 bits, the module is ready. -/
def Obligations.DoorbellResults : Prop :=
  ∀ (s : State) (k : Nat) (v : U32),
    let d := s.dev
    let n := sqSize d k
    let h := d.fld sqStatusHead k
    let t := v.toNat % 65536
    (linkUp d = true → k < 64 → d.flag devStatusReady = true →
      (sqRunning d k = false → exec (.sqTailDb k 4 v) s = leaves s (d.setFld sqStatusDbErr 1 k)) ∧
      (sqRunning d k = true → d.flag sqCfgTriggered k = false →
        (t < n → ringDist n h (d.sq k).tail ≤ ringDist n h t →
          exec (.sqTailDb k 4 v) s = leaves s (d.updSq k fun q => { q with tail := t })) ∧
        (n ≤ t ∨ ringDist n h t < ringDist n h (d.sq k).tail →
          ∃ u, exec (.sqTailDb k 4 v) s = .next u ∧ u.dev.fld sqStatusDbErr k = 1 ∧ (u.dev.sq k).halted = true ∧
            (u.dev.sq k).tail = (d.sq k).tail)) ∧
      (sqRunning d k = true → d.flag sqCfgTriggered k = true →
        ((d.sq k).armed = none → t < n → exec (.sqTailDb k 4 v) s = leaves s (d.updSq k fun q => { q with armed := some t })) ∧
        ((d.sq k).armed = none → n ≤ t →
          ∃ u, exec (.sqTailDb k 4 v) s = .next u ∧ u.dev.fld sqStatusDbErr k = 1 ∧ (u.dev.sq k).halted = true ∧
            (u.dev.sq k).armed = none) ∧
        ((d.sq k).armed ≠ none → exec (.sqTailDb k 4 v) s = leaves s (d.setFld sqStatusDbErr 1 k))) ∧
      (let m := cqSize d k
       let c := d.cq k
       (m ≤ t ∨ c.used < ringDist m c.head t → exec (.cqHeadDb k 4 v) s = leaves s (d.setFld cqStatusDbErr 1 k)) ∧
       (t < m → ringDist m c.head t ≤ c.used → d.replays = [] →
         exec (.cqHeadDb k 4 v) s = leaves s (d.updCq k fun c => { c with head := t, used := c.used - ringDist m c.head t }))) ∧
      (v = 0xAB0B → exec (.abortDb k 4 v) s = leaves s (startAbort { scope := 1, mask := 2 ^ k } d)) ∧
      (v ≠ 0xAB0B → exec (.abortDb k 4 v) s = leaves s d) ∧
      (∀ size, size ≠ 4 → ∀ c ∈ [Instr.sqTailDb k size v, .cqHeadDb k size v, .abortDb k size v],
        exec c s = leaves s (d.setFld devErrStatusBadAccess 1))) ∧
    (linkUp d = true → k < 64 → d.flag devStatusReady = false → ∀ c ∈ [Instr.sqTailDb k 4 v, .cqHeadDb k 4 v, .abortDb k 4 v],
      exec c s = leaves s (d.setFld devErrStatusNotReady 1)) ∧
    (linkUp d = false ∨ 64 ≤ k → ∀ size, ∀ c ∈ [Instr.sqTailDb k size v, .cqHeadDb k size v, .abortDb k size v], exec c s = .next s)

/-- R358, R367, R369: ENABLE of a submission or completion ring, and the mask bit of a vector. The settings that the write carries
besides ENABLE equal those in force.
The supervisor queue's tail and head (R390): a value that names more is taken, one that would take entries back is discarded and
sets Q_ERR. -/
def Obligations.RingEnableResults : Prop :=
  (∀ (s : State) (k : Nat) (v : U32) (p : Port) (off : Nat),
    let d := s.dev
    let old := bankWord d.regs off
    k < 64 → (∃ r, Reached d p off 4 true r k) →
    (off = rSqCfg + 0x20 * k →
      (old = v &&& ~~~1#32 → d.flag sqStatusStopped k = true →
        ∃ u, exec (.sqEnable p k v) s = .next u ∧ u.dev.flag sqCfgEnable k = true ∧ u.dev.fld sqStatusHead k = 0 ∧
          (u.dev.sq k).tail = 0 ∧ u.dev.flag sqStatusStopped k = false ∧ (∀ c, u.dev.cq c = d.cq c) ∧ u.dev.jobs = d.jobs) ∧
      (old = v ||| 1 → (d.sq k).pass = none →
        ∃ u, exec (.sqDisable p k v) s = .next u ∧ u.dev.flag sqCfgEnable k = false ∧ u.dev.jobs = d.jobs ∧
          (u.dev.flag sqStatusStopped k = true ↔ ∀ x ∈ d.jobs, x.q ≠ k))) ∧
    (off = rCqCfg + 0x20 * k → d.replays = [] →
      (old = v &&& ~~~1#32 → d.flag cqStatusStopped k = true →
        ∃ u, exec (.cqEnable p k v) s = .next u ∧ u.dev.flag cqCfgEnable k = true ∧ u.dev.fld cqStatusTail k = 0 ∧
          u.dev.fld cqStatusPhase k = 1 ∧ (u.dev.cq k).head = 0 ∧ (u.dev.cq k).used = 0) ∧
      (old = v ||| 1 → ∃ u, exec (.cqDisable p k v) s = .next u ∧ u.dev.flag cqCfgEnable k = false ∧ u.dev.jobs = d.jobs)) ∧
    (off = rMsixCtrl + 0x10 * k → bit old.toNat 0 = true →
      (bit (bankWord d.regs (rMsixPba + 4 * (k / 32))).toNat (k % 32) = false →
        ∃ u, exec (.msixUnmask p k) s = .next u ∧ u.dev.flag msixCtrlMask k = false ∧ u.dev.out = d.out) ∧
      (bit (bankWord d.regs (rMsixPba + 4 * (k / 32))).toNat (k % 32) = true → linkUp d = true →
        ∃ u a x, exec (.msixUnmask p k) s = .next u ∧ u.dev.flag msixCtrlMask k = false ∧
          bit (bankWord u.dev.regs (rMsixPba + 4 * (k / 32))).toNat (k % 32) = false ∧ u.dev.out = d.out ++ [.msix k a x]))) ∧
  (∀ (s : State) (v : U32),
    let d := s.dev
    let h := d.fld supqHeadIndex
    let x := v.toNat % 16
    (∃ r, Reached d .spadja rSupqTail 4 true r 0) → (∃ r, Reached d .spadja rSupcqHead 4 true r 0) →
    (ringDist 16 h (d.fld supqTailIndex) ≤ ringDist 16 h x →
      exec (.supqTail .spadja v) s = leaves s (d.setFld supqTailIndex x)) ∧
    (ringDist 16 h x < ringDist 16 h (d.fld supqTailIndex) →
      exec (.supqTail .spadja v) s = leaves s (d.setFld supStatusQErr 1)) ∧
    (let m := ringDist 16 (d.fld supcqHeadIndex) x
     ((d.cq 64).used < m → exec (.supcqHead .spadja v) s = leaves s (d.setFld supStatusQErr 1)) ∧
     (m ≤ (d.cq 64).used → d.replays = [] →
       ∃ u, exec (.supcqHead .spadja v) s = .next u ∧ u.dev.fld supcqHeadIndex = x ∧ (u.dev.cq 64).used = (d.cq 64).used - m ∧
         u.dev.fld supStatusCplPending = b2n (decide ((d.cq 64).used ≠ m)) ∧
         SameRegsBut d u.dev [rSupcqHead, rSupStatus])) ∧
    (linkUp d = true → exec (.supqTail .host v) s = leaves s (d.setFld devErrStatusBadAccess 1) ∧
      exec (.supcqHead .host v) s = leaves s (d.setFld devErrStatusBadAccess 1)))

/-- R16, R547, R551: the write of SETUP_LOCK by either port. Before READY it is discarded and NOT_READY sets; after READY the lock-time
actions are applied and LOCK_DONE sets; written again it changes nothing.
R541: DEV_RESET with its key, from the Spadja port alone: every domain but Clearing and Spadja, and the start-up begins again.
Another value is ignored; the host's write is faulty. -/
def Obligations.SetupLockAndResetResults : Prop :=
  (∀ (s : State) (p : Port),
    let d := s.dev
    let top := 0x07FFE00000 - 0x08000000 - 0x10000000 - 69632 * d.fld attnPoolDdrPages
    (∃ r, Reached d p rDevCtrl 4 true r 0) →
    (d.flag devStatusReady = false → exec (.setupLock p) s = leaves s (d.setFld devErrStatusNotReady 1)) ∧
    (d.flag devStatusReady = true → d.flag devCtrlSetupLock = true → exec (.setupLock p) s = .next s) ∧
    (d.flag devStatusReady = true → d.flag devCtrlSetupLock = false →
      ∃ u, exec (.setupLock p) s = .next u ∧ SameBesideDev s u ∧
        u.dev.flag devCtrlSetupLock = true ∧ u.dev.flag devStatusLockDone = true ∧
        (0x40000000 ≤ top → u.dev.fld memUserTopAddr = top) ∧
        (top < 0x40000000 → u.dev.fld attnStatusPoolCfgErr = 1) ∧
        u.dev.fld forStatusShareErr = b2n (shareBad d) ∧ u.dev.fld hostqStatusFifoCfgErr = b2n (fifoBad d) ∧
        u.dev.fld netStatusTmplErr = b2n (templateErr d) ∧ u.dev.jobs = d.jobs)) ∧
  (∀ (s : State) (v : U32),
    let d := s.dev
    ((∃ r, Reached d .spadja rDevReset 4 true r 0) →
      (v = 0xB007 →
        ∃ u, exec (.devReset .spadja v) s = .next u ∧ SameBesideDev s u ∧ u.dev.fld devRstCauseLast = 3 ∧
          u.dev.flag devStatusReady = false ∧ u.dev.flag devCtrlSetupLock = false ∧ u.dev.boot.running = true ∧
          u.dev.fld devStatusStage = 0 ∧ u.dev.jobs = [] ∧ u.dev.mem = [] ∧ u.dev.sqs = [] ∧ u.dev.cqs = [] ∧ u.dev.time = 0 ∧ u.dev.clr = d.clr ∧
          (∀ r ∈ regTable, r.dom = .clearing → ∀ i < r.count, bankWord u.dev.regs (r.at i) = bankWord d.regs (r.at i)) ∧
          (∀ r ∈ regTable, r.dom = .loop ∨ r.dom = .network ∨ r.dom = .host → ∀ i < r.count, ∀ f ∈ r.fields,
            bits (bankReg u.dev.regs r.wide (r.at i)) f.hi f.lo = f.rst)) ∧
      (v ≠ 0xB007 → exec (.devReset .spadja v) s = .next s)) ∧
    ((∃ r, Reached d .host rDevReset 4 true r 0) → exec (.devReset .host v) s = leaves s (d.setFld devErrStatusBadAccess 1)))

/-- R393: the safe state. Entry by the supervisor's write, what it leaves, and that a second entry changes nothing; the exit, which
is ignored while a cause holds; the host's writes are faulty (R13).
R391, R392: the challenge, the response and the time-out of the heartbeat. -/
def Obligations.SafeStateResults : Prop :=
  (∀ (s : State),
    let d := s.dev
    (safeState d = true → ∀ cause, enterSafe cause d = d) ∧
    (safeState d = false → ∀ cause ∈ [1, 2, 3, 4],
      let e := enterSafe cause d
      e.fld supSafeStatusSafe = 1 ∧ e.fld supSafeStatusSafeCause = cause ∧ e.fld supStatusSafe = 1 ∧ e.fld devStatusReady = 0 ∧
        e.fld devStatusStage = 0 ∧ e.boot.running = false ∧ (∀ k < 64, e.flag sqCfgEnable k = false) ∧
        ∀ t < tileCount, e.fld tileStateState t ≠ tsRunning) ∧
    ((∃ r, Reached d .spadja rSupSafe 4 true r 0) →
      exec (.safeEnterWrite .spadja) s = leaves s (enterSafe 1 d) ∧
      (safeState d = true → causeHolds d = false → d.mgmt.switching = [] →
        ∃ u, exec (.safeExitWrite .spadja) s = .next u ∧ SameBesideDev s u ∧ safeState u.dev = false ∧
          u.dev.fld devRstCauseLast = 4 ∧ u.dev.flag devStatusLockDone = false ∧
          (d.boot.running = false → u.dev.fld devStatusStage = 3) ∧ u.dev.boot.running = true ∧ u.dev.jobs = [] ∧
          u.dev.flag devCtrlSetupLock = d.flag devCtrlSetupLock ∧ linkUp u.dev = linkUp d ∧
          (∀ k < 64, u.dev.flag sqCfgEnable k = false) ∧ u.dev.time = d.time) ∧
      (safeState d = true → causeHolds d = true → d.mgmt.switching = [] → exec (.safeExitWrite .spadja) s = .next s)) ∧
    (linkUp d = true → ∀ c ∈ [Instr.safeEnterWrite .host, .safeExitWrite .host], exec c s = leaves s (d.setFld devErrStatusBadAccess 1))) ∧
  (∀ (s : State),
    let d := s.dev
    (∀ v, (∃ r, Reached d .spadja rSupHbChal 4 true r 0) →
      ∃ u, exec (.hbChallenge .spadja v) s = .next u ∧ SameBesideDev s u ∧ u.dev.mgmt.chal = some v ∧
        SameRegsBut d u.dev [rSupHbChal] ∧ u.dev.jobs = d.jobs) ∧
    (∀ v hub keeper dog, d.mgmt.chal = some v → fwReady d = true →
      (hub = true ∧ keeper = true ∧ dog = true →
        ∃ u, exec (.hbResponse hub keeper dog) s = .next u ∧ u.dev.fld supHbRespEcho = v.toNat ∧
          u.dev.fld supHbRespResp = (v.rotateLeft 13 ^^^ 0x5EEDC0DE).toNat ∧
          (d.fld supHbCountCount < 2 ^ 32 - 1 → u.dev.fld supHbCountCount = d.fld supHbCountCount + 1) ∧
          SameRegsBut d u.dev [rSupHbResp, rSupHbResp + 4, rSupHbCount]) ∧
      (¬ (hub = true ∧ keeper = true ∧ dog = true) →
        exec (.hbResponse hub keeper dog) s = leaves s { d with mgmt := { d.mgmt with chal := none } })) ∧
    (d.boot.powered = true → d.fld supHbCfgTimeoutMs ≠ 0 → d.flag devStatusLockDone = true → safeState d = false →
      ∃ u, exec .hbTimeout s = .next u ∧ u.dev.flag supStatusSupLost = true ∧
        (d.flag supHbCfgLostSafe = true → safeState u.dev = true ∧ u.dev.fld supSafeStatusSafeCause = 2) ∧
        (d.flag supHbCfgLostSafe = false → safeState u.dev = false ∧ u.dev.jobs = d.jobs)) ∧
    (d.fld supHbCfgTimeoutMs = 0 ∨ d.flag devStatusLockDone = false ∨ safeState d = true → exec .hbTimeout s = .next s))

/-! ## Time, ports and mailbox -/

/-- R398 to R400, R408, R421, R521, R538, R539: device time, its steps, its reference, stamps and the pulse per second. On an empty queue
one LOOP tick passes, and what goes on by itself during it (notes/assumptions/4, 120, 127); where nothing does, device time alone
changes. -/
def Obligations.TimeResults : Prop :=
  ∀ (s : State),
    let d := s.dev
    let e : Dev := { d with time := unsx 96 ((d.time : Int) + d.timeStep * 2 ^ 32 + d.fld timeIncInc), timeStep := 0 }
    (s.pending = [] →
      step s = leaves s (tilesTick e) ∧
      ((∀ x ∈ d.tiles, d.fld tileStateState x.1 ≠ tsRunning ∧ (d.tile x.1).untested = false) →
        d.attn.pinWait = [] → d.attn.waiting = [] → d.attn.walks = [] → (∀ k < 64, takesEvents d k 9 = false) → step s = leaves s e) ∧
      (∀ t x, d.tiles = [(t, x)] → d.fld tileStateState t = tsRunning → x.untested = false →
        d.attn.pinWait = [] → d.attn.waiting = [] → d.attn.walks = [] → (∀ k < 64, takesEvents d k 9 = false) →
        step s = leaves s (e.updTile t fun y => { y with pace := { y.pace with cycle := y.pace.cycle + 3 } }))) ∧
    (∀ p v, (∃ r, Reached d p rTimeInc 8 true r 0) →
      ∃ u, exec (.timeIncWrite p v) s = .next u ∧
        u.dev.fld timeIncInc = max 0x27FAE147B (min 0x28051EB85 v.toNat) ∧ u.dev.time = d.time) ∧
    (∀ p v, (∃ r, Reached d p rTimeStep 8 true r 0) →
      (d.flag devCtrlSetupLock = false → exec (.timeStepWrite p v) s = leaves s { d with timeStep := d.timeStep + v.toInt }) ∧
      (d.flag devCtrlSetupLock = true → ∃ u, exec (.timeStepWrite p v) s = .next u ∧ u.dev.timeStep = d.timeStep ∧ u.dev.time = d.time)) ∧
    (∀ p sel, (∃ r, Reached d p rClkCtrl 4 true r 0) → d.flag devCtrlSetupLock = false →
      ∃ u, exec (.refSelWrite p sel) s = .next u ∧ u.dev.fld clkCtrlRefSel = b2n sel ∧ u.dev.time = d.time ∧
        (d.fld clkCtrlRefSel ≠ b2n sel → u.dev.fld clkStatusSwitching = 1) ∧
        (d.fld clkCtrlRefSel = b2n sel → u.dev.fld clkStatusSwitching = d.fld clkStatusSwitching)) ∧
    exec .refSwitchoverDone s = leaves s (d.setFld clkStatusSwitching 0) ∧
    (d.boot.powered = true → d.fld clkCtrlRefSel = 1 →
      (d.boot.extLost = false → ∃ u, exec .extrefLoss s = .next u ∧ u.dev.fld clkStatusRefLost = 1 ∧ u.dev.fld clkStatusSwitching = 1 ∧
        u.dev.boot.extLost = true ∧ u.dev.time = d.time) ∧
      (d.boot.extLost = true → ∃ u, exec .extrefRestore s = .next u ∧ u.dev.fld clkStatusSwitching = 1 ∧ u.dev.boot.extLost = false ∧
        u.dev.time = d.time)) ∧
    (∀ gm : U64, servoOn d = true → d.flag timeCtrlDlWaitSync = true → d.synced = false → d.flag timeStatusStepped = false →
      16 ≤ d.net.measured →
      (d.now < gm.toNat → exec (.timeSyncStep gm) s = leaves s (({ d with time := gm.toNat * 2 ^ 32 } : Dev).setFld timeStatusStepped 1)) ∧
      (gm.toNat ≤ d.now → exec (.timeSyncStep gm) s = .next s)) ∧
    (servoOn d = true → ∃ u, exec .syncTimeout s = .next u ∧ u.dev.fld timeStatusSynced = 0 ∧ u.dev.fld timeStatusHoldover = 1 ∧
      u.dev.fld timeIncInc = d.fld timeIncInc ∧ u.dev.time = d.time) ∧
    (∀ n : U64, d.net.stepDue = true → noTimedWork d = true → d.now < n.toNat →
      ∃ u, exec (.timeAlignStep n) s = .next u ∧ u.dev.time = n.toNat * 2 ^ 32 ∧ u.dev.fld timeStatusStepped = 1 ∧ u.dev.net.stepDue = false) ∧
    (∀ stamp, d.boot.powered = true →
      exec (.ppsInEdge stamp) s = leaves s { d with mgmt := { d.mgmt with ppsStamp := some stamp } }) ∧
    (d.boot.powered = true → d.ppsHigh = false → d.ppsSecond < d.now / 10 ^ 9 →
      exec (.ppsOutPulse true) s = leaves s { d with ppsHigh := true, ppsSecond := d.now / 10 ^ 9 }) ∧
    exec (.ppsOutPulse false) s = leaves s { d with ppsHigh := false } ∧
    (∀ p, ∀ n < 5, (∃ r, Reached d p (rTimeTsqInfo + 0x10 * n) 4 false r n) → ∀ t id l, (d.port n).stamps = (t, id) :: l →
      ∃ u, exec (.tsqInfoRead p n) s = .next u ∧ (u.dev.port n).stamps = l ∧
        u.dev.out = d.out ++ [.readData p 4 (BitVec.ofNat 64 (id % 65536 + 2 ^ 16 + 2 ^ 24 * (t / 2 ^ 24 % 256)))] ∧
        u.dev.pfld p timeTsqStampNs n = t / 2 ^ 32 % 2 ^ 64)

/-- R387, R388: a read command's answer and the effect of a write, by the bytes on the wire; what is malformed has no effect but CRC_ERR
and CRC_COUNT.
R388: the CRC is CRC-16 with polynomial 0x1021 and initial value 0xFFFF, not reflected: it is the register of the bit-serial
division, byte by byte, most significant bit first.
R389, R509: a read that is not answered in time, or comes while the module is asleep and is not of the CLR block, returns 0xFFFFFFFF and
sets RD_TIMEOUT; the TILE windows and MGMT alone may answer late, and when they do is left open (notes/assumptions/140). -/
def Obligations.SpadjaTransactionResults : Prop :=
  (∀ (s : State) (off size : Nat), s.dev.clr.on = true →
    (s.dev.clr.asleep = true → inClr off = false →
      exec (.lowWordReadLatch .spadja off size) s = leaves s ((s.dev.setFld supStatusRdTimeout 1).emit (.readData .spadja size 0xFFFFFFFF))) ∧
    (∀ r i, s.dev.clr.asleep = false → reach s.dev .spadja off 4 false = .reg r i → r.wide = false →
      ∃ u v, exec (.lowWordReadLatch .spadja off 4) s = .next u ∧ u.dev.out = s.dev.out ++ [.readData .spadja 4 (BitVec.ofNat 64 v)] ∧
        (v = (readReg .spadja r i (if slowBlock off then s.dev.bump else s.dev)).2 ∨
          (slowBlock off = true ∧ v = 0xFFFFFFFF ∧ u.dev.fld supStatusRdTimeout = 1)))) ∧
  (∀ (s : State) (w : List Byte),
    let d := s.dev
    let crcErr := (d.setFld supStatusCrcErr 1).incFld supStatusCrcCount
    let out (n : Nat) (data : List Byte) (e : Dev) := leaves s (e.emit (.spadja (data ++ beBytes 2 (crc16 (w.take n ++ data)))))
    WireAwake d →
    (w.take 2 = [0x9F, 0x60] → exec (.readId w) s = out 2 [0x4D, 0x49, 0x48, 0x56, 0x80, 0x01, 0x01, 0x00] d) ∧
    (w.take 2 = [0x05, 0xFA] → exec (.spadjaStatus w) s = out 2 (leBytes 4 (bankWord d.regs rSupStatus).toNat) d) ∧
    (w.take 2 = [0xA5, 0x5A] → 6 ≤ w.length →
      (∀ r, wireCount w = 1 → Reached d .spadja (wireAddr w) 4 false r (r.index (wireAddr w)) → r.wide = false →
        let v := readReg .spadja r (r.index (wireAddr w)) (if slowBlock (wireAddr w) then d.bump else d)
        exec (.spadjaRead w) s = out 6 (leBytes 4 v.2) v.1) ∧
      ∃ u bytes, exec (.spadjaRead w) s = .next u ∧ bytes.length = 4 * wireCount w ∧
        u.dev.out = d.out ++ [.spadja (bytes ++ beBytes 2 (crc16 (w.take 6 ++ bytes)))]) ∧
    (w.take 2 = [0x5A, 0xA5] →
      (wireCount w = 1 → w.length = 12 → crcGood w = true →
        exec (.spadjaWrite w) s = exec (.registerWrite .spadja (wireAddr w) 4 (BitVec.ofNat 64 (leNat ((w.drop 6).take 4)))) s) ∧
      (∀ r, w.length = 8 + 4 * wireCount w → crcGood w = true → wireCount w = 1 →
        Reached d .spadja (wireAddr w) 4 true r (r.index (wireAddr w)) → plainRegister r = true → r.wide = false →
        d.flag devCtrlSetupLock = false → (∀ f ∈ r.fields, f.acc = .rw ∨ f.acc = .rwl) →
        ∃ x : U32, exec (.spadjaWrite w) s = .next { s with dev := { d with regs := bankSet d.regs (wireAddr w) x } } ∧
          (∀ f ∈ r.fields, bits x.toNat f.hi f.lo = bits (leNat ((w.drop 6).take 4)) f.hi f.lo) ∧
          ∀ k < 32, (∀ f ∈ r.fields, ¬ (f.lo ≤ k ∧ k ≤ f.hi)) → x.getLsbD k = (bankWord d.regs (wireAddr w)).getLsbD k) ∧
      (w.length = 8 + 4 * wireCount w → crcGood w = true →
        ∃ u, exec (.spadjaWrite w) s = .next u ∧
          u = ((upto (wireCount w)).foldl (fun v i => portWrite .spadja (wireAddr w + 4 * i) 4 (recLe w (6 + 4 * i) 4) v) s)) ∧
      (w.length ≠ 8 + 4 * wireCount w ∨ crcGood w = false → exec (.spadjaWrite w) s = leaves s crcErr)) ∧
    (w.take 2 = [0xC3, 0x3C] →
      (keyGood w 0xAB0B = false → exec (.spadjaAbort w) s = leaves s crcErr) ∧
      (keyGood w 0xAB0B = true → d.boot.powered = true →
        ∃ u, exec (.spadjaAbort w) s = .next u ∧ ∀ k < 64, (startAbort { scope := 3 } d).flag sqCfgTriggered k = true →
          u.dev.flag sqCfgEnable k = false)) ∧
    (w.take 2 = [0x3C, 0xC3] →
      (keyGood w 0x5AFE = false → exec (.spadjaSafe w) s = leaves s crcErr) ∧
      (keyGood w 0x5AFE = true → d.boot.powered = true → exec (.spadjaSafe w) s = leaves s (enterSafe 1 d))) ∧
    (w.take 2 ∉ ([[0x9F, 0x60], [0x05, 0xFA], [0xA5, 0x5A], [0x5A, 0xA5], [0xC3, 0x3C], [0x3C, 0xC3]] : List (List Byte)) →
      ∀ c ∈ [Instr.readId w, .spadjaRead w, .spadjaWrite w, .spadjaStatus w, .spadjaAbort w, .spadjaSafe w],
        exec c s = leaves s crcErr) ∧
    (∃ u, exec .spadjaReset s = .next u ∧ u.dev.sup = {} ∧ SameBesideDev s u ∧ u.dev.jobs = d.jobs ∧
      ∀ r ∈ regTable, r.dom = .spadja → r.perPort = false → ∀ i < r.count, ∀ f ∈ r.fields, f.acc ≠ .rwl →
        bits (bankReg u.dev.regs r.wide (r.at i)) f.hi f.lo = f.rst)) ∧
  (crc16 [] = 0xFFFF ∧ (∀ l b, crc16 (l ++ [b]) = crcByte (crc16 l) b) ∧ (∀ l, crc16 l < 65536) ∧
    (∀ l, crc16 (l ++ beBytes 2 (crc16 l)) = 0) ∧ crc16 [0x31, 0x32, 0x33, 0x34, 0x35, 0x36, 0x37, 0x38, 0x39] = 0x29B1)

/-- R495 to R498, R503 to R505, R513, R514: the commands of attestation, log, fuses and calibration. -/
def Obligations.MailboxSecurityResults : Prop :=
  ∀ (s : State) (p : Port) (e : Bool),
    let d := s.dev
    let f := s.nv.fuses
    let req := mboxRequest d p
    let n := recLe req 0 1
    let runs (c : Instr) (code : Nat) (resp : List Byte) (nv : NonVol) : Prop := ∃ u, exec c s = .next u ∧ Answered u.dev p code resp ∧ u.nv = nv
    (MailboxReady s p 0x01 → req.length = 64 →
      ∃ resp, runs (.getAttest p e) 0 resp s.nv ∧ resp.take 4 = [1, 0, 0, 0] ∧ (resp.drop 28).take 1 = leBytes 1 f.f ∧
        (resp.drop 32).take 64 = req ∧ (resp.drop 96).take 8 = leBytes 8 d.now ∧ (resp.drop 104).take 24 = List.replicate 24 0) ∧
    (MailboxReady s p 0x02 → runs (.getCerts p e) 0 (Config.certChain ++ akCertificate d) s.nv) ∧
    (MailboxReady s p 0x03 → req.length = 2 →
      (recLe req 0 2 < 1024 → runs (.readLog p false) 0 (sectorBytes (mapGet {} s.nv.log (recLe req 0 2))) s.nv ∧
        runs (.readLog p true) 7 [] s.nv) ∧
      (1024 ≤ recLe req 0 2 → runs (.readLog p e) 1 [] s.nv)) ∧
    (MailboxReady s p 0x14 → req.length = 1 →
      let ok := decide (f.f < n) && ([1, 2, 3, 4].all fun k => match s.activeImg k with
        | some i => decide (n ≤ i.svn)
        | none => false) && !s.inTrial && decide (n ≤ 64)
      (ok = true → runs (.ratchet p e) 0 [] { s.nv with fuses := { f with f := n } }) ∧
      (ok = false → runs (.ratchet p e) 3 [] s.nv)) ∧
    (MailboxReady s p 0x15 → req.length = 256 →
      let signer := recLe req 1 1
      let genuine := decide (n < 4 ∧ signer < 4 ∧ signer ≠ n) && !bit f.revoked.toNat signer &&
        decide ((req.drop 16).take 16 = List.replicate 16 0 ∨ (req.drop 16).take 16 = moduleSerial) &&
        ecVerify (beBytes 133 (Config.slotKey signer).toNat) (sha512 (req.take 124)) (req.drop 124)
      let last := decide (n < 4) && (upto 4).all fun k => decide (k = n) || bit f.revoked.toNat k
      (last = true → runs (.revoke p e) 4 [] s.nv) ∧
      (last = false → genuine = false → runs (.revoke p e) 2 [] s.nv) ∧
      (genuine = true → slotInUse s n = true → runs (.revoke p e) 4 [] s.nv) ∧
      (genuine = true → slotInUse s n = false →
        runs (.revoke p e) 0 [] { s.nv with fuses := { f with revoked := BitVec.ofNat 4 (f.revoked.toNat ||| 2 ^ n) } })) ∧
    (MailboxReady s p 0x16 → req.length = 32 →
      (d.flag devCtrlSetupLock = false → f.intKey = none → runs (.setIntKey p e) 0 [] { s.nv with fuses := { f with intKey := some req } }) ∧
      (d.flag devCtrlSetupLock = true ∨ f.intKey ≠ none → runs (.setIntKey p e) 5 [] s.nv)) ∧
    (MailboxReady s p 0x20 → ∀ l, s.calBytes = some l →
      ∃ sig : List Byte, sig.length = 132 ∧ runs (.calExport p false) 0 (l ++ moduleSerial ++ akCertificate d ++ sig) s.nv) ∧
    (MailboxReady s p 0x21 → req.length = 512 →
      (d.flag devCtrlSetupLock = true → runs (.calWrite p e) 5 [] s.nv) ∧
      (d.flag devCtrlSetupLock = false → calAccepted req = false → runs (.calWrite p e) 2 [] s.nv) ∧
      (d.flag devCtrlSetupLock = false → calAccepted req = true → runs (.calWrite p false) 0 [] { s.nv with cal := some ⟨req, true⟩ })) ∧
    (MailboxReady s p 0x22 → req.length = 1024 → Config.certVerifies ((req.drop 528).take 364) = true →
      (req.drop 512).take 16 = moduleSerial → d.flag devCtrlSetupLock = false → calAccepted (req.take 512) = true →
      runs (.calImport p false) 0 [] { s.nv with cal := some ⟨req.take 512, true⟩ }) ∧
    (∀ op, MailboxReady s p op → op ∉ mboxOpcodes → runs (.mboxBadCmd p e) 1 [] s.nv)

/-- R403, R414, R499 to R501, R514: the commands of image updates, CAN and the bridge tables. -/
def Obligations.MailboxUpdateResults : Prop :=
  ∀ (s : State) (p : Port),
    let d := s.dev
    let req := mboxRequest d p
    let k := recLe req 0 1
    let b := !(s.bootPtr k).slotB
    (MailboxReady s p 0x10 → req.length = 8 → k ∈ [1, 2, 3, 4, 5] → (req.drop 1).take 3 = [0, 0, 0] → recLe req 4 4 ≤ slotSize k →
      (k ∉ d.mgmt.updating → k ∉ d.mgmt.switching →
        ∃ u, exec (.updateBegin p false) s = .next u ∧ Answered u.dev p 0 [] ∧ u.dev.mgmt.updating = d.mgmt.updating ++ [k] ∧
          u.slot k b = {} ∧ ∀ j c, (j, c) ≠ (k, b) → u.slot j c = s.slot j c) ∧
      (k ∈ d.mgmt.updating → ∃ u, exec (.updateBegin p false) s = .next u ∧ Answered u.dev p 6 [] ∧ u.nv = s.nv) ∧
      (k ∉ d.mgmt.updating → k ∉ d.mgmt.switching →
        ∃ u, exec (.updateBegin p true) s = .next u ∧ Answered u.dev p 7 [] ∧ u.nv = s.nv)) ∧
    (MailboxReady s p 0x11 → 8 ≤ req.length → req.length ≤ 8200 → k ∈ d.mgmt.updating → (req.drop 1).take 3 = [0, 0, 0] →
      recLe req 4 4 + (req.length - 8) ≤ slotSize k →
      ∃ u, exec (.updateData p false) s = .next u ∧ Answered u.dev p 0 [] ∧
        (u.slot k b).read (recLe req 4 4) (req.length - 8) = req.drop 8 ∧
        ∀ o, (o < recLe req 4 4 ∨ recLe req 4 4 + (req.length - 8) ≤ o) → (u.slot k b).read o 1 = (s.slot k b).read o 1) ∧
    (MailboxReady s p 0x12 → req.length = 1 → k ∈ d.mgmt.updating →
      let i := readImage s.nv.fuses k (s.slot k b)
      ∃ u, exec (.updateEnd p false) s = .next u ∧ k ∉ u.dev.mgmt.updating ∧
        (imgValid s.nv.fuses k i = true → Answered u.dev p 0 [] ∧ u.slot k b = { s.slot k b with img := some i, staged := true }) ∧
        (imgValid s.nv.fuses k i = false → u.slot k b = {} ∧ ∃ code ∈ [2, 3, 4], Answered u.dev p code [])) ∧
    (MailboxReady s p 0x13 → req.length = 1 → k ∈ [1, 2, 3, 4, 5] → k ∉ d.mgmt.updating → k ∉ d.mgmt.switching →
      ((s.slot k b).staged = false → ∃ u, exec (.switch p false) s = .next u ∧ Answered u.dev p 1 [] ∧ u.nv = s.nv) ∧
      ((s.slot k b).staged = true → ∀ i, (s.slot k b).img = some i → imgValid s.nv.fuses k i = true → d.mgmt.ptr = none →
        (k = 4 ∨ k = 5 → ∃ u, exec (.switch p false) s = .next u ∧ Answered u.dev p 0 [] ∧ u.bootPtr k = ⟨b, true, 3⟩) ∧
        (k = 2 → ∃ u, exec (.switch p false) s = .next u ∧ Answered u.dev p 0 [] ∧ u.dev.boot.reloading = true ∧
          2 ∈ u.dev.mgmt.switching ∧ u.nv = s.nv) ∧
        (k = 3 → (s.activeImg 3).map (·.libEpoch) = some i.libEpoch →
          ∃ u, exec (.switch p false) s = .next u ∧ Answered u.dev p 0 [] ∧ u.bootPtr 3 = ⟨b, true, 3⟩ ∧ (3 ∈ u.dev.mgmt.runB ↔ b = true)) ∧
        (k = 3 → (s.activeImg 3).map (·.libEpoch) ≠ some i.libEpoch → d.images ≠ [] →
          ∃ u, exec (.switch p false) s = .next u ∧ Answered u.dev p 0 [] ∧ 3 ∈ u.dev.mgmt.switching ∧ u.nv = s.nv))) ∧
    (let x := recLe req 1 1
     MailboxReady s p 0x30 → k < 2 → x < 16 →
      (req.length = 84 → mboxAborts p d = false →
        (canPending d k x = false → ∃ u, exec (.canTx p false) s = .next u ∧ Answered u.dev p 0 [] ∧ canPending u.dev k x = true ∧
          ∀ i < 80, i ≠ 5 → (canBufBytes u.dev k x)[i]? = req[4 + i]?) ∧
        (canPending d k x = true → ∃ u, exec (.canTx p false) s = .next u ∧ Answered u.dev p 6 [] ∧
          canBufBytes u.dev k x = canBufBytes d k x)) ∧
      (req.length = 4 ∨ req.length = 84 → mboxAborts p d = true →
        (canPending d k x = true → ∃ u, exec (.canTxAbort p false) s = .next u ∧ Answered u.dev p 0 [] ∧ canPending u.dev k x = false) ∧
        (canPending d k x = false → ∃ u, exec (.canTxAbort p false) s = .next u ∧ Answered u.dev p 6 [] ∧
          bit (u.dev.fld netCanTxstatAbortFail k) x = true))) ∧
    (∀ q, MailboxReady s p 0x31 → tableChange req = some q →
      ∃ u, exec (.netReq p q) s = .next u ∧ u.dev.net.fdb = (applyChange q d).1.net.fdb ∧ u.dev.net.vlans = (applyChange q d).1.net.vlans ∧
        Answered u.dev p (if (applyChange q d).2 then 0 else 1) [])

/-- R384, R385, R541, R547: link loss, a new link, FLR and PERST_N. RWL fields and rings in device memory are kept. -/
def Obligations.LinkEventResults : Prop :=
  ∀ (s : State),
    let d := s.dev
    (linkUp d = true →
      (∃ u, exec .pcieLinkDown s = .next u ∧ linkUp u.dev = false ∧ u.dev.flag hostqStatusLinkLost = true ∧ u.dev.jobs = d.jobs ∧
        u.dev.sqs = d.sqs ∧ u.dev.cqs = d.cqs ∧ u.dev.fifos = d.fifos ∧ u.dev.net = d.net ∧ u.dev.out = d.out) ∧
      (∃ u, exec .flr s = .next u ∧ u.dev.flag hostqStatusFlrSeen = true ∧
        (∀ k < 64, hostRing d k = true → u.dev.flag sqCfgEnable k = false ∧ (u.dev.sq k).tail = 0 ∧ (u.dev.sq k).armed = none) ∧
        (∀ v < 64, u.dev.flag msixCtrlMask v = true) ∧
        (d.jobs = [] → d.aborts = [] →
          linkUp u.dev = true ∧ u.dev.flag devCtrlSetupLock = d.flag devCtrlSetupLock ∧
          ∀ k < 64, hostRing d k = false → u.dev.sq k = d.sq k ∧
            ∀ i < 6, bankWord u.dev.regs (rSqBase + 0x20 * k + 4 * i) = bankWord d.regs (rSqBase + 0x20 * k + 4 * i)))) ∧
    (linkUp d = false → exec .pcieLinkDown s = .next s ∧ exec .flr s = .next s) ∧
    (linkUp d = false → d.boot.powered = true → d.boot.stage0Done = true → d.boot.perst = false →
      ∃ u, exec .pcieLinkUp s = .next u ∧ linkUp u.dev = true ∧ u.dev.flag hostqStatusFlrSeen = true) ∧
    (∃ u, exec .perstAssert s = .next u ∧ u.dev.boot.perst = true ∧
      (d.boot.powered = true → u.dev.flag hostqStatusFlrSeen = true ∧
        ∀ k < 64, hostRing d k = true → u.dev.flag sqCfgEnable k = false)) ∧
    exec .perstRelease s = leaves s { d with boot := { d.boot with perst := false } }

/-! ## Streams, networks, loops and the ring -/

/-- R374 to R376: a consumer takes an entry, is released by cut-through, and returns its credit; R464: the loop engine begins a plan. -/
def Obligations.FifoResults : Prop :=
  ∀ (s : State) (n j i : Nat),
    let d := s.dev
    let fresh := (d.fifo n).entries.filter fun e => !e.begun
    (∀ ws p e, (d.fifo n).waiters = (j, i) :: ws → d.prob j i = some p → p.deadline = none → p.phase ≠ .ended →
      (recordedAs d j = none) →
      let begins (l : List FifoEntry) : List FifoEntry := l.map fun x => if x = e then { x with begun := true } else x
      (d.flag streamCfgTake n = false → fresh.head? = some e →
        ∃ u q, exec (.fifoTake n j i) s = .next u ∧ (u.dev.fifo n).waiters = ws ∧ (u.dev.fifo n).entries = begins (d.fifo n).entries ∧
          u.dev.prob j i = some q ∧ q.taken = some (e.payload, e.tIngress) ∧ q.tMeas = e.tIngress ∧ SameRegsBut d u.dev []) ∧
      (d.flag streamCfgTake n = true → fresh.getLast? = some e → (∀ x ∈ d.fifos.pushes, x.2.1 ≠ n) →
        ∃ u q, exec (.fifoTake n j i) s = .next u ∧ (u.dev.fifo n).waiters = ws ∧
          (u.dev.fifo n).entries = begins ((d.fifo n).entries.filter fun x => !fresh.dropLast.contains x) ∧
          u.dev.prob j i = some q ∧ q.taken = some (e.payload, e.tIngress) ∧
          (d.fld streamCnt1Skipped n + (fresh.length - 1) < 65536 →
            u.dev.fld streamCnt1Skipped n = d.fld streamCnt1Skipped n + (fresh.length - 1)))) ∧
    (∀ ws p landed, (d.fifo n).waiters = (j, i) :: ws → d.prob j i = some p → fifoOn d n = true → d.fld streamCfgCt n ≠ 0 →
      p.phase = .queued →
      (64 * d.fld streamCfgCt n ≤ landed →
        exec (.fifoCutThrough n j i landed) s = leaves s (d.updProb j i fun q => { q with cut := some (n, landed) })) ∧
      (landed < 64 * d.fld streamCfgCt n → exec (.fifoCutThrough n j i landed) s = .next s)) ∧
    (∀ seq e, ((d.fifo n).entries.find? fun e => e.begun && e.seq = seq) = some e → (∀ p ∈ d.fifos.pushes, p.2.1 ≠ n) →
      exec (.fifoCreditReturn n seq) s = leaves s (d.updFifo n fun f => { f with entries := f.entries.erase e })) ∧
    (∀ e, (d.fifos.plan.find? fun e => !e.begun) = some e →
      ∃ u, exec .planEntryBegin s = .next u ∧ u.dev.loop.nextOrd = d.loop.nextOrd + 1 ∧
        u.dev.fld loopPlanStatSeq = e.seq % 2 ^ (loopPlanStatSeq.hi + 1 - loopPlanStatSeq.lo) ∧
        ((upto 16).any (takesPart d e) = true → d.loop.begun = [] → (∀ k, (d.lp k).seen ≤ d.loop.nextOrd) →
          u.dev.loop.begun = [⟨d.loop.nextOrd, { e with begun := true }⟩]))

/-- R402, R404, R405, R408, R410, R411: a frame comes in and is discarded, filtered into a stream FIFO or queued; gates; a frame is
launched, is late, or leaves.
R412 to R414, R424: CAN frames received and sent, and the recovery from bus-off. The bus errors met before a frame, and the instant of
its start, are free (notes/assumptions/81, 82); errors met before a frame is sent may take the controller off the bus instead. -/
def Obligations.FrameResults : Prop :=
  (∀ (s : State) (n : Nat),
    let d := s.dev
    (∀ b stamp, n < 4 → d.flag netCtrlEnable = true → d.flag netPortCfgEnable n = true →
      (exec (.frameIngress n b false stamp) s = .next s) ∧
      (2048 < b.length → exec (.frameIngress n b true stamp) s = leaves s (d.incFld netPortDropFrame n)) ∧
      (18 ≤ b.length → b.length ≤ 2048 →
        let h := frameHead b
        let e := if bit (vlanPorts d h.vid) n then learn d h n else d
        let tc := bits (d.fld netPcpmapMap) (3 * h.pcp + 2) (3 * h.pcp)
        let x : EFrame := { bytes := b, tc := tc, instant := ingressStamp d n stamp / 32 }
        let fabric := (e.port 4).queue.all (fun g => decide (g.tc < tc)) && gateOpen e 4 tc b.length
        (∀ p ≤ 4, egressPorts d h n 0 = [p] → (p = 4 → fabric = false) →
          (bufferRoom e tc b.length = true →
            exec (.frameIngress n b true stamp) s = leaves s (e.updPort p fun q => { q with queue := q.queue ++ [x] })) ∧
          (bufferRoom e tc b.length = false →
            exec (.frameIngress n b true stamp) s = leaves s ((e.incFld netPortDropFrame n).setFld netStatusBufDrop 1))) ∧
        (egressPorts d h n 0 = [] → exec (.frameIngress n b true stamp) s = leaves s e) ∧
        (egressPorts d h n 0 = [4] → fabric = true → ((upto 16).all fun f => !filterMatches (streamFilter e f) h) = true →
          exec (.frameIngress n b true stamp) s = leaves s (e.incFld netPortDropFrame 4)) ∧
        (∀ f, egressPorts d h n 0 = [4] → fabric = true → ((upto 16).find? fun f => filterMatches (streamFilter e f) h) = some f →
          let l := streamFilter e f
          let fifo := bits (recLe l 10 1) 2 0
          bit (recLe l 10 1) 4 = false → fifoOn e fifo = true → e.fld streamCfgSrc fifo = 0 →
          exec (.frameIngress n b true stamp) s =
            leaves s (fifoFrame e fifo f (ingressStamp d n stamp / 32) false (h.rest.drop (recLe l 12 2)) b)))) ∧
    (∀ f, exec (.streamRecoveryReset f) s = leaves s { d with net := { d.net with recovery := mapSet none d.net.recovery f none } }) ∧
    (∀ p v, n < 5 → (∃ r, Reached d p (rNetPortGcl + 0x20 * n) 4 true r n) →
      ∃ u, exec (.gclChange p n v) s = .next u ∧ u.dev.fld netPortGclChange n = 1 ∧ (u.dev.port n).admin = some (adminList u.dev n) ∧
        (u.dev.port n).gates = (d.port n).gates) ∧
    (∀ g, (d.port n).admin = some g →
      (g.due ≤ d.now → ∃ u x, exec (.gclInstall n) s = .next u ∧ (u.dev.port n).admin = none ∧ (u.dev.port n).gates = some x ∧
        x.entries = g.entries ∧ x.cycle = g.cycle ∧ x.base = g.base ∧ u.dev.fld netPortGclChange n = 0) ∧
      (d.now < g.due → exec (.gclInstall n) s = .next s)) ∧
    (∀ g, (d.port n).gates = some g → exec (.gateIntervalEnd n) s =
      leaves s (d.updPort n fun p => { p with gates := some { g with idx := (gateAt g d.now).1 } })) ∧
    (∀ f, n < 4 → d.flag netPortCfgEnable n = true → (d.port n).sending = none → earliest (launchable d n) = some f →
      exec (.frameLaunch n) s = leaves s (d.updPort n fun p => { p with launches := p.launches.erase f, sending := some f })) ∧
    (∀ f t late again, (d.port n).launches = [f] → f.launch = some (t, late, again) → t + late < d.now →
      ∃ u, exec (.launchLate n) s = .next u ∧
        (d.fld netPortDropLate n < 65535 → u.dev.fld netPortDropLate n = d.fld netPortDropLate n + 1) ∧
        (again = false → (u.dev.port n).launches = []) ∧ (again = true → (u.dev.port n).launches.length = 1)) ∧
    (∀ f stamp, n < 4 → d.flag netPortCfgEnable n = true → d.flag netCtrlEnable = true →
      ((d.port n).sending = some f ∨ ((d.port n).sending = none ∧ launchable d n = [] ∧ selectFrame d n = some f)) →
      ∃ u, exec (.frameEgress n stamp) s = .next u ∧ u.dev.out = d.out ++ [.frame n f.bytes] ∧ (u.dev.port n).sending = none ∧
        (f.stamp = none → (u.dev.port n).stamps = (d.port n).stamps) ∧
        (∀ id, f.stamp = some id → (d.port n).stamps.length < 16 →
          (u.dev.port n).stamps = (d.port n).stamps ++ [(egressStamp d n stamp * 2 ^ 27, id)]) ∧
        (∀ id, f.stamp = some id → 16 ≤ (d.port n).stamps.length → (u.dev.port n).stamps = (d.port n).stamps)) ∧
    (∀ f stamp, d.flag netCtrlEnable = true → (d.port 4).sending = none → launchable d 4 = [] → selectFrame d 4 = some f → f.stamp = none →
      exec (.frameEgress 4 stamp) s =
        leaves s (toPort4 (d.updPort 4 fun q => { q with queue := q.queue.erase f }) (frameHead f.bytes) f.instant))) ∧
  (∀ (s : State) (c : Nat), c < 2 →
    let d := s.dev
    (∀ id : U32, ∀ dlc data, canOn d c = true → bit id.toNat 30 = false →
      (((upto 32).all fun f => !canMatches (canFilter d c f) id.toNat) = true →
        ∃ u, exec (.canFrameRx c id dlc data) s = .next u ∧ u.dev.fifos = d.fifos) ∧
      (∀ f, ((upto 32).find? fun f => canMatches (canFilter d c f) id.toNat) = some f →
        let n := bits (canFilter d c f) 63 61
        fifoOn d n = true → d.fld streamCfgSrc n = 0 → fifoFree d n = true → 72 ≤ fifoPayload d n →
        ∃ u src t, exec (.canFrameRx c id dlc data) s = .next u ∧ t ≤ d.now ∧ (u.dev.fifo n).entries = (d.fifo n).entries ++
          [{ seq := (d.fifo n).nextSeq % 2 ^ 32, bad := false, src := src, tIngress := t,
             payload := leBytes 4 id.toNat ++ leBytes 1 dlc.toNat ++ leBytes 1 c ++ leBytes 2 0 ++ canData id.toNat dlc.toNat data }])) ∧
    (∀ b < 16, canOn d c = true → d.flag netCanCfgListen c = false → canOffered d c b = true → canFirst d c b = true →
      let l := canBufBytes d c b
      let met := canErrors c true d
      let id := recLe l 0 4
      let dlc := recLe l 4 1
      ∃ u, exec (.canFrameTx c b) s = .next u ∧
        (canOn met c = false → u = { s with dev := met }) ∧
        (canOn met c = true → canPending u.dev c b = false ∧
          u.dev.out = d.out ++ [.can c (BitVec.ofNat 32 id) (BitVec.ofNat 8 dlc) ((l.drop 16).take (dlcBytes (bit id 30) (dlc % 16)))] ∧
          u.dev.fld netCanStatusTec c = met.fld netCanStatusTec c - 1 ∧
          ∀ k < 16, k ≠ b → canPending u.dev c k = canPending d c k ∧ canBufBytes u.dev c k = canBufBytes d c k)) ∧
    (d.fld netCanStatusState c = 2 → d.flag netCanCfgAutoRecover c = true →
      ∃ u, exec (.canBusOffRecovery c) s = .next u ∧ u.dev.fld netCanStatusState c = 0 ∧ u.dev.fld netCanStatusTec c = 0 ∧
        u.dev.fld netCanStatusRec c = 0))

/-- R457: one sample through a section. With its 40-bit exact accumulator it gives the rounded sum and keeps the residue, or saturates
and clears it; the states move on. -/
def Obligations.SectionArithmetic : Prop :=
  ∀ (c : SecCoef) (z : SecState) (x : Int),
    let acc := c.b0 * x + c.b1 * z.x1 + c.b2 * z.x2 - c.a1 * z.y1 - c.a2 * z.y2
    let v := acc * 2 ^ c.s + (if c.ef then z.r else 0)
    let t := secStep c z x
    t.1.x1 = x ∧ t.1.x2 = z.x1 ∧ t.1.y1 = t.2.1 ∧ t.1.y2 = z.y1 ∧ -32768 ≤ t.2.1 ∧ t.2.1 ≤ 32767 ∧
      (t.2.2 = false → v = t.2.1 * 2 ^ 15 + t.1.r ∧ -2 ^ 14 ≤ t.1.r ∧ t.1.r < 2 ^ 14) ∧
      (t.2.2 = true → t.1.r = 0 ∧ ((t.2.1 = 32767 ∧ 32767 * 2 ^ 15 + 2 ^ 14 ≤ v) ∨ (t.2.1 = -32768 ∧ v < -32768 * 2 ^ 15 - 2 ^ 14))) ∧
      ((∀ n ∈ [c.b0, c.b1, c.b2, c.a1, c.a2, x, z.x1, z.x2, z.y1, z.y2], -2 ^ 15 ≤ n ∧ n < 2 ^ 15) →
        -(5 * 2 ^ 30) ≤ acc ∧ acc ≤ 5 * 2 ^ 30)

/-- R468, R470, R471, R472, R462: CLOSE, OPEN, SWAP and a write of MAN. No command bit of the control register is stored as set.
R454, R456, R459, R460, R461, R473: the timer starts a conversion, its end is the sample, and a CLOSED loop without repetitive
control, injection or capture computes its output from it. -/
def Obligations.LoopStateResults : Prop :=
  (∀ (s : State) (p : Port) (k : Nat) (v : U16), k < 16 →
    let d := s.dev
    let off := rLoopkCtrl + 0x40 * k
    (bits (bankWord d.regs off).toNat 4 2 = 0 → (∃ r, Reached d p off 4 true r k) →
      (loopState d k = lsOpen → closeOk d k = true →
        ∃ u, exec (.loopClose p k) s = .next u ∧ loopState u.dev k = lsClosed ∧ u.dev.fld loopkSatcCount k = 0 ∧
          (u.dev.lp k).sample = none ∧ u.dev.sfld loopkOutvalU k = d.sfld loopkOutvalU k ∧
          (∀ i, mapGet {} (u.dev.lp k).secs i = if d.flag loopkCtrlBumpless k ∧ i = d.fld loopkCtrlNsec k
            then { y1 := d.sfld loopkOutvalU k, y2 := d.sfld loopkOutvalU k } else {}) ∧
          (d.flag loopkRcEn k = true → ∀ i ≤ d.fld loopkRcLm1 k, mapGet 0 u.dev.loop.rc (d.fld loopkRcBase k + i) = 0)) ∧
      (loopState d k = lsOpen → closeOk d k = false →
        ∃ u, exec (.loopClose p k) s = .next u ∧ loopState u.dev k = lsOpen ∧ u.dev.fld loopkStatusCfgErr k = 1 ∧ u.dev.loop = d.loop) ∧
      (loopState d k ≠ lsOpen → ∃ u, exec (.loopClose p k) s = .next u ∧ loopState u.dev k = loopState d k ∧ u.dev.loop = d.loop) ∧
      (∃ u, exec (.loopOpen p k) s = .next u ∧ loopState u.dev k = lsOpen ∧ (u.dev.lp k).sample = none ∧
        u.dev.sfld loopkOutvalU k = d.sfld loopkManMan k) ∧
      (loopState d k = lsClosed → ∃ u, exec (.loopSwap p k) s = .next u ∧ (u.dev.lp k).swap = true ∧
        u.dev.fld loopkCtrlAbank k = d.fld loopkCtrlAbank k ∧ (u.dev.lp k).secs = (d.lp k).secs) ∧
      (loopState d k ≠ lsClosed → ∃ u, exec (.loopSwap p k) s = .next u ∧ (u.dev.lp k).swap = (d.lp k).swap)) ∧
    ((∃ r, Reached d p (rLoopkMan + 0x40 * k) 4 true r k) →
      ∃ u, exec (.manWrite p k v) s = .next u ∧ u.dev.sfld loopkManMan k = v.toInt ∧
        (loopState d k ≠ lsOpen → u.dev.sfld loopkOutvalU k = d.sfld loopkOutvalU k) ∧
        (loopState d k = lsOpen → u.dev.sfld loopkOutvalU k = v.toInt ∧
          (d.fld loopkOutKind k = 1 →
            mapGet 0 u.dev.loop.shadow (d.fld loopkOutCh k) =
              ((v.toInt + 32768) * (d.fld pwmCfgPer (d.fld loopkOutCh k) + 1) / 65536).toNat) ∧
          (d.fld loopkOutKind k = 2 → d.fld loopkOutCh k < 4 →
            u.dev.fld aoutCodeCode (d.fld loopkOutCh k) = ((v.toInt + 32768) / 16).toNat)))) ∧
  (∀ (s : State) (k c : Nat) (code : U16), k < 16 → c < 8 →
    let d := s.dev
    let m := max (-32768) (min 32767 ((((code.toNat : Int) - 32768 - d.sfld adcCalOfs c) * d.fld adcCalGain c + 2 ^ 13) / 2 ^ 14))
    (timerDue d k = true → d.flag loopkSrcTrig k = false → outerLoops d k = [] → measAin d k = some c → d.flag adcCfgEnable c = true →
      d.fld loopkSrcSpsrc k = 0 →
      ∃ u, exec (.loopTimer k) s = .next u ∧ (u.dev.lp k).sample = some ⟨d.now, [c], 0, 0⟩ ∧ c ∈ u.dev.loop.converting ∧
        SameRegsBut d u.dev [rLoopPlanStat]) ∧
    (d.loop.converting.contains c = true → (∀ j < 16, (d.lp j).sample = none) →
      ∃ u, exec (.adcConversionDone c code) s = .next u ∧ u.dev.fld adcDataCode c = code.toNat ∧ u.dev.sfld adcDataValue c = m ∧
        u.dev.loop.converting = d.loop.converting.erase c) ∧
    (∀ x, d.loop.converting.contains c = true → (∀ j < 16, j ≠ k → (d.lp j).sample = none) → (d.lp k).sample = some x → x.ains = [c] →
      measAin d k = some c → d.fld loopkSrcSpsrc k = 0 → loopState d k = lsClosed → d.flag loopkRcEn k = false →
      d.flag loopInjCtrlRun = false → d.flag loopCapCtrlRun = false → (d.lp k).swap = false → d.fld loopkSatLimit k = 0 →
      let e := max (-32768) (min 32767 (d.sfld loopkSpSp k - m))
      let y := (cascade d k (d.fld loopkCtrlAbank k) (upto (d.fld loopkCtrlNsec k + 1)) e).2.getLastD 0
      let lo := d.sfld loopkClampUmin k
      let hi := d.sfld loopkClampUmax k
      lo ≤ hi →
      ∃ u, exec (.adcConversionDone c code) s = .next u ∧ (u.dev.lp k).sample = none ∧ u.dev.sfld loopkOutvalM k = m ∧
        u.dev.sfld loopkOutvalU k = min (max y lo) hi ∧ (u.dev.fld loopkStatusSat k = 1 ↔ (y < lo ∨ hi < y)) ∧
        loopState u.dev k = lsClosed))

/-- R456, R462, R464, R465, R475, R476, R479: pulse inputs, PWM periods, plan steps, injection, capture and the memory window. -/
def Obligations.LoopChannelResults : Prop :=
  ∀ (s : State) (p : Port) (k c : Nat), c < 8 →
    let d := s.dev
    (∀ rising ticks, quadOf d c = none → rising ≠ d.flag pinCfgEdge c → (d.pin c).started = true →
      (d.pin c).acc + ticks < 2 ^ 24 → d.fld pinCfgMode c = 0 → 0 < (d.pin c).acc + ticks →
      ∃ u, exec (.pinEdge c rising false ticks) s = .next u ∧ u.dev.fld pinCountCount c = (d.pin c).acc + ticks ∧
        u.dev.fld pinDataStopped c = 0 ∧ u.dev.sfld pinDataValue c = min 32767 (d.fld pinScaleScale c / ((d.pin c).acc + ticks) : Nat)) ∧
    (∀ rising ticks a, quadOf d c = some a →
      (∃ u, exec (.pinEdge c rising true ticks) s = .next u ∧ u.dev.fld pinCountCount a = d.fld pinCountCount a ∧ u.dev.fld pinDataQerr a = 1) ∧
      (rising ≠ (d.pin c).high →
        ∃ u, exec (.pinEdge c rising false ticks) s = .next u ∧
          (u.dev.fld pinCountCount a = (d.fld pinCountCount a + 1) % 2 ^ 32 ∨
            u.dev.fld pinCountCount a = (d.fld pinCountCount a + (2 ^ 32 - 1)) % 2 ^ 32) ∧
          (∃ w, exec (.pinEdge c (!rising) false ticks) u = .next w ∧ w.dev.fld pinCountCount a = d.fld pinCountCount a))) ∧
    (quadOf d c = none → ∃ u, exec (.pinStopTimeout c) s = .next u ∧ u.dev.fld pinCountCount c = 2 ^ 24 ∧ u.dev.fld pinDataStopped c = 1 ∧
      (d.fld pinCfgMode c = 1 → u.dev.sfld pinDataValue c = 0)) ∧
    ((∃ r, Reached d p (rPinCfg + 0x10 * c) 4 true r c) →
      ∃ u, exec (.pinZero p c) s = .next u ∧ (u.dev.pin c).qzero = d.fld pinCountCount c ∧
        (d.fld pinCfgMode c = 2 → u.dev.sfld pinDataValue c = 0)) ∧
    (d.flag pwmCfgEnable c = true → exec (.pwmPeriodStart c) s = leaves s (d.setFld pwmCmpCmp (mapGet 0 d.loop.shadow c) c)) ∧
    (∀ x v, k < 16 → d.loop.begun = [] → (d.lp k).plan = some x → d.fld planCfgCt = 0 → x.step + 1 < x.use.entry.steps →
      (((d.now : Int) - planT0 d x.use.entry) / stepNs d).toNat = x.step + 1 →
      planSetpoint d k (x.use.entry.u.getD ((x.step + 1) * x.use.entry.nu + maskElem x.use.entry.mask k) 0) = some v →
      ∃ u, exec (.planStepActivate k) s = .next u ∧ (u.dev.lp k).psp = v ∧ (u.dev.lp k).plan = some { x with step := x.step + 1 }) ∧
    ((∃ r, Reached d p rLoopInjCtrl 4 true r 0) →
      (∃ u, exec (.injStart p) s = .next u ∧ u.dev.fld loopInjCtrlRun = 1 ∧ u.dev.loop.injPos = 0 ∧
        u.dev.loop.injS = (if d.fld loopInjAmpSeed = 0 then 1 else d.fld loopInjAmpSeed) ∧
        (d.flag loopCapCfgSync = true → u.dev.fld loopCapCtrlRun = 1 ∧ u.dev.fld loopCapCtrlWords = 0) ∧
        (d.flag loopCapCfgSync = false → u.dev.fld loopCapCtrlRun = d.fld loopCapCtrlRun)) ∧
      (∃ u, exec (.injStop p) s = .next u ∧ u.dev.fld loopInjCtrlRun = 0)) ∧
    ((∃ r, Reached d p rLoopCapCtrl 4 true r 0) →
      (∃ u, exec (.capStart p) s = .next u ∧ u.dev.fld loopCapCtrlRun = 1 ∧ u.dev.fld loopCapCtrlFull = 0 ∧
        u.dev.fld loopCapCtrlWords = 0) ∧
      (∃ u, exec (.capStop p) s = .next u ∧ u.dev.fld loopCapCtrlRun = 0 ∧ u.dev.fld loopCapCtrlWords = d.fld loopCapCtrlWords)) ∧
    (let sel := (bankWord (portBank d p) rLoopMsel).toNat
     let moved (u : State) : Prop := (bankWord (portBank u.dev p) rLoopMsel).toNat = setBits sel 12 0 (bits sel 12 0 + 1)
     ((∃ r, Reached d p rLoopMdata 4 false r 0) →
       ∃ u, exec (.loopMdataAccess p .read) s = .next u ∧ moved u ∧
         u.dev.out = d.out ++ [.readData p 4 (BitVec.ofNat 64 (mdataRead d sel))] ∧
         ∀ q, q ≠ p → bankWord (portBank u.dev q) rLoopMsel = bankWord (portBank d q) rLoopMsel) ∧
     (∀ v, (∃ r, Reached d p rLoopMdata 4 true r 0) → bits sel 14 13 = 0 → bits sel 12 0 < 2048 → d.flag loopInjCtrlRun = false →
       ∃ u, exec (.loopMdataAccess p (.write v)) s = .next u ∧ moved u ∧ mapGet 0 u.dev.loop.inj (bits sel 12 0) = v ∧
         ∀ i, i ≠ bits sel 12 0 → mapGet 0 u.dev.loop.inj i = mapGet 0 d.loop.inj i))

/-- R415 to R417, R422: flits in order and out of order, acknowledgements, and what takes a link down. The layout of control flits is
the model's (notes/assumptions/40), as are the constants of the CRC (notes/assumptions/42) and what it is for two events to meet
(notes/assumptions/85).
R418, R420, R421, R423: training, formation, REFORM, LEAVE and delay measurement. -/
def Obligations.LinkAndRingResults : Prop :=
  (∀ (s : State) (l : Nat), l < 2 →
    let d := s.dev
    let k := d.link l
    let down (u : State) : Prop := u.dev.fld plkLinkStatusUp l = 0 ∧ u.dev.fld plkLinkStatusDownSeen l = 1 ∧ u.dev.link l = {}
    linkIsUp d l = true →
    (∀ f ok, (ok = false ∨ f.crc ≠ flitCrc f ∨ (f.type = .data ∧ f.seq.toNat ≠ k.expect)) →
      (k.nacked = false → ∃ u g, exec (.flitReceive l f ok) s = .next u ∧ u.dev.out = d.out ++ [.flit l g] ∧ g.type = .nack ∧
        g.seq.toNat = k.expect % 4096 ∧ (u.dev.link l).expect = k.expect ∧ (u.dev.link l).nacked = true) ∧
      (k.nacked = true → exec (.flitReceive l f ok) s = .next s)) ∧
    (∀ f, f.crc = flitCrc f → f.type = .data → f.seq.toNat = k.expect → k.replay = [] → 2 ≤ d.modules →
      (∀ m, f.dst.toNat ≠ d.position → route d f.dst.toNat = some m → m ≠ l → (d.link m).replay = [] →
        ∃ u g h, exec (.flitReceive l f true) s = .next u ∧ u.dev.out = d.out ++ [.flit l g, .flit m h] ∧ g.type = .ack ∧
          g.ackSeq = f.seq ∧ h.payload = f.payload ∧ h.dst = f.dst ∧ h.msgSeq = f.msgSeq ∧ g.crc = flitCrc g ∧ h.crc = flitCrc h ∧
          (u.dev.link l).expect = (k.expect + 1) % 4096 ∧ (u.dev.link l).nacked = false ∧ (u.dev.link m).replay = [({ h with crc := f.crc }, 0)]) ∧
      (f.dst.toNat = d.position → f.msgSeq.toNat ≤ mapGet 0 d.links.applied f.src.toNat →
        ∃ u g, exec (.flitReceive l f true) s = .next u ∧ u.dev.out = d.out ++ [.flit l g] ∧ g.type = .ack ∧ g.ackSeq = f.seq ∧
          (u.dev.link l).expect = (k.expect + 1) % 4096 ∧ u.dev.jobs = d.jobs)) ∧
    (∀ f x n, f.crc = flitCrc f → f.type = .ack → k.replay = [(x, n)] → x.seq = f.ackSeq →
      ∃ u, exec (.flitReceive l f true) s = .next u ∧ (u.dev.link l).replay = [] ∧ u.dev.out = d.out) ∧
    (∀ f x n, f.crc = flitCrc f → f.type = .nack → k.replay = [(x, n)] → x.seq = f.seq → n < 7 →
      ∃ u, exec (.flitReceive l f true) s = .next u ∧ (u.dev.link l).replay = [(x, n + 1)] ∧
        u.dev.out = d.out ++ [.flit l { x with crc := flitCrc x }]) ∧
    (d.modules < 2 →
      (∃ u, exec (.laneLockLoss l) s = .next u ∧ down u ∧
        (d.net.forming = true → d.links.reformAt = some d.time → u.dev.fld plkStatusReformErr = 1 ∧ u.dev.net.forming = false)) ∧
      (k.replay ≠ [] → ∃ u, exec (.ackTimeout l) s = .next u ∧ down u)) ∧
    (k.replay = [] → exec (.ackTimeout l) s = .next s) ∧
    (2 ≤ d.modules → d.position < d.modules → d.links.breaks = [] → k.replay = [] →
      ∃ u, exec (.laneLockLoss l) s = .next u ∧ down u ∧ u.dev.fld plkStatusClosed = 0 ∧ u.dev.fld plkStatusHealed = 1 ∧
        u.dev.modules = d.modules ∧ u.dev.position = d.position ∧ u.dev.links.breaks.length = 1 ∧ u.dev.jobs = d.jobs) ∧
    (∃ u, exec (.retryWindowEnd l false) s = .next u ∧ (u.dev.link l).badWindows = 0 ∧ linkIsUp u.dev l = true) ∧
    (k.badWindows < 9 → ∃ u, exec (.retryWindowEnd l true) s = .next u ∧ (u.dev.link l).badWindows = k.badWindows + 1 ∧
      u.dev.fld plkLinkStatusDegraded l = 1 ∧ linkIsUp u.dev l = true) ∧
    (9 ≤ k.badWindows → d.modules < 2 → ∃ u, exec (.retryWindowEnd l true) s = .next u ∧ down u)) ∧
  (∀ (s : State) (l : Nat), l < 2 →
    let d := s.dev
    (d.boot.powered = true → d.flag plkCtrlEnable = true → linkIsUp d l = false → d.flag plkCtrlHead = false →
      ∃ u, exec (.linkTrained l) s = .next u ∧ linkIsUp u.dev l = true ∧ u.dev.link l = {} ∧ u.dev.out = d.out) ∧
    (d.flag plkCtrlEnable = true → linkIsUp d 0 = true →
      (∀ pos, d.flag plkCtrlHead = false → pos < 7 →
        ∃ u g, exec (.ringDiscover pos false) s = .next u ∧ u.dev.position = pos + 1 ∧ u.dev.out = d.out ++ [.flit 0 g] ∧
          g.type = .ringControl ∧ g.src.toNat = pos + 1 ∧ u.dev.net.forming = true) ∧
      (∀ pos, d.flag plkCtrlHead = false → 7 ≤ pos →
        ∃ u, exec (.ringDiscover pos false) s = .next u ∧ u.dev.fld plkStatusRingErr = 1 ∧ u.dev.modules = 1 ∧ u.dev.position = 0) ∧
      (∀ pos, d.flag plkCtrlHead = true → d.net.forming = true → pos < 8 →
        ∃ u, exec (.ringDiscover pos true) s = .next u ∧ u.dev.modules = pos + 1 ∧ u.dev.position = 0 ∧ u.dev.fld plkStatusClosed = 1 ∧
          u.dev.net.forming = false) ∧
      (∀ pos, d.flag plkCtrlHead = true →
        ∃ u, exec (.ringDiscover pos false) s = .next u ∧ u.dev.fld plkStatusRingErr = 1 ∧ u.dev.modules = 1)) ∧
    (∀ delay offset, linkIsUp d l = true → d.modules < 2 →
      exec (.delayMeasurement l delay offset) s = leaves s (d.setFld plkLinkDelayDelay (delay % 2 ^ 24) l)) ∧
    (∀ delay offset, linkIsUp d l = true → 2 ≤ d.modules → d.position ≠ 0 → d.flag plkStatusAligning = true → d.net.stepDue = false →
      d.links.aligned = 0 → 1000 < offset →
      ∃ u, exec (.delayMeasurement l delay offset) s = .next u ∧ u.dev.net.stepDue = true ∧ u.dev.time = d.time ∧
        u.dev.fld timeIncInc = d.fld timeIncInc) ∧
    (∀ p, (∃ r, Reached d p rPlkCtrl 4 true r 0) → bits (bankWord d.regs rPlkCtrl).toNat 3 2 = 0 →
      (d.flag plkCtrlHead = true → d.links.downAt ≠ some d.time →
        ∃ u, exec (.plkReform p) s = .next u ∧ u.dev.net.forming = true ∧ u.dev.fld plkCtrlReform = 1) ∧
      (d.flag plkCtrlHead = true → d.links.downAt = some d.time →
        ∃ u, exec (.plkReform p) s = .next u ∧ u.dev.net = d.net ∧ u.dev.fld plkStatusReformErr = 1) ∧
      (d.flag plkCtrlHead = false → ∃ u, exec (.plkReform p) s = .next u ∧ u.dev.net = d.net) ∧
      (d.boot.powered = true → d.flag devPwrDraining = false →
        ∃ u, exec (.plkLeave p) s = .next u ∧ u.dev.flag devPwrDraining = true ∧ u.dev.net.leaving = true ∧ u.dev.fld plkCtrlLeave = 1 ∧
          ∀ k < 64, d.flag sqCfgTriggered k = true → u.dev.flag sqCfgEnable k = false)))

/-! ## Memory -/

/-- R433, R434, R437, R443, R446: refresh, temperature polls, scrubbing and the sparing of rows. -/
def Obligations.MemoryEventResults : Prop :=
  ∀ (s : State) (ch : Nat), ch < 4 →
    let d := s.dev
    exec (.ddrRefresh ch) s = .next s ∧
    (d.boot.compute = true →
      (∀ cool, ∃ u, exec (.ddrTempPoll ch true cool) s = .next u ∧ bit (u.dev.fld memStatusHotRefresh) ch = true ∧
        ∀ c < 4, c ≠ ch → bit (u.dev.fld memStatusHotRefresh) c = bit (d.fld memStatusHotRefresh) c) ∧
      (∃ u, exec (.ddrTempPoll ch false true) s = .next u ∧ bit (u.dev.fld memStatusHotRefresh) ch = false) ∧
      exec (.ddrTempPoll ch false false) s = .next s) ∧
    (let a := burstAddr ch (mapGet 0 d.scrub.ddr ch)
     let next (u : State) : Prop := mapGet 0 u.dev.scrub.ddr ch = (mapGet 0 d.scrub.ddr ch + 1) % channelBursts ∧ u.dev.mem = d.mem ∧
       mapGet Ecc.clean u.dev.flaws a = .clean
     d.boot.compute = true → d.flag memStatusTrained = true → d.flag memCtrlScrubEn = true → mapGet 0 d.scrub.ddr ch < channelBursts →
      d.poison.contains a = false →
      (mapGet Ecc.clean d.flaws a = .clean → ∃ u, exec (.ddrScrubRead ch .clean) s = .next u ∧ next u ∧ u.dev.poison = d.poison) ∧
      (mapGet Ecc.clean d.flaws a = .uncorrectable → ∃ u, exec (.ddrScrubRead ch .clean) s = .next u ∧ next u ∧
        u.dev.poison = d.poison ++ [a] ∧ u.dev.fld memStatusUncorrectable = 1) ∧
      (eccCorrects d ≠ 0 → ∃ u, exec (.ddrScrubRead ch .corrected) s = .next u ∧ next u ∧ u.dev.poison = d.poison ∧
        u.dev.fld memStatusCorrected = 1 ∧ (d.fld memChCorrCount ch < 2 ^ 32 - 1 → u.dev.fld memChCorrCount ch = d.fld memChCorrCount ch + 1)) ∧
      (∃ u, exec (.ddrScrubRead ch .uncorrectable) s = .next u ∧ next u ∧ u.dev.poison = d.poison ++ [a] ∧
        u.dev.fld memStatusUncorrectable = 1 ∧ (d.fld memChUncorrCount ch < 2 ^ 32 - 1 → u.dev.fld memChUncorrCount ch = d.fld memChUncorrCount ch + 1))) ∧
    (∀ slice < 32, d.boot.compute = true →
      let a := sliceAddr slice (mapGet 0 d.scrub.canopy slice)
      let next (u : State) : Prop := mapGet 0 u.dev.scrub.canopy slice = (mapGet 0 d.scrub.canopy slice + 1) % 6144 ∧ u.dev.mem = d.mem ∧
        mapGet Ecc.clean u.dev.flaws a = .clean
      d.poison.contains a = false →
      (mapGet Ecc.clean d.flaws a = .clean → ∃ u, exec (.canopyScrub slice .clean) s = .next u ∧ next u ∧ u.dev.poison = d.poison) ∧
      (∃ u, exec (.canopyScrub slice .corrected) s = .next u ∧ next u ∧ u.dev.poison = d.poison ∧ u.dev.fld memStatusCorrected = 1) ∧
      (∃ u, exec (.canopyScrub slice .uncorrectable) s = .next u ∧ next u ∧ u.dev.poison = d.poison ++ [a] ∧
        u.dev.fld memStatusUncorrectable = 1)) ∧
    (∀ t b, t < tileCount → b < 16 → bit (d.fld tileBankPwrOn t) b = true →
      let next (u : State) : Prop := mapGet 0 u.dev.scrub.tile (16 * t + b) = (mapGet 0 d.scrub.tile (16 * t + b) + 1) % 528 ∧
        (u.dev.tile t).rows = (d.tile t).rows
      let flaw := mapGet Ecc.clean (d.tile t).flaws (rowKey b (mapGet 0 d.scrub.tile (16 * t + b)))
      let found (u : State) : Prop := next u ∧ u.dev.fld tileEccStatusUncorrectable t = 1 ∧ u.dev.jobs = d.jobs
      (flaw = .clean →
        (∃ u, exec (.tileScrub t b .clean) s = .next u ∧ next u ∧ u.dev.regs = d.regs) ∧
        (∃ u, exec (.tileScrub t b .corrected) s = .next u ∧ next u ∧ u.dev.fld tileEccStatusCorrected t = 1) ∧
        (∃ u, exec (.tileScrub t b .uncorrectable) s = .next u ∧ found u)) ∧
      (flaw = .uncorrectable → ∀ x, ∃ u, exec (.tileScrub t b x) s = .next u ∧ found u)) ∧
    (∀ bank row, fwReady d = true → bank < 8 → row < 131064 →
      let mine := s.repair.ddrRows.filter fun r => decide (r.1 = ch) && decide (r.2.1 = bank)
      (∀ r ∈ mine, r.2.2.1 ≠ row) → mine.length < 8 →
      (3 ≤ mapGet 0 d.scrub.rowErrs (ddrRowKey ch bank row) ∨ d.scrub.rowBad.contains (ddrRowKey ch bank row) = true →
        guardHeld d = false → d.mgmt.repair = none →
        ∃ u, exec (.ddrRowSpare ch bank row) s = .next u ∧
          u.nv.repair.ddrRows = s.nv.repair.ddrRows ++ [(ch, bank, row, 131064 + mine.length)]) ∧
      (mapGet 0 d.scrub.rowErrs (ddrRowKey ch bank row) < 3 → d.scrub.rowBad.contains (ddrRowKey ch bank row) = false →
        exec (.ddrRowSpare ch bank row) s = .next s))

/-- R18, R426: bytes written to memory read back, every other byte is unchanged, and the canonical form is kept.
R428, R434: no two blocks of DDR4 have one place, and burst `n` of a channel lies in that channel, in ascending address order. -/
def Obligations.MemoryReadsBack : Prop :=
  (∀ (m : Memory) (a : Nat) (l : List Byte),
    memReadN (memWriteN m a l) a l.length = l ∧ (∀ c n, c + n ≤ a ∨ a + l.length ≤ c → memReadN (memWriteN m a l) c n = memReadN m c n) ∧
    (m.wf = true → (memWriteN m a l).wf = true ∧ memWriteN m a (memReadN m a l.length) = m)) ∧
  ((∀ a b, a < 2 ^ 35 → b < 2 ^ 35 → ddrPlace a = ddrPlace b → a / 64 = b / 64) ∧
  (∀ ch k, ch < 4 → k < channelBursts → (ddrPlace (burstAddr ch k)).channel = ch ∧ burstAddr ch k < 2 ^ 35 ∧ burstAddr ch k % 64 = 0) ∧
  (∀ ch j k, ch < 4 → j < k → k < channelBursts → burstAddr ch j < burstAddr ch k))

/-! ## Supply, firmware and start-up -/

/-- R483, R485, R486: a reading passes through its trim into its register and its maximum; a C-die region at 125 °C whose tiles all run
at the floor or below counts an event, and the third within an hour retires its first tile in service; 130 °C enters the safe state
with cause 4, whether or not the firmware runs. -/
def Obligations.SensorResults : Prop :=
  ∀ (s : State) (i : Nat) (raw : Int),
    let d := s.dev
    let v := raw + mapGet 0 d.mgmt.trims i
    let cool : Boot := { d.boot with hot := d.boot.hot.filter (· ≠ i) }
    let old := (mapGet [] d.mgmt.limitTimes i).filter fun t => decide (d.now < t + 3600 * 10 ^ 9)
    let idle := (regionTiles i).all fun t => decide (issueDuty d t ≤ d.floorDuty)
    (d.boot.powered = false → 3 ∉ d.mgmt.switching → exec (.sensorSample i raw) s = .next s) ∧
    (d.boot.powered = true → 3 ∉ d.mgmt.switching →
      (i < 24 → fwReady d = true → -32768 ≤ v → v < 16 * 125 →
        ∃ e, exec (.sensorSample i raw) s = leaves s e ∧ e.sfld mgmtTempTemp i = v ∧ e.sfld mgmtTempMax i = max (d.sfld mgmtTempMax i) v ∧
          SameRegsBut d e [0x1E100 + 4 * i] ∧ { e with regs := d.regs, boot := d.boot, mgmt := d.mgmt } = d ∧ e.boot = cool ∧
          (16 ≤ i → e.mgmt = d.mgmt) ∧ (i < 16 → e.mgmt = { d.mgmt with limits := d.mgmt.limits.filter (· ≠ i) })) ∧
      (i < 24 → fwReady d = false → v < 16 * 130 → exec (.sensorSample i raw) s = leaves s { d with boot := cool }) ∧
      (i < 24 → fwReady d = false → 16 * 130 ≤ v →
        exec (.sensorSample i raw) s = leaves s (enterSafe 4 { d with boot := { cool with hot := cool.hot ++ [i] } })) ∧
      (i < 24 → 16 * 130 ≤ v → v < 32768 → old.length < 2 → safeState d = false →
        ∃ e, exec (.sensorSample i raw) s = leaves s e ∧ safeState e = true ∧ e.fld supSafeStatusSafeCause = 4 ∧ i ∈ e.boot.hot) ∧
      (i < 16 → fwReady d = true → 16 * 125 ≤ v → v < 16 * 130 → idle = true →
        (i ∈ d.mgmt.limits → ∃ e, exec (.sensorSample i raw) s = leaves s e ∧ e.mgmt = d.mgmt) ∧
        (i ∉ d.mgmt.limits → ∃ e : Dev, i ∈ e.mgmt.limits ∧ (e.mgmt.log.getLast?).map (·.code) = some lgThermal ∧
          (old.length < 2 → mapGet [] e.mgmt.limitTimes i = old ++ [d.now] ∧ exec (.sensorSample i raw) s = leaves s e) ∧
          (2 ≤ old.length → mapGet [] e.mgmt.limitTimes i = [] ∧ ∀ t, (regionTiles i).find? (fun t => (d.tile t).service = .inService) = some t →
            exec (.sensorSample i raw) s = .next (applyLibrary (retire t 3 { s with dev := e })))))) ∧
    (d.boot.powered = true → 3 ∉ d.mgmt.switching → fwReady d = true →
      (i = 30 → exec (.sensorSample i raw) s = leaves s (d.setS mgmtSupply1TModule v)) ∧
      (i = 31 → exec (.sensorSample i raw) s = leaves s (d.setFld mgmtSupply1Rh (unsx 16 v))))

/-- R510, R512, R523: a sample below 14.0 V, or of the hold-up rail below its threshold, trips the write guard; below 10.5 V the compute
stop follows, with cause 3; a good one lets the guard's release run, or stops it.
R509, R523, R528 to R530: removal. EJECT_OK waits for the last job and then removes power; a surprise removal is a compute stop and
a trip of the write guard, and ends an announced removal. -/
def Obligations.SupplyAndRemovalResults : Prop :=
  (∀ (s : State) (vin vhold : Nat),
    let d := s.dev
    3 ∉ d.mgmt.switching →
    (d.clr.on = false → exec (.supplySample vin vhold) s = .next s) ∧
    (d.clr.on = true → d.boot.powered = true →
      ∃ e, exec (.supplySample vin vhold) s = leaves s e ∧ e.clr.vin = vin ∧ e.clr.vhold = vhold ∧
        e.fld mgmtSupply0Vin = min 65535 vin ∧ e.fld mgmtSupply0Vhold = min 65535 vhold ∧
        (14000 ≤ vin → 38000 ≤ vhold → e.fld clrGuardHeld = d.fld clrGuardHeld) ∧
        (vin < 14000 ∨ vhold < 38000 → e.fld clrGuardHeld = 1 ∧
          (guardHeld d = false → e.fld clrGuardTripped = 1 ∧ e.fld clrGuardTrips = min (d.fld clrGuardTrips + 1) 65535)) ∧
        e.clr.recovering = (guardHeld e && decide (16000 ≤ vin) && decide (38000 < vhold)) ∧
        (10500 ≤ vin → e.boot = d.boot ∧ e.jobs = d.jobs ∧ e.mem = d.mem ∧ e.tiles = d.tiles) ∧
        (vin < 10500 → e.clr.supplyCause = true ∧ e.boot.compute = false ∧
          (d.boot.compute = true → safeState e = true ∧ e.fld devPwrUvStop = 1 ∧ e.mem = [] ∧ e.tiles = [] ∧ e.images = [] ∧
            e.fld devPwrCntStops = min (d.fld devPwrCntStops + 1) 65535 ∧ (safeState d = false → e.fld supSafeStatusSafeCause = 3)))) ∧
    (d.boot.powered = true → 36500 < d.clr.vin → d.boot.compute = true →
      ∃ e, exec .overvoltageStop s = leaves s e ∧ safeState e = true ∧ e.fld devPwrOvStop = 1 ∧ e.boot.compute = false ∧
        e.clr.supplyCause = true ∧ e.mem = [] ∧ e.images = []) ∧
    (d.boot.powered = false ∨ d.clr.vin ≤ 36500 → exec .overvoltageStop s = .next s) ∧
    (14000 ≤ d.clr.vin → d.clr.vin ≤ 36000 → exec .supplyRecovery s = leaves s { d with clr := { d.clr with supplyCause := false } }) ∧
    (d.clr.vin < 14000 ∨ 36000 < d.clr.vin → exec .supplyRecovery s = .next s) ∧
    (guardHeld d = true → d.clr.recovering = true → 16000 ≤ d.clr.vin → 38000 < d.clr.vhold → d.mgmt.mbox = [] →
      ∃ u, exec .writeGuardRelease s = .next u ∧ guardHeld u.dev = false ∧ u.dev.mgmt.repair = none ∧ u.dev.mgmt.ptr = none ∧
        u.dev.clr.recovering = false ∧ u.nv.repair = d.mgmt.repair.getD s.nv.repair ∧ u.nv.boot = d.mgmt.ptr.getD s.nv.boot ∧
        u.nv.gen = (if d.mgmt.ptr.isSome then s.nv.gen + 1 else s.nv.gen) ∧ u.nv.slots = s.nv.slots ∧ u.nv.fuses = s.nv.fuses) ∧
    (guardHeld d = false ∨ d.clr.recovering = false ∨ d.clr.vin < 16000 ∨ d.clr.vhold ≤ 38000 → exec .writeGuardRelease s = .next s)) ∧
  (∀ (s : State),
    let d := s.dev
    (d.flag devPwrDraining = true →
      exec .drainTimeout s = leaves s (startAbort { scope := 3 } d) ∧
      (d.jobs ≠ [] → exec .ejectOk s = .next s) ∧
      (d.jobs = [] → ∃ u, exec .ejectOk s = .next u ∧ u.dev.flag devPwrEjectOk = true ∧ u.dev.flag devPwrDraining = false ∧
        u.dev.fld devPwrCntEjects = min (d.fld devPwrCntEjects + 1) 65535 ∧ u.dev.boot = { perst := d.boot.perst } ∧
        u.dev.clr.asleep = true ∧ u.dev.flag clrStatusAwake = false ∧ u.dev.mem = [] ∧ u.dev.images = [] ∧ u.dev.tiles = [] ∧
        u.dev.time = 0 ∧ u.dev.mgmt = {} ∧ u.dev.hostMem = d.hostMem ∧ u.nv.fuses = s.nv.fuses ∧ u.pending = s.pending)) ∧
    (d.flag devPwrDraining = false → exec .drainTimeout s = .next s ∧ exec .ejectOk s = .next s) ∧
    (d.boot.powered = true → 3 ∉ d.mgmt.switching →
      ∃ e, exec .surpriseRemoval s = leaves s e ∧ e.flag devPwrUnseatStop = true ∧ e.flag devPwrSeated = false ∧
        e.flag devPwrDraining = false ∧ e.net.leaving = false ∧ e.clr.unseated = true ∧ e.clr.seatRun = 0 ∧ guardHeld e = true ∧
        e.boot.compute = false ∧ causeHolds e = true ∧
        (d.boot.compute = true → safeState e = true ∧ e.mem = [] ∧ e.images = [] ∧ e.fld devPwrCntStops = min (d.fld devPwrCntStops + 1) 65535)) ∧
    (d.boot.powered = false → 3 ∉ d.mgmt.switching → exec .surpriseRemoval s = .next s))

/-- R393, R482, R493, R494, R543: the watchdog resets the management domain and leaves admitted jobs alone; the third expiry within
ten minutes enters the safe state; the firmware then starts, measures what it loads, and enters the safe state where kind 2, 3 or 4
has no valid slot.
R487, R488, R490, R510: the oldest event that waits becomes the next record of the current sector, after one that tells how many
were lost; the 60th record, or LOG_SEAL, seals the sector and the next one is used; while the write guard holds nothing is written.
R500 to R502: TRIAL_CONFIRM ends the trial of a kind whose condition holds while it runs; HUB_RELOAD makes the new hub code active, in
trial, once no deadline item runs. -/
def Obligations.FirmwareResults : Prop :=
  (∀ (s : State),
    let d := s.dev
    let recent := d.boot.expiries.filter fun t => decide (d.now < t + 600 * 10 ^ 9)
    (d.boot.powered = true → fwReady d = true →
      (∀ b i, s.goodImg 1 b = some i → recent.length < 2 →
        ∃ u, exec .watchdogExpiry s = .next u ∧ fwReady u.dev = false ∧ u.dev.mgmt.keyLocked = true ∧
          u.dev.fld mgmtCntWatchdog = min (d.fld mgmtCntWatchdog + 1) 65535 ∧ (u.dev.mgmt.log.getLast?).map (·.code) = some lgWatchdog ∧
          u.dev.jobs = d.jobs ∧ u.dev.images = d.images ∧ u.dev.tiles = d.tiles ∧ u.dev.mem = d.mem ∧ u.dev.sqs = d.sqs ∧
          u.dev.loop = d.loop ∧ u.dev.time = d.time ∧ safeState u.dev = safeState d) ∧
      (2 ≤ recent.length → ∃ u, exec .watchdogExpiry s = .next u ∧ safeState u.dev = true ∧ fwReady u.dev = false) ∧
      (∀ b, s.goodImg 1 b = none → s.goodImg 1 (!b) = none → ∃ u, exec .watchdogExpiry s = .next u ∧ u.dev.mgmt.romOnly = true ∧
        u.dev.mgmt.keyLocked = false ∧ safeState u.dev = true ∧ causeHolds u.dev = true)) ∧
    (d.boot.powered = false ∨ fwReady d = false → exec .watchdogExpiry s = .next s) ∧
    (d.boot.powered = true → d.boot.stage0Done = true → d.boot.running = false → fwReady d = false → d.mgmt.romOnly = false →
      d.mgmt.keyLocked = true → d.mgmt.mbox = [] →
      ∃ u, exec .firmwareReady s = .next u ∧ fwReady u.dev = true ∧
        measOf u.dev 6 = sha512 (measOf d 6 ++ ((s.calBytes.map fun l => (l.drop 192).take 64).getD (List.replicate 64 0))) ∧
        (∀ k ∈ [2, 3, 4], (∃ b, (s.goodImg k b).isSome = true) → ∃ i b, s.goodImg k b = some i ∧
          measOf u.dev k = sha512 (measOf d k ++ i.digest)) ∧
        (∀ k ∈ [2, 3, 4], s.goodImg k false = none → s.goodImg k true = none → safeState u.dev = true ∧ causeHolds u.dev = true) ∧
        (u.dev.flag mgmtStatusCfgEmpty = true ↔ s.goodImg 5 false = none ∧ s.goodImg 5 true = none)) ∧
    (d.boot.powered = false ∨ fwReady d = true → exec .firmwareReady s = .next s)) ∧
  (∀ (s : State),
    let d := s.dev
    let c := s.nv.logCur
    let old := (mapGet {} s.nv.log c).recs
    (fwReady d = false ∨ guardHeld d = true → exec .logRecordWrite s = .next s ∧ exec .logSeal s = .next s) ∧
    (fwReady d = true → guardHeld d = false → c < 1024 → s.nv.chain.length = 16 → s.nv.prevSeal.length = 16 →
      (∀ r l, d.mgmt.log = r :: l →
        ∃ u b, exec .logRecordWrite s = .next u ∧ (mapGet {} u.nv.log c).recs = old ++ [b] ∧ b.length = 64 ∧
          recLe b 0 8 = s.nv.logSeq % 2 ^ 64 ∧ recLe b 16 4 = s.nv.boots % 2 ^ 32 ∧ b.drop 48 = s.nv.chain ∧
          u.nv.chain = (sha512 b).take 16 ∧ u.nv.logSeq = s.nv.logSeq + 1 ∧ u.dev.mgmt.lost = 0 ∧
          (d.mgmt.lost = 0 → u.dev.mgmt.log = l ∧ recLe b 8 8 = r.time % 2 ^ 64 ∧ recLe b 20 2 = r.code % 2 ^ 16 ∧
            recLe b 22 1 = logSev r.code ∧ (r.data.length ≤ 24 → (b.drop 24).take r.data.length = r.data)) ∧
          (d.mgmt.lost ≠ 0 → u.dev.mgmt.log = d.mgmt.log ∧ recLe b 20 2 = 0x00F0 ∧ recLe b 24 4 = d.mgmt.lost % 2 ^ 32) ∧
          (old.length ≠ 59 → u.nv.logCur = c) ∧
          (old.length = 59 → u.nv.logCur = (c + 1) % 1024 ∧ (mapGet {} u.nv.log c).sealBytes.isSome = true)) ∧
      (d.mgmt.log = [] → d.mgmt.lost = 0 → exec .logRecordWrite s = .next s) ∧
      (old = [] → exec .logSeal s = .next s) ∧
      (∀ b r, old = b :: r → b.length = 64 → old.length ≤ 60 →
        ∃ u l, exec .logSeal s = .next u ∧ (mapGet {} u.nv.log c).sealBytes = some l ∧ (mapGet {} u.nv.log c).recs = old ∧
          l.length = 256 ∧ l.take 8 = b.take 8 ∧ recLe l 8 2 = old.length ∧ (l.drop 32).take 16 = s.nv.prevSeal ∧
          l.drop 196 = List.replicate 60 0xFF ∧ u.nv.logCur = (c + 1) % 1024 ∧ mapGet {} u.nv.log ((c + 2) % 1024) = {} ∧
          u.nv.prevSeal = (sha512 (l.take 64)).take 16 ∧ u.dev.mgmt.log = d.mgmt.log))) ∧
  (∀ (s : State) (k : Nat),
    let d := s.dev
    let p := s.bootPtr k
    (guardHeld d = false → d.mgmt.ptr = none) →
    (p.trial = true → confirms d k = true → runsActive s k = true →
      ∃ u, exec (.trialConfirm k) s = .next u ∧ u.bootPtr k = { p with trial := false, tries := 0 } ∧
        (∀ j, j ≠ k → u.bootPtr j = s.bootPtr j) ∧ u.nv.fuses = s.nv.fuses ∧ u.nv.slots = s.nv.slots ∧
        (guardHeld d = true → u.nv = s.nv) ∧ (guardHeld d = false → u.nv.gen = s.nv.gen + 1)) ∧
    (p.trial = false ∨ confirms d k = false ∨ runsActive s k = false → exec (.trialConfirm k) s = .next s) ∧
    (2 ∈ d.mgmt.switching → fwReady d = true → guardHeld d = false → deadlineRunning d = false →
      let b := !(s.bootPtr 2).slotB
      ∃ u, exec .hubReload s = .next u ∧ u.bootPtr 2 = ⟨b, true, 3⟩ ∧ 2 ∉ u.dev.mgmt.switching ∧ u.dev.boot.reloading = false ∧
        (2 ∈ u.dev.mgmt.runB ↔ b = true) ∧ (∀ j, j ≠ 2 → u.bootPtr j = s.bootPtr j) ∧ u.dev.jobs = d.jobs ∧ u.dev.images = d.images) ∧
    (2 ∉ d.mgmt.switching ∨ fwReady d = false ∨ guardHeld d = true ∨ deadlineRunning d = true → exec .hubReload s = .next s))

/-- R506 to R509, R523, R526, R528: Clearing's power, its samples and filters, the rule that wakes the module or asks for sleep, and the
sequence that removes power. -/
def Obligations.ClearingResults : Prop :=
  ∀ (s : State),
    let d := s.dev
    (d.clr.on = false → exec .clearingPowerOn s = leaves s { d with clr := { d.clr with on := true } } ∧
      exec .clearingPowerOnReset s = .next s ∧ ∀ x, exec (.clearingSample x) s = .next s) ∧
    (d.clr.on = true →
      exec .clearingPowerOn s = .next s ∧
      (d.clr.vin < 6000 → d.clr.vhold < 15000 →
        ∃ e : Dev, exec .clearingPowerOnReset s = leaves s e ∧ (∀ o, bankWord e.regs o = resetWord o) ∧ e.clr = {} ∧ e.boot = {} ∧
          e.mgmt = {} ∧ e.net = {} ∧ e.loop = {} ∧ e.jobs = [] ∧ e.mem = [] ∧ e.tiles = [] ∧ e.time = 0 ∧ e.hostMem = d.hostMem) ∧
      (6000 ≤ d.clr.vin ∨ 15000 ≤ d.clr.vhold → exec .clearingPowerOnReset s = .next s) ∧
      (∀ x : ClrInputs, ∃ e, exec (.clearingSample x) s = leaves s e ∧ e.clr.supply = (x.supplyMv :: d.clr.supply).take 8 ∧
        e.clr.temp = (match x.tempC with
          | some t => some t
          | none => d.clr.temp) ∧
        e.clr.seatRun = (if x.seatedN then 0 else min 21 (d.clr.seatRun + 1)) ∧
        e.clr.ejectRun = (if x.ejectReqN then 0 else min 10 (d.clr.ejectRun + 1)) ∧
        e.fld devPwrSeated = b2n (e.clr.seatRun = 21) ∧ e.fld devPwrEjectReq = b2n (e.clr.ejectRun = 10) ∧
        (∀ n < 4,
          let w := wakeRun (mapGet {} d.clr.wakes n) (x.wake.getLsbD n)
          mapGet {} e.clr.wakes n = w ∧
          bit (e.fld clrStatusWake) n = if filtLen d n ≤ w.run then w.high else bit (d.fld clrStatusWake) n) ∧
        (x.ejectReqN = true →
          let c := (upto 16).foldl countHold (samplePins x (let b : Dev := (upto 4).foldl (sampleWake x) d
            ({ b with clr := { b.clr with supply := e.clr.supply, temp := e.clr.temp } } : Dev)))
          (∀ i, d.clr.asleep = true → decideRule c = some (i, 1) → e.clr.asleep = false ∧ e.clr.rising = true ∧
            e.fld clrStatusLastRule = i ∧ e.flag clrStatusLastValid = true ∧
            e.fld clrStatusWakes = min (d.fld clrStatusWakes + 1) 65535 ∧ e.clr.woke = some (i, e.fld clrStatusWake)) ∧
          (∀ i, d.clr.asleep = true → decideRule c = some (i, 2) → d.clr.fresh = false → x.seatedN = false →
            e.clr.asleep = true ∧ e.clr.rising = d.clr.rising) ∧
          (∀ i a, d.clr.asleep = false → d.boot.powered = true → decideRule c = some (i, a) →
            e.flag clrStatusSleepReq = true ∧ e.clr.rising = d.clr.rising) ∧
          (decideRule c = none → d.clr.fresh = false → x.seatedN = false → e.clr.asleep = d.clr.asleep ∧ e.clr.rising = d.clr.rising ∧
            e.flag clrStatusSleepReq = d.flag clrStatusSleepReq)))) ∧
    (d.flag clrStatusSleepReq = true → d.boot.powered = true → fwReady d = true →
      (d.jobs ≠ [] → exec .sleepSequence s = leaves s { d with boot := { d.boot with sleeping := true } }) ∧
      (d.jobs = [] → ∃ u, exec .sleepSequence s = .next u ∧ u.dev.boot = { perst := d.boot.perst } ∧ u.dev.clr.asleep = true ∧
        u.dev.flag clrStatusSleepReq = false ∧ u.dev.flag clrStatusAwake = false ∧ u.dev.mem = [] ∧ u.dev.images = [] ∧
        bankWord u.dev.regs rSupStatus = bankWord (d.setFld supStatusCplPending 0).regs rSupStatus ∧ u.nv.fuses = s.nv.fuses ∧
        (guardHeld d = true → u.dev.clr.lostKept = d.mgmt.log.length + d.mgmt.lost ∧ u.nv = s.nv))) ∧
    (d.flag clrStatusSleepReq = false ∨ d.boot.powered = false ∨ fwReady d = false → exec .sleepSequence s = .next s) ∧
    (d.boot.sleeping = true → exec .sleepDelayExpiry s = leaves s (startAbort { scope := 3 } d)) ∧
    (d.boot.sleeping = false → exec .sleepDelayExpiry s = .next s)

/-- R519, R526, R531, R540, R541, R544: power-good resets every domain but Clearing, latches REFCLK_SEL and begins the start-up at
stage 0.
R493, R544 to R548: what each stage of a start-up leaves when it completes; a start-up whose ROM finds no firmware, whose memory
does not train, or that is in the safe state after stage 2 ends there. -/
def Obligations.StartupResults : Prop :=
  (∀ (s : State) (sris : Bool),
    let d := s.dev
    (d.clr.rising = false ∨ d.boot.powered = true → exec (.powerGood sris) s = .next s) ∧
    (d.clr.rising = true → d.boot.powered = false →
      ∃ e, exec (.powerGood sris) s = leaves s e ∧ e.boot = { powered := true, compute := true, running := true, perst := d.boot.perst } ∧
        e.clr = { d.clr with rising := false, fresh := false, inserted := false } ∧ e.flag clrStatusAwake = true ∧
        e.flag devPwrRefclkSel = sris ∧ e.fld devStatusStage = 0 ∧ e.flag devStatusReady = false ∧ e.flag devCtrlSetupLock = false ∧
        e.fld devRstCauseLast = (if d.clr.fresh = false then 1 else if d.clr.inserted then 2 else 0) ∧
        e.fld devPwrCntStops = d.fld devPwrCntStops ∧ e.fld devPwrUvStop = d.fld devPwrUvStop ∧
        e.fld supSafeStatusEntries = d.fld supSafeStatusEntries ∧ safeState e = safeState d ∧ (∀ i < 16, e.fld clrRuleRule i = d.fld clrRuleRule i) ∧
        e.time = 0 ∧ e.mgmt = {} ∧ e.net = {} ∧ e.loop = {} ∧ e.mem = [] ∧ e.jobs = [] ∧ e.images = [] ∧
        (∀ t < 136, e.fld tileIdPtile t = t ∧ e.fld tileIdSapling t = b2n (s.nv.fuses.saplings.contains t)) ∧
        e.fld mgmtStatusSvnFuse = s.nv.fuses.f % 256 ∧ e.hostMem = d.hostMem)) ∧
  (∀ (s : State) (x : StageReport),
    let d := s.dev
    let run := exec (.startupStageDone x) s
    (d.boot.powered = false ∨ d.boot.running = false → run = .next s) ∧
    (d.boot.powered = true → d.boot.running = true →
      (d.fld devStatusStage = 0 → ∃ e, run = leaves s e ∧ e.fld devStatusStage = 1 ∧ e.boot.stage0Done = true ∧
        e.flag clkStatusRootLock = true ∧ e.flag clkStatusPcieLock = true ∧ e.flag clkStatusUsxLock = true ∧ e.flag clkStatusPlkLock = true) ∧
      (d.fld devStatusStage = 1 → d.mgmt.romOnly = false →
        (∀ b i, s.goodImg 1 b = some i → ∃ u, run = .next u ∧ u.dev.fld devStatusStage = 2 ∧ u.dev.mgmt.keyLocked = true ∧
          u.dev.boot.running = true ∧ ∃ j c, s.goodImg 1 c = some j ∧ measOf u.dev 1 = sha512 (measOf d 1 ++ j.digest)) ∧
        (s.goodImg 1 false = none → s.goodImg 1 true = none → ∃ u, run = .next u ∧ u.dev.fld devStatusStage = 0 ∧
          u.dev.boot.running = false ∧ safeState u.dev = true ∧ u.dev.mgmt.romOnly = true)) ∧
      (d.fld devStatusStage = 2 → d.mgmt.mbox = [] → fwReady d = false →
        ((∀ k ∈ [2, 3, 4], ∃ b, (s.goodImg k b).isSome = true) → safeState d = false →
          ∃ u, run = .next u ∧ u.dev.fld devStatusStage = 3 ∧ fwReady u.dev = true ∧ u.dev.boot.configured = true ∧
            (d.boot.configured = false → u.nv.boots = s.nv.boots + 1)) ∧
        (∀ k ∈ [2, 3, 4], s.goodImg k false = none → s.goodImg k true = none →
          ∃ u, run = .next u ∧ safeState u.dev = true ∧ u.dev.fld devStatusStage = 0 ∧ u.dev.boot.running = false ∧ u.dev.boot.fatal = true)) ∧
      (d.fld devStatusStage = 3 →
        (x.channelsTrained = 0xF → ∃ e : Dev, run = leaves s e ∧ e.mem = [] ∧ e.poison = [] ∧ e.flaws = [] ∧ e.flag memStatusTrained = true ∧
          e.fld devStatusStage = 4 ∧ e.tiles = d.tiles ∧ e.hostMem = d.hostMem) ∧
        (x.channelsTrained ≠ 0xF → safeState d = false → ∃ e, run = leaves s e ∧ safeState e = true ∧ e.boot.running = false ∧ causeHolds e = true)) ∧
      (d.fld devStatusStage = 4 →
        (x.failedTiles = [] → s.repair.retired = [] → run = leaves s (d.setFld devStatusStage 5)) ∧
        (∀ t ∈ x.failedTiles, t < 136 → t ∉ s.repair.retired → (d.tile t).service ≠ .retired →
          ∃ u, run = .next u ∧ u.dev.fld devStatusStage = 5 ∧ u.dev.flag devStatusSelftestRetired = true)) ∧
      (d.fld devStatusStage = 5 → ∃ e, run = leaves s e ∧ e.flag devStatusReady = true ∧ e.fld devStatusStage = 6 ∧
        e.boot.running = false ∧ e.fld devBootTimeUs = x.microseconds % 2 ^ 32 ∧
        (d.flag devCtrlSetupLock = false → ∀ t < 136,
          ((d.tile t).service = .retired → (e.tile t).service = .retired) ∧
          ((d.tile t).service ≠ .retired → d.flag tileIdSapling t = false → (e.tile t).service = .inService) ∧
          ((d.tile t).service ≠ .retired → d.flag tileIdSapling t = true →
            (∀ u < 136, (d.tile u).service = .retired → d.flag tileIdSapling u = true) → (e.tile t).service = .spare)))))

/-! ## What every step keeps -/

/-- R491, R495, R496: fuses only blow. Every step keeps the counter F from falling and within 64, a revocation and an integrator key in
place, and the fused designations as they are. -/
def Obligations.FusesOnlyBlow : Prop :=
  ∀ (s u : State), step s = .next u →
    s.nv.fuses.f ≤ u.nv.fuses.f ∧ (s.nv.fuses.f ≤ 64 → u.nv.fuses.f ≤ 64) ∧
    (∀ k < 4, bit s.nv.fuses.revoked.toNat k = true → bit u.nv.fuses.revoked.toNat k = true) ∧
    (∀ k, s.nv.fuses.intKey = some k → u.nv.fuses.intKey = some k) ∧
    u.nv.fuses.saplings = s.nv.fuses.saplings ∧ u.nv.fuses.spared = s.nv.fuses.spared ∧ u.nv.fuses.debugOff = s.nv.fuses.debugOff

/-- The event log's invariant (R487, R488): the current sector has room and no seal, the next one is erased, and no sector holds more
than 60 records. -/
def Obligations.LogSectorsKeepForm : Prop :=
  ∀ (s u : State),
    let good (v : State) : Prop := v.nv.logCur < 1024 ∧ (mapGet {} v.nv.log v.nv.logCur).recs.length < 60 ∧
      (mapGet {} v.nv.log v.nv.logCur).sealBytes = none ∧ mapGet {} v.nv.log ((v.nv.logCur + 1) % 1024) = {} ∧
      ∀ c, (mapGet {} v.nv.log c).recs.length ≤ 60
    good s → step s = .next u → good u
end

