-- ==== Sys2Proof/Laws/Map.lean ====
section
/-! SUPPORT. Read after write of the sparse maps, that every map operation keeps the canonical form, and that maps in that form
with equal reads are equal. -/

namespace Sys2Proof.Machine

variable {α : Type}

@[simp] theorem mapGet_nil (z : α) (k : Nat) : mapGet z [] k = z := rfl

@[simp] theorem mapFind_nil (k : Nat) : mapFind ([] : SMap α) k = none := rfl

theorem mapGet_insert_self (z : α) (m : SMap α) (k : Nat) (v : α) : mapGet z (mapInsert m k v) k = v := by
  induction m with
  | nil => simp [mapInsert, mapGet]
  | cons e r ih =>
    obtain ⟨a, w⟩ := e
    unfold mapInsert
    split
    · simp [mapGet]
    · rename_i h
      split
      · simp [mapGet]
      · simp [mapGet, h, ih]

theorem mapGet_insert_ne (z : α) (m : SMap α) {k j : Nat} (v : α) (h : j ≠ k) : mapGet z (mapInsert m k v) j = mapGet z m j := by
  induction m with
  | nil => simp [mapInsert, mapGet, Ne.symm h]
  | cons e r ih =>
    obtain ⟨a, w⟩ := e
    unfold mapInsert
    split
    · subst_vars; simp [mapGet, Ne.symm h]
    · split
      · simp [mapGet, Ne.symm h]
      · simp only [mapGet, ih]

theorem mapGet_erase_self (z : α) (m : SMap α) (k : Nat) : mapGet z (mapErase m k) k = z := by
  induction m with
  | nil => rfl
  | cons e r ih =>
    obtain ⟨a, w⟩ := e
    unfold mapErase
    split
    · exact ih
    · rename_i h; simp [mapGet, h, ih]

theorem mapGet_erase_ne (z : α) (m : SMap α) {k j : Nat} (h : j ≠ k) : mapGet z (mapErase m k) j = mapGet z m j := by
  induction m with
  | nil => rfl
  | cons e r ih =>
    obtain ⟨a, w⟩ := e
    unfold mapErase
    split
    · subst_vars; simp [mapGet, ih, Ne.symm h]
    · simp only [mapGet, ih]

/-- A read of the key just written. -/
@[simp] theorem mapGet_set_self [DecidableEq α] (z : α) (m : SMap α) (k : Nat) (v : α) : mapGet z (mapSet z m k v) k = v := by
  unfold mapSet
  split
  · rename_i h; rw [mapGet_erase_self, h]
  · exact mapGet_insert_self z m k v

/-- A write leaves every other key alone. -/
theorem mapGet_set_ne [DecidableEq α] (z y : α) (m : SMap α) {k j : Nat} (v : α) (h : j ≠ k) :
    mapGet z (mapSet y m k v) j = mapGet z m j := by
  unfold mapSet
  split
  · exact mapGet_erase_ne z m h
  · exact mapGet_insert_ne z m v h

theorem mapGet_set [DecidableEq α] (z : α) (m : SMap α) (k j : Nat) (v : α) :
    mapGet z (mapSet z m k v) j = if j = k then v else mapGet z m j := by
  split
  · rename_i h; rw [h, mapGet_set_self]
  · rename_i h; exact mapGet_set_ne z z m v h

/-! ### The canonical form -/

theorem mapRising_mono {m : SMap α} {a b : Nat} (h : a ≤ b) (hm : mapRising b m = true) : mapRising a m = true := by
  cases m with
  | nil => rfl
  | cons e r => simp only [mapRising, Bool.and_eq_true, decide_eq_true_eq] at *; exact ⟨by omega, hm.2⟩

theorem mapRising_erase (m : SMap α) (k lo : Nat) (h : mapRising lo m = true) : mapRising lo (mapErase m k) = true := by
  induction m generalizing lo with
  | nil => rfl
  | cons e r ih =>
    obtain ⟨a, w⟩ := e
    simp only [mapRising, Bool.and_eq_true, decide_eq_true_eq] at h
    unfold mapErase
    split
    · exact ih lo (mapRising_mono (by omega) h.2)
    · simp only [mapRising, Bool.and_eq_true, decide_eq_true_eq]; exact ⟨h.1, ih _ h.2⟩

theorem mapRising_insert (m : SMap α) (k lo : Nat) (v : α) (hk : lo ≤ k) (h : mapRising lo m = true) :
    mapRising lo (mapInsert m k v) = true := by
  induction m generalizing lo with
  | nil => simp [mapInsert, mapRising, hk]
  | cons e r ih =>
    obtain ⟨a, w⟩ := e
    simp only [mapRising, Bool.and_eq_true, decide_eq_true_eq] at h
    unfold mapInsert
    split
    · subst_vars; simp only [mapRising, Bool.and_eq_true, decide_eq_true_eq]; exact h
    · split
      · simp only [mapRising, Bool.and_eq_true, decide_eq_true_eq]
        exact ⟨hk, by omega, h.2⟩
      · simp only [mapRising, Bool.and_eq_true, decide_eq_true_eq]
        exact ⟨h.1, ih _ (by omega) h.2⟩

theorem mapAll_erase (p : Nat × α → Bool) (m : SMap α) (k : Nat) (h : m.all p = true) : (mapErase m k).all p = true := by
  induction m with
  | nil => rfl
  | cons e r ih =>
    obtain ⟨a, w⟩ := e
    simp only [List.all_cons, Bool.and_eq_true] at h
    unfold mapErase
    split
    · exact ih h.2
    · simp only [List.all_cons, Bool.and_eq_true]; exact ⟨h.1, ih h.2⟩

theorem mapAll_insert (p : Nat × α → Bool) (m : SMap α) (k : Nat) (v : α) (hv : p (k, v) = true) (h : m.all p = true) :
    (mapInsert m k v).all p = true := by
  induction m with
  | nil => simp [mapInsert, hv]
  | cons e r ih =>
    obtain ⟨a, w⟩ := e
    simp only [List.all_cons, Bool.and_eq_true] at h
    unfold mapInsert
    split
    · simp only [List.all_cons, Bool.and_eq_true]; exact ⟨hv, h.2⟩
    · split
      · simp only [List.all_cons, Bool.and_eq_true]; exact ⟨hv, h.1, h.2⟩
      · simp only [List.all_cons, Bool.and_eq_true]; exact ⟨h.1, ih h.2⟩

/-- A write keeps the canonical form. -/
theorem mapWf_set [DecidableEq α] (z : Nat → α) (m : SMap α) (k : Nat) (v : α) (h : mapWf z m = true) :
    mapWf z (mapSet (z k) m k v) = true := by
  simp only [mapWf, Bool.and_eq_true] at h ⊢
  unfold mapSet
  split
  · exact ⟨mapRising_erase m k 0 h.1, mapAll_erase _ m k h.2⟩
  · rename_i hv
    exact ⟨mapRising_insert m k 0 v (by omega) h.1, mapAll_insert _ m k v (by simpa using hv) h.2⟩

theorem mapRising_filter (p : Nat × α → Bool) (m : SMap α) (lo : Nat) (h : mapRising lo m = true) :
    mapRising lo (m.filter p) = true := by
  induction m generalizing lo with
  | nil => rfl
  | cons e r ih =>
    obtain ⟨a, w⟩ := e
    simp only [mapRising, Bool.and_eq_true, decide_eq_true_eq] at h
    simp only [List.filter_cons]
    split
    · simp only [mapRising, Bool.and_eq_true, decide_eq_true_eq]; exact ⟨h.1, ih _ h.2⟩
    · exact ih _ (mapRising_mono (by omega) h.2)

/-- Removing entries keeps the canonical form. -/
theorem mapWf_filter [DecidableEq α] (z : Nat → α) (p : Nat × α → Bool) (m : SMap α) (h : mapWf z m = true) :
    mapWf z (m.filter p) = true := by
  simp only [mapWf, Bool.and_eq_true] at h ⊢
  refine ⟨mapRising_filter p m 0 h.1, ?_⟩
  rw [List.all_eq_true] at h ⊢
  intro e he
  exact h.2 e (List.mem_filter.mp he).1

theorem mapWf_drop [DecidableEq α] (z : Nat → α) (p : Nat → Bool) (m : SMap α) (h : mapWf z m = true) :
    mapWf z (mapDrop p m) = true := mapWf_filter z _ m h

@[simp] theorem mapWf_nil [DecidableEq α] (z : Nat → α) : mapWf z ([] : SMap α) = true := rfl

/-! ### Memory -/

@[simp] theorem memRead_write_self (m : Memory) (a : Nat) (b : Byte) : memRead (memWrite m a b) a = b := mapGet_set_self _ _ _ _

theorem memRead_write_ne (m : Memory) {a c : Nat} (b : Byte) (h : c ≠ a) : memRead (memWrite m a b) c = memRead m c :=
  mapGet_set_ne _ _ _ _ h

/-- A store of bytes leaves every byte outside it alone. -/
theorem memRead_writeN_out (m : Memory) (a : Nat) (l : List Byte) (c : Nat) (h : c < a ∨ a + l.length ≤ c) :
    memRead (memWriteN m a l) c = memRead m c := by
  induction l generalizing m a with
  | nil => rfl
  | cons b r ih =>
    simp only [List.length_cons] at h
    rw [memWriteN, ih _ _ (by omega), memRead_write_ne _ _ (by omega)]

/-- A store of bytes is read back. -/
theorem memRead_writeN_in (m : Memory) (a : Nat) (l : List Byte) (i : Nat) (h : i < l.length) :
    memRead (memWriteN m a l) (a + i) = l[i] := by
  induction l generalizing m a i with
  | nil => simp at h
  | cons b r ih =>
    rw [memWriteN]
    cases i with
    | zero => rw [memRead_writeN_out _ _ _ _ (by omega)]; simp
    | succ j =>
      have : a + (j + 1) = a + 1 + j := by omega
      rw [this, ih _ _ _ (by simpa using h)]
      simp

theorem Memory.wf_write (m : Memory) (a : Nat) (b : Byte) (h : m.wf = true) : (memWrite m a b).wf = true :=
  mapWf_set (fun _ => memDefault) m a b h

theorem Memory.wf_writeN (m : Memory) (a : Nat) (l : List Byte) (h : m.wf = true) : (memWriteN m a l).wf = true := by
  induction l generalizing m a with
  | nil => exact h
  | cons b r ih => exact ih _ _ (Memory.wf_write m a b h)

theorem Memory.wf_writeLe (m : Memory) (a n v : Nat) (h : m.wf = true) : (memWriteLe m a n v).wf = true :=
  Memory.wf_writeN m a _ h

/-! ### Bit fields -/

theorem bits_lt (v hi lo : Nat) : bits v hi lo < 2 ^ (hi + 1 - lo) := Nat.mod_lt _ (Nat.two_pow_pos _)

@[simp] theorem leBytes_length (n v : Nat) : (leBytes n v).length = n := by
  induction n generalizing v with
  | zero => rfl
  | succ n ih => simp [leBytes, ih]

end Sys2Proof.Machine
end

