-- ==== Sys2Proof/Laws/Bank.lean ====
section
/-! SUPPORT. Registers: read after write of words and fields, and that register writes keep the bank's canonical form. -/

namespace Sys2Proof.Machine

@[simp] theorem bankWord_set_self (b : Bank) (o : Nat) (v : U32) : bankWord (bankSet b o v) o = v := mapGet_set_self _ _ _ _

theorem bankWord_set_ne (b : Bank) {o p : Nat} (v : U32) (h : p ≠ o) : bankWord (bankSet b o v) p = bankWord b p :=
  mapGet_set_ne _ _ _ _ h

theorem Bank.wf_set (b : Bank) (o : Nat) (v : U32) (h : b.wf = true) : (bankSet b o v).wf = true := mapWf_set resetWord b o v h

theorem Bank.wf_regSet (b : Bank) (w : Bool) (o v : Nat) (h : b.wf = true) : (bankRegSet b w o v).wf = true := by
  unfold bankRegSet
  split
  · exact Bank.wf_set _ _ _ (Bank.wf_set _ _ _ h)
  · exact Bank.wf_set _ _ _ h

/-- A field write keeps the bank's canonical form. -/
theorem Bank.wf_fldSet (b : Bank) (f : Fld) (i x : Nat) (h : b.wf = true) : (bankFldSet b f i x).wf = true := Bank.wf_regSet _ _ _ _ h

/-! ### Fields -/

/-- A number in three parts: above, at and below a field. -/
theorem split_field (v hi lo : Nat) (h : lo ≤ hi + 1) :
    v = v / 2 ^ (hi + 1) * 2 ^ (hi + 1) + bits v hi lo * 2 ^ lo + v % 2 ^ lo := by
  unfold bits
  have h1 : 2 ^ (hi + 1) = 2 ^ lo * 2 ^ (hi + 1 - lo) := by rw [← pow_add]; congr 1; omega
  have h2 := Nat.div_add_mod v (2 ^ lo)
  have h3 := Nat.div_add_mod (v / 2 ^ lo) (2 ^ (hi + 1 - lo))
  have h4 : v / 2 ^ (hi + 1) = v / 2 ^ lo / 2 ^ (hi + 1 - lo) := by rw [h1, Nat.div_div_eq_div_mul]
  rw [h4, h1]
  calc v = 2 ^ lo * (v / 2 ^ lo) + v % 2 ^ lo := h2.symm
    _ = 2 ^ lo * (2 ^ (hi + 1 - lo) * (v / 2 ^ lo / 2 ^ (hi + 1 - lo)) + v / 2 ^ lo % 2 ^ (hi + 1 - lo)) + v % 2 ^ lo := by rw [h3]
    _ = _ := by ring

theorem setBits_eq (v hi lo x : Nat) (h : lo ≤ hi + 1) :
    setBits v hi lo x = v / 2 ^ (hi + 1) * 2 ^ (hi + 1) + x % 2 ^ (hi + 1 - lo) * 2 ^ lo + v % 2 ^ lo := by
  have := split_field v hi lo h
  unfold setBits
  omega

/-- The field just written reads the low bits of the value. -/
theorem bits_setBits (v hi lo x : Nat) (h : lo ≤ hi + 1) : bits (setBits v hi lo x) hi lo = x % 2 ^ (hi + 1 - lo) := by
  rw [setBits_eq v hi lo x h]
  unfold bits
  have h1 : 2 ^ (hi + 1) = 2 ^ lo * 2 ^ (hi + 1 - lo) := by rw [← pow_add]; congr 1; omega
  have h2 : v % 2 ^ lo < 2 ^ lo := Nat.mod_lt _ (Nat.two_pow_pos _)
  rw [h1]
  have h3 : v / (2 ^ lo * 2 ^ (hi + 1 - lo)) * (2 ^ lo * 2 ^ (hi + 1 - lo)) + x % 2 ^ (hi + 1 - lo) * 2 ^ lo + v % 2 ^ lo
      = v % 2 ^ lo + 2 ^ lo * (v / (2 ^ lo * 2 ^ (hi + 1 - lo)) * 2 ^ (hi + 1 - lo) + x % 2 ^ (hi + 1 - lo)) := by ring
  rw [h3, Nat.add_mul_div_left _ _ (Nat.two_pow_pos _), Nat.div_eq_of_lt h2, Nat.zero_add, Nat.add_comm, Nat.mul_comm,
    Nat.add_mul_mod_self_left, Nat.mod_mod]

/-- A field write does not leave the register's width. -/
theorem setBits_lt (v hi lo x n : Nat) (h : lo ≤ hi + 1) (hn : hi < n) (hv : v < 2 ^ n) : setBits v hi lo x < 2 ^ n := by
  rw [setBits_eq v hi lo x h]
  have h1 : x % 2 ^ (hi + 1 - lo) < 2 ^ (hi + 1 - lo) := Nat.mod_lt _ (Nat.two_pow_pos _)
  have h2 : v % 2 ^ lo < 2 ^ lo := Nat.mod_lt _ (Nat.two_pow_pos _)
  have h3 : v / 2 ^ (hi + 1) < 2 ^ (n - (hi + 1)) := by
    rw [Nat.div_lt_iff_lt_mul (Nat.two_pow_pos _), ← pow_add]
    have : n - (hi + 1) + (hi + 1) = n := by omega
    rwa [this]
  have h4 : 2 ^ (hi + 1) = 2 ^ lo * 2 ^ (hi + 1 - lo) := by rw [← pow_add]; congr 1; omega
  have h5 : 2 ^ n = 2 ^ (n - (hi + 1)) * 2 ^ (hi + 1) := by rw [← pow_add]; congr 1; omega
  rw [h5]
  have h6 : x % 2 ^ (hi + 1 - lo) * 2 ^ lo + v % 2 ^ lo < 2 ^ (hi + 1) := by
    rw [h4]; generalize 2 ^ (hi + 1 - lo) = w at *; generalize 2 ^ lo = u at *; nlinarith
  generalize 2 ^ (hi + 1) = a at *
  generalize 2 ^ (n - (hi + 1)) = b at *
  nlinarith

theorem bankReg_lt (b : Bank) (w : Bool) (o : Nat) : bankReg b w o < 2 ^ (if w then 64 else 32) := by
  unfold bankReg
  cases w
  · simpa using (bankWord b o).isLt
  · have h1 := (bankWord b o).isLt
    have h2 := (bankWord b (o + 4)).isLt
    simp only [if_true]
    omega

/-- The register just written, where the value fits its width. -/
theorem bankReg_set_self (b : Bank) (w : Bool) (o v : Nat) (hv : v < 2 ^ (if w then 64 else 32)) :
    bankReg (bankRegSet b w o v) w o = v := by
  unfold bankReg bankRegSet
  cases w
  · simp only [Bool.false_eq_true, if_false] at hv ⊢
    rw [bankWord_set_self, BitVec.toNat_ofNat, Nat.mod_eq_of_lt hv]
  · simp only [if_true] at hv ⊢
    rw [bankWord_set_self, bankWord_set_ne _ _ (by omega), bankWord_set_self, BitVec.toNat_ofNat, BitVec.toNat_ofNat]
    omega

/-- A named field just written reads the low bits of the value. -/
theorem bankFld_set_self (b : Bank) (f : Fld) (i x : Nat) (h : f.lo ≤ f.hi) (hw : f.hi < if f.wide then 64 else 32) :
    bankFld (bankFldSet b f i x) f i = x % 2 ^ (f.hi + 1 - f.lo) := by
  unfold bankFld bankFldSet
  rw [bankReg_set_self]
  · exact bits_setBits _ _ _ _ (by omega)
  · exact setBits_lt _ _ _ _ _ (by omega) hw (bankReg_lt _ _ _)

/-- Registers that do not overlap do not disturb each other. -/
theorem bankReg_set_ne (b : Bank) (w u : Bool) (o p v : Nat) (h : p + 4 * b2n u + 4 ≤ o ∨ o + 4 * b2n w + 4 ≤ p) :
    bankReg (bankRegSet b w o v) u p = bankReg b u p := by
  unfold bankReg bankRegSet
  cases w <;> cases u <;> simp only [b2n, Bool.false_eq_true, if_false, if_true] at h ⊢
  · rw [bankWord_set_ne _ _ (by omega)]
  · rw [bankWord_set_ne _ _ (by omega), bankWord_set_ne _ _ (by omega)]
  · rw [bankWord_set_ne _ _ (by omega), bankWord_set_ne _ _ (by omega)]
  · rw [bankWord_set_ne _ _ (by omega), bankWord_set_ne _ _ (by omega), bankWord_set_ne _ _ (by omega),
      bankWord_set_ne _ _ (by omega)]

theorem bankFld_set_ne (b : Bank) (f g : Fld) (i j x : Nat)
    (h : g.base + j * g.stride + 4 * b2n g.wide + 4 ≤ f.base + i * f.stride ∨
      f.base + i * f.stride + 4 * b2n f.wide + 4 ≤ g.base + j * g.stride) :
    bankFld (bankFldSet b f i x) g j = bankFld b g j := by
  unfold bankFld bankFldSet
  rw [bankReg_set_ne _ _ _ _ _ _ h]

/-! ### Fields of the device -/

@[simp] theorem Dev.fld_setFld (d : Dev) (f : Fld) (i x : Nat) (h : f.lo ≤ f.hi) (hw : f.hi < if f.wide then 64 else 32) :
    (d.setFld f x i).fld f i = x % 2 ^ (f.hi + 1 - f.lo) := bankFld_set_self _ _ _ _ h hw

theorem Dev.fld_setFld_ne (d : Dev) (f g : Fld) (i j x : Nat)
    (h : g.base + j * g.stride + 4 * b2n g.wide + 4 ≤ f.base + i * f.stride ∨
      f.base + i * f.stride + 4 * b2n f.wide + 4 ≤ g.base + j * g.stride) :
    (d.setFld f x i).fld g j = d.fld g j := bankFld_set_ne _ _ _ _ _ _ h

/-! ### Fields that share a register -/

theorem testBit_bits (v hi lo i : Nat) : (bits v hi lo).testBit i = (decide (i < hi + 1 - lo) && v.testBit (lo + i)) := by
  unfold bits
  rw [Nat.testBit_mod_two_pow, Nat.testBit_div_two_pow, Nat.add_comm i lo]

theorem testBit_setBits (v hi lo x i : Nat) (h : lo ≤ hi + 1) :
    (setBits v hi lo x).testBit i = if lo ≤ i ∧ i ≤ hi then x.testBit (i - lo) else v.testBit i := by
  have h1 : 2 ^ (hi + 1) = 2 ^ lo * 2 ^ (hi + 1 - lo) := by rw [← pow_add]; congr 1; omega
  have h2 : v % 2 ^ lo < 2 ^ lo := Nat.mod_lt _ (Nat.two_pow_pos _)
  have h3 : x % 2 ^ (hi + 1 - lo) < 2 ^ (hi + 1 - lo) := Nat.mod_lt _ (Nat.two_pow_pos _)
  have e : setBits v hi lo x = 2 ^ lo * (2 ^ (hi + 1 - lo) * (v / 2 ^ (hi + 1)) + x % 2 ^ (hi + 1 - lo)) + v % 2 ^ lo := by
    rw [setBits_eq v hi lo x h, h1]; ring
  rw [e, Nat.testBit_two_pow_mul_add _ h2, Nat.testBit_two_pow_mul_add _ h3, Nat.testBit_mod_two_pow, Nat.testBit_mod_two_pow,
    Nat.testBit_div_two_pow]
  by_cases a : i < lo
  · have : ¬ (lo ≤ i ∧ i ≤ hi) := by omega
    simp [a, this]
  · by_cases b : i - lo < hi + 1 - lo
    · have : lo ≤ i ∧ i ≤ hi := by omega
      simp [a, b, this]
    · have c : ¬ (lo ≤ i ∧ i ≤ hi) := by omega
      have e2 : i - lo - (hi + 1 - lo) + (hi + 1) = i := by omega
      simp [a, b, c, e2]

/-- A write of one field leaves every field beside it. -/
theorem bits_setBits_ne (v hi lo x hi' lo' : Nat) (h : lo ≤ hi + 1) (hd : hi' < lo ∨ hi < lo') :
    bits (setBits v hi lo x) hi' lo' = bits v hi' lo' := by
  apply Nat.eq_of_testBit_eq
  intro i
  rw [testBit_bits, testBit_bits, testBit_setBits _ _ _ _ _ h]
  by_cases a : i < hi' + 1 - lo'
  · have : ¬ (lo ≤ lo' + i ∧ lo' + i ≤ hi) := by omega
    simp [this]
  · simp [a]

/-- A write of one field of a register leaves its other fields. -/
theorem bankFld_set_beside (b : Bank) (f g : Fld) (i x : Nat) (hb : g.base = f.base) (hs : g.stride = f.stride) (hw : g.wide = f.wide)
    (h : f.lo ≤ f.hi) (hh : f.hi < if f.wide then 64 else 32) (hd : g.hi < f.lo ∨ f.hi < g.lo) :
    bankFld (bankFldSet b f i x) g i = bankFld b g i := by
  unfold bankFld bankFldSet
  rw [hb, hs, hw, bankReg_set_self, bits_setBits_ne _ _ _ _ _ _ (by omega) hd]
  exact setBits_lt _ _ _ _ _ (by omega) hh (bankReg_lt _ _ _)

theorem Dev.fld_setFld_beside (d : Dev) (f g : Fld) (i x : Nat) (hb : g.base = f.base) (hs : g.stride = f.stride) (hw : g.wide = f.wide)
    (h : f.lo ≤ f.hi) (hh : f.hi < if f.wide then 64 else 32) (hd : g.hi < f.lo ∨ f.hi < g.lo) :
    (d.setFld f x i).fld g i = d.fld g i := bankFld_set_beside _ _ _ _ _ hb hs hw h hh hd

end Sys2Proof.Machine
end

