-- ==== Sys2Proof/Laws/Exec.lean ====
section
/-! SUPPORT. What `exec` runs for each command: one equation per command, so that no proof unfolds `exec`. -/

namespace Sys2Proof.Machine

@[simp] theorem exec_registerWrite (p : Port) (off : Nat) (size : Nat) (v : U64) (s : State) : exec (.registerWrite p off size v) s = execRegisterWrite p off size v s := rfl
@[simp] theorem exec_lowWordReadLatch (p : Port) (off : Nat) (size : Nat) (s : State) : exec (.lowWordReadLatch p off size) s = execLowWordReadLatch p off size s := rfl
@[simp] theorem exec_setupLock (p : Port) (s : State) : exec (.setupLock p) s = execSetupLock p s := rfl
@[simp] theorem exec_devReset (p : Port) (v : U32) (s : State) : exec (.devReset p v) s = execDevReset p v s := rfl
@[simp] theorem exec_safeEnterWrite (p : Port) (s : State) : exec (.safeEnterWrite p) s = execSafeEnterWrite p s := rfl
@[simp] theorem exec_safeExitWrite (p : Port) (s : State) : exec (.safeExitWrite p) s = execSafeExitWrite p s := rfl
@[simp] theorem exec_hbChallenge (p : Port) (v : U32) (s : State) : exec (.hbChallenge p v) s = execHbChallenge p v s := rfl
@[simp] theorem exec_hbResponse (hub keeper dog : Bool) (s : State) : exec (.hbResponse hub keeper dog) s = execHbResponse hub keeper dog s := rfl
@[simp] theorem exec_hbTimeout (s : State) : exec (.hbTimeout) s = execHbTimeout s := rfl
@[simp] theorem exec_supqTail (p : Port) (v : U32) (s : State) : exec (.supqTail p v) s = execSupqTail p v s := rfl
@[simp] theorem exec_supcqHead (p : Port) (v : U32) (s : State) : exec (.supcqHead p v) s = execSupcqHead p v s := rfl
@[simp] theorem exec_sqTailDb (k : Nat) (size : Nat) (v : U32) (s : State) : exec (.sqTailDb k size v) s = execSqTailDb k size v s := rfl
@[simp] theorem exec_cqHeadDb (k : Nat) (size : Nat) (v : U32) (s : State) : exec (.cqHeadDb k size v) s = execCqHeadDb k size v s := rfl
@[simp] theorem exec_abortDb (k : Nat) (size : Nat) (v : U32) (s : State) : exec (.abortDb k size v) s = execAbortDb k size v s := rfl
@[simp] theorem exec_sqEnable (p : Port) (k : Nat) (v : U32) (s : State) : exec (.sqEnable p k v) s = execSqEnable p k v s := rfl
@[simp] theorem exec_sqDisable (p : Port) (k : Nat) (v : U32) (s : State) : exec (.sqDisable p k v) s = execSqDisable p k v s := rfl
@[simp] theorem exec_cqEnable (p : Port) (k : Nat) (v : U32) (s : State) : exec (.cqEnable p k v) s = execCqEnable p k v s := rfl
@[simp] theorem exec_cqDisable (p : Port) (k : Nat) (v : U32) (s : State) : exec (.cqDisable p k v) s = execCqDisable p k v s := rfl
@[simp] theorem exec_timeIncWrite (p : Port) (v : U64) (s : State) : exec (.timeIncWrite p v) s = execTimeIncWrite p v s := rfl
@[simp] theorem exec_timeStepWrite (p : Port) (v : U64) (s : State) : exec (.timeStepWrite p v) s = execTimeStepWrite p v s := rfl
@[simp] theorem exec_refSelWrite (p : Port) (sel : Bool) (s : State) : exec (.refSelWrite p sel) s = execRefSelWrite p sel s := rfl
@[simp] theorem exec_refSwitchoverDone (s : State) : exec (.refSwitchoverDone) s = execRefSwitchoverDone s := rfl
@[simp] theorem exec_tsqInfoRead (p : Port) (n : Nat) (s : State) : exec (.tsqInfoRead p n) s = execTsqInfoRead p n s := rfl
@[simp] theorem exec_loopMdataAccess (p : Port) (a : MdataAccess) (s : State) : exec (.loopMdataAccess p a) s = execLoopMdataAccess p a s := rfl
@[simp] theorem exec_manWrite (p : Port) (k : Nat) (v : U16) (s : State) : exec (.manWrite p k v) s = execManWrite p k v s := rfl
@[simp] theorem exec_gclChange (p : Port) (n : Nat) (v : U32) (s : State) : exec (.gclChange p n v) s = execGclChange p n v s := rfl
@[simp] theorem exec_gclInstall (n : Nat) (s : State) : exec (.gclInstall n) s = execGclInstall n s := rfl
@[simp] theorem exec_plkReform (p : Port) (s : State) : exec (.plkReform p) s = execPlkReform p s := rfl
@[simp] theorem exec_plkLeave (p : Port) (s : State) : exec (.plkLeave p) s = execPlkLeave p s := rfl
@[simp] theorem exec_loopClose (p : Port) (k : Nat) (s : State) : exec (.loopClose p k) s = execLoopClose p k s := rfl
@[simp] theorem exec_loopOpen (p : Port) (k : Nat) (s : State) : exec (.loopOpen p k) s = execLoopOpen p k s := rfl
@[simp] theorem exec_loopSwap (p : Port) (k : Nat) (s : State) : exec (.loopSwap p k) s = execLoopSwap p k s := rfl
@[simp] theorem exec_injStart (p : Port) (s : State) : exec (.injStart p) s = execInjStart p s := rfl
@[simp] theorem exec_injStop (p : Port) (s : State) : exec (.injStop p) s = execInjStop p s := rfl
@[simp] theorem exec_capStart (p : Port) (s : State) : exec (.capStart p) s = execCapStart p s := rfl
@[simp] theorem exec_capStop (p : Port) (s : State) : exec (.capStop p) s = execCapStop p s := rfl
@[simp] theorem exec_pinZero (p : Port) (k : Nat) (s : State) : exec (.pinZero p k) s = execPinZero p k s := rfl
@[simp] theorem exec_readId (w : List Byte) (s : State) : exec (.readId w) s = execReadId w s := rfl
@[simp] theorem exec_spadjaRead (w : List Byte) (s : State) : exec (.spadjaRead w) s = execSpadjaRead w s := rfl
@[simp] theorem exec_spadjaWrite (w : List Byte) (s : State) : exec (.spadjaWrite w) s = execSpadjaWrite w s := rfl
@[simp] theorem exec_spadjaStatus (w : List Byte) (s : State) : exec (.spadjaStatus w) s = execSpadjaStatus w s := rfl
@[simp] theorem exec_spadjaAbort (w : List Byte) (s : State) : exec (.spadjaAbort w) s = execSpadjaAbort w s := rfl
@[simp] theorem exec_spadjaSafe (w : List Byte) (s : State) : exec (.spadjaSafe w) s = execSpadjaSafe w s := rfl
@[simp] theorem exec_spadjaReset (s : State) : exec (.spadjaReset) s = execSpadjaReset s := rfl
@[simp] theorem exec_getAttest (p : Port) (flashErr : Bool) (s : State) : exec (.getAttest p flashErr) s = execGetAttest p flashErr s := rfl
@[simp] theorem exec_getCerts (p : Port) (flashErr : Bool) (s : State) : exec (.getCerts p flashErr) s = execGetCerts p flashErr s := rfl
@[simp] theorem exec_readLog (p : Port) (flashErr : Bool) (s : State) : exec (.readLog p flashErr) s = execReadLog p flashErr s := rfl
@[simp] theorem exec_updateBegin (p : Port) (flashErr : Bool) (s : State) : exec (.updateBegin p flashErr) s = execUpdateBegin p flashErr s := rfl
@[simp] theorem exec_updateData (p : Port) (flashErr : Bool) (s : State) : exec (.updateData p flashErr) s = execUpdateData p flashErr s := rfl
@[simp] theorem exec_updateEnd (p : Port) (flashErr : Bool) (s : State) : exec (.updateEnd p flashErr) s = execUpdateEnd p flashErr s := rfl
@[simp] theorem exec_switch (p : Port) (flashErr : Bool) (s : State) : exec (.switch p flashErr) s = execSwitch p flashErr s := rfl
@[simp] theorem exec_ratchet (p : Port) (flashErr : Bool) (s : State) : exec (.ratchet p flashErr) s = execRatchet p flashErr s := rfl
@[simp] theorem exec_revoke (p : Port) (flashErr : Bool) (s : State) : exec (.revoke p flashErr) s = execRevoke p flashErr s := rfl
@[simp] theorem exec_setIntKey (p : Port) (flashErr : Bool) (s : State) : exec (.setIntKey p flashErr) s = execSetIntKey p flashErr s := rfl
@[simp] theorem exec_calExport (p : Port) (flashErr : Bool) (s : State) : exec (.calExport p flashErr) s = execCalExport p flashErr s := rfl
@[simp] theorem exec_calWrite (p : Port) (flashErr : Bool) (s : State) : exec (.calWrite p flashErr) s = execCalWrite p flashErr s := rfl
@[simp] theorem exec_calImport (p : Port) (flashErr : Bool) (s : State) : exec (.calImport p flashErr) s = execCalImport p flashErr s := rfl
@[simp] theorem exec_canTx (p : Port) (flashErr : Bool) (s : State) : exec (.canTx p flashErr) s = execCanTx p flashErr s := rfl
@[simp] theorem exec_canTxAbort (p : Port) (flashErr : Bool) (s : State) : exec (.canTxAbort p flashErr) s = execCanTxAbort p flashErr s := rfl
@[simp] theorem exec_netReq (p : Port) (req : TableChange) (s : State) : exec (.netReq p req) s = execNetReq p req s := rfl
@[simp] theorem exec_runGraph (q : Nat) (hm : Outside) (s : State) : exec (.runGraph q hm) s = execRunGraph q hm s := rfl
@[simp] theorem exec_loadImage (q : Nat) (hm : Outside) (s : State) : exec (.loadImage q hm) s = execLoadImage q hm s := rfl
@[simp] theorem exec_unloadImage (q : Nat) (hm : Outside) (s : State) : exec (.unloadImage q hm) s = execUnloadImage q hm s := rfl
@[simp] theorem exec_solve (q : Nat) (hm : Outside) (s : State) : exec (.solve q hm) s = execSolve q hm s := rfl
@[simp] theorem exec_solveBatch (q : Nat) (hm : Outside) (s : State) : exec (.solveBatch q hm) s = execSolveBatch q hm s := rfl
@[simp] theorem exec_estimate (q : Nat) (hm : Outside) (s : State) : exec (.estimate q hm) s = execEstimate q hm s := rfl
@[simp] theorem exec_scenarioSolve (q : Nat) (hm : Outside) (s : State) : exec (.scenarioSolve q hm) s = execScenarioSolve q hm s := rfl
@[simp] theorem exec_attend (q : Nat) (hm : Outside) (s : State) : exec (.attend q hm) s = execAttend q hm s := rfl
@[simp] theorem exec_kvAppend (q : Nat) (hm : Outside) (s : State) : exec (.kvAppend q hm) s = execKvAppend q hm s := rfl
@[simp] theorem exec_seqFork (q : Nat) (hm : Outside) (s : State) : exec (.seqFork q hm) s = execSeqFork q hm s := rfl
@[simp] theorem exec_seqFree (q : Nat) (hm : Outside) (s : State) : exec (.seqFree q hm) s = execSeqFree q hm s := rfl
@[simp] theorem exec_seqEvict (q : Nat) (hm : Outside) (s : State) : exec (.seqEvict q hm) s = execSeqEvict q hm s := rfl
@[simp] theorem exec_copy (q : Nat) (hm : Outside) (s : State) : exec (.copy q hm) s = execCopy q hm s := rfl
@[simp] theorem exec_fill (q : Nat) (hm : Outside) (s : State) : exec (.fill q hm) s = execFill q hm s := rfl
@[simp] theorem exec_fence (q : Nat) (hm : Outside) (s : State) : exec (.fence q hm) s = execFence q hm s := rfl
@[simp] theorem exec_abort (q : Nat) (hm : Outside) (s : State) : exec (.abort q hm) s = execAbort q hm s := rfl
@[simp] theorem exec_recordStart (q : Nat) (hm : Outside) (s : State) : exec (.recordStart q hm) s = execRecordStart q hm s := rfl
@[simp] theorem exec_recordStop (q : Nat) (hm : Outside) (s : State) : exec (.recordStop q hm) s = execRecordStop q hm s := rfl
@[simp] theorem exec_recordSwitch (q : Nat) (hm : Outside) (s : State) : exec (.recordSwitch q hm) s = execRecordSwitch q hm s := rfl
@[simp] theorem exec_replayCtl (q : Nat) (hm : Outside) (s : State) : exec (.replayCtl q hm) s = execReplayCtl q hm s := rfl
@[simp] theorem exec_jobStartAtCount (j : Nat) (s : State) : exec (.jobStartAtCount j) s = execJobStartAtCount j s := rfl
@[simp] theorem exec_fenceRelease (j : Nat) (s : State) : exec (.fenceRelease j) s = execFenceRelease j s := rfl
@[simp] theorem exec_afterPrevRelease (j : Nat) (s : State) : exec (.afterPrevRelease j) s = execAfterPrevRelease j s := rfl
@[simp] theorem exec_itemDispatch (t : Nat) (s : State) : exec (.itemDispatch t) s = execItemDispatch t s := rfl
@[simp] theorem exec_graphOutputCopy (j : Nat) (s : State) : exec (.graphOutputCopy j) s = execGraphOutputCopy j s := rfl
@[simp] theorem exec_unloadImageFinish (j : Nat) (s : State) : exec (.unloadImageFinish j) s = execUnloadImageFinish j s := rfl
@[simp] theorem exec_completionPost (j : Nat) (writeFails : Bool) (s : State) : exec (.completionPost j writeFails) s = execCompletionPost j writeFails s := rfl
@[simp] theorem exec_coalTimerExpiry (k : Nat) (s : State) : exec (.coalTimerExpiry k) s = execCoalTimerExpiry k s := rfl
@[simp] theorem exec_triggeredPass (k : Nat) (s : State) : exec (.triggeredPass k) s = execTriggeredPass k s := rfl
@[simp] theorem exec_jobReexecute (j : Nat) (s : State) : exec (.jobReexecute j) s = execJobReexecute j s := rfl
@[simp] theorem exec_ringJobAnswer (m : Nat) (tag : U64) (a : RingAnswer) (s : State) : exec (.ringJobAnswer m tag a) s = execRingJobAnswer m tag a s := rfl
@[simp] theorem exec_ringJobGo (tag : U64) (s : State) : exec (.ringJobGo tag) s = execRingJobGo tag s := rfl
@[simp] theorem exec_ringJobCancel (tag : U64) (s : State) : exec (.ringJobCancel tag) s = execRingJobCancel tag s := rfl
@[simp] theorem exec_problemStart (j : Nat) (i : Nat) (s : State) : exec (.problemStart j i) s = execProblemStart j i s := rfl
@[simp] theorem exec_assemblyDone (j : Nat) (i : Nat) (s : State) : exec (.assemblyDone j i) s = execAssemblyDone j i s := rfl
@[simp] theorem exec_solveIteration (j : Nat) (i : Nat) (upset : List (Nat × U64)) (s : State) : exec (.solveIteration j i upset) s = execSolveIteration j i upset s := rfl
@[simp] theorem exec_deadlineExpiry (j : Nat) (i : Nat) (s : State) : exec (.deadlineExpiry j i) s = execDeadlineExpiry j i s := rfl
@[simp] theorem exec_add (t : Nat) (imm : Bool) (f : Fields) (s : State) : exec (.add t imm f) s = execAdd t imm f s := rfl
@[simp] theorem exec_sub (t : Nat) (imm : Bool) (f : Fields) (s : State) : exec (.sub t imm f) s = execSub t imm f s := rfl
@[simp] theorem exec_andI (t : Nat) (imm : Bool) (f : Fields) (s : State) : exec (.andI t imm f) s = execAndI t imm f s := rfl
@[simp] theorem exec_orI (t : Nat) (imm : Bool) (f : Fields) (s : State) : exec (.orI t imm f) s = execOrI t imm f s := rfl
@[simp] theorem exec_xor (t : Nat) (imm : Bool) (f : Fields) (s : State) : exec (.xor t imm f) s = execXor t imm f s := rfl
@[simp] theorem exec_sll (t : Nat) (imm : Bool) (f : Fields) (s : State) : exec (.sll t imm f) s = execSll t imm f s := rfl
@[simp] theorem exec_srl (t : Nat) (imm : Bool) (f : Fields) (s : State) : exec (.srl t imm f) s = execSrl t imm f s := rfl
@[simp] theorem exec_sra (t : Nat) (imm : Bool) (f : Fields) (s : State) : exec (.sra t imm f) s = execSra t imm f s := rfl
@[simp] theorem exec_slt (t : Nat) (imm : Bool) (f : Fields) (s : State) : exec (.slt t imm f) s = execSlt t imm f s := rfl
@[simp] theorem exec_sltu (t : Nat) (imm : Bool) (f : Fields) (s : State) : exec (.sltu t imm f) s = execSltu t imm f s := rfl
@[simp] theorem exec_mul (t : Nat) (imm : Bool) (f : Fields) (s : State) : exec (.mul t imm f) s = execMul t imm f s := rfl
@[simp] theorem exec_mulh (t : Nat) (imm : Bool) (f : Fields) (s : State) : exec (.mulh t imm f) s = execMulh t imm f s := rfl
@[simp] theorem exec_mulhu (t : Nat) (imm : Bool) (f : Fields) (s : State) : exec (.mulhu t imm f) s = execMulhu t imm f s := rfl
@[simp] theorem exec_div (t : Nat) (imm : Bool) (f : Fields) (s : State) : exec (.div t imm f) s = execDiv t imm f s := rfl
@[simp] theorem exec_divu (t : Nat) (imm : Bool) (f : Fields) (s : State) : exec (.divu t imm f) s = execDivu t imm f s := rfl
@[simp] theorem exec_rem (t : Nat) (imm : Bool) (f : Fields) (s : State) : exec (.rem t imm f) s = execRem t imm f s := rfl
@[simp] theorem exec_remu (t : Nat) (imm : Bool) (f : Fields) (s : State) : exec (.remu t imm f) s = execRemu t imm f s := rfl
@[simp] theorem exec_lih (t : Nat) (f : Fields) (s : State) : exec (.lih t f) s = execLih t f s := rfl
@[simp] theorem exec_faddS (t : Nat) (f : Fields) (s : State) : exec (.faddS t f) s = execFaddS t f s := rfl
@[simp] theorem exec_fsubS (t : Nat) (f : Fields) (s : State) : exec (.fsubS t f) s = execFsubS t f s := rfl
@[simp] theorem exec_fmulS (t : Nat) (f : Fields) (s : State) : exec (.fmulS t f) s = execFmulS t f s := rfl
@[simp] theorem exec_fmaS (t : Nat) (f : Fields) (s : State) : exec (.fmaS t f) s = execFmaS t f s := rfl
@[simp] theorem exec_fdivS (t : Nat) (f : Fields) (s : State) : exec (.fdivS t f) s = execFdivS t f s := rfl
@[simp] theorem exec_fsqrtS (t : Nat) (f : Fields) (s : State) : exec (.fsqrtS t f) s = execFsqrtS t f s := rfl
@[simp] theorem exec_fminS (t : Nat) (f : Fields) (s : State) : exec (.fminS t f) s = execFminS t f s := rfl
@[simp] theorem exec_fmaxS (t : Nat) (f : Fields) (s : State) : exec (.fmaxS t f) s = execFmaxS t f s := rfl
@[simp] theorem exec_feqS (t : Nat) (f : Fields) (s : State) : exec (.feqS t f) s = execFeqS t f s := rfl
@[simp] theorem exec_fltS (t : Nat) (f : Fields) (s : State) : exec (.fltS t f) s = execFltS t f s := rfl
@[simp] theorem exec_fleS (t : Nat) (f : Fields) (s : State) : exec (.fleS t f) s = execFleS t f s := rfl
@[simp] theorem exec_faddD (t : Nat) (f : Fields) (s : State) : exec (.faddD t f) s = execFaddD t f s := rfl
@[simp] theorem exec_fsubD (t : Nat) (f : Fields) (s : State) : exec (.fsubD t f) s = execFsubD t f s := rfl
@[simp] theorem exec_fmulD (t : Nat) (f : Fields) (s : State) : exec (.fmulD t f) s = execFmulD t f s := rfl
@[simp] theorem exec_fmaD (t : Nat) (f : Fields) (s : State) : exec (.fmaD t f) s = execFmaD t f s := rfl
@[simp] theorem exec_fdivD (t : Nat) (f : Fields) (s : State) : exec (.fdivD t f) s = execFdivD t f s := rfl
@[simp] theorem exec_fsqrtD (t : Nat) (f : Fields) (s : State) : exec (.fsqrtD t f) s = execFsqrtD t f s := rfl
@[simp] theorem exec_fminD (t : Nat) (f : Fields) (s : State) : exec (.fminD t f) s = execFminD t f s := rfl
@[simp] theorem exec_fmaxD (t : Nat) (f : Fields) (s : State) : exec (.fmaxD t f) s = execFmaxD t f s := rfl
@[simp] theorem exec_feqD (t : Nat) (f : Fields) (s : State) : exec (.feqD t f) s = execFeqD t f s := rfl
@[simp] theorem exec_fltD (t : Nat) (f : Fields) (s : State) : exec (.fltD t f) s = execFltD t f s := rfl
@[simp] theorem exec_fleD (t : Nat) (f : Fields) (s : State) : exec (.fleD t f) s = execFleD t f s := rfl
@[simp] theorem exec_fcvt (t : Nat) (f : Fields) (s : State) : exec (.fcvt t f) s = execFcvt t f s := rfl
@[simp] theorem exec_beq (t : Nat) (f : Fields) (s : State) : exec (.beq t f) s = execBeq t f s := rfl
@[simp] theorem exec_bne (t : Nat) (f : Fields) (s : State) : exec (.bne t f) s = execBne t f s := rfl
@[simp] theorem exec_blt (t : Nat) (f : Fields) (s : State) : exec (.blt t f) s = execBlt t f s := rfl
@[simp] theorem exec_bge (t : Nat) (f : Fields) (s : State) : exec (.bge t f) s = execBge t f s := rfl
@[simp] theorem exec_bltu (t : Nat) (f : Fields) (s : State) : exec (.bltu t f) s = execBltu t f s := rfl
@[simp] theorem exec_bgeu (t : Nat) (f : Fields) (s : State) : exec (.bgeu t f) s = execBgeu t f s := rfl
@[simp] theorem exec_jal (t : Nat) (f : Fields) (s : State) : exec (.jal t f) s = execJal t f s := rfl
@[simp] theorem exec_jr (t : Nat) (f : Fields) (s : State) : exec (.jr t f) s = execJr t f s := rfl
@[simp] theorem exec_endProg (t : Nat) (f : Fields) (s : State) : exec (.endProg t f) s = execEndProg t f s := rfl
@[simp] theorem exec_ld (t : Nat) (f : Fields) (a : Access) (s : State) : exec (.ld t f a) s = execLd t f a s := rfl
@[simp] theorem exec_st (t : Nat) (f : Fields) (a : Access) (s : State) : exec (.st t f a) s = execSt t f a s := rfl
@[simp] theorem exec_ldt (t : Nat) (f : Fields) (a : Access) (s : State) : exec (.ldt t f a) s = execLdt t f a s := rfl
@[simp] theorem exec_lds (t : Nat) (f : Fields) (a : Access) (s : State) : exec (.lds t f a) s = execLds t f a s := rfl
@[simp] theorem exec_accld (t : Nat) (f : Fields) (a : Access) (s : State) : exec (.accld t f a) s = execAccld t f a s := rfl
@[simp] theorem exec_accst (t : Nat) (f : Fields) (a : Access) (s : State) : exec (.accst t f a) s = execAccst t f a s := rfl
@[simp] theorem exec_cwb (t : Nat) (f : Fields) (s : State) : exec (.cwb t f) s = execCwb t f s := rfl
@[simp] theorem exec_vadd (t : Nat) (f : Fields) (s : State) : exec (.vadd t f) s = execVadd t f s := rfl
@[simp] theorem exec_vsub (t : Nat) (f : Fields) (s : State) : exec (.vsub t f) s = execVsub t f s := rfl
@[simp] theorem exec_vmul (t : Nat) (f : Fields) (s : State) : exec (.vmul t f) s = execVmul t f s := rfl
@[simp] theorem exec_vfma (t : Nat) (f : Fields) (s : State) : exec (.vfma t f) s = execVfma t f s := rfl
@[simp] theorem exec_vmin (t : Nat) (f : Fields) (s : State) : exec (.vmin t f) s = execVmin t f s := rfl
@[simp] theorem exec_vmax (t : Nat) (f : Fields) (s : State) : exec (.vmax t f) s = execVmax t f s := rfl
@[simp] theorem exec_vceq (t : Nat) (f : Fields) (s : State) : exec (.vceq t f) s = execVceq t f s := rfl
@[simp] theorem exec_vclt (t : Nat) (f : Fields) (s : State) : exec (.vclt t f) s = execVclt t f s := rfl
@[simp] theorem exec_vcle (t : Nat) (f : Fields) (s : State) : exec (.vcle t f) s = execVcle t f s := rfl
@[simp] theorem exec_vsel (t : Nat) (f : Fields) (s : State) : exec (.vsel t f) s = execVsel t f s := rfl
@[simp] theorem exec_vand (t : Nat) (f : Fields) (s : State) : exec (.vand t f) s = execVand t f s := rfl
@[simp] theorem exec_vor (t : Nat) (f : Fields) (s : State) : exec (.vor t f) s = execVor t f s := rfl
@[simp] theorem exec_vxor (t : Nat) (f : Fields) (s : State) : exec (.vxor t f) s = execVxor t f s := rfl
@[simp] theorem exec_viadd (t : Nat) (f : Fields) (s : State) : exec (.viadd t f) s = execViadd t f s := rfl
@[simp] theorem exec_vexp2 (t : Nat) (f : Fields) (s : State) : exec (.vexp2 t f) s = execVexp2 t f s := rfl
@[simp] theorem exec_vlog2 (t : Nat) (f : Fields) (s : State) : exec (.vlog2 t f) s = execVlog2 t f s := rfl
@[simp] theorem exec_vrcp (t : Nat) (f : Fields) (s : State) : exec (.vrcp t f) s = execVrcp t f s := rfl
@[simp] theorem exec_vrsq (t : Nat) (f : Fields) (s : State) : exec (.vrsq t f) s = execVrsq t f s := rfl
@[simp] theorem exec_vbcast (t : Nat) (f : Fields) (s : State) : exec (.vbcast t f) s = execVbcast t f s := rfl
@[simp] theorem exec_vext (t : Nat) (f : Fields) (s : State) : exec (.vext t f) s = execVext t f s := rfl
@[simp] theorem exec_vins (t : Nat) (f : Fields) (s : State) : exec (.vins t f) s = execVins t f s := rfl
@[simp] theorem exec_vmov (t : Nat) (f : Fields) (s : State) : exec (.vmov t f) s = execVmov t f s := rfl
@[simp] theorem exec_vrsum (t : Nat) (f : Fields) (s : State) : exec (.vrsum t f) s = execVrsum t f s := rfl
@[simp] theorem exec_vrmax (t : Nat) (f : Fields) (s : State) : exec (.vrmax t f) s = execVrmax t f s := rfl
@[simp] theorem exec_vdot (t : Nat) (f : Fields) (s : State) : exec (.vdot t f) s = execVdot t f s := rfl
@[simp] theorem exec_vcvt (t : Nat) (f : Fields) (s : State) : exec (.vcvt t f) s = execVcvt t f s := rfl
@[simp] theorem exec_cvtb (t : Nat) (f : Fields) (s : State) : exec (.cvtb t f) s = execCvtb t f s := rfl
@[simp] theorem exec_dcvb (t : Nat) (f : Fields) (s : State) : exec (.dcvb t f) s = execDcvb t f s := rfl
@[simp] theorem exec_mma (t : Nat) (f : Fields) (a : Access) (abft : Bool) (s : State) : exec (.mma t f a abft) s = execMma t f a abft s := rfl
@[simp] theorem exec_accz (t : Nat) (f : Fields) (s : State) : exec (.accz t f) s = execAccz t f s := rfl
@[simp] theorem exec_waita (t : Nat) (f : Fields) (s : State) : exec (.waita t f) s = execWaita t f s := rfl
@[simp] theorem exec_waitTimeout (t : Nat) (s : State) : exec (.waitTimeout t) s = execWaitTimeout t s := rfl
@[simp] theorem exec_fpbar (t : Nat) (f : Fields) (s : State) : exec (.fpbar t f) s = execFpbar t f s := rfl
@[simp] theorem exec_ebar (t : Nat) (f : Fields) (s : State) : exec (.ebar t f) s = execEbar t f s := rfl
@[simp] theorem exec_nop (t : Nat) (f : Fields) (s : State) : exec (.nop t f) s = execNop t f s := rfl
@[simp] theorem exec_send (t : Nat) (f : Fields) (s : State) : exec (.send t f) s = execSend t f s := rfl
@[simp] theorem exec_rread (t : Nat) (f : Fields) (s : State) : exec (.rread t f) s = execRread t f s := rfl
@[simp] theorem exec_fillr (t : Nat) (f : Fields) (s : State) : exec (.fillr t f) s = execFillr t f s := rfl
@[simp] theorem exec_copyr (t : Nat) (f : Fields) (s : State) : exec (.copyr t f) s = execCopyr t f s := rfl
@[simp] theorem exec_sig (t : Nat) (f : Fields) (s : State) : exec (.sig t f) s = execSig t f s := rfl
@[simp] theorem exec_rdflg (t : Nat) (f : Fields) (s : State) : exec (.rdflg t f) s = execRdflg t f s := rfl
@[simp] theorem exec_clrflg (t : Nat) (f : Fields) (s : State) : exec (.clrflg t f) s = execClrflg t f s := rfl
@[simp] theorem exec_trapen (t : Nat) (f : Fields) (s : State) : exec (.trapen t f) s = execTrapen t f s := rfl
@[simp] theorem exec_rdmax (t : Nat) (f : Fields) (s : State) : exec (.rdmax t f) s = execRdmax t f s := rfl
@[simp] theorem exec_clrmax (t : Nat) (f : Fields) (s : State) : exec (.clrmax t f) s = execClrmax t f s := rfl
@[simp] theorem exec_rdblk (t : Nat) (f : Fields) (s : State) : exec (.rdblk t f) s = execRdblk t f s := rfl
@[simp] theorem exec_clrblk (t : Nat) (f : Fields) (s : State) : exec (.clrblk t f) s = execClrblk t f s := rfl
@[simp] theorem exec_rdid (t : Nat) (f : Fields) (s : State) : exec (.rdid t f) s = execRdid t f s := rfl
@[simp] theorem exec_rdcyc (t : Nat) (f : Fields) (s : State) : exec (.rdcyc t f) s = execRdcyc t f s := rfl
@[simp] theorem exec_rdtime (t : Nat) (f : Fields) (s : State) : exec (.rdtime t f) s = execRdtime t f s := rfl
@[simp] theorem exec_rdarr (t : Nat) (f : Fields) (s : State) : exec (.rdarr t f) s = execRdarr t f s := rfl
@[simp] theorem exec_ricf (t : Nat) (f : Fields) (s : State) : exec (.ricf t f) s = execRicf t f s := rfl
@[simp] theorem exec_rics (t : Nat) (f : Fields) (s : State) : exec (.rics t f) s = execRics t f s := rfl
@[simp] theorem exec_pgreq (t : Nat) (f : Fields) (s : State) : exec (.pgreq t f) s = execPgreq t f s := rfl
@[simp] theorem exec_pgapp (t : Nat) (f : Fields) (s : State) : exec (.pgapp t f) s = execPgapp t f s := rfl
@[simp] theorem exec_illegalInstruction (t : Nat) (s : State) : exec (.illegalInstruction t) s = execIllegalInstruction t s := rfl
@[simp] theorem exec_trapDeliveryTimer (t : Nat) (s : State) : exec (.trapDeliveryTimer t) s = execTrapDeliveryTimer t s := rfl
@[simp] theorem exec_guardTimeout (t : Nat) (held : Option Nat) (s : State) : exec (.guardTimeout t held) s = execGuardTimeout t held s := rfl
@[simp] theorem exec_cacheLineArrival (t : Nat) (s : State) : exec (.cacheLineArrival t) s = execCacheLineArrival t s := rfl
@[simp] theorem exec_transferIngress (t : Nat) (x : TransferHdr) (s : State) : exec (.transferIngress t x) s = execTransferIngress t x s := rfl
@[simp] theorem exec_transferLanded (t : Nat) (x : Nat) (s : State) : exec (.transferLanded t x) s = execTransferLanded t x s := rfl
@[simp] theorem exec_transferAck (t : Nat) (x : Nat) (s : State) : exec (.transferAck t x) s = execTransferAck t x s := rfl
@[simp] theorem exec_refusalReturn (t : Nat) (x : Nat) (st : RefusalStatus) (s : State) : exec (.refusalReturn t x st) s = execRefusalReturn t x st s := rfl
@[simp] theorem exec_fabricResend (t : Nat) (s : State) : exec (.fabricResend t) s = execFabricResend t s := rfl
@[simp] theorem exec_fabricWritePriority (t : Nat) (s : State) : exec (.fabricWritePriority t) s = execFabricWritePriority t s := rfl
@[simp] theorem exec_roleChangeDone (t : Nat) (s : State) : exec (.roleChangeDone t) s = execRoleChangeDone t s := rfl
@[simp] theorem exec_bankDrain (t : Nat) (b : Nat) (s : State) : exec (.bankDrain t b) s = execBankDrain t b s := rfl
@[simp] theorem exec_bankGate (t : Nat) (b : Nat) (s : State) : exec (.bankGate t b) s = execBankGate t b s := rfl
@[simp] theorem exec_liveRemap (t : Nat) (h : Nat) (s : State) : exec (.liveRemap t h) s = execLiveRemap t h s := rfl
@[simp] theorem exec_liveRemapResume (t : Nat) (h : Nat) (newBase : Nat) (s : State) : exec (.liveRemapResume t h newBase) s = execLiveRemapResume t h newBase s := rfl
@[simp] theorem exec_tileRowSpare (t : Nat) (bank : Nat) (brow : Nat) (s : State) : exec (.tileRowSpare t bank brow) s = execTileRowSpare t bank brow s := rfl
@[simp] theorem exec_tileRetire (t : Nat) (reason : Nat) (s : State) : exec (.tileRetire t reason) s = execTileRetire t reason s := rfl
@[simp] theorem exec_tileDrain (t : Nat) (s : State) : exec (.tileDrain t) s = execTileDrain t s := rfl
@[simp] theorem exec_throttleStep (region : Nat) (s : State) : exec (.throttleStep region) s = execThrottleStep region s := rfl
@[simp] theorem exec_dutyRaiseStep (region : Nat) (s : State) : exec (.dutyRaiseStep region) s = execDutyRaiseStep region s := rfl
@[simp] theorem exec_pageMove (ppn : Nat) (toCanopy : Bool) (s : State) : exec (.pageMove ppn toCanopy) s = execPageMove ppn toCanopy s := rfl
@[simp] theorem exec_pageMoveDone (ppn : Nat) (s : State) : exec (.pageMoveDone ppn) s = execPageMoveDone ppn s := rfl
@[simp] theorem exec_walkerMissReturn (sq : Nat) (i : Nat) (uncorrectable : Bool) (s : State) : exec (.walkerMissReturn sq i uncorrectable) s = execWalkerMissReturn sq i uncorrectable s := rfl
@[simp] theorem exec_pageCopyDone (sq : Nat) (s : State) : exec (.pageCopyDone sq) s = execPageCopyDone sq s := rfl
@[simp] theorem exec_appendCommit (sq : Nat) (s : State) : exec (.appendCommit sq) s = execAppendCommit sq s := rfl
@[simp] theorem exec_attendOutputWrite (j : Nat) (e : Nat) (uncorrectable : Bool) (s : State) : exec (.attendOutputWrite j e uncorrectable) s = execAttendOutputWrite j e uncorrectable s := rfl
@[simp] theorem exec_splitChangeMessage (c : SplitChange) (s : State) : exec (.splitChangeMessage c) s = execSplitChangeMessage c s := rfl
@[simp] theorem exec_ringSplitPartial (j : Nat) (row : Nat) (m l : U32) (o : List U32) (s : State) : exec (.ringSplitPartial j row m l o) s = execRingSplitPartial j row m l o s := rfl
@[simp] theorem exec_pcieLinkDown (s : State) : exec (.pcieLinkDown) s = execPcieLinkDown s := rfl
@[simp] theorem exec_pcieLinkUp (s : State) : exec (.pcieLinkUp) s = execPcieLinkUp s := rfl
@[simp] theorem exec_flr (s : State) : exec (.flr) s = execFlr s := rfl
@[simp] theorem exec_perstAssert (s : State) : exec (.perstAssert) s = execPerstAssert s := rfl
@[simp] theorem exec_fifoTake (n : Nat) (j : Nat) (i : Nat) (s : State) : exec (.fifoTake n j i) s = execFifoTake n j i s := rfl
@[simp] theorem exec_fifoCutThrough (n : Nat) (j : Nat) (i : Nat) (landed : Nat) (s : State) : exec (.fifoCutThrough n j i landed) s = execFifoCutThrough n j i landed s := rfl
@[simp] theorem exec_fifoCreditReturn (n : Nat) (seq : Nat) (s : State) : exec (.fifoCreditReturn n seq) s = execFifoCreditReturn n seq s := rfl
@[simp] theorem exec_planEntryBegin (s : State) : exec (.planEntryBegin) s = execPlanEntryBegin s := rfl
@[simp] theorem exec_planStepActivate (k : Nat) (s : State) : exec (.planStepActivate k) s = execPlanStepActivate k s := rfl
@[simp] theorem exec_frameIngress (port : Nat) (b : List Byte) (fcsOk : Bool) (stamp : Nat) (s : State) : exec (.frameIngress port b fcsOk stamp) s = execFrameIngress port b fcsOk stamp s := rfl
@[simp] theorem exec_syncTimeout (s : State) : exec (.syncTimeout) s = execSyncTimeout s := rfl
@[simp] theorem exec_timeSyncStep (gm : U64) (s : State) : exec (.timeSyncStep gm) s = execTimeSyncStep gm s := rfl
@[simp] theorem exec_gateIntervalEnd (n : Nat) (s : State) : exec (.gateIntervalEnd n) s = execGateIntervalEnd n s := rfl
@[simp] theorem exec_frameLaunch (n : Nat) (s : State) : exec (.frameLaunch n) s = execFrameLaunch n s := rfl
@[simp] theorem exec_launchLate (n : Nat) (s : State) : exec (.launchLate n) s = execLaunchLate n s := rfl
@[simp] theorem exec_frameEgress (n : Nat) (stamp : Nat) (s : State) : exec (.frameEgress n stamp) s = execFrameEgress n stamp s := rfl
@[simp] theorem exec_ppsInEdge (stamp : Nat) (s : State) : exec (.ppsInEdge stamp) s = execPpsInEdge stamp s := rfl
@[simp] theorem exec_canFrameRx (c : Nat) (id : U32) (dlc : Byte) (data : List Byte) (s : State) : exec (.canFrameRx c id dlc data) s = execCanFrameRx c id dlc data s := rfl
@[simp] theorem exec_canFrameTx (c : Nat) (b : Nat) (s : State) : exec (.canFrameTx c b) s = execCanFrameTx c b s := rfl
@[simp] theorem exec_canBusOffRecovery (c : Nat) (s : State) : exec (.canBusOffRecovery c) s = execCanBusOffRecovery c s := rfl
@[simp] theorem exec_flitReceive (l : Nat) (x : Flit) (crcOk : Bool) (s : State) : exec (.flitReceive l x crcOk) s = execFlitReceive l x crcOk s := rfl
@[simp] theorem exec_ackTimeout (l : Nat) (s : State) : exec (.ackTimeout l) s = execAckTimeout l s := rfl
@[simp] theorem exec_laneLockLoss (l : Nat) (s : State) : exec (.laneLockLoss l) s = execLaneLockLoss l s := rfl
@[simp] theorem exec_retryWindowEnd (l : Nat) (ovr : Bool) (s : State) : exec (.retryWindowEnd l ovr) s = execRetryWindowEnd l ovr s := rfl
@[simp] theorem exec_linkTrained (l : Nat) (s : State) : exec (.linkTrained l) s = execLinkTrained l s := rfl
@[simp] theorem exec_ringDiscover (pos : Nat) (head : Bool) (s : State) : exec (.ringDiscover pos head) s = execRingDiscover pos head s := rfl
@[simp] theorem exec_delayMeasurement (l : Nat) (delay16 : Nat) (offset : Int) (s : State) : exec (.delayMeasurement l delay16 offset) s = execDelayMeasurement l delay16 offset s := rfl
@[simp] theorem exec_timeAlignStep (tgt : U64) (s : State) : exec (.timeAlignStep tgt) s = execTimeAlignStep tgt s := rfl
@[simp] theorem exec_ddrRefresh (ch : Nat) (s : State) : exec (.ddrRefresh ch) s = execDdrRefresh ch s := rfl
@[simp] theorem exec_ddrTempPoll (ch : Nat) (hot : Bool) (coolFor1s : Bool) (s : State) : exec (.ddrTempPoll ch hot coolFor1s) s = execDdrTempPoll ch hot coolFor1s s := rfl
@[simp] theorem exec_ddrScrubRead (ch : Nat) (e : Ecc) (s : State) : exec (.ddrScrubRead ch e) s = execDdrScrubRead ch e s := rfl
@[simp] theorem exec_canopyScrub (slice : Nat) (e : Ecc) (s : State) : exec (.canopyScrub slice e) s = execCanopyScrub slice e s := rfl
@[simp] theorem exec_tileScrub (t : Nat) (bank : Nat) (e : Ecc) (s : State) : exec (.tileScrub t bank e) s = execTileScrub t bank e s := rfl
@[simp] theorem exec_ddrRowSpare (ch : Nat) (bank : Nat) (row : Nat) (s : State) : exec (.ddrRowSpare ch bank row) s = execDdrRowSpare ch bank row s := rfl
@[simp] theorem exec_loopTimer (k : Nat) (s : State) : exec (.loopTimer k) s = execLoopTimer k s := rfl
@[simp] theorem exec_adcConversionDone (c : Nat) (code : U16) (s : State) : exec (.adcConversionDone c code) s = execAdcConversionDone c code s := rfl
@[simp] theorem exec_pinEdge (c : Nat) (rising : Bool) (both : Bool) (ticks : Nat) (s : State) : exec (.pinEdge c rising both ticks) s = execPinEdge c rising both ticks s := rfl
@[simp] theorem exec_pinStopTimeout (c : Nat) (s : State) : exec (.pinStopTimeout c) s = execPinStopTimeout c s := rfl
@[simp] theorem exec_pwmPeriodStart (c : Nat) (s : State) : exec (.pwmPeriodStart c) s = execPwmPeriodStart c s := rfl
@[simp] theorem exec_sensorSample (sensor : Nat) (v : Int) (s : State) : exec (.sensorSample sensor v) s = execSensorSample sensor v s := rfl
@[simp] theorem exec_supplySample (vin vhold : Nat) (s : State) : exec (.supplySample vin vhold) s = execSupplySample vin vhold s := rfl
@[simp] theorem exec_writeGuardRelease (s : State) : exec (.writeGuardRelease) s = execWriteGuardRelease s := rfl
@[simp] theorem exec_overvoltageStop (s : State) : exec (.overvoltageStop) s = execOvervoltageStop s := rfl
@[simp] theorem exec_supplyRecovery (s : State) : exec (.supplyRecovery) s = execSupplyRecovery s := rfl
@[simp] theorem exec_clearingPowerOnReset (s : State) : exec (.clearingPowerOnReset) s = execClearingPowerOnReset s := rfl
@[simp] theorem exec_watchdogExpiry (s : State) : exec (.watchdogExpiry) s = execWatchdogExpiry s := rfl
@[simp] theorem exec_firmwareReady (s : State) : exec (.firmwareReady) s = execFirmwareReady s := rfl
@[simp] theorem exec_logRecordWrite (s : State) : exec (.logRecordWrite) s = execLogRecordWrite s := rfl
@[simp] theorem exec_logSeal (s : State) : exec (.logSeal) s = execLogSeal s := rfl
@[simp] theorem exec_hubReload (s : State) : exec (.hubReload) s = execHubReload s := rfl
@[simp] theorem exec_trialConfirm (kind : Nat) (s : State) : exec (.trialConfirm kind) s = execTrialConfirm kind s := rfl
@[simp] theorem exec_clearingSample (x : ClrInputs) (s : State) : exec (.clearingSample x) s = execClearingSample x s := rfl
@[simp] theorem exec_sleepSequence (s : State) : exec (.sleepSequence) s = execSleepSequence s := rfl
@[simp] theorem exec_sleepDelayExpiry (s : State) : exec (.sleepDelayExpiry) s = execSleepDelayExpiry s := rfl
@[simp] theorem exec_powerGood (srisPin : Bool) (s : State) : exec (.powerGood srisPin) s = execPowerGood srisPin s := rfl
@[simp] theorem exec_startupStageDone (x : StageReport) (s : State) : exec (.startupStageDone x) s = execStartupStageDone x s := rfl
@[simp] theorem exec_surpriseRemoval (s : State) : exec (.surpriseRemoval) s = execSurpriseRemoval s := rfl
@[simp] theorem exec_drainTimeout (s : State) : exec (.drainTimeout) s = execDrainTimeout s := rfl
@[simp] theorem exec_ejectOk (s : State) : exec (.ejectOk) s = execEjectOk s := rfl
@[simp] theorem exec_extrefLoss (s : State) : exec (.extrefLoss) s = execExtrefLoss s := rfl
@[simp] theorem exec_extrefRestore (s : State) : exec (.extrefRestore) s = execExtrefRestore s := rfl
@[simp] theorem exec_clearingPowerOn (s : State) : exec (.clearingPowerOn) s = execClearingPowerOn s := rfl
@[simp] theorem exec_perstRelease (s : State) : exec (.perstRelease) s = execPerstRelease s := rfl
@[simp] theorem exec_streamRecoveryReset (f : Nat) (s : State) : exec (.streamRecoveryReset f) s = execStreamRecoveryReset f s := rfl
@[simp] theorem exec_msixUnmask (p : Port) (v : Nat) (s : State) : exec (.msixUnmask p v) s = execMsixUnmask p v s := rfl
@[simp] theorem exec_ppsOutPulse (high : Bool) (s : State) : exec (.ppsOutPulse high) s = execPpsOutPulse high s := rfl
@[simp] theorem exec_undefinedOpcodeJob (q : Nat) (hm : Outside) (s : State) : exec (.undefinedOpcodeJob q hm) s = execUndefinedOpcodeJob q hm s := rfl
@[simp] theorem exec_mboxBadCmd (p : Port) (flashErr : Bool) (s : State) : exec (.mboxBadCmd p flashErr) s = execMboxBadCmd p flashErr s := rfl

end Sys2Proof.Machine
end

