-- ==== Sys2Proof/Laws/Issue.lean ====
section
/-! SUPPORT. What issue can do, said once: how an instruction whose word stands at the program counter leaves issue, and when its
row accesses are made. -/

namespace Sys2Proof.Machine

/-- The instruction is not at issue: nothing changes. -/
theorem issue_absent {t cls op : Nat} {f : Fields} {body : Dev → Issue} {d : Dev} (h : atIssue d t (instrWord cls op f) = false) :
    issue t cls op f body d = d := by
  unfold issue; simp [h]

/-- The tile's role does not allow the class. -/
theorem issue_role {t cls op : Nat} {f : Fields} {body : Dev → Issue} {d : Dev} (h : atIssue d t (instrWord cls op f) = true)
    (hr : classRole d t cls = false) : issue t cls op f body d = illegal d t := by
  unfold issue; simp [h, hr]

/-- Every way an instruction leaves issue. -/
theorem issue_eq {s : State} {t cls op : Nat} {f : Fields} {body : Dev → Issue} (h : Issues s t cls op f) :
    issue t cls op f body s.dev = match body s.dev with
      | .done d' => settle (advance s.dev d' t none) t
      | .jump d' pc => advance s.dev d' t (some pc)
      | .stall d' => d'
      | .illegal => illegal s.dev t
      | .trap => deliverTrap s.dev t := by
  unfold issue; generalize body s.dev = b; cases b <;> simp [h.1, h.2]

theorem issue_done {s : State} {t cls op : Nat} {f : Fields} {body : Dev → Issue} {d : Dev} (h : Issues s t cls op f)
    (hb : body s.dev = .done d) : onDev (issue t cls op f body) s = completes s t d := by
  unfold onDev completes; rw [issue_eq h, hb]

theorem issue_jump {s : State} {t cls op : Nat} {f : Fields} {body : Dev → Issue} {d : Dev} {pc : U32} (h : Issues s t cls op f)
    (hb : body s.dev = .jump d pc) : onDev (issue t cls op f body) s = jumps s t d pc := by
  unfold onDev jumps; rw [issue_eq h, hb]

theorem issue_stall {s : State} {t cls op : Nat} {f : Fields} {body : Dev → Issue} {d : Dev} (h : Issues s t cls op f)
    (hb : body s.dev = .stall d) : onDev (issue t cls op f body) s = leaves s d := by
  unfold onDev leaves; rw [issue_eq h, hb]

theorem issue_illegal {s : State} {t cls op : Nat} {f : Fields} {body : Dev → Issue} (h : Issues s t cls op f)
    (hb : body s.dev = .illegal) : onDev (issue t cls op f body) s = leaves s (illegal s.dev t) := by
  unfold onDev leaves; rw [issue_eq h, hb]

theorem issue_trap {s : State} {t cls op : Nat} {f : Fields} {body : Dev → Issue} (h : Issues s t cls op f)
    (hb : body s.dev = .trap) : onDev (issue t cls op f body) s = leaves s (deliverTrap s.dev t) := by
  unfold onDev leaves; rw [issue_eq h, hb]

/-- Ready row accesses are made, with the marks of timing and physics. -/
theorem withRows_ready {d : Dev} {t : Nat} {reqs : List RowReq} {a : Access} {k : Dev → Issue} (h : RowsReady d t reqs)
    (ha : ReadsSound d t reqs a) : withRows d t reqs a k = k (marked d t reqs a) := by
  unfold withRows
  have h1 : reqs.all (reqLegal d t) = true := by simpa using h.1
  have h2 : reqs.any (fun q => (d.tile t).paused.contains q.hn) = false := by simpa using h.2.1
  have h3 : reqs.findSome? (reqStall d t) = none := by simpa [List.findSome?_eq_none_iff] using h.2.2
  rw [if_pos h1, if_neg (by rw [h2]; decide), h3]
  simp [show (accessed d t reqs a).2 = false from ha, marked]

/-- An access that is not permitted is illegal. -/
theorem withRows_illegal {d : Dev} {t : Nat} {reqs : List RowReq} {a : Access} {k : Dev → Issue} {q : RowReq} (hq : q ∈ reqs)
    (h : reqLegal d t q = false) : withRows d t reqs a k = .illegal := by
  unfold withRows
  rw [if_neg]
  rw [List.all_eq_true]
  intro c
  rw [c q hq] at h
  exact Bool.noConfusion h

/-- With nothing held or waiting at the ingress there is nothing to settle. -/
theorem settle_quiet {d : Dev} {t : Nat} (h : QuietIngress d t) : settle d t = d := by
  unfold settle; exact if_pos h

/-- Every tile instruction is an issue of its class, operation and fields. -/
theorem exec_tileOp (i : Instr) (s : State) (t cls op : Nat) (f : Fields) (h : i.tileOp = some (t, cls, op, f)) :
    ∃ body, exec i s = onDev (issue t cls op f body) s := by
  cases i <;> simp only [Instr.tileOp, Option.some.injEq, Prod.mk.injEq, reduceCtorEq] at h
  all_goals obtain ⟨rfl, rfl, rfl, rfl⟩ := h
  all_goals exact ⟨_, rfl⟩

end Sys2Proof.Machine
end

