-- ==== Sys2Proof/Laws/State.lean ====
section
/-! SUPPORT. What each update of the device leaves alone, one lemma per field per update, and what it sets. -/

namespace Sys2Proof.Machine

/-! ### The command's form -/

@[simp] theorem onDev_next (f : Dev → Dev) (s : State) : onDev f s = .next { s with dev := f s.dev } := rfl

/-! ### Dev.setFld -/

@[simp] theorem Dev.setFld_supRegs (d : Dev) (f : Fld) (v i : Nat) : (d.setFld f v i).supRegs = d.supRegs := rfl
@[simp] theorem Dev.setFld_host (d : Dev) (f : Fld) (v i : Nat) : (d.setFld f v i).host = d.host := rfl
@[simp] theorem Dev.setFld_sup (d : Dev) (f : Fld) (v i : Nat) : (d.setFld f v i).sup = d.sup := rfl
@[simp] theorem Dev.setFld_hostMem (d : Dev) (f : Fld) (v i : Nat) : (d.setFld f v i).hostMem = d.hostMem := rfl
@[simp] theorem Dev.setFld_mem (d : Dev) (f : Fld) (v i : Nat) : (d.setFld f v i).mem = d.mem := rfl
@[simp] theorem Dev.setFld_poison (d : Dev) (f : Fld) (v i : Nat) : (d.setFld f v i).poison = d.poison := rfl
@[simp] theorem Dev.setFld_flaws (d : Dev) (f : Fld) (v i : Nat) : (d.setFld f v i).flaws = d.flaws := rfl
@[simp] theorem Dev.setFld_time (d : Dev) (f : Fld) (v i : Nat) : (d.setFld f v i).time = d.time := rfl
@[simp] theorem Dev.setFld_timeStep (d : Dev) (f : Fld) (v i : Nat) : (d.setFld f v i).timeStep = d.timeStep := rfl
@[simp] theorem Dev.setFld_synced (d : Dev) (f : Fld) (v i : Nat) : (d.setFld f v i).synced = d.synced := rfl
@[simp] theorem Dev.setFld_tiles (d : Dev) (f : Fld) (v i : Nat) : (d.setFld f v i).tiles = d.tiles := rfl
@[simp] theorem Dev.setFld_fabric (d : Dev) (f : Fld) (v i : Nat) : (d.setFld f v i).fabric = d.fabric := rfl
@[simp] theorem Dev.setFld_acks (d : Dev) (f : Fld) (v i : Nat) : (d.setFld f v i).acks = d.acks := rfl
@[simp] theorem Dev.setFld_refusals (d : Dev) (f : Fld) (v i : Nat) : (d.setFld f v i).refusals = d.refusals := rfl
@[simp] theorem Dev.setFld_nextXfer (d : Dev) (f : Fld) (v i : Nat) : (d.setFld f v i).nextXfer = d.nextXfer := rfl
@[simp] theorem Dev.setFld_sqs (d : Dev) (f : Fld) (v i : Nat) : (d.setFld f v i).sqs = d.sqs := rfl
@[simp] theorem Dev.setFld_cqs (d : Dev) (f : Fld) (v i : Nat) : (d.setFld f v i).cqs = d.cqs := rfl
@[simp] theorem Dev.setFld_fetchRing (d : Dev) (f : Fld) (v i : Nat) : (d.setFld f v i).fetchRing = d.fetchRing := rfl
@[simp] theorem Dev.setFld_fetchCount (d : Dev) (f : Fld) (v i : Nat) : (d.setFld f v i).fetchCount = d.fetchCount := rfl
@[simp] theorem Dev.setFld_jobs (d : Dev) (f : Fld) (v i : Nat) : (d.setFld f v i).jobs = d.jobs := rfl
@[simp] theorem Dev.setFld_nextJob (d : Dev) (f : Fld) (v i : Nat) : (d.setFld f v i).nextJob = d.nextJob := rfl
@[simp] theorem Dev.setFld_images (d : Dev) (f : Fld) (v i : Nat) : (d.setFld f v i).images = d.images := rfl
@[simp] theorem Dev.setFld_admitted (d : Dev) (f : Fld) (v i : Nat) : (d.setFld f v i).admitted = d.admitted := rfl
@[simp] theorem Dev.setFld_recs (d : Dev) (f : Fld) (v i : Nat) : (d.setFld f v i).recs = d.recs := rfl
@[simp] theorem Dev.setFld_aborts (d : Dev) (f : Fld) (v i : Nat) : (d.setFld f v i).aborts = d.aborts := rfl
@[simp] theorem Dev.setFld_replays (d : Dev) (f : Fld) (v i : Nat) : (d.setFld f v i).replays = d.replays := rfl
@[simp] theorem Dev.setFld_mgmt (d : Dev) (f : Fld) (v i : Nat) : (d.setFld f v i).mgmt = d.mgmt := rfl
@[simp] theorem Dev.setFld_clr (d : Dev) (f : Fld) (v i : Nat) : (d.setFld f v i).clr = d.clr := rfl
@[simp] theorem Dev.setFld_boot (d : Dev) (f : Fld) (v i : Nat) : (d.setFld f v i).boot = d.boot := rfl
@[simp] theorem Dev.setFld_loop (d : Dev) (f : Fld) (v i : Nat) : (d.setFld f v i).loop = d.loop := rfl
@[simp] theorem Dev.setFld_links (d : Dev) (f : Fld) (v i : Nat) : (d.setFld f v i).links = d.links := rfl
@[simp] theorem Dev.setFld_scrub (d : Dev) (f : Fld) (v i : Nat) : (d.setFld f v i).scrub = d.scrub := rfl
@[simp] theorem Dev.setFld_ppsHigh (d : Dev) (f : Fld) (v i : Nat) : (d.setFld f v i).ppsHigh = d.ppsHigh := rfl
@[simp] theorem Dev.setFld_ppsSecond (d : Dev) (f : Fld) (v i : Nat) : (d.setFld f v i).ppsSecond = d.ppsSecond := rfl
@[simp] theorem Dev.setFld_solv (d : Dev) (f : Fld) (v i : Nat) : (d.setFld f v i).solv = d.solv := rfl
@[simp] theorem Dev.setFld_attn (d : Dev) (f : Fld) (v i : Nat) : (d.setFld f v i).attn = d.attn := rfl
@[simp] theorem Dev.setFld_fifos (d : Dev) (f : Fld) (v i : Nat) : (d.setFld f v i).fifos = d.fifos := rfl
@[simp] theorem Dev.setFld_net (d : Dev) (f : Fld) (v i : Nat) : (d.setFld f v i).net = d.net := rfl
@[simp] theorem Dev.setFld_regions (d : Dev) (f : Fld) (v i : Nat) : (d.setFld f v i).regions = d.regions := rfl
@[simp] theorem Dev.setFld_out (d : Dev) (f : Fld) (v i : Nat) : (d.setFld f v i).out = d.out := rfl
@[simp] theorem Dev.setFld_freeCtr (d : Dev) (f : Fld) (v i : Nat) : (d.setFld f v i).freeCtr = d.freeCtr := rfl
@[simp] theorem Dev.setFld_tile (d : Dev) (f : Fld) (v i : Nat) (u : Nat) : (d.setFld f v i).tile u = d.tile u := rfl

/-! ### Dev.setTile -/

@[simp] theorem Dev.setTile_regs (d : Dev) (t : Nat) (x : Tile) : (d.setTile t x).regs = d.regs := rfl
@[simp] theorem Dev.setTile_supRegs (d : Dev) (t : Nat) (x : Tile) : (d.setTile t x).supRegs = d.supRegs := rfl
@[simp] theorem Dev.setTile_host (d : Dev) (t : Nat) (x : Tile) : (d.setTile t x).host = d.host := rfl
@[simp] theorem Dev.setTile_sup (d : Dev) (t : Nat) (x : Tile) : (d.setTile t x).sup = d.sup := rfl
@[simp] theorem Dev.setTile_hostMem (d : Dev) (t : Nat) (x : Tile) : (d.setTile t x).hostMem = d.hostMem := rfl
@[simp] theorem Dev.setTile_mem (d : Dev) (t : Nat) (x : Tile) : (d.setTile t x).mem = d.mem := rfl
@[simp] theorem Dev.setTile_poison (d : Dev) (t : Nat) (x : Tile) : (d.setTile t x).poison = d.poison := rfl
@[simp] theorem Dev.setTile_flaws (d : Dev) (t : Nat) (x : Tile) : (d.setTile t x).flaws = d.flaws := rfl
@[simp] theorem Dev.setTile_time (d : Dev) (t : Nat) (x : Tile) : (d.setTile t x).time = d.time := rfl
@[simp] theorem Dev.setTile_timeStep (d : Dev) (t : Nat) (x : Tile) : (d.setTile t x).timeStep = d.timeStep := rfl
@[simp] theorem Dev.setTile_synced (d : Dev) (t : Nat) (x : Tile) : (d.setTile t x).synced = d.synced := rfl
@[simp] theorem Dev.setTile_fabric (d : Dev) (t : Nat) (x : Tile) : (d.setTile t x).fabric = d.fabric := rfl
@[simp] theorem Dev.setTile_acks (d : Dev) (t : Nat) (x : Tile) : (d.setTile t x).acks = d.acks := rfl
@[simp] theorem Dev.setTile_refusals (d : Dev) (t : Nat) (x : Tile) : (d.setTile t x).refusals = d.refusals := rfl
@[simp] theorem Dev.setTile_nextXfer (d : Dev) (t : Nat) (x : Tile) : (d.setTile t x).nextXfer = d.nextXfer := rfl
@[simp] theorem Dev.setTile_sqs (d : Dev) (t : Nat) (x : Tile) : (d.setTile t x).sqs = d.sqs := rfl
@[simp] theorem Dev.setTile_cqs (d : Dev) (t : Nat) (x : Tile) : (d.setTile t x).cqs = d.cqs := rfl
@[simp] theorem Dev.setTile_fetchRing (d : Dev) (t : Nat) (x : Tile) : (d.setTile t x).fetchRing = d.fetchRing := rfl
@[simp] theorem Dev.setTile_fetchCount (d : Dev) (t : Nat) (x : Tile) : (d.setTile t x).fetchCount = d.fetchCount := rfl
@[simp] theorem Dev.setTile_jobs (d : Dev) (t : Nat) (x : Tile) : (d.setTile t x).jobs = d.jobs := rfl
@[simp] theorem Dev.setTile_nextJob (d : Dev) (t : Nat) (x : Tile) : (d.setTile t x).nextJob = d.nextJob := rfl
@[simp] theorem Dev.setTile_images (d : Dev) (t : Nat) (x : Tile) : (d.setTile t x).images = d.images := rfl
@[simp] theorem Dev.setTile_admitted (d : Dev) (t : Nat) (x : Tile) : (d.setTile t x).admitted = d.admitted := rfl
@[simp] theorem Dev.setTile_recs (d : Dev) (t : Nat) (x : Tile) : (d.setTile t x).recs = d.recs := rfl
@[simp] theorem Dev.setTile_aborts (d : Dev) (t : Nat) (x : Tile) : (d.setTile t x).aborts = d.aborts := rfl
@[simp] theorem Dev.setTile_replays (d : Dev) (t : Nat) (x : Tile) : (d.setTile t x).replays = d.replays := rfl
@[simp] theorem Dev.setTile_mgmt (d : Dev) (t : Nat) (x : Tile) : (d.setTile t x).mgmt = d.mgmt := rfl
@[simp] theorem Dev.setTile_clr (d : Dev) (t : Nat) (x : Tile) : (d.setTile t x).clr = d.clr := rfl
@[simp] theorem Dev.setTile_boot (d : Dev) (t : Nat) (x : Tile) : (d.setTile t x).boot = d.boot := rfl
@[simp] theorem Dev.setTile_loop (d : Dev) (t : Nat) (x : Tile) : (d.setTile t x).loop = d.loop := rfl
@[simp] theorem Dev.setTile_links (d : Dev) (t : Nat) (x : Tile) : (d.setTile t x).links = d.links := rfl
@[simp] theorem Dev.setTile_scrub (d : Dev) (t : Nat) (x : Tile) : (d.setTile t x).scrub = d.scrub := rfl
@[simp] theorem Dev.setTile_ppsHigh (d : Dev) (t : Nat) (x : Tile) : (d.setTile t x).ppsHigh = d.ppsHigh := rfl
@[simp] theorem Dev.setTile_ppsSecond (d : Dev) (t : Nat) (x : Tile) : (d.setTile t x).ppsSecond = d.ppsSecond := rfl
@[simp] theorem Dev.setTile_solv (d : Dev) (t : Nat) (x : Tile) : (d.setTile t x).solv = d.solv := rfl
@[simp] theorem Dev.setTile_attn (d : Dev) (t : Nat) (x : Tile) : (d.setTile t x).attn = d.attn := rfl
@[simp] theorem Dev.setTile_fifos (d : Dev) (t : Nat) (x : Tile) : (d.setTile t x).fifos = d.fifos := rfl
@[simp] theorem Dev.setTile_net (d : Dev) (t : Nat) (x : Tile) : (d.setTile t x).net = d.net := rfl
@[simp] theorem Dev.setTile_regions (d : Dev) (t : Nat) (x : Tile) : (d.setTile t x).regions = d.regions := rfl
@[simp] theorem Dev.setTile_out (d : Dev) (t : Nat) (x : Tile) : (d.setTile t x).out = d.out := rfl
@[simp] theorem Dev.setTile_freeCtr (d : Dev) (t : Nat) (x : Tile) : (d.setTile t x).freeCtr = d.freeCtr := rfl
@[simp] theorem Dev.setTile_fld (d : Dev) (t : Nat) (x : Tile) (g : Fld) (k : Nat) : (d.setTile t x).fld g k = d.fld g k := rfl
@[simp] theorem Dev.setTile_flag (d : Dev) (t : Nat) (x : Tile) (g : Fld) (k : Nat) : (d.setTile t x).flag g k = d.flag g k := rfl

/-! ### Dev.updTile -/

@[simp] theorem Dev.updTile_regs (d : Dev) (t : Nat) (f : Tile → Tile) : (d.updTile t f).regs = d.regs := rfl
@[simp] theorem Dev.updTile_supRegs (d : Dev) (t : Nat) (f : Tile → Tile) : (d.updTile t f).supRegs = d.supRegs := rfl
@[simp] theorem Dev.updTile_host (d : Dev) (t : Nat) (f : Tile → Tile) : (d.updTile t f).host = d.host := rfl
@[simp] theorem Dev.updTile_sup (d : Dev) (t : Nat) (f : Tile → Tile) : (d.updTile t f).sup = d.sup := rfl
@[simp] theorem Dev.updTile_hostMem (d : Dev) (t : Nat) (f : Tile → Tile) : (d.updTile t f).hostMem = d.hostMem := rfl
@[simp] theorem Dev.updTile_mem (d : Dev) (t : Nat) (f : Tile → Tile) : (d.updTile t f).mem = d.mem := rfl
@[simp] theorem Dev.updTile_poison (d : Dev) (t : Nat) (f : Tile → Tile) : (d.updTile t f).poison = d.poison := rfl
@[simp] theorem Dev.updTile_flaws (d : Dev) (t : Nat) (f : Tile → Tile) : (d.updTile t f).flaws = d.flaws := rfl
@[simp] theorem Dev.updTile_time (d : Dev) (t : Nat) (f : Tile → Tile) : (d.updTile t f).time = d.time := rfl
@[simp] theorem Dev.updTile_timeStep (d : Dev) (t : Nat) (f : Tile → Tile) : (d.updTile t f).timeStep = d.timeStep := rfl
@[simp] theorem Dev.updTile_synced (d : Dev) (t : Nat) (f : Tile → Tile) : (d.updTile t f).synced = d.synced := rfl
@[simp] theorem Dev.updTile_fabric (d : Dev) (t : Nat) (f : Tile → Tile) : (d.updTile t f).fabric = d.fabric := rfl
@[simp] theorem Dev.updTile_acks (d : Dev) (t : Nat) (f : Tile → Tile) : (d.updTile t f).acks = d.acks := rfl
@[simp] theorem Dev.updTile_refusals (d : Dev) (t : Nat) (f : Tile → Tile) : (d.updTile t f).refusals = d.refusals := rfl
@[simp] theorem Dev.updTile_nextXfer (d : Dev) (t : Nat) (f : Tile → Tile) : (d.updTile t f).nextXfer = d.nextXfer := rfl
@[simp] theorem Dev.updTile_sqs (d : Dev) (t : Nat) (f : Tile → Tile) : (d.updTile t f).sqs = d.sqs := rfl
@[simp] theorem Dev.updTile_cqs (d : Dev) (t : Nat) (f : Tile → Tile) : (d.updTile t f).cqs = d.cqs := rfl
@[simp] theorem Dev.updTile_fetchRing (d : Dev) (t : Nat) (f : Tile → Tile) : (d.updTile t f).fetchRing = d.fetchRing := rfl
@[simp] theorem Dev.updTile_fetchCount (d : Dev) (t : Nat) (f : Tile → Tile) : (d.updTile t f).fetchCount = d.fetchCount := rfl
@[simp] theorem Dev.updTile_jobs (d : Dev) (t : Nat) (f : Tile → Tile) : (d.updTile t f).jobs = d.jobs := rfl
@[simp] theorem Dev.updTile_nextJob (d : Dev) (t : Nat) (f : Tile → Tile) : (d.updTile t f).nextJob = d.nextJob := rfl
@[simp] theorem Dev.updTile_images (d : Dev) (t : Nat) (f : Tile → Tile) : (d.updTile t f).images = d.images := rfl
@[simp] theorem Dev.updTile_admitted (d : Dev) (t : Nat) (f : Tile → Tile) : (d.updTile t f).admitted = d.admitted := rfl
@[simp] theorem Dev.updTile_recs (d : Dev) (t : Nat) (f : Tile → Tile) : (d.updTile t f).recs = d.recs := rfl
@[simp] theorem Dev.updTile_aborts (d : Dev) (t : Nat) (f : Tile → Tile) : (d.updTile t f).aborts = d.aborts := rfl
@[simp] theorem Dev.updTile_replays (d : Dev) (t : Nat) (f : Tile → Tile) : (d.updTile t f).replays = d.replays := rfl
@[simp] theorem Dev.updTile_mgmt (d : Dev) (t : Nat) (f : Tile → Tile) : (d.updTile t f).mgmt = d.mgmt := rfl
@[simp] theorem Dev.updTile_clr (d : Dev) (t : Nat) (f : Tile → Tile) : (d.updTile t f).clr = d.clr := rfl
@[simp] theorem Dev.updTile_boot (d : Dev) (t : Nat) (f : Tile → Tile) : (d.updTile t f).boot = d.boot := rfl
@[simp] theorem Dev.updTile_loop (d : Dev) (t : Nat) (f : Tile → Tile) : (d.updTile t f).loop = d.loop := rfl
@[simp] theorem Dev.updTile_links (d : Dev) (t : Nat) (f : Tile → Tile) : (d.updTile t f).links = d.links := rfl
@[simp] theorem Dev.updTile_scrub (d : Dev) (t : Nat) (f : Tile → Tile) : (d.updTile t f).scrub = d.scrub := rfl
@[simp] theorem Dev.updTile_ppsHigh (d : Dev) (t : Nat) (f : Tile → Tile) : (d.updTile t f).ppsHigh = d.ppsHigh := rfl
@[simp] theorem Dev.updTile_ppsSecond (d : Dev) (t : Nat) (f : Tile → Tile) : (d.updTile t f).ppsSecond = d.ppsSecond := rfl
@[simp] theorem Dev.updTile_solv (d : Dev) (t : Nat) (f : Tile → Tile) : (d.updTile t f).solv = d.solv := rfl
@[simp] theorem Dev.updTile_attn (d : Dev) (t : Nat) (f : Tile → Tile) : (d.updTile t f).attn = d.attn := rfl
@[simp] theorem Dev.updTile_fifos (d : Dev) (t : Nat) (f : Tile → Tile) : (d.updTile t f).fifos = d.fifos := rfl
@[simp] theorem Dev.updTile_net (d : Dev) (t : Nat) (f : Tile → Tile) : (d.updTile t f).net = d.net := rfl
@[simp] theorem Dev.updTile_regions (d : Dev) (t : Nat) (f : Tile → Tile) : (d.updTile t f).regions = d.regions := rfl
@[simp] theorem Dev.updTile_out (d : Dev) (t : Nat) (f : Tile → Tile) : (d.updTile t f).out = d.out := rfl
@[simp] theorem Dev.updTile_freeCtr (d : Dev) (t : Nat) (f : Tile → Tile) : (d.updTile t f).freeCtr = d.freeCtr := rfl
@[simp] theorem Dev.updTile_fld (d : Dev) (t : Nat) (f : Tile → Tile) (g : Fld) (k : Nat) : (d.updTile t f).fld g k = d.fld g k := rfl
@[simp] theorem Dev.updTile_flag (d : Dev) (t : Nat) (f : Tile → Tile) (g : Fld) (k : Nat) : (d.updTile t f).flag g k = d.flag g k := rfl

/-! ### Dev.emit -/

@[simp] theorem Dev.emit_regs (d : Dev) (o : OutItem) : (d.emit o).regs = d.regs := rfl
@[simp] theorem Dev.emit_supRegs (d : Dev) (o : OutItem) : (d.emit o).supRegs = d.supRegs := rfl
@[simp] theorem Dev.emit_host (d : Dev) (o : OutItem) : (d.emit o).host = d.host := rfl
@[simp] theorem Dev.emit_sup (d : Dev) (o : OutItem) : (d.emit o).sup = d.sup := rfl
@[simp] theorem Dev.emit_hostMem (d : Dev) (o : OutItem) : (d.emit o).hostMem = d.hostMem := rfl
@[simp] theorem Dev.emit_mem (d : Dev) (o : OutItem) : (d.emit o).mem = d.mem := rfl
@[simp] theorem Dev.emit_poison (d : Dev) (o : OutItem) : (d.emit o).poison = d.poison := rfl
@[simp] theorem Dev.emit_flaws (d : Dev) (o : OutItem) : (d.emit o).flaws = d.flaws := rfl
@[simp] theorem Dev.emit_time (d : Dev) (o : OutItem) : (d.emit o).time = d.time := rfl
@[simp] theorem Dev.emit_timeStep (d : Dev) (o : OutItem) : (d.emit o).timeStep = d.timeStep := rfl
@[simp] theorem Dev.emit_synced (d : Dev) (o : OutItem) : (d.emit o).synced = d.synced := rfl
@[simp] theorem Dev.emit_tiles (d : Dev) (o : OutItem) : (d.emit o).tiles = d.tiles := rfl
@[simp] theorem Dev.emit_fabric (d : Dev) (o : OutItem) : (d.emit o).fabric = d.fabric := rfl
@[simp] theorem Dev.emit_acks (d : Dev) (o : OutItem) : (d.emit o).acks = d.acks := rfl
@[simp] theorem Dev.emit_refusals (d : Dev) (o : OutItem) : (d.emit o).refusals = d.refusals := rfl
@[simp] theorem Dev.emit_nextXfer (d : Dev) (o : OutItem) : (d.emit o).nextXfer = d.nextXfer := rfl
@[simp] theorem Dev.emit_sqs (d : Dev) (o : OutItem) : (d.emit o).sqs = d.sqs := rfl
@[simp] theorem Dev.emit_cqs (d : Dev) (o : OutItem) : (d.emit o).cqs = d.cqs := rfl
@[simp] theorem Dev.emit_fetchRing (d : Dev) (o : OutItem) : (d.emit o).fetchRing = d.fetchRing := rfl
@[simp] theorem Dev.emit_fetchCount (d : Dev) (o : OutItem) : (d.emit o).fetchCount = d.fetchCount := rfl
@[simp] theorem Dev.emit_jobs (d : Dev) (o : OutItem) : (d.emit o).jobs = d.jobs := rfl
@[simp] theorem Dev.emit_nextJob (d : Dev) (o : OutItem) : (d.emit o).nextJob = d.nextJob := rfl
@[simp] theorem Dev.emit_images (d : Dev) (o : OutItem) : (d.emit o).images = d.images := rfl
@[simp] theorem Dev.emit_admitted (d : Dev) (o : OutItem) : (d.emit o).admitted = d.admitted := rfl
@[simp] theorem Dev.emit_recs (d : Dev) (o : OutItem) : (d.emit o).recs = d.recs := rfl
@[simp] theorem Dev.emit_aborts (d : Dev) (o : OutItem) : (d.emit o).aborts = d.aborts := rfl
@[simp] theorem Dev.emit_replays (d : Dev) (o : OutItem) : (d.emit o).replays = d.replays := rfl
@[simp] theorem Dev.emit_mgmt (d : Dev) (o : OutItem) : (d.emit o).mgmt = d.mgmt := rfl
@[simp] theorem Dev.emit_clr (d : Dev) (o : OutItem) : (d.emit o).clr = d.clr := rfl
@[simp] theorem Dev.emit_boot (d : Dev) (o : OutItem) : (d.emit o).boot = d.boot := rfl
@[simp] theorem Dev.emit_loop (d : Dev) (o : OutItem) : (d.emit o).loop = d.loop := rfl
@[simp] theorem Dev.emit_links (d : Dev) (o : OutItem) : (d.emit o).links = d.links := rfl
@[simp] theorem Dev.emit_scrub (d : Dev) (o : OutItem) : (d.emit o).scrub = d.scrub := rfl
@[simp] theorem Dev.emit_ppsHigh (d : Dev) (o : OutItem) : (d.emit o).ppsHigh = d.ppsHigh := rfl
@[simp] theorem Dev.emit_ppsSecond (d : Dev) (o : OutItem) : (d.emit o).ppsSecond = d.ppsSecond := rfl
@[simp] theorem Dev.emit_solv (d : Dev) (o : OutItem) : (d.emit o).solv = d.solv := rfl
@[simp] theorem Dev.emit_attn (d : Dev) (o : OutItem) : (d.emit o).attn = d.attn := rfl
@[simp] theorem Dev.emit_fifos (d : Dev) (o : OutItem) : (d.emit o).fifos = d.fifos := rfl
@[simp] theorem Dev.emit_net (d : Dev) (o : OutItem) : (d.emit o).net = d.net := rfl
@[simp] theorem Dev.emit_regions (d : Dev) (o : OutItem) : (d.emit o).regions = d.regions := rfl
@[simp] theorem Dev.emit_freeCtr (d : Dev) (o : OutItem) : (d.emit o).freeCtr = d.freeCtr := rfl
@[simp] theorem Dev.emit_fld (d : Dev) (o : OutItem) (g : Fld) (k : Nat) : (d.emit o).fld g k = d.fld g k := rfl
@[simp] theorem Dev.emit_flag (d : Dev) (o : OutItem) (g : Fld) (k : Nat) : (d.emit o).flag g k = d.flag g k := rfl
@[simp] theorem Dev.emit_tile (d : Dev) (o : OutItem) (u : Nat) : (d.emit o).tile u = d.tile u := rfl

/-! ### Dev.bump -/

@[simp] theorem Dev.bump_regs (d : Dev) : (d.bump).regs = d.regs := rfl
@[simp] theorem Dev.bump_supRegs (d : Dev) : (d.bump).supRegs = d.supRegs := rfl
@[simp] theorem Dev.bump_host (d : Dev) : (d.bump).host = d.host := rfl
@[simp] theorem Dev.bump_sup (d : Dev) : (d.bump).sup = d.sup := rfl
@[simp] theorem Dev.bump_hostMem (d : Dev) : (d.bump).hostMem = d.hostMem := rfl
@[simp] theorem Dev.bump_mem (d : Dev) : (d.bump).mem = d.mem := rfl
@[simp] theorem Dev.bump_poison (d : Dev) : (d.bump).poison = d.poison := rfl
@[simp] theorem Dev.bump_flaws (d : Dev) : (d.bump).flaws = d.flaws := rfl
@[simp] theorem Dev.bump_time (d : Dev) : (d.bump).time = d.time := rfl
@[simp] theorem Dev.bump_timeStep (d : Dev) : (d.bump).timeStep = d.timeStep := rfl
@[simp] theorem Dev.bump_synced (d : Dev) : (d.bump).synced = d.synced := rfl
@[simp] theorem Dev.bump_tiles (d : Dev) : (d.bump).tiles = d.tiles := rfl
@[simp] theorem Dev.bump_fabric (d : Dev) : (d.bump).fabric = d.fabric := rfl
@[simp] theorem Dev.bump_acks (d : Dev) : (d.bump).acks = d.acks := rfl
@[simp] theorem Dev.bump_refusals (d : Dev) : (d.bump).refusals = d.refusals := rfl
@[simp] theorem Dev.bump_nextXfer (d : Dev) : (d.bump).nextXfer = d.nextXfer := rfl
@[simp] theorem Dev.bump_sqs (d : Dev) : (d.bump).sqs = d.sqs := rfl
@[simp] theorem Dev.bump_cqs (d : Dev) : (d.bump).cqs = d.cqs := rfl
@[simp] theorem Dev.bump_fetchRing (d : Dev) : (d.bump).fetchRing = d.fetchRing := rfl
@[simp] theorem Dev.bump_fetchCount (d : Dev) : (d.bump).fetchCount = d.fetchCount := rfl
@[simp] theorem Dev.bump_jobs (d : Dev) : (d.bump).jobs = d.jobs := rfl
@[simp] theorem Dev.bump_nextJob (d : Dev) : (d.bump).nextJob = d.nextJob := rfl
@[simp] theorem Dev.bump_images (d : Dev) : (d.bump).images = d.images := rfl
@[simp] theorem Dev.bump_admitted (d : Dev) : (d.bump).admitted = d.admitted := rfl
@[simp] theorem Dev.bump_recs (d : Dev) : (d.bump).recs = d.recs := rfl
@[simp] theorem Dev.bump_aborts (d : Dev) : (d.bump).aborts = d.aborts := rfl
@[simp] theorem Dev.bump_replays (d : Dev) : (d.bump).replays = d.replays := rfl
@[simp] theorem Dev.bump_mgmt (d : Dev) : (d.bump).mgmt = d.mgmt := rfl
@[simp] theorem Dev.bump_clr (d : Dev) : (d.bump).clr = d.clr := rfl
@[simp] theorem Dev.bump_boot (d : Dev) : (d.bump).boot = d.boot := rfl
@[simp] theorem Dev.bump_loop (d : Dev) : (d.bump).loop = d.loop := rfl
@[simp] theorem Dev.bump_links (d : Dev) : (d.bump).links = d.links := rfl
@[simp] theorem Dev.bump_scrub (d : Dev) : (d.bump).scrub = d.scrub := rfl
@[simp] theorem Dev.bump_ppsHigh (d : Dev) : (d.bump).ppsHigh = d.ppsHigh := rfl
@[simp] theorem Dev.bump_ppsSecond (d : Dev) : (d.bump).ppsSecond = d.ppsSecond := rfl
@[simp] theorem Dev.bump_solv (d : Dev) : (d.bump).solv = d.solv := rfl
@[simp] theorem Dev.bump_attn (d : Dev) : (d.bump).attn = d.attn := rfl
@[simp] theorem Dev.bump_fifos (d : Dev) : (d.bump).fifos = d.fifos := rfl
@[simp] theorem Dev.bump_net (d : Dev) : (d.bump).net = d.net := rfl
@[simp] theorem Dev.bump_regions (d : Dev) : (d.bump).regions = d.regions := rfl
@[simp] theorem Dev.bump_out (d : Dev) : (d.bump).out = d.out := rfl
@[simp] theorem Dev.bump_fld (d : Dev) (g : Fld) (k : Nat) : (d.bump).fld g k = d.fld g k := rfl
@[simp] theorem Dev.bump_flag (d : Dev) (g : Fld) (k : Nat) : (d.bump).flag g k = d.flag g k := rfl
@[simp] theorem Dev.bump_tile (d : Dev) (u : Nat) : (d.bump).tile u = d.tile u := rfl

/-! ### Dev.updJob -/

@[simp] theorem Dev.updJob_regs (d : Dev) (j : Nat) (f : Job → Job) : (d.updJob j f).regs = d.regs := rfl
@[simp] theorem Dev.updJob_supRegs (d : Dev) (j : Nat) (f : Job → Job) : (d.updJob j f).supRegs = d.supRegs := rfl
@[simp] theorem Dev.updJob_host (d : Dev) (j : Nat) (f : Job → Job) : (d.updJob j f).host = d.host := rfl
@[simp] theorem Dev.updJob_sup (d : Dev) (j : Nat) (f : Job → Job) : (d.updJob j f).sup = d.sup := rfl
@[simp] theorem Dev.updJob_hostMem (d : Dev) (j : Nat) (f : Job → Job) : (d.updJob j f).hostMem = d.hostMem := rfl
@[simp] theorem Dev.updJob_mem (d : Dev) (j : Nat) (f : Job → Job) : (d.updJob j f).mem = d.mem := rfl
@[simp] theorem Dev.updJob_poison (d : Dev) (j : Nat) (f : Job → Job) : (d.updJob j f).poison = d.poison := rfl
@[simp] theorem Dev.updJob_flaws (d : Dev) (j : Nat) (f : Job → Job) : (d.updJob j f).flaws = d.flaws := rfl
@[simp] theorem Dev.updJob_time (d : Dev) (j : Nat) (f : Job → Job) : (d.updJob j f).time = d.time := rfl
@[simp] theorem Dev.updJob_timeStep (d : Dev) (j : Nat) (f : Job → Job) : (d.updJob j f).timeStep = d.timeStep := rfl
@[simp] theorem Dev.updJob_synced (d : Dev) (j : Nat) (f : Job → Job) : (d.updJob j f).synced = d.synced := rfl
@[simp] theorem Dev.updJob_tiles (d : Dev) (j : Nat) (f : Job → Job) : (d.updJob j f).tiles = d.tiles := rfl
@[simp] theorem Dev.updJob_fabric (d : Dev) (j : Nat) (f : Job → Job) : (d.updJob j f).fabric = d.fabric := rfl
@[simp] theorem Dev.updJob_acks (d : Dev) (j : Nat) (f : Job → Job) : (d.updJob j f).acks = d.acks := rfl
@[simp] theorem Dev.updJob_refusals (d : Dev) (j : Nat) (f : Job → Job) : (d.updJob j f).refusals = d.refusals := rfl
@[simp] theorem Dev.updJob_nextXfer (d : Dev) (j : Nat) (f : Job → Job) : (d.updJob j f).nextXfer = d.nextXfer := rfl
@[simp] theorem Dev.updJob_sqs (d : Dev) (j : Nat) (f : Job → Job) : (d.updJob j f).sqs = d.sqs := rfl
@[simp] theorem Dev.updJob_cqs (d : Dev) (j : Nat) (f : Job → Job) : (d.updJob j f).cqs = d.cqs := rfl
@[simp] theorem Dev.updJob_fetchRing (d : Dev) (j : Nat) (f : Job → Job) : (d.updJob j f).fetchRing = d.fetchRing := rfl
@[simp] theorem Dev.updJob_fetchCount (d : Dev) (j : Nat) (f : Job → Job) : (d.updJob j f).fetchCount = d.fetchCount := rfl
@[simp] theorem Dev.updJob_nextJob (d : Dev) (j : Nat) (f : Job → Job) : (d.updJob j f).nextJob = d.nextJob := rfl
@[simp] theorem Dev.updJob_images (d : Dev) (j : Nat) (f : Job → Job) : (d.updJob j f).images = d.images := rfl
@[simp] theorem Dev.updJob_admitted (d : Dev) (j : Nat) (f : Job → Job) : (d.updJob j f).admitted = d.admitted := rfl
@[simp] theorem Dev.updJob_recs (d : Dev) (j : Nat) (f : Job → Job) : (d.updJob j f).recs = d.recs := rfl
@[simp] theorem Dev.updJob_aborts (d : Dev) (j : Nat) (f : Job → Job) : (d.updJob j f).aborts = d.aborts := rfl
@[simp] theorem Dev.updJob_replays (d : Dev) (j : Nat) (f : Job → Job) : (d.updJob j f).replays = d.replays := rfl
@[simp] theorem Dev.updJob_mgmt (d : Dev) (j : Nat) (f : Job → Job) : (d.updJob j f).mgmt = d.mgmt := rfl
@[simp] theorem Dev.updJob_clr (d : Dev) (j : Nat) (f : Job → Job) : (d.updJob j f).clr = d.clr := rfl
@[simp] theorem Dev.updJob_boot (d : Dev) (j : Nat) (f : Job → Job) : (d.updJob j f).boot = d.boot := rfl
@[simp] theorem Dev.updJob_loop (d : Dev) (j : Nat) (f : Job → Job) : (d.updJob j f).loop = d.loop := rfl
@[simp] theorem Dev.updJob_links (d : Dev) (j : Nat) (f : Job → Job) : (d.updJob j f).links = d.links := rfl
@[simp] theorem Dev.updJob_scrub (d : Dev) (j : Nat) (f : Job → Job) : (d.updJob j f).scrub = d.scrub := rfl
@[simp] theorem Dev.updJob_ppsHigh (d : Dev) (j : Nat) (f : Job → Job) : (d.updJob j f).ppsHigh = d.ppsHigh := rfl
@[simp] theorem Dev.updJob_ppsSecond (d : Dev) (j : Nat) (f : Job → Job) : (d.updJob j f).ppsSecond = d.ppsSecond := rfl
@[simp] theorem Dev.updJob_solv (d : Dev) (j : Nat) (f : Job → Job) : (d.updJob j f).solv = d.solv := rfl
@[simp] theorem Dev.updJob_attn (d : Dev) (j : Nat) (f : Job → Job) : (d.updJob j f).attn = d.attn := rfl
@[simp] theorem Dev.updJob_fifos (d : Dev) (j : Nat) (f : Job → Job) : (d.updJob j f).fifos = d.fifos := rfl
@[simp] theorem Dev.updJob_net (d : Dev) (j : Nat) (f : Job → Job) : (d.updJob j f).net = d.net := rfl
@[simp] theorem Dev.updJob_regions (d : Dev) (j : Nat) (f : Job → Job) : (d.updJob j f).regions = d.regions := rfl
@[simp] theorem Dev.updJob_out (d : Dev) (j : Nat) (f : Job → Job) : (d.updJob j f).out = d.out := rfl
@[simp] theorem Dev.updJob_freeCtr (d : Dev) (j : Nat) (f : Job → Job) : (d.updJob j f).freeCtr = d.freeCtr := rfl
@[simp] theorem Dev.updJob_fld (d : Dev) (j : Nat) (f : Job → Job) (g : Fld) (k : Nat) : (d.updJob j f).fld g k = d.fld g k := rfl
@[simp] theorem Dev.updJob_flag (d : Dev) (j : Nat) (f : Job → Job) (g : Fld) (k : Nat) : (d.updJob j f).flag g k = d.flag g k := rfl
@[simp] theorem Dev.updJob_tile (d : Dev) (j : Nat) (f : Job → Job) (u : Nat) : (d.updJob j f).tile u = d.tile u := rfl

/-! ### Dev.updImage -/

@[simp] theorem Dev.updImage_regs (d : Dev) (n : Nat) (f : Image → Image) : (d.updImage n f).regs = d.regs := rfl
@[simp] theorem Dev.updImage_supRegs (d : Dev) (n : Nat) (f : Image → Image) : (d.updImage n f).supRegs = d.supRegs := rfl
@[simp] theorem Dev.updImage_host (d : Dev) (n : Nat) (f : Image → Image) : (d.updImage n f).host = d.host := rfl
@[simp] theorem Dev.updImage_sup (d : Dev) (n : Nat) (f : Image → Image) : (d.updImage n f).sup = d.sup := rfl
@[simp] theorem Dev.updImage_hostMem (d : Dev) (n : Nat) (f : Image → Image) : (d.updImage n f).hostMem = d.hostMem := rfl
@[simp] theorem Dev.updImage_mem (d : Dev) (n : Nat) (f : Image → Image) : (d.updImage n f).mem = d.mem := rfl
@[simp] theorem Dev.updImage_poison (d : Dev) (n : Nat) (f : Image → Image) : (d.updImage n f).poison = d.poison := rfl
@[simp] theorem Dev.updImage_flaws (d : Dev) (n : Nat) (f : Image → Image) : (d.updImage n f).flaws = d.flaws := rfl
@[simp] theorem Dev.updImage_time (d : Dev) (n : Nat) (f : Image → Image) : (d.updImage n f).time = d.time := rfl
@[simp] theorem Dev.updImage_timeStep (d : Dev) (n : Nat) (f : Image → Image) : (d.updImage n f).timeStep = d.timeStep := rfl
@[simp] theorem Dev.updImage_synced (d : Dev) (n : Nat) (f : Image → Image) : (d.updImage n f).synced = d.synced := rfl
@[simp] theorem Dev.updImage_tiles (d : Dev) (n : Nat) (f : Image → Image) : (d.updImage n f).tiles = d.tiles := rfl
@[simp] theorem Dev.updImage_fabric (d : Dev) (n : Nat) (f : Image → Image) : (d.updImage n f).fabric = d.fabric := rfl
@[simp] theorem Dev.updImage_acks (d : Dev) (n : Nat) (f : Image → Image) : (d.updImage n f).acks = d.acks := rfl
@[simp] theorem Dev.updImage_refusals (d : Dev) (n : Nat) (f : Image → Image) : (d.updImage n f).refusals = d.refusals := rfl
@[simp] theorem Dev.updImage_nextXfer (d : Dev) (n : Nat) (f : Image → Image) : (d.updImage n f).nextXfer = d.nextXfer := rfl
@[simp] theorem Dev.updImage_sqs (d : Dev) (n : Nat) (f : Image → Image) : (d.updImage n f).sqs = d.sqs := rfl
@[simp] theorem Dev.updImage_cqs (d : Dev) (n : Nat) (f : Image → Image) : (d.updImage n f).cqs = d.cqs := rfl
@[simp] theorem Dev.updImage_fetchRing (d : Dev) (n : Nat) (f : Image → Image) : (d.updImage n f).fetchRing = d.fetchRing := rfl
@[simp] theorem Dev.updImage_fetchCount (d : Dev) (n : Nat) (f : Image → Image) : (d.updImage n f).fetchCount = d.fetchCount := rfl
@[simp] theorem Dev.updImage_jobs (d : Dev) (n : Nat) (f : Image → Image) : (d.updImage n f).jobs = d.jobs := rfl
@[simp] theorem Dev.updImage_nextJob (d : Dev) (n : Nat) (f : Image → Image) : (d.updImage n f).nextJob = d.nextJob := rfl
@[simp] theorem Dev.updImage_admitted (d : Dev) (n : Nat) (f : Image → Image) : (d.updImage n f).admitted = d.admitted := rfl
@[simp] theorem Dev.updImage_recs (d : Dev) (n : Nat) (f : Image → Image) : (d.updImage n f).recs = d.recs := rfl
@[simp] theorem Dev.updImage_aborts (d : Dev) (n : Nat) (f : Image → Image) : (d.updImage n f).aborts = d.aborts := rfl
@[simp] theorem Dev.updImage_replays (d : Dev) (n : Nat) (f : Image → Image) : (d.updImage n f).replays = d.replays := rfl
@[simp] theorem Dev.updImage_mgmt (d : Dev) (n : Nat) (f : Image → Image) : (d.updImage n f).mgmt = d.mgmt := rfl
@[simp] theorem Dev.updImage_clr (d : Dev) (n : Nat) (f : Image → Image) : (d.updImage n f).clr = d.clr := rfl
@[simp] theorem Dev.updImage_boot (d : Dev) (n : Nat) (f : Image → Image) : (d.updImage n f).boot = d.boot := rfl
@[simp] theorem Dev.updImage_loop (d : Dev) (n : Nat) (f : Image → Image) : (d.updImage n f).loop = d.loop := rfl
@[simp] theorem Dev.updImage_links (d : Dev) (n : Nat) (f : Image → Image) : (d.updImage n f).links = d.links := rfl
@[simp] theorem Dev.updImage_scrub (d : Dev) (n : Nat) (f : Image → Image) : (d.updImage n f).scrub = d.scrub := rfl
@[simp] theorem Dev.updImage_ppsHigh (d : Dev) (n : Nat) (f : Image → Image) : (d.updImage n f).ppsHigh = d.ppsHigh := rfl
@[simp] theorem Dev.updImage_ppsSecond (d : Dev) (n : Nat) (f : Image → Image) : (d.updImage n f).ppsSecond = d.ppsSecond := rfl
@[simp] theorem Dev.updImage_solv (d : Dev) (n : Nat) (f : Image → Image) : (d.updImage n f).solv = d.solv := rfl
@[simp] theorem Dev.updImage_attn (d : Dev) (n : Nat) (f : Image → Image) : (d.updImage n f).attn = d.attn := rfl
@[simp] theorem Dev.updImage_fifos (d : Dev) (n : Nat) (f : Image → Image) : (d.updImage n f).fifos = d.fifos := rfl
@[simp] theorem Dev.updImage_net (d : Dev) (n : Nat) (f : Image → Image) : (d.updImage n f).net = d.net := rfl
@[simp] theorem Dev.updImage_regions (d : Dev) (n : Nat) (f : Image → Image) : (d.updImage n f).regions = d.regions := rfl
@[simp] theorem Dev.updImage_out (d : Dev) (n : Nat) (f : Image → Image) : (d.updImage n f).out = d.out := rfl
@[simp] theorem Dev.updImage_freeCtr (d : Dev) (n : Nat) (f : Image → Image) : (d.updImage n f).freeCtr = d.freeCtr := rfl
@[simp] theorem Dev.updImage_fld (d : Dev) (n : Nat) (f : Image → Image) (g : Fld) (k : Nat) : (d.updImage n f).fld g k = d.fld g k := rfl
@[simp] theorem Dev.updImage_flag (d : Dev) (n : Nat) (f : Image → Image) (g : Fld) (k : Nat) : (d.updImage n f).flag g k = d.flag g k := rfl
@[simp] theorem Dev.updImage_tile (d : Dev) (n : Nat) (f : Image → Image) (u : Nat) : (d.updImage n f).tile u = d.tile u := rfl

/-! ### Tiles -/

@[simp] theorem Dev.tile_setTile_self (d : Dev) (t : Nat) (x : Tile) : (d.setTile t x).tile t = x := mapGet_set_self _ _ _ _

theorem Dev.tile_setTile_ne (d : Dev) {t u : Nat} (x : Tile) (h : u ≠ t) : (d.setTile t x).tile u = d.tile u := mapGet_set_ne _ _ _ _ h

@[simp] theorem Dev.tile_updTile_self (d : Dev) (t : Nat) (f : Tile → Tile) : (d.updTile t f).tile t = f (d.tile t) :=
  d.tile_setTile_self t _

theorem Dev.tile_updTile_ne (d : Dev) {t u : Nat} (f : Tile → Tile) (h : u ≠ t) : (d.updTile t f).tile u = d.tile u :=
  d.tile_setTile_ne _ h

/-- x0 reads 0 (R154). -/
@[simp] theorem Tile.xr_zero (x : Tile) : x.xr 0 = 0 := rfl

/-- A scalar register just written reads the value; x0 reads 0. -/
theorem Tile.xr_xw (x : Tile) (r q : BitVec 5) (v : U64) : (x.xw r v).xr q = if q = r then (if r = 0 then 0 else v) else x.xr q := by
  unfold Tile.xw
  by_cases hr : r = 0
  · subst hr
    by_cases hq : q = 0
    · subst hq; rfl
    · simp only [hq, if_true, if_false]
  · simp only [hr, if_false]
    unfold Tile.xr
    by_cases hq : q = r
    · subst hq; simp only [hr, if_true, if_false]; exact mapGet_set_self _ _ _ _
    · simp only [hq, if_false]
      by_cases h0 : q = 0
      · simp [h0]
      · simp only [h0, if_false]
        exact mapGet_set_ne _ _ _ _ (fun h => hq (BitVec.eq_of_toNat_eq h))

@[simp] theorem Tile.vr_vw_self (x : Tile) (r : Nat) (v : Row) : (x.vw r v).vr r = v := mapGet_set_self _ _ _ _

theorem Tile.vr_vw_ne (x : Tile) {r q : Nat} (v : Row) (h : q ≠ r) : (x.vw r v).vr q = x.vr q := mapGet_set_ne _ _ _ _ h

@[simp] theorem Tile.ar_aw_self (x : Tile) (r : Nat) (v : Row) : (x.aw r v).ar r = v := mapGet_set_self _ _ _ _

theorem Tile.ar_aw_ne (x : Tile) {r q : Nat} (v : Row) (h : q ≠ r) : (x.aw r v).ar q = x.ar q := mapGet_set_ne _ _ _ _ h

/-- A row just stored is read back; every other physical row is unchanged. -/
@[simp] theorem Tile.physRow_set_self (x : Tile) (b r : Nat) (v : Row) : (x.setPhysRow b r v).physRow b r = v := mapGet_set_self _ _ _ _

theorem Tile.setPhysRow_rows_ne (x : Tile) (b r : Nat) (v : Row) (k : Nat) (h : k ≠ rowKey b (x.prow b r)) :
    mapGet 0 (x.setPhysRow b r v).rows k = mapGet 0 x.rows k := mapGet_set_ne _ _ _ _ h

/-! ### Tile.vw -/

@[simp] theorem Tile.vw_x (x : Tile) (r : Nat) (v : Row) : (x.vw r v).x = x.x := rfl
@[simp] theorem Tile.vw_acc (x : Tile) (r : Nat) (v : Row) : (x.vw r v).acc = x.acc := rfl
@[simp] theorem Tile.vw_capB (x : Tile) (r : Nat) (v : Row) : (x.vw r v).capB = x.capB := rfl
@[simp] theorem Tile.vw_pc (x : Tile) (r : Nat) (v : Row) : (x.vw r v).pc = x.pc := rfl
@[simp] theorem Tile.vw_code (x : Tile) (r : Nat) (v : Row) : (x.vw r v).code = x.code := rfl
@[simp] theorem Tile.vw_codeLen (x : Tile) (r : Nat) (v : Row) : (x.vw r v).codeLen = x.codeLen := rfl
@[simp] theorem Tile.vw_rows (x : Tile) (r : Nat) (v : Row) : (x.vw r v).rows = x.rows := rfl
@[simp] theorem Tile.vw_remap (x : Tile) (r : Nat) (v : Row) : (x.vw r v).remap = x.remap := rfl
@[simp] theorem Tile.vw_handles (x : Tile) (r : Nat) (v : Row) : (x.vw r v).handles = x.handles := rfl
@[simp] theorem Tile.vw_slots (x : Tile) (r : Nat) (v : Row) : (x.vw r v).slots = x.slots := rfl
@[simp] theorem Tile.vw_vendor (x : Tile) (r : Nat) (v : Row) : (x.vw r v).vendor = x.vendor := rfl
@[simp] theorem Tile.vw_ordinal (x : Tile) (r : Nat) (v : Row) : (x.vw r v).ordinal = x.ordinal := rfl
@[simp] theorem Tile.vw_job (x : Tile) (r : Nat) (v : Row) : (x.vw r v).job = x.job := rfl
@[simp] theorem Tile.vw_image (x : Tile) (r : Nat) (v : Row) : (x.vw r v).image = x.image := rfl
@[simp] theorem Tile.vw_groveSize (x : Tile) (r : Nat) (v : Row) : (x.vw r v).groveSize = x.groveSize := rfl
@[simp] theorem Tile.vw_trap (x : Tile) (r : Nat) (v : Row) : (x.vw r v).trap = x.trap := rfl
@[simp] theorem Tile.vw_stall (x : Tile) (r : Nat) (v : Row) : (x.vw r v).stall = x.stall := rfl
@[simp] theorem Tile.vw_paused (x : Tile) (r : Nat) (v : Row) : (x.vw r v).paused = x.paused := rfl
@[simp] theorem Tile.vw_held (x : Tile) (r : Nat) (v : Row) : (x.vw r v).held = x.held := rfl
@[simp] theorem Tile.vw_backlog (x : Tile) (r : Nat) (v : Row) : (x.vw r v).backlog = x.backlog := rfl
@[simp] theorem Tile.vw_admitted (x : Tile) (r : Nat) (v : Row) : (x.vw r v).admitted = x.admitted := rfl
@[simp] theorem Tile.vw_inflight (x : Tile) (r : Nat) (v : Row) : (x.vw r v).inflight = x.inflight := rfl
@[simp] theorem Tile.vw_cache (x : Tile) (r : Nat) (v : Row) : (x.vw r v).cache = x.cache := rfl
@[simp] theorem Tile.vw_roleTo (x : Tile) (r : Nat) (v : Row) : (x.vw r v).roleTo = x.roleTo := rfl
@[simp] theorem Tile.vw_loadFor (x : Tile) (r : Nat) (v : Row) : (x.vw r v).loadFor = x.loadFor := rfl
@[simp] theorem Tile.vw_replaces (x : Tile) (r : Nat) (v : Row) : (x.vw r v).replaces = x.replaces := rfl
@[simp] theorem Tile.vw_service (x : Tile) (r : Nat) (v : Row) : (x.vw r v).service = x.service := rfl
@[simp] theorem Tile.vw_items (x : Tile) (r : Nat) (v : Row) : (x.vw r v).items = x.items := rfl
@[simp] theorem Tile.vw_rowErrs (x : Tile) (r : Nat) (v : Row) : (x.vw r v).rowErrs = x.rowErrs := rfl
@[simp] theorem Tile.vw_rowBad (x : Tile) (r : Nat) (v : Row) : (x.vw r v).rowBad = x.rowBad := rfl
@[simp] theorem Tile.vw_demandDuty (x : Tile) (r : Nat) (v : Row) : (x.vw r v).demandDuty = x.demandDuty := rfl
@[simp] theorem Tile.vw_duty (x : Tile) (r : Nat) (v : Row) : (x.vw r v).duty = x.duty := rfl
@[simp] theorem Tile.vw_pace (x : Tile) (r : Nat) (v : Row) : (x.vw r v).pace = x.pace := rfl
@[simp] theorem Tile.vw_flaws (x : Tile) (r : Nat) (v : Row) : (x.vw r v).flaws = x.flaws := rfl
@[simp] theorem Tile.vw_guardHeld (x : Tile) (r : Nat) (v : Row) : (x.vw r v).guardHeld = x.guardHeld := rfl
@[simp] theorem Tile.vw_sparing (x : Tile) (r : Nat) (v : Row) : (x.vw r v).sparing = x.sparing := rfl
@[simp] theorem Tile.vw_untested (x : Tile) (r : Nat) (v : Row) : (x.vw r v).untested = x.untested := rfl
@[simp] theorem Tile.vw_drainTo (x : Tile) (r : Nat) (v : Row) : (x.vw r v).drainTo = x.drainTo := rfl
@[simp] theorem Tile.vw_dirtyJob (x : Tile) (r : Nat) (v : Row) : (x.vw r v).dirtyJob = x.dirtyJob := rfl

/-! ### Tile.aw -/

@[simp] theorem Tile.aw_x (x : Tile) (r : Nat) (v : Row) : (x.aw r v).x = x.x := rfl
@[simp] theorem Tile.aw_v (x : Tile) (r : Nat) (v : Row) : (x.aw r v).v = x.v := rfl
@[simp] theorem Tile.aw_capB (x : Tile) (r : Nat) (v : Row) : (x.aw r v).capB = x.capB := rfl
@[simp] theorem Tile.aw_pc (x : Tile) (r : Nat) (v : Row) : (x.aw r v).pc = x.pc := rfl
@[simp] theorem Tile.aw_code (x : Tile) (r : Nat) (v : Row) : (x.aw r v).code = x.code := rfl
@[simp] theorem Tile.aw_codeLen (x : Tile) (r : Nat) (v : Row) : (x.aw r v).codeLen = x.codeLen := rfl
@[simp] theorem Tile.aw_rows (x : Tile) (r : Nat) (v : Row) : (x.aw r v).rows = x.rows := rfl
@[simp] theorem Tile.aw_remap (x : Tile) (r : Nat) (v : Row) : (x.aw r v).remap = x.remap := rfl
@[simp] theorem Tile.aw_handles (x : Tile) (r : Nat) (v : Row) : (x.aw r v).handles = x.handles := rfl
@[simp] theorem Tile.aw_slots (x : Tile) (r : Nat) (v : Row) : (x.aw r v).slots = x.slots := rfl
@[simp] theorem Tile.aw_vendor (x : Tile) (r : Nat) (v : Row) : (x.aw r v).vendor = x.vendor := rfl
@[simp] theorem Tile.aw_ordinal (x : Tile) (r : Nat) (v : Row) : (x.aw r v).ordinal = x.ordinal := rfl
@[simp] theorem Tile.aw_job (x : Tile) (r : Nat) (v : Row) : (x.aw r v).job = x.job := rfl
@[simp] theorem Tile.aw_image (x : Tile) (r : Nat) (v : Row) : (x.aw r v).image = x.image := rfl
@[simp] theorem Tile.aw_groveSize (x : Tile) (r : Nat) (v : Row) : (x.aw r v).groveSize = x.groveSize := rfl
@[simp] theorem Tile.aw_trap (x : Tile) (r : Nat) (v : Row) : (x.aw r v).trap = x.trap := rfl
@[simp] theorem Tile.aw_stall (x : Tile) (r : Nat) (v : Row) : (x.aw r v).stall = x.stall := rfl
@[simp] theorem Tile.aw_paused (x : Tile) (r : Nat) (v : Row) : (x.aw r v).paused = x.paused := rfl
@[simp] theorem Tile.aw_held (x : Tile) (r : Nat) (v : Row) : (x.aw r v).held = x.held := rfl
@[simp] theorem Tile.aw_backlog (x : Tile) (r : Nat) (v : Row) : (x.aw r v).backlog = x.backlog := rfl
@[simp] theorem Tile.aw_admitted (x : Tile) (r : Nat) (v : Row) : (x.aw r v).admitted = x.admitted := rfl
@[simp] theorem Tile.aw_inflight (x : Tile) (r : Nat) (v : Row) : (x.aw r v).inflight = x.inflight := rfl
@[simp] theorem Tile.aw_cache (x : Tile) (r : Nat) (v : Row) : (x.aw r v).cache = x.cache := rfl
@[simp] theorem Tile.aw_roleTo (x : Tile) (r : Nat) (v : Row) : (x.aw r v).roleTo = x.roleTo := rfl
@[simp] theorem Tile.aw_loadFor (x : Tile) (r : Nat) (v : Row) : (x.aw r v).loadFor = x.loadFor := rfl
@[simp] theorem Tile.aw_replaces (x : Tile) (r : Nat) (v : Row) : (x.aw r v).replaces = x.replaces := rfl
@[simp] theorem Tile.aw_service (x : Tile) (r : Nat) (v : Row) : (x.aw r v).service = x.service := rfl
@[simp] theorem Tile.aw_items (x : Tile) (r : Nat) (v : Row) : (x.aw r v).items = x.items := rfl
@[simp] theorem Tile.aw_rowErrs (x : Tile) (r : Nat) (v : Row) : (x.aw r v).rowErrs = x.rowErrs := rfl
@[simp] theorem Tile.aw_rowBad (x : Tile) (r : Nat) (v : Row) : (x.aw r v).rowBad = x.rowBad := rfl
@[simp] theorem Tile.aw_demandDuty (x : Tile) (r : Nat) (v : Row) : (x.aw r v).demandDuty = x.demandDuty := rfl
@[simp] theorem Tile.aw_duty (x : Tile) (r : Nat) (v : Row) : (x.aw r v).duty = x.duty := rfl
@[simp] theorem Tile.aw_pace (x : Tile) (r : Nat) (v : Row) : (x.aw r v).pace = x.pace := rfl
@[simp] theorem Tile.aw_flaws (x : Tile) (r : Nat) (v : Row) : (x.aw r v).flaws = x.flaws := rfl
@[simp] theorem Tile.aw_guardHeld (x : Tile) (r : Nat) (v : Row) : (x.aw r v).guardHeld = x.guardHeld := rfl
@[simp] theorem Tile.aw_sparing (x : Tile) (r : Nat) (v : Row) : (x.aw r v).sparing = x.sparing := rfl
@[simp] theorem Tile.aw_untested (x : Tile) (r : Nat) (v : Row) : (x.aw r v).untested = x.untested := rfl
@[simp] theorem Tile.aw_drainTo (x : Tile) (r : Nat) (v : Row) : (x.aw r v).drainTo = x.drainTo := rfl
@[simp] theorem Tile.aw_dirtyJob (x : Tile) (r : Nat) (v : Row) : (x.aw r v).dirtyJob = x.dirtyJob := rfl

/-! ### Tile.setPhysRow -/

@[simp] theorem Tile.setPhysRow_x (x : Tile) (b r : Nat) (v : Row) : (x.setPhysRow b r v).x = x.x := rfl
@[simp] theorem Tile.setPhysRow_v (x : Tile) (b r : Nat) (v : Row) : (x.setPhysRow b r v).v = x.v := rfl
@[simp] theorem Tile.setPhysRow_acc (x : Tile) (b r : Nat) (v : Row) : (x.setPhysRow b r v).acc = x.acc := rfl
@[simp] theorem Tile.setPhysRow_capB (x : Tile) (b r : Nat) (v : Row) : (x.setPhysRow b r v).capB = x.capB := rfl
@[simp] theorem Tile.setPhysRow_pc (x : Tile) (b r : Nat) (v : Row) : (x.setPhysRow b r v).pc = x.pc := rfl
@[simp] theorem Tile.setPhysRow_code (x : Tile) (b r : Nat) (v : Row) : (x.setPhysRow b r v).code = x.code := rfl
@[simp] theorem Tile.setPhysRow_codeLen (x : Tile) (b r : Nat) (v : Row) : (x.setPhysRow b r v).codeLen = x.codeLen := rfl
@[simp] theorem Tile.setPhysRow_remap (x : Tile) (b r : Nat) (v : Row) : (x.setPhysRow b r v).remap = x.remap := rfl
@[simp] theorem Tile.setPhysRow_handles (x : Tile) (b r : Nat) (v : Row) : (x.setPhysRow b r v).handles = x.handles := rfl
@[simp] theorem Tile.setPhysRow_slots (x : Tile) (b r : Nat) (v : Row) : (x.setPhysRow b r v).slots = x.slots := rfl
@[simp] theorem Tile.setPhysRow_vendor (x : Tile) (b r : Nat) (v : Row) : (x.setPhysRow b r v).vendor = x.vendor := rfl
@[simp] theorem Tile.setPhysRow_ordinal (x : Tile) (b r : Nat) (v : Row) : (x.setPhysRow b r v).ordinal = x.ordinal := rfl
@[simp] theorem Tile.setPhysRow_job (x : Tile) (b r : Nat) (v : Row) : (x.setPhysRow b r v).job = x.job := rfl
@[simp] theorem Tile.setPhysRow_image (x : Tile) (b r : Nat) (v : Row) : (x.setPhysRow b r v).image = x.image := rfl
@[simp] theorem Tile.setPhysRow_groveSize (x : Tile) (b r : Nat) (v : Row) : (x.setPhysRow b r v).groveSize = x.groveSize := rfl
@[simp] theorem Tile.setPhysRow_trap (x : Tile) (b r : Nat) (v : Row) : (x.setPhysRow b r v).trap = x.trap := rfl
@[simp] theorem Tile.setPhysRow_stall (x : Tile) (b r : Nat) (v : Row) : (x.setPhysRow b r v).stall = x.stall := rfl
@[simp] theorem Tile.setPhysRow_paused (x : Tile) (b r : Nat) (v : Row) : (x.setPhysRow b r v).paused = x.paused := rfl
@[simp] theorem Tile.setPhysRow_held (x : Tile) (b r : Nat) (v : Row) : (x.setPhysRow b r v).held = x.held := rfl
@[simp] theorem Tile.setPhysRow_backlog (x : Tile) (b r : Nat) (v : Row) : (x.setPhysRow b r v).backlog = x.backlog := rfl
@[simp] theorem Tile.setPhysRow_admitted (x : Tile) (b r : Nat) (v : Row) : (x.setPhysRow b r v).admitted = x.admitted := rfl
@[simp] theorem Tile.setPhysRow_inflight (x : Tile) (b r : Nat) (v : Row) : (x.setPhysRow b r v).inflight = x.inflight := rfl
@[simp] theorem Tile.setPhysRow_cache (x : Tile) (b r : Nat) (v : Row) : (x.setPhysRow b r v).cache = x.cache := rfl
@[simp] theorem Tile.setPhysRow_roleTo (x : Tile) (b r : Nat) (v : Row) : (x.setPhysRow b r v).roleTo = x.roleTo := rfl
@[simp] theorem Tile.setPhysRow_loadFor (x : Tile) (b r : Nat) (v : Row) : (x.setPhysRow b r v).loadFor = x.loadFor := rfl
@[simp] theorem Tile.setPhysRow_replaces (x : Tile) (b r : Nat) (v : Row) : (x.setPhysRow b r v).replaces = x.replaces := rfl
@[simp] theorem Tile.setPhysRow_service (x : Tile) (b r : Nat) (v : Row) : (x.setPhysRow b r v).service = x.service := rfl
@[simp] theorem Tile.setPhysRow_items (x : Tile) (b r : Nat) (v : Row) : (x.setPhysRow b r v).items = x.items := rfl
@[simp] theorem Tile.setPhysRow_rowErrs (x : Tile) (b r : Nat) (v : Row) : (x.setPhysRow b r v).rowErrs = x.rowErrs := rfl
@[simp] theorem Tile.setPhysRow_rowBad (x : Tile) (b r : Nat) (v : Row) : (x.setPhysRow b r v).rowBad = x.rowBad := rfl
@[simp] theorem Tile.setPhysRow_demandDuty (x : Tile) (b r : Nat) (v : Row) : (x.setPhysRow b r v).demandDuty = x.demandDuty := rfl
@[simp] theorem Tile.setPhysRow_duty (x : Tile) (b r : Nat) (v : Row) : (x.setPhysRow b r v).duty = x.duty := rfl
@[simp] theorem Tile.setPhysRow_pace (x : Tile) (b r : Nat) (v : Row) : (x.setPhysRow b r v).pace = x.pace := rfl
@[simp] theorem Tile.setPhysRow_guardHeld (x : Tile) (b r : Nat) (v : Row) : (x.setPhysRow b r v).guardHeld = x.guardHeld := rfl
@[simp] theorem Tile.setPhysRow_sparing (x : Tile) (b r : Nat) (v : Row) : (x.setPhysRow b r v).sparing = x.sparing := rfl
@[simp] theorem Tile.setPhysRow_untested (x : Tile) (b r : Nat) (v : Row) : (x.setPhysRow b r v).untested = x.untested := rfl
@[simp] theorem Tile.setPhysRow_drainTo (x : Tile) (b r : Nat) (v : Row) : (x.setPhysRow b r v).drainTo = x.drainTo := rfl
@[simp] theorem Tile.setPhysRow_dirtyJob (x : Tile) (b r : Nat) (v : Row) : (x.setPhysRow b r v).dirtyJob = x.dirtyJob := rfl

/-! ### Tile.xw -/

@[simp] theorem Tile.xw_v (x : Tile) (r : BitVec 5) (v : U64) : (x.xw r v).v = x.v := by unfold Tile.xw; split <;> rfl
@[simp] theorem Tile.xw_acc (x : Tile) (r : BitVec 5) (v : U64) : (x.xw r v).acc = x.acc := by unfold Tile.xw; split <;> rfl
@[simp] theorem Tile.xw_capB (x : Tile) (r : BitVec 5) (v : U64) : (x.xw r v).capB = x.capB := by unfold Tile.xw; split <;> rfl
@[simp] theorem Tile.xw_pc (x : Tile) (r : BitVec 5) (v : U64) : (x.xw r v).pc = x.pc := by unfold Tile.xw; split <;> rfl
@[simp] theorem Tile.xw_code (x : Tile) (r : BitVec 5) (v : U64) : (x.xw r v).code = x.code := by unfold Tile.xw; split <;> rfl
@[simp] theorem Tile.xw_codeLen (x : Tile) (r : BitVec 5) (v : U64) : (x.xw r v).codeLen = x.codeLen := by unfold Tile.xw; split <;> rfl
@[simp] theorem Tile.xw_rows (x : Tile) (r : BitVec 5) (v : U64) : (x.xw r v).rows = x.rows := by unfold Tile.xw; split <;> rfl
@[simp] theorem Tile.xw_remap (x : Tile) (r : BitVec 5) (v : U64) : (x.xw r v).remap = x.remap := by unfold Tile.xw; split <;> rfl
@[simp] theorem Tile.xw_handles (x : Tile) (r : BitVec 5) (v : U64) : (x.xw r v).handles = x.handles := by unfold Tile.xw; split <;> rfl
@[simp] theorem Tile.xw_slots (x : Tile) (r : BitVec 5) (v : U64) : (x.xw r v).slots = x.slots := by unfold Tile.xw; split <;> rfl
@[simp] theorem Tile.xw_vendor (x : Tile) (r : BitVec 5) (v : U64) : (x.xw r v).vendor = x.vendor := by unfold Tile.xw; split <;> rfl
@[simp] theorem Tile.xw_ordinal (x : Tile) (r : BitVec 5) (v : U64) : (x.xw r v).ordinal = x.ordinal := by unfold Tile.xw; split <;> rfl
@[simp] theorem Tile.xw_job (x : Tile) (r : BitVec 5) (v : U64) : (x.xw r v).job = x.job := by unfold Tile.xw; split <;> rfl
@[simp] theorem Tile.xw_image (x : Tile) (r : BitVec 5) (v : U64) : (x.xw r v).image = x.image := by unfold Tile.xw; split <;> rfl
@[simp] theorem Tile.xw_groveSize (x : Tile) (r : BitVec 5) (v : U64) : (x.xw r v).groveSize = x.groveSize := by unfold Tile.xw; split <;> rfl
@[simp] theorem Tile.xw_trap (x : Tile) (r : BitVec 5) (v : U64) : (x.xw r v).trap = x.trap := by unfold Tile.xw; split <;> rfl
@[simp] theorem Tile.xw_stall (x : Tile) (r : BitVec 5) (v : U64) : (x.xw r v).stall = x.stall := by unfold Tile.xw; split <;> rfl
@[simp] theorem Tile.xw_paused (x : Tile) (r : BitVec 5) (v : U64) : (x.xw r v).paused = x.paused := by unfold Tile.xw; split <;> rfl
@[simp] theorem Tile.xw_held (x : Tile) (r : BitVec 5) (v : U64) : (x.xw r v).held = x.held := by unfold Tile.xw; split <;> rfl
@[simp] theorem Tile.xw_backlog (x : Tile) (r : BitVec 5) (v : U64) : (x.xw r v).backlog = x.backlog := by unfold Tile.xw; split <;> rfl
@[simp] theorem Tile.xw_admitted (x : Tile) (r : BitVec 5) (v : U64) : (x.xw r v).admitted = x.admitted := by unfold Tile.xw; split <;> rfl
@[simp] theorem Tile.xw_inflight (x : Tile) (r : BitVec 5) (v : U64) : (x.xw r v).inflight = x.inflight := by unfold Tile.xw; split <;> rfl
@[simp] theorem Tile.xw_cache (x : Tile) (r : BitVec 5) (v : U64) : (x.xw r v).cache = x.cache := by unfold Tile.xw; split <;> rfl
@[simp] theorem Tile.xw_roleTo (x : Tile) (r : BitVec 5) (v : U64) : (x.xw r v).roleTo = x.roleTo := by unfold Tile.xw; split <;> rfl
@[simp] theorem Tile.xw_loadFor (x : Tile) (r : BitVec 5) (v : U64) : (x.xw r v).loadFor = x.loadFor := by unfold Tile.xw; split <;> rfl
@[simp] theorem Tile.xw_replaces (x : Tile) (r : BitVec 5) (v : U64) : (x.xw r v).replaces = x.replaces := by unfold Tile.xw; split <;> rfl
@[simp] theorem Tile.xw_service (x : Tile) (r : BitVec 5) (v : U64) : (x.xw r v).service = x.service := by unfold Tile.xw; split <;> rfl
@[simp] theorem Tile.xw_items (x : Tile) (r : BitVec 5) (v : U64) : (x.xw r v).items = x.items := by unfold Tile.xw; split <;> rfl
@[simp] theorem Tile.xw_rowErrs (x : Tile) (r : BitVec 5) (v : U64) : (x.xw r v).rowErrs = x.rowErrs := by unfold Tile.xw; split <;> rfl
@[simp] theorem Tile.xw_rowBad (x : Tile) (r : BitVec 5) (v : U64) : (x.xw r v).rowBad = x.rowBad := by unfold Tile.xw; split <;> rfl
@[simp] theorem Tile.xw_demandDuty (x : Tile) (r : BitVec 5) (v : U64) : (x.xw r v).demandDuty = x.demandDuty := by unfold Tile.xw; split <;> rfl
@[simp] theorem Tile.xw_duty (x : Tile) (r : BitVec 5) (v : U64) : (x.xw r v).duty = x.duty := by unfold Tile.xw; split <;> rfl
@[simp] theorem Tile.xw_pace (x : Tile) (r : BitVec 5) (v : U64) : (x.xw r v).pace = x.pace := by unfold Tile.xw; split <;> rfl
@[simp] theorem Tile.xw_flaws (x : Tile) (r : BitVec 5) (v : U64) : (x.xw r v).flaws = x.flaws := by unfold Tile.xw; split <;> rfl
@[simp] theorem Tile.xw_guardHeld (x : Tile) (r : BitVec 5) (v : U64) : (x.xw r v).guardHeld = x.guardHeld := by unfold Tile.xw; split <;> rfl
@[simp] theorem Tile.xw_sparing (x : Tile) (r : BitVec 5) (v : U64) : (x.xw r v).sparing = x.sparing := by unfold Tile.xw; split <;> rfl
@[simp] theorem Tile.xw_untested (x : Tile) (r : BitVec 5) (v : U64) : (x.xw r v).untested = x.untested := by unfold Tile.xw; split <;> rfl
@[simp] theorem Tile.xw_drainTo (x : Tile) (r : BitVec 5) (v : U64) : (x.xw r v).drainTo = x.drainTo := by unfold Tile.xw; split <;> rfl
@[simp] theorem Tile.xw_dirtyJob (x : Tile) (r : BitVec 5) (v : U64) : (x.xw r v).dirtyJob = x.dirtyJob := by unfold Tile.xw; split <;> rfl

end Sys2Proof.Machine
end

