-- ==== Sys2Proof/Tests/Slice0.lean ====
section
/-! SUPPORT. Small tests: terms that WellFormed refuses, results worked out from the manual, and, for each statement with hypotheses, a
state that meets them. -/

namespace Sys2Proof.Machine

set_option Elab.async false

/-! ## Well-formed commands -/

theorem test_wf_refuses_tile_bank_ring : ([.ld 136 {} {}, .bankGate 0 16, .bankDrain 136 0, .sqEnable .host 64 0, .fill 65 {},
    .fill 0 { cells := [(2 ^ 64, 0)] }, .liveRemap 0 64, .liveRemapResume 0 0 512, .tileRowSpare 0 0 512, .tileRetire 0 4] : List Instr).all
    (fun i => !i.wf) = true := by decide +kernel

theorem test_wf_refuses_ranges : ([.registerWrite .host 0 3 0, .tsqInfoRead .host 5, .loopClose .host 16, .pinZero .host 8, .throttleStep 16,
    .pageMove noPage true, .walkerMissReturn 4096 0 false, .pageCopyDone 4096, .ddrRefresh 4, .canopyScrub 32 .clean, .ddrRowSpare 0 8 0,
    .ddrRowSpare 0 0 131064, .loopTimer 16, .adcConversionDone 8 0] : List Instr).all (fun i => !i.wf) = true := by decide +kernel

theorem test_wf_refuses_ports : ([.fifoTake 9 0 0, .frameLaunch 4, .canFrameTx 0 16, .canFrameRx 2 0 0 [], .linkTrained 2, .ringDiscover 8 false,
    .trialConfirm 0, .trialConfirm 6, .sensorSample 32 0, .streamRecoveryReset 16, .msixUnmask .host 64] : List Instr).all
    (fun i => !i.wf) = true := by decide +kernel

/-- Words that LOAD_IMAGE refuses: x register fields that must be 0, and a row pattern outside the vector registers (R162). -/
theorem test_wf_refuses_words : ([.lih 0 { rb := 1 }, .nop 0 { rd := 1 }, .accz 0 { rd := 8 }, .rdblk 0 { ext := 3 }] : List Instr).all
    (fun i => !i.wf) = true := by decide +kernel

theorem test_wf_accepts : ([.add 135 false { rd := 31, ra := 31, rb := 31 }, .add 0 true { ext := 0xFFFFFFFF }, .fill 64 { cells := [(2 ^ 64 - 1, 0)] },
    .sensorSample 31 0, .registerWrite .host 3 1 0, .ddrRowSpare 3 7 131063] : List Instr).all (·.wf) = true := by decide +kernel

/-! ## Tile instructions: states -/

/-- Tile 0 runs, with one instruction as its code. -/
def onTile (cls op : Nat) (f : Fields) (x : Tile) (regs : Bank) : State :=
  { dev := { regs := regs ++ [(0x40008, 2)], tiles := [(0, { x with code := [(0, instrWord cls op f)], codeLen := 1 })] } }

/-- A writable local handle of 512 rows in bank 0, open to transfers. -/
def localHandle : BitVec 128 := 0x2000071

/-- The same, with slots of one row from slot 0 (R110, R123). -/
def guardedHandle : BitVec 128 := 0x2000073

/-- Every class and operation with its role word issues (R158, R159). -/
theorem test_issues : ([0x0, 0x1, 0x2, 0x3, 0x4, 0x5, 0x6, 0x7, 0x8, 0x9, 0xA].all fun cls => (List.range 256).all fun op =>
    (opRule cls op).isNone || (atIssue (onTile cls op { rd := 31 } {} [(0x40004, if cls = 0x9 then 2 else 3)]).dev 0
      (instrWord cls op { rd := 31 }) && classRole (onTile cls op { rd := 31 } {} [(0x40004, if cls = 0x9 then 2 else 3)]).dev 0 cls)) =
    true := by decide +kernel

/-! ## Tile instructions: results -/

/-- What scalar register 3 holds after the instruction at the program counter of tile 0. -/
def x3 (o : Out) : U64 := match o with
  | .next u => (u.dev.tile 0).xr 3
  | _ => 0

/-- x1 and x2, and an instruction from them to x3. -/
def ops (op : Nat) (a b : U64) : State := onTile 0 op { rd := 3, ra := 1, rb := 2 } { x := [(1, a), (2, b)] } []

/-- R95: arithmetic wraps; shifts take six bits; division by 0 gives all ones, the remainder the dividend. -/
theorem test_add_wraps : x3 (exec (.add 0 false { rd := 3, ra := 1, rb := 2 }) (ops 0x00 (BitVec.allOnes 64) 2)) = 1 := by decide +kernel
theorem test_sra_sign : x3 (exec (.sra 0 false { rd := 3, ra := 1, rb := 2 }) (ops 0x07 (2 ^ 63) 67)) = 0xF000000000000000 := by decide +kernel
theorem test_mulh_sign : x3 (exec (.mulh 0 false { rd := 3, ra := 1, rb := 2 }) (ops 0x0B (BitVec.allOnes 64) 3)) = BitVec.allOnes 64 := by
  decide +kernel
theorem test_mulhu : x3 (exec (.mulhu 0 false { rd := 3, ra := 1, rb := 2 }) (ops 0x0C (BitVec.allOnes 64) 3)) = 2 := by decide +kernel
theorem test_div_zero : x3 (exec (.div 0 false { rd := 3, ra := 1, rb := 2 }) (ops 0x0D 7 0)) = BitVec.allOnes 64 := by decide +kernel
theorem test_rem_truncates : x3 (exec (.rem 0 false { rd := 3, ra := 1, rb := 2 }) (ops 0x0F (-7) 2)) = -1 := by decide +kernel
theorem test_slt_sign : x3 (exec (.slt 0 false { rd := 3, ra := 1, rb := 2 }) (ops 0x08 (-1) 0)) = 1 := by decide +kernel

/-- R154: x0 reads 0 and discards a write. -/
theorem test_x0_discards : (({} : Tile).xw 0 5).xr 0 = 0 ∧ ((({} : Tile).xw 31 5).xr 31 = 5) := by decide +kernel

/-- R94: an immediate is sign extended. -/
theorem test_addi_sign : x3 (exec (.add 0 true { rd := 3, ra := 1, ext := 0xFFFFFFFF })
    (onTile 0 0x80 { rd := 3, ra := 1, ext := 0xFFFFFFFF } { x := [(1, 1)] } [])) = 0 := by decide +kernel

/-- R74: 1.5 + 2.25 = 3.75; R77: the smaller of −0 and +0 is −0. -/
theorem test_fadds : x3 (exec (.faddS 0 { rd := 3, ra := 1, rb := 2 }) (ops 0x20 0x3FC00000 0x40100000)) = 0x40700000 := by decide +kernel
theorem test_fmins_zero : x3 (exec (.fminS 0 { rd := 3, ra := 1, rb := 2 }) (ops 0x26 0x00000000 0x80000000)) = 0x80000000 := by decide +kernel

/-- R165: a taken branch of EXT = 2 goes on 16 bytes further; not taken, 8. -/
theorem test_beq : ([0x00, 0x01].map fun op => match exec (if op = 0 then .beq 0 { ext := 2 } else .bne 0 { ext := 2 }) (onTile 1 op { ext := 2 } {} []) with
    | .next u => (u.dev.tile 0).pc
    | _ => 0) = [16, 8] := by decide +kernel

/-- R158: the word of ADD x3, x1, x2 bit by bit: class 0 in [63:60], operation 0x00 in [59:52], RD 3 in [51:47], RA 1 in [46:42], RB 2 in
[41:37], RC 0 in [36:32], EXT 0. -/
theorem test_word_add : wordFields 0x0001844000000000 = (0x0, 0x00, { rd := 3, ra := 1, rb := 2 }) := by decide +kernel

/-! ## Tile instructions: states that meet the hypotheses of the statements -/

theorem test_hyp_ScalarRegisterReads : Issues (onTile 0x8 0x05 { ext := 2 } {} []) 0 0x8 0x05 { ext := 2 } ∧ ({ ext := 2 } : Fields).e 1 0 ≠ 3 := by
  unfold Issues; decide +kernel

theorem test_hyp_ScalarFloatResults : efmtOf (({ ext := 0x10 } : Fields).e 3 0) = some (.fl fp64) ∧
    efmtOf (({ ext := 0x10 } : Fields).e 7 4) = some (.fl fp32) ∧ (fcvtRes (.fl fp64) (.fl fp32) 0).isSome = true ∧
    Issues (onTile 0x0 0x40 { ext := 0x10 } {} []) 0 0x0 0x40 { ext := 0x10 } := by unfold Issues; decide +kernel

/-- JR to the last instruction of the code. -/
theorem test_hyp_BranchResults : Issues (onTile 0x1 0x09 { ra := 1 } {} []) 0 0x1 0x09 { ra := 1 } ∧
    ((onTile 0x1 0x09 { ra := 1 } {} []).dev.tile 0).xr 1 = 0 ∧ 0 / 8 < ((onTile 0x1 0x09 { ra := 1 } {} []).dev.tile 0).codeLen := by
  unfold Issues; decide +kernel

/-- An operation in flight, for END and EBAR. -/
def oneInFlight : Tile := { inflight := [⟨0, none⟩] }

theorem test_hyp_EndAndSync : Issues (onTile 0x1 0x0F {} {} []) 0 0x1 0x0F {} ∧ Issues (onTile 0x1 0x0F {} oneInFlight []) 0 0x1 0x0F {} ∧
    Issues (onTile 0x7 0x02 {} oneInFlight []) 0 0x7 0x02 {} ∧ oneInFlight.inflight ≠ [] ∧ oneInFlight.trap = none := by
  unfold Issues; decide +kernel

/-- WAITA: the counter equals its target, and falls one short of it. -/
theorem test_hyp_Waita : Issues (onTile 0x7 0x00 { ra := 1 } { x := [(1, 1)] } []) 0 0x7 0x00 { ra := 1 } ∧
    replayedOn (onTile 0x7 0x00 { ra := 1 } { x := [(1, 1)] } []).dev 0 = none ∧
    2 ^ 31 ≤ (arrivalCount (onTile 0x7 0x00 { ra := 1 } { x := [(1, 1)] } []).dev 0 0 - 1).toNat ∧
    (arrivalCount (onTile 0x7 0x00 { ra := 1 } {} []).dev 0 0 - 0).toNat < 2 ^ 31 := by
  unfold Issues; decide +kernel

theorem test_hyp_WaitTimeout : let s := onTile 0 0 {} { stall := some (.arrival 0 1 1 3) } []
    (s.dev.tile 0).stall = some (.arrival 0 1 1 3) ∧ s.dev.fld tileStateState 0 = tsRunning ∧ replayedOn s.dev 0 = none := by decide +kernel

/-- VDOT of FP16 and FP16 with K = 1, and of blocked FP8 with K = 32; VCVT of FP32 to FP16. -/
theorem test_hyp_VectorReductions : dotMode (.fl fp16) (.fl fp16) false false = some .half ∧ 1 ≤ ({ ext := 0x122 } : Fields).e 17 8 ∧
    Issues (onTile 0x3 0x22 { ext := 0x122 } {} []) 0 0x3 0x22 { ext := 0x122 } ∧
    (dotMode (.fl f8e4) (.fl f8e4) true true).isSome = true ∧ ({ ext := 0x182044 } : Fields).e 17 8 % 32 = 0 ∧
    (vcvtElem (.fl fp32) (.fl fp16) 0).isSome = true := by unfold Issues; decide +kernel

/-- CVTB from FP32 to FP8 at the last block position, and DCVB back. -/
theorem test_hyp_BlockConversion : let f : Fields := { ext := 0x41 + 2 ^ 13 * 12 + 2 ^ 19 * 508, rd := 31 }
    efmtOf (f.e 3 0) = some (.fl fp32) ∧ efmtOf (f.e 7 4) = some (.fl f8e4) ∧ isLong fp32 = true ∧ isShort f8e4 = true ∧
    f.e 18 13 + 4 ≤ blockLimit f8e4.width ∧ f.rd.toNat + packedRegs f8e4.width ≤ 32 ∧ f.e 27 19 + 4 = 512 ∧
    Issues (onTile 0x4 0x00 f {} []) 0 0x4 0x00 f := by unfold Issues; decide +kernel

/-- A tile whose handle 0 is local, writable and 512 rows long; x1 holds `v`. -/
def rowTile (v : U64) : Tile := { handles := [(0, localHandle)], x := [(1, v)] }

/-- FP8 times FP8 with K = 1. -/
theorem test_hyp_Mma : let f : Fields := { rd := 7, rc := 1, ext := 2 ^ 10 * 4 + 2 ^ 6 * 4 }
    let s := onTile 0x5 0x00 f (rowTile 1) []
    efmtOf (mmaMode f.mode).fmtA = some (.fl f8e4) ∧ efmtOf (mmaMode f.mode).fmtB = some (.fl f8e4) ∧
    dotMode (.fl f8e4) (.fl f8e4) (mmaMode f.mode).scaleA (mmaMode f.mode).scaleB = some .eight ∧ (mmaMode f.mode).pass = 0 ∧
    RowsReady s.dev 0 (mmaReqs f (mmaMode f.mode) (.fl f8e4) (.fl f8e4) 0 0 0) ∧
    ReadsSound s.dev 0 (mmaReqs f (mmaMode f.mode) (.fl f8e4) (.fl f8e4) 0 0 0) {} ∧ Issues s 0 0x5 0x00 f := by
  unfold Issues RowsReady ReadsSound; decide +kernel

/-- RICF and RICS of order 64, factor over block. -/
theorem test_hyp_Riccati : let f : Fields := { rb := 1, ext := 63 + 128 }
    let s := onTile 0x9 0x00 f (rowTile 64) [(0x40004, 2)]
    RowsReady s.dev 0 [⟨0, (upto 64).map (0 + ·), false⟩, ⟨0, (upto 64).map (64 + ·), true⟩] ∧
    ReadsSound s.dev 0 [⟨0, (upto 64).map (0 + ·), false⟩, ⟨0, (upto 64).map (64 + ·), true⟩] {} ∧ Issues s 0 0x9 0x00 f ∧
    (let u := onTile 0x9 0x01 f (rowTile 64) [(0x40004, 2)]
     let reqs : List RowReq := [⟨0, (upto 64).map (0 + ·), false⟩, ⟨0, [64], false⟩]
     RowsReady u.dev 0 reqs ∧ ReadsSound u.dev 0 reqs {} ∧ Issues u 0 0x9 0x01 f ∧
      reqLegal (marked u.dev 0 reqs {}) 0 ⟨0, [64], true⟩ = true) := by unfold Issues RowsReady ReadsSound; decide +kernel

/-- Loads and stores of the last row of a handle; a load of eight rows; a strided load of sixteen; CWB. -/
theorem test_hyp_RowLoadStore : (let s := onTile 0x2 0x01 { ra := 1 } (rowTile 511) [];
      Issues s 0 0x2 0x01 { ra := 1 } ∧ RowsReady s.dev 0 [⟨0, [511], true⟩]) ∧
    (let s := onTile 0x2 0x04 { ra := 1, rd := 7 } (rowTile 511) [];
      Issues s 0 0x2 0x04 { ra := 1, rd := 7 } ∧ RowsReady s.dev 0 [⟨0, [511], false⟩] ∧ ReadsSound s.dev 0 [⟨0, [511], false⟩] { delay := 3 }) ∧
    (let s := onTile 0x2 0x02 { ra := 1, rd := 24 } (rowTile 504) [];
      Issues s 0 0x2 0x02 { ra := 1, rd := 24 } ∧ RowsReady s.dev 0 [⟨0, (upto 8).map (504 + ·), false⟩] ∧
        ReadsSound s.dev 0 [⟨0, (upto 8).map (504 + ·), false⟩] { flaws := [(rowKey 0 504, true)] }) ∧
    (let s := onTile 0x2 0x03 { rb := 1, rd := 16, ext := 60 } (rowTile 34) [];
      Issues s 0 0x2 0x03 { rb := 1, rd := 16, ext := 60 } ∧ RowsReady s.dev 0 [⟨0, (upto 16).map (fun j => 0 + j * 34), false⟩] ∧
        ReadsSound s.dev 0 [⟨0, (upto 16).map (fun j => 0 + j * 34), false⟩] {}) ∧
    (let s := onTile 0x2 0x06 { rb := 1 } (rowTile 512) [];
      Issues s 0 0x2 0x06 { rb := 1 } ∧ ((s.dev.tile 0).hnd 0).valid = true ∧ 0 + 512 ≤ ((s.dev.tile 0).hnd 0).rows ∧ (s.dev.tile 0).flaws = []) := by
  unfold Issues RowsReady ReadsSound; decide +kernel

/-- A store through a local handle goes on, with nothing at the ingress. -/
theorem test_hyp_LocalStoreFrame : let s := onTile 0x2 0x01 { ra := 1 } (rowTile 511) []
    QuietIngress s.dev 0 ∧ ((s.dev.tile 0).hnd 0).kind = 0 ∧
    (∃ u, exec (.st 0 { ra := 1 } {}) s = .next u) := ⟨by unfold QuietIngress; decide +kernel, by decide +kernel, _, rfl⟩

theorem test_hyp_RegisterInstructionFrame : (Instr.add 0 false {}).tileOp = some (0, 0, 0, {}) ∧ QuietIngress (onTile 0 0 {} {} []).dev 0 := by
  unfold QuietIngress; decide +kernel

/-- An instruction whose class the role does not allow; an undefined word; a pending trap; an enabled flag. -/
theorem test_hyp_IllegalAndTraps : (let s := onTile 0x9 0x00 {} {} [];
      atIssue s.dev 0 (instrWord 0x9 0x00 {}) = true ∧ classRole s.dev 0 0x9 = false) ∧
    wordIllegal (onTile 0xF 0x00 {} {} []).dev 0 = true ∧ wordIllegal (onTile 0x0 0x11 {} {} []).dev 0 = true ∧
    (let s := onTile 0 0 {} { trap := some ⟨0, 0, 0, 1, false, false⟩ } [(0x40144, 0x1F)];
      s.dev.fld tileStateState 0 = tsRunning ∧ (s.dev.tile 0).trap ≠ none ∧ s.dev.fld tileFpTrapTrapEn 0 &&& flIV.toNat ≠ 0 ∧
      flIV.toNat < 32) := by decide +kernel

/-- A source row of a SEND, or of a COPYR on its own tile, that is read sound, and one that is not. -/
theorem test_hyp_FabricSources : (let s := onTile 0x6 0 { ra := 2, rb := 2, rc := 2 } (rowTile 0) []
    RowsReady s.dev 0 [⟨0, [0], false⟩] ∧ ReadsSound s.dev 0 [⟨0, [0], false⟩] {} ∧
      ¬ ReadsSound s.dev 0 [⟨0, [0], false⟩] { flaws := [(rowKey 0 0, false)] }) ∧
    (let d : Dev := { tiles := [(0, { handles := [(0, 0x2000075)] })] };
      memLegal d 0 0 511 1 = true ∧ ((d.tile 0).hnd 0).writable = true ∧ (memRowsAt d 0 (memRowAddr d 0 0 511) 1).2 = some [0] ∧
        d.fld tileIdLtile 0 = 0 ∧ (d.setFld tileIdLtile 1 0).fld tileIdLtile 0 ≠ 0) := by
  unfold RowsReady ReadsSound; decide +kernel

/-- Fabric operands: row 0 of logical tile 0, one local row. -/
theorem test_hyp_FabricInstructions : fabAddr 0 = some ⟨0, false, 0⟩ ∧ fabLocal 0 = some (0, 1) ∧ fabAddr 0x100 = some ⟨0, true, 0⟩ ∧
    ([0, 1, 2, 3, 4] : List Nat).all (fun op => let s := onTile 0x6 op { ra := 2, rb := 2, rc := 2 } (rowTile 0) []
      atIssue s.dev 0 (instrWord 0x6 op { ra := 2, rb := 2, rc := 2 }) && reqLegal s.dev 0 ⟨0, [0], false⟩ &&
        decide ((s.dev.tile 0).inflight.length < 16)) = true := by decide +kernel

/-- A write of one row to handle 0. -/
def oneRow (epoch : U16) : TransferHdr := { id := 5, epoch := epoch, handle := 0, row := 0, counter := 0, kind := .rows [0], issuer := some 1 }

/-- A remote read of one row of handle 0, for tile 1. -/
def oneRead : TransferHdr :=
  { id := 6, epoch := 0, handle := 0, row := 0, counter := 0, kind := .remoteRead 1,
    reply := some { image := 1, ltile := 1, handle := 0, row := 0, counter := 0 } }

/-- Headers on the fabric that are admitted, refused as stale, held by a full slot, and put behind four held ones; admitted ones that
land. -/
theorem test_hyp_Transfers : (let d : Dev := { regs := [(0x40010, 1)], fabric := [(0, oneRow 0), (0, oneRow 1)], tiles := [(0, rowTile 0)] };
      d.fld tileStateState 0 ≠ tsRetired ∧ headerVerdict d 0 (oneRow 0) = .admits ∧ (oneRow 1).epoch ≠ d.epoch 0) ∧
    (let d : Dev := { regs := [(0x40010, 1)], fabric := [(0, oneRow 0)],
                      tiles := [(0, { handles := [(0, guardedHandle)], slots := [(0, { full := true })] })] };
      headerVerdict d 0 (oneRow 0) = .hold ∧ slotBlocked (d.tile 0) ((d.tile 0).hnd 0) 0 1 false = true) ∧
    (let x : Tile := { held := List.replicate 4 (oneRow 0), admitted := [oneRow 0, oneRead] };
      4 ≤ x.held.length ∧ x.admitted.find? (fun p => p.id = 5) = some (oneRow 0) ∧ (x.admitted.find? fun p => p.id = 6).isSome = true) ∧
    (let im : Image := { num := 1, tiles := [{ role := 0 }, { role := 0 }], place := [some 0, some 1] };
      let d : Dev := { regs := [(0x40010, 1)], tiles := [(0, { rowTile 0 with admitted := [oneRead] })], images := [im] };
      (d.tile 0).admitted.find? (fun p => p.id = 6) = some oneRead ∧ oneRead.job = none ∧ ((d.tile 0).hnd 0).kind = 0 ∧
        bankOff d 0 ((d.tile 0).hnd 0) 0 1 = false ∧ (d.tile 0).flaws = [] ∧ d.placed 1 1 = some 1) := by
  decide +kernel

/-- Acknowledgements and refusals on their way, arrivals awaited, guarded waits and held headers that reach their limit, a line awaited. -/
theorem test_hyp_FabricReturns : (let d : Dev := { acks := [(0, 5)], refusals := [(0, 5, .roleStale)],
                                                   tiles := [(0, { inflight := [⟨5, some 31⟩], stall := some (.arrival 31 1 0 3) })], regs := [(0x40008, 2)] };
      (0, 5) ∈ d.acks ∧ (0, 5, RefusalStatus.roleStale) ∈ d.refusals ∧ (d.tile 0).inflight.find? (fun o => o.id = 5) = some ⟨5, some 31⟩ ∧
        (BitVec.ofNat 32 (d.fld (tileArrival 31) 0 + 1) - 1).toNat < 2 ^ 31) ∧
    (let x : Tile := { handles := [(0, guardedHandle)], stall := some (.guard [(0, 1, true), (0, 0, false)]), held := [oneRow 0] };
      [(0, 1, true), (0, 0, false)].find? (slotWrong x) = some (0, 0, false) ∧ (∀ w ∈ [(0, 1, true)], slotWrong x w = false) ∧
        x.held.find? (fun p => p.id = 5) = some (oneRow 0) ∧ slotBlocked x (x.hnd 0) 0 1 false = false) ∧
    (let d : Dev := { tiles := [(0, { stall := some (.line 0 0 0) })], regs := [(0x40008, 2)] };
      d.fld tileStateState 0 = tsRunning ∧ (d.setFld tileGuardStatusTimeout 1 0).flag tileGuardStatusTimeout 0 = true ∧
        d.flag tileGuardStatusTimeout 0 = false ∧ (mapGet [] (d.tile 0).cache 0).length < 4 ∧ d.flaws = [] ∧ rowPoisoned d (lineAddr 0 0) = false) := by decide +kernel

/-- A bank on, and one draining with and without an admitted write; a role change that has drained. -/
theorem test_hyp_BankAndRole : (let d : Dev := { regs := [(0x40010, 0x8000FFFF)], tiles := [(0, { handles := [(0, localHandle)], admitted := [oneRow 0] })] };
      bit (d.fld tileBankPwrOn 0) 0 = true ∧ bit (d.fld tileBankPwrDraining 0) 0 = false ∧ bit (d.fld tileBankPwrDraining 0) 15 = true ∧
        (d.tile 0).admitted.any (writesBank (d.tile 0) 15) = false ∧ (d.tile 0).admitted.any (writesBank (d.tile 0) 0) = true) ∧
    (let d : Dev := { regs := [(0x40010, 0xFFFF)], tiles := [(0, { handles := [(0, localHandle)] })] };
      d.fld tileStateState 0 ≠ tsRunning ∧ (d.tile 0).job = none ∧ d.fld tileRoleRole 0 = 0 ∧ bankMapped d 0 1 = false) ∧
    (let d : Dev := { regs := [(0x40004, 4)], tiles := [(0, { roleTo := some 3 })] };
      d.flag tileRoleChanging 0 = true ∧ drainBusy d 0 = false ∧ d.fld tileStateState 0 ≠ tsRetired) := by decide +kernel

/-- A remap to the last base row of a handle of one row; rows with errors, with a spare row left and without. -/
theorem test_hyp_RemapAndSparing : (let x : Tile := { handles := [(0, localHandle)] };
      handleOfRow x 0 511 = some 0 ∧ 0 ∉ x.paused ∧ x.sparing = none ∧ handleOfRow x 1 511 = none ∧
        ({ x with sparing := some (0, 0, 511), paused := [0] } : Tile).sparing = some (0, 0, 511) ∧ (∀ q ∈ x.admitted, q.handle ≠ 0)) ∧
    (let x : Tile := { handles := [(0, 0x10071)], paused := [0] };
      ((upto 64).map x.hnd).length = 64 ∧ basesOk ((upto 64).map x.hnd) (fun k => if k = 0 then 511 else
        (((upto 64).map x.hnd).getD k (hndOf 0)).baseRow) = true ∧ (x.hnd 0).valid = true ∧ (x.hnd 0).kind = 0 ∧ 0 ∈ x.paused ∧ 1 ∉ x.paused) ∧
    (let d : Dev := { regs := [(0x1E000, 1)], tiles := [(135, { rowErrs := [(rowKey 15 511, 3)] })] };
      fwReady d = true ∧ 3 ≤ mapGet 0 (d.tile 135).rowErrs (rowKey 15 ((d.tile 135).prow 15 511)) ∧ d.fld (fldSpare 15) 135 < 16 ∧
        16 ≤ (d.setFld (fldSpare 15) 16 135).fld (fldSpare 15) 135) := by decide +kernel

/-- Regions above, below and within the limits of thermal control. -/
theorem test_hyp_TileService : (let d : Dev := { regs := [(0x1E000, 1)] };
      fwReady d = true ∧ (d.tile 135).service ≠ .retired ∧ d.sfld mgmtTempTemp 15 < 16 * (throttleC d - 3) ∧
        16 * throttleC d < (d.setS mgmtTempTemp (16 * throttleC d + 1) 15).sfld mgmtTempTemp 15 ∧
        (d.setS mgmtTempTemp (16 * throttleC d) 15).sfld mgmtTempTemp 15 = 16 * throttleC d) := by decide +kernel

/-! ## Jobs: states that meet the hypotheses of the statements -/

/-- A module that fetches, with one descriptor in the supervisor queue: its first two words and COUNT. -/
def queued (w0 w1 count : U32) : State :=
  { dev := { regs := [(0xC, 0x10), (0x3004, 1), (0x7000, 1), (0xF024, 1), (0xF400, w0), (0xF404, w1), (0xF438, count)], images := [{ num := 1 }] } }

/-- The descriptor that `queued` holds. -/
def fetched (w0 w1 count : U32) : Desc := parseDesc ((upto 16).flatMap fun i => leBytes 4
  (if i = 0 then w0 else if i = 1 then w1 else if i = 14 then count else 0).toNat)

theorem test_hyp_Fetches : ([(0x31, 0, 64), (0x10, 1, 1), (0xFF, 0, 0)] : List (U32 × U32 × U32)).all (fun e =>
    let d := scanned (queued e.1 e.2.1 e.2.2).dev 64 {}
    decide (nextFetch (placeHost (queued e.1 e.2.1 e.2.2).dev {}) = some 64) && !d.net.stepDue && match descBytes d 64 with
      | .ok l => decide (parseDesc l = fetched e.1 e.2.1 e.2.2)
      | .error _ => false) = true := by decide +kernel

/-- What `Accepted` asks besides the fetch. -/
def acceptedRest (w0 w1 count : U32) : Bool :=
  let x := fetched w0 w1 count
  let d := scanned (queued w0 w1 count).dev 64 {}
  let p := opened (queued w0 w1 count).dev 64 {} x
  !descBad d 64 x && !chainBroken d 64 x && decide (abortedAtFetch p.1 p.2 = none) && !admissionOff p.1 x &&
    !bit x.flags 5 && (match p.1.job p.2 with
      | some y => !y.ring
      | none => true) && decide (x.startCount = 0)

/-- RUN_GRAPH, LOAD_IMAGE (2), UNLOAD_IMAGE, COPY, FILL, FENCE, ABORT, REPLAY_CTL, the Solve family, the Attend family, RECORD_CTL. -/
theorem test_hyp_Accepted : ([(0x01, 1, 0), (0x02, 2, 0), (0x03, 1, 0), (0x10, 1, 1), (0x11, 1, 16384), (0x12, 1, 1), (0x13, 1, 1), (0x20, 0, 0),
    (0x21, 0, 0), (0x22, 0, 0), (0x23, 0, 0), (0x24, 0, 0), (0x30, 0, 64), (0x31, 0, 64), (0x40, 0, 0), (0x41, 0, 0), (0x50, 0, 0), (0x51, 0, 0)] :
    List (U32 × U32 × U32)).all (fun e => acceptedRest e.1 e.2.1 e.2.2) = true := by decide +kernel

/-- RECORD_CTL's action is in its block. -/
theorem test_hyp_recordAction : recordAction (scanned (queued 0x50 0 0).dev 64 { cells := [(0, 2)] }) (fetched 0x50 0 0) = some 2 := by decide +kernel

/-- A fetched COPY of class 8 is bad; opcode 0xFF is undefined; AFTER_PREV behind a failed job breaks the chain; a ring whose base cannot
be read. -/
theorem test_hyp_Rejected : descBad (queued 0x830 0 0).dev 64 (fetched 0x830 0 0) = true ∧ (fetched 0xFF 0 0).opcode ∉ definedOpcodes ∧
    (let d : Dev := { (queued 0x40030 0 64).dev with sqs := [(64, { lastJob := some 0, lastDone := some 3 })] };
      descBad d 64 (fetched 0x40030 0 64) = false ∧ chainBroken d 64 (fetched 0x40030 0 64) = true) := by decide +kernel

/-- A job with number 0 of the supervisor queue. -/
def job0 (op : Nat) (p : JPhase) : Job := { id := 0, q := 64, desc := { opcode := op }, phase := p }

theorem test_hyp_JobRelease : (let x : Job := { job0 0x31 .waiting with waitCount := true, desc := { opcode := 0x31, startCount := 5 } };
      let d : Dev := { jobs := [x] };
      d.job 0 = some x ∧ d.gcount < x.desc.startCount ∧ x.desc.startCount ≤ ({ d with time := 5 * 1000 * 2 ^ 32 } : Dev).gcount) ∧
    (job0 0x40 .running).after = [] ∧ ({ job0 0x40 .running with after := [1] } : Job).after ≠ [] ∧
    (let x : Job := { job0 0x31 .waiting with waitGo := true, ringWait := [1] };
      let y : Job := { x with q := 65 };
      ringJobOf { jobs := [x] } 0 true = some x ∧ ringJobOf { jobs := [y] } 0 false = some y) ∧
    (let x : Job := { job0 0x30 .running with fault := some 4 };
      let d : Dev := { jobs := [x] };
      suspectOf d 0 = none ∧ bit x.flags 2 = false ∧ jobPlaced d x = true ∧ tilesPending d x = false ∧ slackTest x.deadline (declaredNs d 0) d.now = true) := by
  decide +kernel

/-- A tile with its image and two items. -/
def busyTile : Tile := { handles := [(0, localHandle)], image := some 1, items := [⟨0, some 7, 0⟩, ⟨0, none, 0⟩] }

/-- A free tile with an item; a graph whose output waits; an unload without earlier jobs; best-effort work one cycle too long for a tile
with deadline work (BLOCK_US is 4 at reset, R353). -/
theorem test_hyp_Forester : (let im : Image := { num := 1, tiles := [{ role := 0, entryPcs := [0] }], place := [some 0], entryIo := [{ outTile := 0, outRows := 1 }] };
      let x : Job := { job0 0x01 .running with desc := { opcode := 1, image := 1 }, outCopy := true };
      let d : Dev := { regs := [(0x40008, 1), (0x40010, 1)], images := [im], jobs := [x], tiles := [(0, busyTile)] };
      tileFree d 0 = true ∧ nextItem (d.tile 0).items = some ⟨0, some 7, 0⟩ ∧ entryPc d 0 0 = some 0 ∧ d.image 1 = some im ∧ im.tileAt 0 = some 0 ∧
        x.desc.opcode = 0x01 ∧ outputWaits (d.tile 0) 0 = false ∧ headerVerdict d 0 (outputHdr d 0 0 (im.entryIo.getD 0 {})) = .admits ∧
        ((d.tile 0).hnd 0).kind = 0 ∧ (d.tile 0).flaws = []) ∧
    (let x : Job := { job0 0x03 .running with desc := { opcode := 3, image := 1 } };
      let d : Dev := { images := [{ num := 1 }], jobs := [x] };
      d.job 0 = some x ∧ d.image 1 = some { num := 1 } ∧ x.after = []) ∧
    (let d : Dev := { tiles := [(0, { items := [⟨0, none, 4801⟩] })], admitted := [⟨1, 0, 1, 9, rkTile, 0, 1⟩] };
      nextItem (d.tile 0).items = some ⟨0, none, 4801⟩ ∧ hasDeadlineWork d 0 = true ∧ d.blockCycles < 4801) := by decide +kernel

/-- Jobs that end on the supervisor queue and on ring 63; an enabled completion ring of the host at its last slot. -/
theorem test_hyp_CompletionPost : (job0 0x31 .ended).replayed = false ∧ (job0 0x31 .ended).silent = false ∧
    ({ job0 0x31 .ended with q := 63 } : Job).q < 64 ∧
    (let d : Dev := ({ regs := [(0x2810 + 0x20 * 63, 3), (0x3004, 1)] } : Dev);
      d.flag cqCfgEnable 63 = true ∧ d.fld cqTailwbAddr 63 = 0 ∧ d.flag cqCfgIrqEn 63 = false ∧ d.fld cqBaseAddr 63 + 32 * 65536 < 2 ^ 62 ∧
        linkUp d = true ∧ d.fld cqStatusTail 63 < cqSize d 63 ∧ cqSize d 63 ≤ 65535 ∧ linkUp ({ regs := [] } : Dev) = false) := by decide +kernel

/-- A coalescing ring with entries not signalled, its vector open and masked; triggers of a ring that is armed, empty and in a pass. -/
theorem test_hyp_SignalAndTrigger : (let d : Dev := { regs := [(0x2810, 0x01000801), (0x3004, 1), (0x380C, 0)], cqs := [(0, { unsignalled := 1 })] };
      (d.cq 0).unsignalled ≠ 0 ∧ d.fld cqCfgCoalUs 0 ≠ 0 ∧ d.flag cqCfgIrqEn 0 = true ∧ d.flag msixCtrlMask (d.fld cqCfgVector 0) = false ∧
        linkUp d = true ∧ (d.setFld msixCtrlMask 1 0).flag msixCtrlMask 0 = true) ∧
    (let d : Dev := { regs := [(0xC, 0x10), (0x2008, 0x1001), (0x2010, 1), (0x2810, 0x1F)], sqs := [(0, { pass := some ⟨0, 9000, true⟩, armed := some 1 })] };
      takesEvents d 0 9 = false ∧ (d.sq 0).pass = some ⟨0, 9000, true⟩ ∧ (d.sq 0).armed = some 1) ∧
    (let d : Dev := { regs := [(0xC, 0x10), (0x2008, 0x1001), (0x2010, 1), (0x2810, 0x1F)], sqs := [(0, { armed := some 1 })], time := 5000 * 2 ^ 32 }
     let d := ((d.setFld devStatusLockDone 1).setFld sqTrigSrc 9 0).setFld sqTrigPeriodUs 2 0;
      takesEvents d 0 9 = true ∧ d.fld sqTrigPeriodUs 0 = 2 ∧ waitSync d = false ∧ (d.sq 0).lastTick / 2 < d.now / 1000 / 2 ∧
        (d.sq 0).pass = none ∧ (d.sq 0).armed = some 1 ∧ cqRoom d (d.fld sqCfgCq 0) 1 = true ∧ cqRoom d (d.fld sqCfgCq 0) 65536 = false ∧
        ((d.updSq 0 fun q => { q with armed := none }).sq 0).armed = none) := by decide +kernel

/-- A problem ready on a free tile, one under way, one with a deadline; what the vendor's test says is free. -/
theorem test_hyp_Problem : (let p : Problem := { job := 0, idx := 0, image := 1, rcd := { warmSlot := 0xFFFF }, t := {}, reserved := [0] };
      let d : Dev := { regs := [(0x40008, 1)], jobs := [job0 0x10 .running], solv := { problems := [p] } };
      d.prob 0 0 = some p ∧ d.job 0 = some (job0 0x10 .running) ∧ probReady d p = true ∧ tileFree d 0 = true ∧
        sooner d 0 (p.deadline.map fun a => (a, admOrder d p.job p.idx)) = false) ∧
    (let p : Problem := { job := 0, idx := 0, image := 1, rcd := {}, t := {}, phase := .assembling };
      let d : Dev := { jobs := [job0 0x10 .running], solv := { problems := [p] } };
      d.prob 0 0 = some p ∧ probReady d p = false ∧ p.rcd.x0Src = 0 ∧ p.taken = none ∧ p.est = none) ∧
    (let p : Problem := { job := 0, idx := 0, image := 1, rcd := {}, t := {}, phase := .iterating, deadline := some 5 };
      p.phase ≠ .ended ∧ ({ time := 5 * 2 ^ 32 } : Dev).now = 5 ∧ ({ time := 5 * 2 ^ 32 - 1 } : Dev).now < 5) := by decide +kernel

/-- Problems that start, whose assembly is finite and is not, that iterate with and without a certificate due, and whose deadline has
come and has not. -/
theorem test_hyp_ProblemStages : (let p : Problem := { job := 0, idx := 0, image := 1, rcd := { warmSlot := 0xFFFF }, t := {}, reserved := [0] };
      let d : Dev := { regs := [(0x40008, 1), (0x3004, 1)], jobs := [job0 0x10 .running], solv := { problems := [p] } };
      probReady d p = true ∧ p.t.kind ≠ 1 ∧ p.t.asmPlace = 0 ∧ p.reserved ≠ [] ∧ d.flaws = [] ∧ p.deadline = none ∧ tileFree d 0 = true ∧
        (match readInputs d p with
          | .ok inp => !seqMapBad d inp.map
          | .error _ => false) = true) ∧
    (let p : Problem := { job := 0, idx := 0, image := 1, rcd := {}, t := {}, phase := .assembling };
      let d : Dev := { jobs := [job0 0x10 .running], solv := { problems := [p] } };
      let pts (w : Vec) := (assemble (coefBlock d p) p.t p.rcd.perStage p.params w).map (·.1);
      ((pts []).all ptFinite && ([] : Vec).all f64Pos) = true ∧ (pts []).any ptNan = false ∧ p.replayStop = none ∧
        ((pts [0]).all ptFinite && [0].all f64Pos) = false ∧ (job0 0x10 .running).nanWatch = false) ∧
    (let p : Problem := { job := 0, idx := 0, image := 1, rcd := { itCap := 9 }, t := { method := 1, checkEvery := 5 }, phase := .iterating };
      ¬ (p.t.method = 0 ∨ (p.it + 1) % p.t.checkEvery = 0 ∨ p.it + 1 = p.rcd.itCap) ∧
        ((4 + 1) % p.t.checkEvery = 0 ∧ 8 + 1 = p.rcd.itCap ∧ ({} : Template).method = 0)) ∧
    (let p : Problem := { job := 0, idx := 0, image := 1, rcd := {}, t := {}, phase := .iterating, deadline := some 5 };
      p.phase ≠ .ended ∧ (job0 0x10 .running).phase = .running ∧ (∀ a, p.deadline = some a → ({ time := 5 * 2 ^ 32 } : Dev).now ≤ a)) := by
  refine ⟨by decide +kernel, by decide +kernel, by decide +kernel, by decide, by decide, ?_⟩
  intro a h
  cases h
  decide +kernel

/-- Iterates that meet the targets, that meet the acceptances alone, at a checkpoint and not, and that meet neither; a best that is
replaced, and one that is not. -/
theorem test_hyp_Certificates : (let p : Problem := { job := 0, idx := 0, image := 1, rcd := {}, t := {} };
      let r := internalTest p.t p.pts p.xhat p.cur;
      let c := certify p.t p.pts p.xhat p.cur;
      let nan := 0x7FF8000000000000;
      passTarget {} r = true ∧ passTarget {} c = true ∧ passAccept {} c = true ∧ passTarget { epsP := nan } r = false ∧
        passTarget { epsP := nan } c = false ∧ passAccept { epsP := nan } r = true ∧ passAccept { accP := nan } c = false ∧
        0 < ({ checkEvery := 5 } : Template).checkEvery ∧ 5 % ({ checkEvery := 5 } : Template).checkEvery = 0 ∧
        1 % ({ checkEvery := 5 } : Template).checkEvery ≠ 0 ∧ ({ itCap := 9 } : ProbRec).itCap ≠ 1 ∧
        (let one := 0x3FF0000000000000
         let below := 0xBFF0000000000000
         let acc : ProbRec := { accP := one, accD := one, accG := one };
         f64Le (score acc c) (score acc { rp := one }) = true ∧
          f64Le (score acc c) (score acc { rp := below, rd := below, gap := below }) = false)) := by decide +kernel

theorem test_hyp_Walker : (let f : Fields := { rb := 2, ext := 2 };
      let s := onTile 0xA 0x00 f { handles := [(0, localHandle)], x := [(2, 0)] } [(0x40004, 3)];
      Issues s 0 0xA 0x00 f ∧ fabLocal ((s.dev.tile 0).xr 2) = some (0, 1) ∧ ((s.dev.tile 0).hnd 0).valid = true ∧
        0 + (partRows (bits f.mode 1 0)).2 ≤ ((s.dev.tile 0).hnd 0).rows) ∧
    (let s := onTile 0xA 0x01 {} { handles := [(0, localHandle)] } [(0x40004, 3)];
      Issues s 0 0xA 0x01 {} ∧ RowsReady s.dev 0 [⟨0, [0], false⟩] ∧ ReadsSound s.dev 0 [⟨0, [0], false⟩] {} ∧ tileLookups s.dev 0 < 4 ∧
        (s.dev.tile 0).inflight.length < 16) := by unfold Issues RowsReady ReadsSound; decide +kernel

/-- A lookup that missed; an append whose copy is under way. -/
theorem test_hyp_WalkerMissAndCopy : (let l : Lookup := ⟨0, 0, 4095, 1023, 0, 0, 0, 0, 0, false, false, none, false⟩;
      ([l].filter fun l => !l.waiting && l.seq = 4095 && l.idx = 1023) ≠ [] ∧
        (({} : Dev).attn.lookups.filter fun l => !l.waiting && l.seq = 4095 && l.idx = 1023) = [] ∧ (4095, 1023) ∉ ({} : Dev).attn.lab) ∧
    (let a : Append := { who := .job 0, seq := 7, d := 64, split := false, rows := [], fresh := [], copy := some ((1, noPage), (2, noPage)) };
      let d : Dev := { attn := { appends := [a], seqs := [(7, { entries := [{ p0 := 1 }] })] } };
      d.append 7 = some a ∧ pagePoisoned d 1 = false ∧ pagePoisoned d noPage = false ∧ (d.seq 7).entries ≠ [] ∧
        d.flaws = [] ∧ splitLost d (d.seq 7) = false) := by decide +kernel

/-- Appends of one token: to a page with one place left, and to a sequence not yet there. -/
theorem test_hyp_AppendCommit : (let a : Append := { who := .job 0, seq := 7, d := 64, split := false, rows := [0, 0], fresh := [] };
      let b : Append := { a with seq := 8, fresh := [(2, noPage)] };
      let d : Dev := { attn := { appends := [a, b], seqs := [(7, { active := true, d := 64, entries := [{ p0 := 1, fill := 255 }] })] } };
      d.append 7 = some a ∧ d.append 8 = some b ∧ a.copy = none ∧ d.flaws = [] ∧ splitLost d (appendSeq d 7 64 false) = false ∧
        a.rows.length / (2 * tokenHalves a.d) = 1 ∧ (appendSeq d 7 64 false).entries.length + a.fresh.length = pagesOf ((appendSeq d 7 64 false).length + 1) ∧
        (appendSeq d 8 64 false).entries.length + b.fresh.length = pagesOf ((appendSeq d 8 64 false).length + 1) ∧
        pagePoisoned d 1 = false ∧ pagePoisoned d noPage = false) := by decide +kernel

/-- An entry of one row of a sequence split over two modules, computed here or not; its job. -/
def splitEntry (done : Bool) : AttendEntry :=
  { seq := 0, qlen := 1, kvLen := 0, qPos0 := 0, window := 0, mask := 0, len := 0, pages := [], tile := 0, row0 := 0, done := done, ringM := 2,
    parts := [⟨0, 0, 0, [], []⟩] }
def splitJob (done : Bool) : AttendJob := ⟨0, 1, 64, 0, 0, 0, 0, true, [splitEntry done], []⟩

/-- A partial result that comes before this module's own, that comes back to module 0, and that module 1 combines. -/
theorem test_hyp_SplitPartial : ([false, true].all fun done =>
      let d : Dev := ({ attn := { attends := [splitJob done] }, jobs := [{ job0 0x20 .running with desc := { opcode := 0x20 } }] } : Dev).setFld plkStatusCount 2;
      decide (d.attendOf 0 = some (splitJob done)) && decide (entryOfRow (splitJob done) 0 = 0) && (splitEntry done).ring (splitJob done) &&
        !ringLost d (splitJob done) (splitEntry done) && decide ((0, (⟨0, 0, 0, [], []⟩ : RowPart)) ∉ d.attn.early) && decide (d.ringPos = 0) &&
        decide ((d.setFld plkStatusPosition 1).ringPos ≠ 0) &&
        decide ((splitEntry done).parts.find? (fun p => p.row = 0) = some ⟨0, 0, 0, [], []⟩) &&
        decide ((d.jobs.find? fun y => y.desc.tag = 0 && y.desc.opcode = 0x20 && y.phase ≠ .ended) = d.job 0)) = true := by decide +kernel

/-- An ATTEND job with one entry of one row on tile 0, and the same in a ring of two modules, seen from module 0. -/
theorem test_hyp_SequenceEvents : (let e : AttendEntry := { seq := 0, qlen := 1, kvLen := 0, qPos0 := 0, window := 0, mask := 0, len := 0, pages := [], tile := 0, row0 := 0 };
      let a : AttendJob := ⟨0, 1, 64, 0, 0, 0, 0, false, [e], []⟩;
      let d : Dev := { regs := [(0x3004, 1), (0x40008, 2)], attn := { attends := [a] }, jobs := [job0 0x20 .running], tiles := [(0, { job := some 0 })] };
      d.attendOf 0 = some a ∧ a.entries[0]? = some e ∧ e.done = false ∧ (a.entries.take 0).any (!·.done) = false ∧ e.ring a = false ∧ d.flaws = [] ∧
        (job0 0x20 .running).nanWatch = false ∧ (pagesRead [e]).any (pagePoisoned d) = false ∧ d.fld tileStateState 0 = tsRunning ∧
        (match readQueries d a (entryRows a e) with
          | .ok q => decide (q.length = 1)
          | .error _ => false) = true) ∧
    (let d : Dev := ({ regs := [] } : Dev).setFld plkStatusCount 2;
      1 < d.ringCount ∧ d.ringPos = 0 ∧ (d.setFld plkStatusPosition 1).ringPos ≠ 0) := by decide +kernel

/-- A page of DDR4 with one free slot of Canopy; a pinned one; a move under way. -/
theorem test_hyp_PageMove : (let d : Dev := { attn := { pages := [(3, { alloc := true }), (4, { alloc := true, pin := 1 })], canopySlots := 1, moves := [(5, true, 0)] } };
      (d.page 3).alloc = true ∧ (d.page 3).pin = 0 ∧ (d.page 3).canopy = false ∧ (d.page 4).pin ≠ 0 ∧
        (∀ m ∈ d.attn.moves, m.1 ≠ 3) ∧
        (readersOf d 3).all (stillFits ((readersOf d 3).foldl recharge (d.setPage 3 { d.page 3 with canopy := true }))) = true ∧
        freeSlots d.attn.canopyUsed d.attn.canopySlots = [0] ∧ d.attn.moves.find? (fun m => m.1 = 5) = some (5, true, 0) ∧ (d.page 5).alloc = false ∧ d.flaws = [] ∧
        (let e : Dev := { d with attn := { d.attn with pages := [(5, { alloc := true })] } };
         (e.page 5).alloc = true ∧ (e.page 5).pin = 0 ∧ (e.page 5).canopy = false)) := by decide +kernel

/-- A tile with logical tile 0 of image 1, and another in service that can take it over. -/
theorem test_hyp_TileDrain : (let im : Image := { num := 1, tiles := [{ role := 0 }], place := [some 0] };
      let d : Dev := { regs := [(0x1E000, 1)], images := [im], tiles := [(0, { image := some 1, service := .inService }), (1, { service := .inService })] };
      (d.tile 0).image = some 1 ∧ d.image 1 = some im ∧ (upto im.place.length).find? (fun l => im.place.getD l none = some 0) = some 0 ∧
        im.unloading = none ∧ im.loading = none ∧ (∀ k < 136, (d.tile k).drainTo = none) ∧ (d.tile 0).roleTo = none ∧
        pickSubstitute d 0 = some 1 ∧ copyReadable d 1 = true ∧ fitsAll 1 (unstarted d 0) d = true) := by decide +kernel

/-! ## Registers, ports and the safe state: states that meet the hypotheses of the statements -/

/-- A module that is ready, both ports up; further registers come first. -/
def ready (regs : Bank) : Dev :=
  { regs := regs ++ [(0xC, 0x1E), (0x3004, 1)], boot := { powered := true, compute := true, stage0Done := true, configured := true },
    clr := { on := true, fresh := false } }

/-- The access reaches register `i` of its array. -/
def reaches (d : Dev) (p : Port) (off size : Nat) (wr : Bool) (i : Nat) : Bool :=
  portAlive d p && !portAsleep d p && match reach d p off size wr with
    | .reg _ j => j = i
    | _ => false

/-- Every register that a statement names is reached by the port it names. -/
theorem test_hyp_Reached : ([(.host, rDevCtrl, 4, 0), (.spadja, rDevCtrl, 4, 0), (.spadja, rDevReset, 4, 0), (.host, rDevReset, 4, 0),
    (.spadja, rSupSafe, 4, 0), (.spadja, rSupHbChal, 4, 0), (.host, rTimeInc, 8, 0), (.host, rTimeStep, 8, 0), (.host, rClkCtrl, 4, 0),
    (.spadja, rSupqTail, 4, 0), (.spadja, rSupcqHead, 4, 0), (.host, rSqCfg + 0x20 * 63, 4, 63), (.host, rCqCfg + 0x20 * 63, 4, 63),
    (.host, rMsixCtrl + 0x10 * 63, 4, 63), (.host, rTimeInc + 4, 4, 0), (.host, rNetPortGcl + 0x20 * 4, 4, 4), (.host, rPlkCtrl, 4, 0)] :
    List (Port × Nat × Nat × Nat)).all (fun e => reaches (ready []) e.1 e.2.1 e.2.2.1 true e.2.2.2) = true := by decide +kernel

/-- A faulty, a 64-bit access to a 32-bit register, RSVD, SUP from the host, and an unassigned offset; a plain register. -/
theorem test_hyp_Accesses : reach (ready []) .host 0 2 true = .faulty ∧ reach (ready []) .host 0 8 true = .faulty ∧
    rsvdBlock 0x3F000 = true ∧ inSup 0xF004 = true ∧ reach (ready []) .host 0xFF8 4 true = .unassigned ∧
    (match reach (ready []) .host devPwrCfgDrainMs.base 4 true with
      | .reg r _ => plainRegister r
      | _ => false) = true := by decide +kernel

theorem test_hyp_Doorbells : (let d := ready [(0x2008, 3), (0x2028, 0x1003), (0x2810, 3)];
      linkUp d = true ∧ d.flag devStatusReady = true ∧ sqRunning d 0 = true ∧ d.flag sqCfgTriggered 0 = false ∧ sqRunning d 1 = true ∧
        d.flag sqCfgTriggered 1 = true ∧ (d.sq 1).armed = none ∧ sqRunning d 2 = false ∧ sqSize d 0 - 1 < sqSize d 0 ∧
        ringDist (sqSize d 0) 0 0 ≤ ringDist (sqSize d 0) 0 (sqSize d 0 - 1) ∧
        (d.updSq 0 fun q => { q with tail := 2 }).sq 0 = { tail := 2 } ∧ ringDist (sqSize d 0) 0 1 < ringDist (sqSize d 0) 0 2 ∧
        (d.cq 0).used < ringDist (cqSize d 0) 0 1 ∧ ringDist (cqSize d 0) 0 1 ≤ ((d.updCq 0 fun c => { c with used := 1 }).cq 0).used) ∧
    linkUp ({} : Dev) = false ∧ (ready []).flag devStatusReady = true ∧ ({ regs := [(0x3004, 1)] } : Dev).flag devStatusReady = false := by
  decide +kernel

/-- Rings stopped and running, whose settings but ENABLE stay; a masked vector with and without a pending message. -/
theorem test_hyp_RingEnable : (2 : U32) = 3 &&& ~~~1#32 ∧ (3 : U32) = 2 ||| 1 ∧ (ready [(0x2008, 2)]).flag sqStatusStopped 0 = true ∧
    (ready [(0x2810, 2)]).flag cqStatusStopped 0 = true ∧ bit (bankWord (ready [(0x380C, 1)]).regs rMsixCtrl).toNat 0 = true ∧
    bit (bankWord (ready [(0x380C, 1)]).regs rMsixPba).toNat 0 = false ∧ bit (bankWord (ready [(rMsixPba, 1)]).regs rMsixPba).toNat 0 = true := by
  decide +kernel

/-- The supervisor queue's indices, one past the head and one back. -/
theorem test_hyp_SupervisorQueue : (let d := ready [(0xF024, 2)];
      ringDist 16 (d.fld supqHeadIndex) (d.fld supqTailIndex) ≤ ringDist 16 (d.fld supqHeadIndex) 15 ∧
        ringDist 16 (d.fld supqHeadIndex) 1 < ringDist 16 (d.fld supqHeadIndex) (d.fld supqTailIndex) ∧
        (d.cq 64).used < ringDist 16 (d.fld supcqHeadIndex) 1) := by decide +kernel

/-- Before READY, after READY, and locked; with the reset pool and with one that does not fit. -/
theorem test_hyp_SetupLock : (ready []).flag devStatusReady = true ∧ (ready []).flag devCtrlSetupLock = false ∧
    (ready [(rDevCtrl, 1)]).flag devCtrlSetupLock = true ∧
    0x40000000 ≤ 0x07FFE00000 - 0x08000000 - 0x10000000 - 69632 * (ready []).fld attnPoolDdrPages ∧
    0x07FFE00000 - 0x08000000 - 0x10000000 - 69632 * ((ready []).setFld attnPoolDdrPages 0x7FFFF).fld attnPoolDdrPages < 0x40000000 := by
  decide +kernel

/-- The safe state with and without a cause; a challenge that waits; a supervisor that is late, with and without LOST_SAFE. -/
theorem test_hyp_SafeState : safeState (ready []) = false ∧ safeState (ready [(0xF020, 1)]) = true ∧ causeHolds (ready []) = false ∧
    causeHolds { ready [(0xF020, 1)] with clr := { on := true, unseated := true } } = true ∧ fwReady (ready [(0x1E000, 1)]) = true ∧
    ((ready []).setFld supHbCfgTimeoutMs 5).fld supHbCfgTimeoutMs ≠ 0 ∧ (ready []).flag devStatusLockDone = true ∧
    ((ready []).setFld supHbCfgLostSafe 1).flag supHbCfgLostSafe = true ∧ ((ready []).setFld supHbCfgLostSafe 0).flag supHbCfgLostSafe = false := by
  decide +kernel

theorem test_hyp_Time : (ready [(0x1000, 1)]).fld clkCtrlRefSel = 1 ∧ (ready []).boot.extLost = false ∧
    (let d := ((ready [(0x1E000, 1)]).setFld timeCtrlServoEn 1).setFld timeCtrlDlWaitSync 1;
      servoOn { d with net := { d.net with measured := 16 } } = true ∧ d.flag timeCtrlDlWaitSync = true ∧ d.synced = false ∧
        d.flag timeStatusStepped = false ∧ d.now < 1) ∧
    (let d := ready [];
      (∀ k < 64, takesEvents d k 9 = false) ∧ (∀ x ∈ d.tiles, d.fld tileStateState x.1 ≠ tsRunning ∧ (d.tile x.1).untested = false) ∧
        d.attn.pinWait = [] ∧ d.attn.waiting = [] ∧ d.attn.walks = [] ∧
        ({ d with tiles := [(0, {})] } : Dev).tiles = [(0, {})] ∧ (d.setFld tileStateState 2 0).fld tileStateState 0 = tsRunning ∧
        (∀ k < 64, takesEvents (d.setFld tileStateState 2 0) k 9 = false) ∧ ({} : Tile).untested = false) ∧
    noTimedWork { ready [] with net := { stepDue := true } } = true ∧ ({ ready [] with time := 10 ^ 9 * 2 ^ 32 } : Dev).now / 10 ^ 9 = 1 ∧
    reaches (ready []) .host (rTimeTsqInfo + 0x10 * 4) 4 false 4 = true := by decide +kernel

/-- R392: the response to a challenge of 1. -/
theorem test_heartbeat : ((1 : U32).rotateLeft 13 ^^^ 0x5EEDC0DE) = 0x5EEDE0DE := by decide +kernel

/-- R388: transactions with a right and a wrong key or CRC. -/
theorem test_hyp_Spadja : WireAwake (ready []) ∧ crc16 [0x31, 0x32, 0x33, 0x34, 0x35, 0x36, 0x37, 0x38, 0x39] = 0x29B1 ∧
    (let w : List Byte := [0x3C, 0xC3, 0, 0, 0x5A, 0xFE];
      keyGood (w ++ beBytes 2 (crc16 w)) 0x5AFE = true ∧ keyGood (w ++ [0, 0]) 0x5AFE = false) ∧
    (let w : List Byte := [0x5A, 0xA5, 0, 0, 0, 0x48, 1, 0, 0, 0];
      wireCount (w ++ beBytes 2 (crc16 w)) = 1 ∧ crcGood (w ++ beBytes 2 (crc16 w)) = true ∧ (w ++ beBytes 2 (crc16 w)).length = 12 ∧ wireAddr w = 0x48 ∧
      (match reach (ready []) .spadja 0x48 4 true with
        | .reg r i => decide (i = r.index 0x48) && plainRegister r && !r.wide && r.fields.all fun f => f.acc = .rw || f.acc = .rwl
        | _ => false) = true ∧ reaches (ready []) .spadja 0x48 4 true 0 = true ∧ (ready []).flag devCtrlSetupLock = false) ∧
    reaches (ready []) .spadja rSupStatus 4 false 0 = true ∧ slowBlock rSupStatus = false ∧ slowBlock 0x40000 = true ∧
    lateRead (ready []) .spadja rSupStatus = false ∧
    (let d : Dev := { ready [] with clr := { on := true, asleep := true } }; d.clr.asleep = true ∧ inClr rSupStatus = false) := by
  unfold WireAwake; decide +kernel

/-! ## Mailbox, links, streams, networks, loops and the ring: states that meet the hypotheses of the statements -/

/-- The host asks for a mailbox command with these request bytes; the module is ready and its firmware runs. -/
def asking (op : Nat) (req : List Byte) (regs : Bank) : State :=
  { dev := ready ((0x10000, BitVec.ofNat 32 (op + 2 ^ 16 * req.length)) ::
      ((upto ((req.length + 3) / 4)).map fun i => (rMboxReq + 4 * i, BitVec.ofNat 32 (recLe req (4 * i) 4))) ++ (0x1E000, 1) :: regs) }

/-- The command is ready, and its request is as given. -/
def asked (op : Nat) (req : List Byte) (regs : Bank) : Bool :=
  let s := asking op req regs
  portAlive s.dev .host && !portAsleep s.dev .host && available s.dev .host rMboxCtrl true && decide (s.dev.mgmt.mbox = []) &&
    fwReady s.dev && !s.dev.mgmt.romOnly && !guardHeld s.dev && decide (s.dev.pfld .host mboxCmdOpcode = op) &&
    decide (mboxRequest s.dev .host = req)

theorem asked_ready {op : Nat} {req : List Byte} {regs : Bank} (h : asked op req regs = true) :
    MailboxReady (asking op req regs) .host op ∧ mboxRequest (asking op req regs).dev .host = req := by
  simpa [asked, MailboxReady, and_assoc] using h

theorem test_hyp_Mailbox : asked 0x01 (List.replicate 64 7) [] = true ∧ asked 0x02 [] [] = true ∧ asked 0x03 [0xFF, 3] [] = true ∧ asked 0x03 [0, 4] [] = true ∧
    asked 0x14 [64] [] = true ∧ asked 0x16 (List.replicate 32 7) [] = true ∧ asked 0x20 [] [] = true ∧ asked 0x31 [2, 3, 1, 0, 0, 0, 0, 0, 0, 0] [] = true ∧
    asked 0x7F [] [] = true ∧ 0x7F ∉ mboxOpcodes ∧ (asking 0x16 (List.replicate 32 7) []).dev.flag devCtrlSetupLock = false ∧
    (asking 0x16 (List.replicate 32 7) [(rDevCtrl, 1)]).dev.flag devCtrlSetupLock = true ∧
    ({ asking 0x20 [] [] with nv := { cal := some ⟨List.replicate 512 0, true⟩ } } : State).calBytes = some (List.replicate 512 0) ∧
    tableChange [2, 3, 1, 0, 0, 0, 0, 0, 0, 0] = some (.setVlan 1 3) := by
  decide +kernel

/-- A firmware image of SVN 1 in key slot 0 that has passed its checks, and a slot that holds it staged. -/
def goodImage : FlashImg := { keySlot := 0, svn := 1, libEpoch := 0, version := 1, length := 0, digest := List.replicate 64 1, sound := true }
def goodSlot : FlashSlot := { img := some goodImage, staged := true }

/-- Every kind valid in slot A and staged in slot B; kind 5 with the integrator's key. -/
def flashed : NonVol :=
  { slots := (List.range 12).map fun i => (i, goodSlot), fuses := { intKey := some (List.replicate 32 0) } }

/-- R496: RATCHET to 1 is accepted where every active image has SVN 1, and to 2 is not. -/
theorem test_hyp_Ratchet : (let s : State := { asking 0x14 [1] [] with nv := flashed };
      decide (s.nv.fuses.f < 1) = true ∧ ([1, 2, 3, 4].all fun k => match s.activeImg k with
        | some i => decide (1 ≤ i.svn)
        | none => false) = true ∧ s.inTrial = false ∧ slotInUse s 0 = true ∧ slotInUse s 1 = false) ∧
    asked 0x15 (3 :: 0 :: List.replicate 254 0) [] = true ∧ asked 0x15 (0 :: 0 :: List.replicate 254 0) [] = true ∧
    (let s : State := { asking 0x15 (3 :: 0 :: List.replicate 254 0) [] with nv := { fuses := { revoked := 7 } } };
      ((upto 4).all fun k => decide (k = 3) || bit s.nv.fuses.revoked.toNat k) = true) := by
  decide +kernel

/-- Lengths, kinds and slots of the update commands. -/
theorem test_hyp_Update : asked 0x10 [2, 0, 0, 0, 0, 2, 0, 0] [] = true ∧ asked 0x11 [2, 0, 0, 0, 8, 0, 0, 0, 5] [] = true ∧ asked 0x12 [2] [] = true ∧ asked 0x13 [4] [] = true ∧
    0x200 ≤ slotSize 2 ∧ 8 + 1 ≤ slotSize 2 ∧
    ([2, 3, 4, 5].all fun k => ({ asking 0x13 [4] [] with nv := flashed } : State).goodImg k true = some goodImage &&
      (({ asking 0x13 [4] [] with nv := flashed } : State).slot k true).staged) = true ∧
    (({ nv := flashed } : State).activeImg 3).map (·.libEpoch) = some goodImage.libEpoch ∧
    (({ nv := { flashed with slots := [] } } : State).activeImg 3).map (·.libEpoch) ≠ some goodImage.libEpoch ∧
    ({ dev := { mgmt := { updating := [2], switching := [3] } } } : State).dev.mgmt.updating = [2] := by
  decide +kernel

/-- CAN_TX into transmit buffer 15 of controller 1, free and pending, and its abort. -/
theorem test_hyp_CanMailbox : (let r : List Byte := 1 :: 15 :: List.replicate 82 0;
      asked 0x30 r [] = true ∧ mboxAborts .host (asking 0x30 r []).dev = false ∧ canPending (asking 0x30 r []).dev 1 15 = false ∧
        canPending (setCanPending (asking 0x30 r []).dev 1 15 true) 1 15 = true) ∧
    (let r : List Byte := [0, 3, 1, 0]; asked 0x30 r [] = true ∧ mboxAborts .host (asking 0x30 r []).dev = true) := by
  decide +kernel

/-- R503 to R505: a set that is not FACTORY, with its digest, and one whose digest is wrong. Whether a FACTORY set, an order to revoke
or an image of kinds 1 to 4 verifies depends on keys that the model leaves free (notes/assumptions/41). -/
theorem test_hyp_Calibration : (let b : List Byte := 1 :: List.replicate 191 0;
      calAccepted (b ++ sha512 b ++ List.replicate 256 0) = true ∧ calAccepted (b ++ List.replicate 320 0) = false) ∧
    asked 0x21 (1 :: List.replicate 511 0) [] = true := by decide +kernel

/-- R385, R541: a link that is up with host rings and the supervisor's own, no job; and one that is down. -/
theorem test_hyp_Links : (let d := ready [(0x2008, 3), (0x2028, 3)]; linkUp d = true ∧ hostRing d 0 = true ∧ d.jobs = [] ∧ d.aborts = []) ∧
    (let d : Dev := { ready [] with regs := [] };
      linkUp d = false ∧ d.boot.powered = true ∧ d.boot.stage0Done = true ∧ d.boot.perst = false) := by decide +kernel

/-- Stream FIFO 0 with its entries and a waiting problem of job 3; the plan FIFO with one entry. -/
def planEntry : PlanEntry := { tag := 1, status := 0, source := 0, nu := 1, steps := 2, mask := 1, tMeas := 0, seq := 7, u := [0, 0x3F000000] }
def waiting : Problem := { job := 3, idx := 0, image := 1, rcd := { warmSlot := 0xFFFF }, t := {}, reserved := [0] }
def streaming (entries : List FifoEntry) : Dev :=
  { ready [] with fifos := { stream := [(0, { entries := entries, waiters := [(3, 0)] })], plan := [planEntry] }, solv := { problems := [waiting] } }

/-- R374 to R376, R464: an entry not begun (oldest and newest), cut-through, an entry begun, a plan entry in which loop 0 takes part. -/
theorem test_hyp_Fifo : (let e : FifoEntry := ⟨1, false, 0, 5, [], false, []⟩
      let f : FifoEntry := ⟨2, false, 0, 6, [], false, []⟩
      let g : FifoEntry := ⟨0, false, 0, 4, [], true, []⟩
      let d := streaming [g, e, f];
      (d.fifo 0).waiters = [(3, 0)] ∧ d.prob 3 0 = some waiting ∧ waiting.deadline = none ∧ waiting.phase ≠ .ended ∧ recordedAs d 3 = none ∧
        ((d.fifo 0).entries.filter fun e => !e.begun).head? = some e ∧ ((d.fifo 0).entries.filter fun e => !e.begun).getLast? = some f ∧
        d.flag streamCfgTake 0 = false ∧ (d.setFld streamCfgTake 1 0).flag streamCfgTake 0 = true ∧ d.fld streamCnt1Skipped 0 + 1 < 65536 ∧
        ((d.fifo 0).entries.find? fun e => e.begun && e.seq = 0) = some g ∧ d.fifos.pushes = []) ∧
    (let d := (streaming []).setFld streamCfgEnable 1 0 |>.setFld streamCfgCt 2 0;
      fifoOn d 0 = true ∧ d.fld streamCfgCt 0 ≠ 0 ∧ waiting.phase = .queued) ∧
    (let d := (streaming []).setFld loopkSrcSpsrc 4 0;
      (d.fifos.plan.find? fun e => !e.begun) = some planEntry ∧ (upto 16).any (takesPart d planEntry) = true ∧ d.loop.begun = [] ∧
        (d.lp 0).seen ≤ d.loop.nextOrd) := by decide +kernel

/-- A register written in a state under construction. -/
def withReg (o : Nat) (v : U32) (d : Dev) : Dev := { d with regs := bankSet d.regs o v }

/-- A bridge with its external ports enabled. -/
def bridge : Dev := (upto 4).foldl (fun d n => d.setFld netPortCfgEnable 1 n) ((ready []).setFld netCtrlEnable 1)

/-- A frame for a destination, untagged, of EtherType 0x88B5. -/
def frameTo (mac : Nat) : List Byte := beBytes 6 mac ++ beBytes 6 0x020000000001 ++ beBytes 2 0x88B5 ++ List.replicate 50 0

/-- The bridge with one static entry for that destination. -/
def at4 (m : Nat) : Dev := { bridge with net := { bridge.net with fdb := [⟨0x020000000002, 1, m, false⟩] } }

/-- The head of that frame, and the bridge with a stream filter for it. -/
def head2 : FrameHead := frameHead (frameTo 0x020000000002)
def filtered : Dev :=
  (withReg rNetFilter 0x00000002 (withReg (rNetFilter + 4) 0x00000200 (withReg (rNetFilter + 8) 0x00080000 (at4 0x10)))).setFld streamCfgEnable 1 0

/-- R402, R403: a frame for one external port with room and without, and for no port. -/
theorem test_hyp_Frames : 18 ≤ (frameTo 2).length ∧ (frameTo 2).length ≤ 2048 ∧ bridge.flag netCtrlEnable = true ∧
    bridge.flag netPortCfgEnable 0 = true ∧ egressPorts (at4 2) head2 0 0 = [1] ∧ bufferRoom bridge 0 64 = true ∧
    egressPorts (at4 0) head2 0 0 = [] := by decide +kernel

theorem buffer_full (l : List Byte) (h : 983040 < l.length) : bufferRoom { net := { ports := [(1, { queue := [{ bytes := l, tc := 0 }] })] } } 0 0 =
    false := by
  simp [bufferRoom, bufferUsed]; omega

/-- A packet buffer without room for class 0. -/
theorem test_hyp_BufferFull : ∃ l, bufferRoom { net := { ports := [(1, { queue := [{ bytes := l, tc := 0 }] })] } } 0 0 = false :=
  ⟨List.replicate 983041 0, buffer_full _ (by rw [List.length_replicate]; omega)⟩

/-- R405: a frame for port 4 without a filter, and with one. -/
theorem test_hyp_StreamFilter : egressPorts (at4 0x10) head2 0 0 = [4] ∧
    ((filtered.port 4).queue.all (fun g => decide (g.tc < 0)) && gateOpen filtered 4 0 64) = true ∧
    ((upto 16).all fun f => !filterMatches (streamFilter (at4 0x10) f) head2) = true ∧
    ((upto 16).find? fun f => filterMatches (streamFilter filtered f) head2) = some 0 ∧ bits (recLe (streamFilter filtered 0) 10 1) 2 0 = 0 ∧
    bit (recLe (streamFilter filtered 0) 10 1) 4 = false ∧ fifoOn filtered 0 = true ∧ filtered.fld streamCfgSrc 0 = 0 := by decide +kernel

/-- R404, R408, R410, R411: gates, a launch due, a launch late, a frame selected. -/
theorem test_hyp_Egress : (let g : GateList := { entries := [(0xFF, 1000)], cycle := 1000, base := 0 }
      let d := bridge.updPort 0 fun p => { p with admin := some g, gates := some g };
      (d.port 0).admin = some g ∧ g.due ≤ d.now ∧ d.now < ({ g with due := 1 } : GateList).due ∧ (d.port 0).gates = some g) ∧
    (let f : EFrame := { bytes := frameTo 2, tc := 0, launch := some (0, 10, false) }
     let d := bridge.updPort 0 fun p => { p with launches := [f] };
      (d.port 0).sending = none ∧ earliest (launchable d 0) = some f ∧ 0 + 10 < ({ d with time := 11 * 2 ^ 32 } : Dev).now) ∧
    (let f : EFrame := { bytes := frameTo 2, tc := 7, stamp := some 3 }
     let d := bridge.updPort 0 fun p => { p with queue := [f] };
      (d.port 0).sending = none ∧ launchable d 0 = [] ∧ selectFrame d 0 = some f ∧ (d.port 0).stamps.length < 16) ∧
    (let f : EFrame := { bytes := frameTo 2, tc := 7 }
     let d := bridge.updPort 4 fun p => { p with queue := [f] };
      d.flag netCtrlEnable = true ∧ (d.port 4).sending = none ∧ launchable d 4 = [] ∧ selectFrame d 4 = some f ∧
        ((d.port 4).queue.all (fun g => decide (g.tc < 0)) && gateOpen d 4 0 64) = false) := by decide +kernel

/-- R412 to R414: a controller on its bus, filters that do not match and that match, a buffer that goes first, and bus-off. -/
theorem test_hyp_Can : (let d := (ready []).setFld netCanCfgEnable 1 1;
      canOn d 1 = true ∧ bit 0x123 30 = false ∧ ((upto 32).all fun f => !canMatches (canFilter d 1 f) 0x123) = true) ∧
    (let d := (withReg (rCanFilter + 0x100) 0x80000123 (withReg (rCanFilter + 0x104) 0x1FFFFFFF ((ready []).setFld netCanCfgEnable 1 1))).setFld
        streamCfgEnable 1 0 |>.setFld streamCfgEntry64 3 0;
      ((upto 32).find? fun f => canMatches (canFilter d 1 f) 0x123) = some 0 ∧ bits (canFilter d 1 0) 63 61 = 0 ∧ fifoOn d 0 = true ∧
        d.fld streamCfgSrc 0 = 0 ∧ fifoFree d 0 = true ∧ 72 ≤ fifoPayload d 0) ∧
    (let d := setCanPending ((ready []).setFld netCanCfgEnable 1 1) 1 15 true;
      canOn d 1 = true ∧ d.flag netCanCfgListen 1 = false ∧ canOffered d 1 15 = true ∧ canFirst d 1 15 = true) ∧
    (let d := (((ready []).setFld netCanCfgEnable 1 1).setFld netCanStatusState 2 1).setFld netCanCfgAutoRecover 1 1;
      d.fld netCanStatusState 1 = 2 ∧ d.flag netCanCfgAutoRecover 1 = true) := by decide +kernel

/-- R468 to R472: open loops that may and may not close, a closed one. -/
theorem test_hyp_LoopStates : (let d := ready []
      let bad := (d.setFld loopkClampUmin 5 15).setFld loopkClampUmax 1 15
      let ok := ((d.setFld adcCfgEnable 1 0).setFld loopkClampUmax 0x7FFF 15).setFld pwmCfgEnable 1 0;
      bits (bankWord d.regs (rLoopkCtrl + 0x40 * 15)).toNat 4 2 = 0 ∧ loopState ok 15 = lsOpen ∧ closeOk ok 15 = true ∧ closeOk bad 15 = false ∧
        loopState (d.setFld loopkCtrlState 1 15) 15 = lsClosed ∧ reaches d .host (rLoopkMan + 0x40 * 15) 4 true 15 = true ∧
        reaches d .host (rLoopkCtrl + 0x40 * 15) 4 true 15 = true) := by decide +kernel

/-- A conversion runs on AIN channel 0. -/
def converts (d : Dev) : Dev := { d with loop := { d.loop with converting := [0] } }

/-- R454, R456, R457: a timer due; a conversion whose end completes a closed loop's sample. -/
theorem test_hyp_LoopSample : (let d : Dev := (((ready []).setFld loopCtrlEnable 1).setFld adcCfgEnable 1 0).setFld loopkClampUmax 0x7FFF 0
      let t : Dev := (d.setFld loopkCtrlState 1 0).updLp 0 fun l => { l with armed := 1 }
      let x : LoopSample := ⟨0, [0], 0, 0⟩
      let e : Dev := converts (t.updLp 0 fun l => { l with sample := some x });
      timerDue t 0 = true ∧ t.flag loopkSrcTrig 0 = false ∧ outerLoops t 0 = [] ∧ measAin t 0 = some 0 ∧ t.flag adcCfgEnable 0 = true ∧
        t.fld loopkSrcSpsrc 0 = 0 ∧ e.loop.converting.contains 0 = true ∧ (upto 16).all (fun j => decide (j ≠ 0 → (e.lp j).sample = none)) = true ∧
        (e.lp 0).sample = some x ∧ loopState e 0 = lsClosed ∧ e.flag loopkRcEn 0 = false ∧ e.flag loopInjCtrlRun = false ∧
        e.flag loopCapCtrlRun = false ∧ (e.lp 0).swap = false ∧ e.fld loopkSatLimit 0 = 0 ∧ e.sfld loopkClampUmin 0 ≤ e.sfld loopkClampUmax 0 ∧
        (converts t).loop.converting.contains 0 = true ∧
        (upto 16).all (fun j => decide ((t.lp j).sample = none)) = true) := by decide +kernel

/-- R462, R464, R465, R475, R476, R479: pulse inputs in each mode, a PWM channel, a plan step, injection, capture and the window. -/
theorem test_hyp_LoopChannels : (let d : Dev := { ready [] with loop := { pins := [(7, { started := true })] } }
      let q := (ready []).setFld pinCfgMode 2 6;
      quadOf d 7 = none ∧ true ≠ d.flag pinCfgEdge 7 ∧ (d.pin 7).started = true ∧ (d.pin 7).acc + 5 < 2 ^ 24 ∧ d.fld pinCfgMode 7 = 0 ∧
        quadOf q 7 = some 6 ∧ (d.setFld pinCfgMode 1 7).fld pinCfgMode 7 = 1 ∧ q.fld pinCfgMode 6 = 2 ∧ true ≠ (q.pin 7).high ∧
        ((ready []).setFld pwmCfgEnable 1 7).flag pwmCfgEnable 7 = true) ∧
    ([(rPinCfg + 0x10 * 7, true, 7), (rLoopInjCtrl, true, 0), (rLoopCapCtrl, true, 0), (rLoopMdata, false, 0), (rLoopMdata, true, 0)].all fun e =>
      reaches (ready []) .host e.1 4 e.2.1 e.2.2) = true ∧
    (let x : LoopPlan := { use := ⟨0, planEntry⟩, step := 0 }
     let d : Dev := { ((ready []).setFld loopkPscalePscale 0x3F800000 0).setFld loopPlanStepUs 1 with loop := { loops := [(0, { plan := some x })] }, time := 1000 * 2 ^ 32 };
      (d.lp 0).plan = some x ∧ d.fld planCfgCt = 0 ∧ x.step + 1 < planEntry.steps ∧
        (((d.now : Int) - planT0 d planEntry) / stepNs d).toNat = x.step + 1 ∧
        planSetpoint d 0 (planEntry.u.getD ((x.step + 1) * planEntry.nu + maskElem planEntry.mask 0) 0) = some 0x4000) ∧
    ((ready []).setFld loopCapCfgSync 1).flag loopCapCfgSync = true ∧ (ready []).flag loopCapCfgSync = false ∧
    bits (bankWord (portBank (ready []) .host) rLoopMsel).toNat 14 13 = 0 ∧ bits (bankWord (portBank (ready []) .host) rLoopMsel).toNat 12 0 < 2048 := by
  decide +kernel

/-- A ring of four in which this module is at position 1, and both links are up. -/
def ringed : Dev := ((((ready []).setFld plkLinkStatusUp 1 0).setFld plkLinkStatusUp 1 1).setFld plkStatusCount 4).setFld plkStatusPosition 1

/-- R415 to R423: flits in and out of order, for this module and another; the states of links and of formation. -/
theorem test_hyp_Ring : (let d := ringed
      let g : Flit := { type := .data, seq := 0, ackSeq := 0, dst := 2, src := 0, msgSeq := 1 }
      let f : Flit := { g with crc := flitCrc g };
      f.crc = flitCrc f ∧ g.crc ≠ flitCrc g ∧ (∀ t ∈ [FlitType.ack, .nack], (let h : Flit := { g with type := t }; ({ h with crc := flitCrc h } : Flit).crc = flitCrc { h with crc := flitCrc h })) ∧
      linkIsUp d 0 = true ∧ linkIsUp d 1 = true ∧ 2 ≤ d.modules ∧ d.position < d.modules ∧ f.dst.toNat ≠ d.position ∧ route d 2 = some 0 ∧
        (d.link 1).replay = [] ∧ f.seq.toNat = (d.link 1).expect ∧ d.links.breaks = [] ∧ (1 : Byte).toNat = d.position ∧
        (0 : Nat) ≤ mapGet 0 d.links.applied 0 ∧ (1 : BitVec 12).toNat ≠ (d.link 1).expect) ∧
    (let d := (ready []).setFld plkLinkStatusUp 1 0
     let e : Dev := { d with links := { link := [(0, { nacked := true, badWindows := 9, replay := [({ type := .data, seq := 5, ackSeq := 0 }, 6)] })] } };
      linkIsUp e 0 = true ∧ e.modules < 2 ∧ (e.link 0).nacked = true ∧ 9 ≤ (e.link 0).badWindows ∧ (e.link 0).replay ≠ [] ∧ (d.link 0).badWindows < 9) ∧
    (let d := ((ready []).setFld plkCtrlEnable 1).setFld plkLinkStatusUp 1 0;
      d.boot.powered = true ∧ d.flag plkCtrlEnable = true ∧ linkIsUp d 1 = false ∧ linkIsUp d 0 = true ∧ d.flag plkCtrlHead = false ∧
        (d.setFld plkCtrlHead 1).flag plkCtrlHead = true ∧ ({ d with net := { d.net with forming := true }, links := { d.links with reformAt := some 0 } } : Dev).links.reformAt = some d.time ∧
        d.links.downAt ≠ some d.time ∧ ({ d with links := { d.links with downAt := some 0 } } : Dev).links.downAt = some d.time ∧
        d.flag devPwrDraining = false ∧ bits (bankWord d.regs rPlkCtrl).toNat 3 2 = 0) ∧
    (let d := ringed.setFld plkStatusAligning 1;
      2 ≤ d.modules ∧ d.position ≠ 0 ∧ d.flag plkStatusAligning = true ∧ d.net.stepDue = false ∧ d.links.aligned = 0) := by decide +kernel

/-! ## Memory, supply, firmware, Clearing and start-up -/

/-- R434, R443, R446: a channel and a Canopy slice in scrub with corrections, a bank that is on, a row that has earned its spare. -/
theorem test_hyp_Memory : (let d := ((ready [(0x1E000, 1)]).setFld memStatusTrained 1).setFld memCtrlScrubEn 1
      let e : Dev := { (d.setFld tileBankPwrOn 0x8000 135) with scrub := { rowErrs := [(ddrRowKey 3 7 131063, 3)] } };
      d.boot.compute = true ∧ d.flag memStatusTrained = true ∧ d.flag memCtrlScrubEn = true ∧ mapGet 0 d.scrub.ddr 3 < channelBursts ∧
        d.poison = [] ∧ eccCorrects d ≠ 0 ∧ (∀ a, mapGet Ecc.clean d.flaws a = .clean) ∧
        (let a := burstAddr 3 0; mapGet Ecc.clean ({ d with flaws := [(a, .uncorrectable)] } : Dev).flaws a = .uncorrectable) ∧
        (e.tile 135).flaws = [] ∧ mapGet Ecc.clean ({ flaws := [(rowKey 15 0, .uncorrectable)] } : Tile).flaws (rowKey 15 0) = .uncorrectable ∧ bit (e.fld tileBankPwrOn 135) 15 = true ∧ fwReady e = true ∧ guardHeld e = false ∧ e.mgmt.repair = none ∧
        3 ≤ mapGet 0 e.scrub.rowErrs (ddrRowKey 3 7 131063) ∧ mapGet 0 e.scrub.rowErrs (ddrRowKey 3 7 0) < 3 ∧
        e.scrub.rowBad.contains (ddrRowKey 3 7 0) = false) := by
  refine ⟨by decide +kernel, by decide +kernel, by decide +kernel, by decide +kernel, by decide +kernel, by decide +kernel, fun _ => rfl, ?_⟩
  decide +kernel

/-- R485, R486: sensors below and above the limits, with and without firmware; regions whose tiles idle. -/
theorem test_hyp_Sensors : (let d := ready [(0x1E000, 1)]
      let e : Dev := { d with mgmt := { limits := [0], limitTimes := [(1, [0, 0])] } };
      d.boot.powered = true ∧ 3 ∉ d.mgmt.switching ∧ fwReady d = true ∧ fwReady (ready []) = false ∧ safeState d = false ∧
        mapGet 0 d.mgmt.trims 0 = 0 ∧ (0 ∈ e.mgmt.limits) ∧ 1 ∉ e.mgmt.limits ∧
        2 ≤ ((mapGet [] e.mgmt.limitTimes 1).filter fun t => decide (e.now < t + 3600 * 10 ^ 9)).length ∧
        ((regionTiles 1).all fun t => decide (issueDuty { e with tiles := (regionTiles 1).map fun t => (t, { demandDuty := 1, duty := 1 }) } t ≤ e.floorDuty)) = true ∧
        (regionTiles 1).find? (fun t => ((e.tile t).service = .inService)) = none ∧
        (({ e with tiles := [(9, { service := .inService })] } : Dev).tile 9).service = .inService ∧ 9 ∈ regionTiles 1) := by decide +kernel

/-- R510, R512, R523, R528 to R530: supplies, the write guard's release, and removals. -/
theorem test_hyp_Supply : (let d : Dev := { ready [] with clr := { on := true, fresh := false, vin := 36501, vhold := 39000 } };
      d.clr.on = true ∧ d.boot.powered = true ∧ d.boot.compute = true ∧ 36500 < d.clr.vin ∧ safeState d = false) ∧
    (let d : Dev := { (ready []).setFld clrGuardHeld 1 with clr := { on := true, vin := 16000, vhold := 38001, recovering := true } };
      guardHeld d = true ∧ d.clr.recovering = true ∧ 16000 ≤ d.clr.vin ∧ d.clr.vin ≤ 36000 ∧ 38000 < d.clr.vhold ∧ d.mgmt.mbox = []) ∧
    (let d := (ready []).setFld devPwrDraining 1;
      d.flag devPwrDraining = true ∧ d.jobs = [] ∧ d.boot.powered = true ∧ 3 ∉ d.mgmt.switching) := by decide +kernel

/-- R482, R493: a watchdog expiry with and without a valid firmware; firmware about to start; no kind valid. -/
theorem test_hyp_Firmware : (let s : State := { dev := ready [(0x1E000, 1)], nv := flashed };
      s.goodImg 1 false = some goodImage ∧ fwReady s.dev = true ∧ s.dev.boot.expiries.length < 2 ∧
        2 ≤ (([0, 0].filter fun t => decide (s.dev.now < t + 600 * 10 ^ 9)) : List Nat).length) ∧
    (let s : State := { dev := { ready [] with mgmt := { keyLocked := true } }, nv := { slots := (List.range 12).map fun i => (i, {}) } };
      s.goodImg 1 false = none ∧ s.goodImg 1 true = none ∧ s.goodImg 2 false = none ∧ s.goodImg 5 true = none ∧ fwReady s.dev = false ∧
        s.dev.boot.stage0Done = true ∧ s.dev.boot.running = false ∧ s.dev.mgmt.romOnly = false ∧ s.dev.mgmt.keyLocked = true ∧ s.dev.mgmt.mbox = []) := by
  decide +kernel

/-- One event waits, `lost` are lost; the current sector holds `n` records. -/
def logged (n lost : Nat) : State :=
  let d : Dev := { ready [(0x1E000, 1)] with mgmt := { log := [⟨0, lgThermal, []⟩], lost := lost } }
  { dev := d, nv := { log := [(0, { recs := List.replicate n (List.replicate 64 0) })] } }

/-- R487, R488: events that wait, none and one lost; sectors with 59 records, none, and 60. -/
theorem test_hyp_Log : (let b : List Byte := List.replicate 64 0
      let s : Nat → Nat → State := logged;
      fwReady (s 59 0).dev = true ∧ guardHeld (s 59 0).dev = false ∧ (s 59 0).nv.logCur < 1024 ∧ (s 59 0).nv.chain.length = 16 ∧
        (s 59 0).nv.prevSeal.length = 16 ∧ (s 59 1).dev.mgmt.lost ≠ 0 ∧ (mapGet {} (s 59 0).nv.log 0).recs.length = 59 ∧
        (mapGet {} (s 60 0).nv.log 0).recs = b :: List.replicate 59 b ∧ (mapGet {} (s 0 0).nv.log 0).recs = []) := by decide +kernel

/-- R500 to R502: kind 4 in trial with DDR4 trained, and not; the hub waits for its reload. -/
theorem test_hyp_Trial : (let s : State := { dev := (ready [(0x1E000, 1)]).setFld memStatusTrained 1, nv := { boot := [(4, ⟨false, true, 2⟩)] } };
      (s.bootPtr 4).trial = true ∧ confirms s.dev 4 = true ∧ runsActive s 4 = true ∧ (s.bootPtr 5).trial = false ∧ s.dev.mgmt.ptr = none ∧
        guardHeld s.dev = false) ∧
    (let d : Dev := { ready [(0x1E000, 1)] with mgmt := { switching := [2] } };
      2 ∈ d.mgmt.switching ∧ fwReady d = true ∧ guardHeld d = false ∧ deadlineRunning d = false) := by decide +kernel

/-- R506 to R509, R526: Clearing off, on, asleep; samples for which a rule wakes, asks for sleep, and decides nothing; sleep. -/
theorem test_hyp_Clearing : (({} : Dev).clr.on = false) ∧
    (let d : Dev := { ready [] with clr := { on := true, fresh := false, asleep := true, vin := 5999, vhold := 14999 } };
      d.clr.on = true ∧ d.clr.vin < 6000 ∧ d.clr.vhold < 15000 ∧ d.clr.asleep = true ∧ d.clr.fresh = false ∧ decideRule d = none) ∧
    (let d := ((ready [(0x1E000, 1)]).setFld clrStatusSleepReq 1);
      d.flag clrStatusSleepReq = true ∧ d.boot.powered = true ∧ fwReady d = true ∧ d.jobs = [] ∧
        ({ d with boot := { d.boot with sleeping := true } } : Dev).boot.sleeping = true) := by decide +kernel

/-- Clearing after a sample of 0 mV with no pin low, rule 15 as given. -/
def counted (rule : U32) (asleep : Bool) : Dev :=
  let x : ClrInputs := { wake := 0, supplyMv := 0, seatedN := true }
  let d : Dev := { ready [(0x1F040 + 4 * 15, rule)] with clr := { on := true, fresh := false, asleep := asleep } }
  let b := (upto 4).foldl (sampleWake x) d
  (upto 16).foldl countHold (samplePins x { b with clr := { b.clr with supply := [0], temp := none } })

/-- R508: a rule wakes, one keeps the module asleep, one asks for sleep, and none decides. -/
theorem test_hyp_Rules : decideRule (counted 0xA0000003 true) = some (15, 1) ∧ decideRule (counted 0xC0000003 true) = some (15, 2) ∧
    decideRule (counted 0xE0000003 false) = some (15, 3) ∧ decideRule (counted 0x20000003 true) = none := by decide +kernel

/-- R526, R544 to R548: power-good awaited; each stage of a start-up. -/
theorem test_hyp_Startup : (let d : Dev := { clr := { on := true, rising := true } }; d.clr.rising = true ∧ d.boot.powered = false) ∧
    (let s (k : Nat) : State := { dev := { (({} : Dev).setFld devStatusStage k) with boot := { powered := true, compute := true, running := true } }, nv := flashed };
      ((upto 6).all fun k => (s k).dev.fld devStatusStage = k) = true ∧ (s 1).goodImg 1 false = some goodImage ∧ (s 1).dev.mgmt.romOnly = false ∧
        (s 2).dev.mgmt.mbox = [] ∧ fwReady (s 2).dev = false ∧ safeState (s 2).dev = false ∧
        ([2, 3, 4].all fun k => ((s 2).goodImg k false).isSome) = true ∧ ({} : StageReport).channelsTrained = 0xF ∧
        (s 4).repair.retired = [] ∧ ((s 4).dev.tile 135).service ≠ .retired ∧ (s 5).dev.flag devCtrlSetupLock = false) := by decide +kernel

/-- R487: the log's invariant holds at reset. -/
theorem test_hyp_LogSectors : (let v := State.reset; v.nv.logCur < 1024 ∧ (mapGet {} v.nv.log v.nv.logCur).recs.length < 60 ∧
    (mapGet {} v.nv.log v.nv.logCur).sealBytes = none ∧ mapGet {} v.nv.log ((v.nv.logCur + 1) % 1024) = {} ∧ v.nv.log = []) := by decide +kernel

end Sys2Proof.Machine
end

section
/-! PROOFS. Memory reads back, and the places of DDR4 (R18, R426, R428, R434): O53. -/

namespace Sys2Proof.Machine

variable {α : Type}

/-! ### Sparse maps in canonical form -/

/-- A map whose keys start at `lo` lists nothing below. -/
theorem mapGet_of_lt_rising (z : α) (m : SMap α) {lo k : Nat} (h : mapRising lo m = true) (hk : k < lo) : mapGet z m k = z := by
  induction m generalizing lo with
  | nil => rfl
  | cons e r ih =>
    obtain ⟨a, w⟩ := e
    simp only [mapRising, Bool.and_eq_true, decide_eq_true_eq] at h
    have hne : a ≠ k := by omega
    simp only [mapGet, if_neg hne]
    exact ih h.2 (by omega)

/-- Where no entry equals the default, a key that reads as the default is not listed. -/
theorem mapErase_of_get_default [DecidableEq α] (z : Nat → α) (m : SMap α) (k : Nat)
    (hm : m.all (fun e => decide (e.2 ≠ z e.1)) = true) (h : mapGet (z k) m k = z k) : mapErase m k = m := by
  induction m with
  | nil => rfl
  | cons e r ih =>
    obtain ⟨a, w⟩ := e
    simp only [List.all_cons, Bool.and_eq_true, decide_eq_true_eq] at hm
    by_cases hak : a = k
    · subst hak
      simp only [mapGet, if_true] at h
      exact absurd h hm.1
    · simp only [mapGet, if_neg hak] at h
      simp only [mapErase, if_neg hak, ih hm.2 h]

/-- A listed value listed again changes nothing. -/
theorem mapInsert_get_self (z : α) (m : SMap α) {lo : Nat} (k : Nat) (hm : mapRising lo m = true) (h : mapGet z m k ≠ z) :
    mapInsert m k (mapGet z m k) = m := by
  induction m generalizing lo with
  | nil => exact absurd rfl h
  | cons e r ih =>
    obtain ⟨a, w⟩ := e
    simp only [mapRising, Bool.and_eq_true, decide_eq_true_eq] at hm
    by_cases hak : a = k
    · subst hak
      simp only [mapGet, mapInsert, if_true]
    · simp only [mapGet, if_neg hak] at h ⊢
      have hka : ¬ k < a := fun c => h (mapGet_of_lt_rising z r hm.2 (by omega))
      simp only [mapInsert, if_neg hak, if_neg hka, ih hm.2 h]

/-- What a key reads written back changes nothing. -/
theorem mapSet_get_self [DecidableEq α] (z : Nat → α) (m : SMap α) (k : Nat) (h : mapWf z m = true) :
    mapSet (z k) m k (mapGet (z k) m k) = m := by
  simp only [mapWf, Bool.and_eq_true] at h
  unfold mapSet
  split
  next hz => exact mapErase_of_get_default z m k h.2 hz
  next hz => exact mapInsert_get_self (z k) m k h.1 hz

/-! ### Bytes of memory (R18, R426) -/

/-- Memories that hold the same bytes in a range read alike there. -/
theorem memReadN_congr {m m' : Memory} (n a : Nat) (h : ∀ c, a ≤ c → c < a + n → memRead m c = memRead m' c) :
    memReadN m a n = memReadN m' a n := by
  induction n generalizing a with
  | zero => rfl
  | succ n ih =>
    simp only [memReadN]
    rw [h a (by omega) (by omega), ih (a + 1) fun c h1 h2 => h c (by omega) (by omega)]

/-- A store of bytes reads back. -/
theorem memReadN_writeN_self (m : Memory) (a : Nat) (l : List Byte) : memReadN (memWriteN m a l) a l.length = l := by
  induction l generalizing m a with
  | nil => rfl
  | cons b r ih =>
    have hb : memRead (memWriteN m a (b :: r)) a = b := memRead_writeN_in m a (b :: r) 0 (by simp)
    simp only [List.length_cons, memReadN, hb]
    simp only [memWriteN, ih]

/-- Bytes outside a store read as before it. -/
theorem memReadN_writeN_out (m : Memory) (a : Nat) (l : List Byte) (c n : Nat) (h : c + n ≤ a ∨ a + l.length ≤ c) :
    memReadN (memWriteN m a l) c n = memReadN m c n :=
  memReadN_congr n c fun x h1 h2 => memRead_writeN_out m a l x (by omega)

/-- What is read written back changes nothing. -/
theorem memWriteN_readN_self (m : Memory) (a n : Nat) (h : m.wf = true) : memWriteN m a (memReadN m a n) = m := by
  induction n generalizing a with
  | zero => rfl
  | succ n ih =>
    have hb : memWrite m a (memRead m a) = m := mapSet_get_self (fun _ => memDefault) m a h
    simp only [memReadN, memWriteN, hb, ih]

/-! ### The places of DDR4 (R428, R434) -/

/-- Equal rows have equal bits 19:18 and 20, which the channel and the bank group are mixed with. -/
theorem ddrMix_of_row {a b : Nat} (h : bits a 34 18 = bits b 34 18) : bits a 19 18 = bits b 19 18 ∧ bits a 20 20 = bits b 20 20 := by
  simp only [bits] at *
  omega

/-- R428: the place of a byte tells its burst. -/
theorem ddrPlace_injective {a b : Nat} (ha : a < 2 ^ 35) (hb : b < 2 ^ 35) (h : ddrPlace a = ddrPlace b) : a / 64 = b / 64 := by
  simp only [ddrPlace, DdrPlace.mk.injEq] at h
  obtain ⟨hch, hgrp, hbank, hrow, hburst⟩ := h
  obtain ⟨hmixCh, hmixGrp⟩ := ddrMix_of_row hrow
  rw [hmixCh] at hch
  rw [hmixGrp] at hgrp
  have hch := Nat.xor_left_injective hch
  have hgrp := Nat.xor_left_injective hgrp
  simp only [bits] at *
  omega

/-- What is added to a burst's address for its channel. -/
def channelOffset (ch k : Nat) : Nat := ch ^^^ bits (64 * (k % 4) + 1024 * (k / 4)) 19 18

theorem channelOffset_lt {ch : Nat} (k : Nat) (h : ch < 4) : channelOffset ch k < 4 :=
  Nat.xor_lt_two_pow (n := 2) h (bits_lt _ 19 18)

theorem burstAddr_eq (ch k : Nat) : burstAddr ch k = 64 * (k % 4) + 1024 * (k / 4) + 256 * channelOffset ch k := rfl

/-- R434: a burst of channel `ch` lies in channel `ch`. -/
theorem ddrPlace_burstAddr_channel {ch : Nat} (k : Nat) (h : ch < 4) : (ddrPlace (burstAddr ch k)).channel = ch := by
  have hlt := channelOffset_lt k h
  have hlow : bits (burstAddr ch k) 9 8 = channelOffset ch k := by
    rw [burstAddr_eq]
    simp only [bits]
    omega
  have hhigh : bits (burstAddr ch k) 19 18 = bits (64 * (k % 4) + 1024 * (k / 4)) 19 18 := by
    rw [burstAddr_eq]
    simp only [bits]
    omega
  simp only [ddrPlace, hlow, hhigh, channelOffset, Nat.xor_assoc, Nat.xor_self, Nat.xor_zero]

/-- R434: bursts are numbered in ascending address order. -/
theorem burstAddr_lt {ch j k : Nat} (h : ch < 4) (hjk : j < k) : burstAddr ch j < burstAddr ch k := by
  have hj := channelOffset_lt j h
  rw [burstAddr_eq, burstAddr_eq]
  by_cases hq : j / 4 = k / 4
  · have hsame : channelOffset ch j = channelOffset ch k := by
      have hbits : bits (64 * (j % 4) + 1024 * (j / 4)) 19 18 = bits (64 * (k % 4) + 1024 * (k / 4)) 19 18 := by
        simp only [bits]
        omega
      simp only [channelOffset, hbits]
    omega
  · omega

/-- Settles O53: memory by induction over the bytes stored; the DDR4 map by taking the row's bits out of channel and bank group. -/
theorem memoryReadsBack : Obligations.MemoryReadsBack := by
  unfold Obligations.MemoryReadsBack
  refine ⟨fun m a l => ⟨memReadN_writeN_self m a l, memReadN_writeN_out m a l, fun h =>
      ⟨Memory.wf_writeN m a l h, memWriteN_readN_self m a _ h⟩⟩,
    fun a b ha hb h => ddrPlace_injective ha hb h, fun ch k hch hk => ⟨ddrPlace_burstAddr_channel k hch, ?_, ?_⟩,
    fun ch j k hch hjk _ => burstAddr_lt hch hjk⟩
  all_goals
    have hlt := channelOffset_lt k hch
    rw [burstAddr_eq]
    simp only [channelBursts] at hk
    omega

end Sys2Proof.Machine
end

section
/-! PROOFS. Accesses of the two ports (R10 to R13): O34 and O35. -/

namespace Sys2Proof.Machine

/-! ### How an access is treated (R11 to R13) -/

theorem reach_of_faulty {d : Dev} {p : Port} {off size : Nat} {wr : Bool} (h : size ≠ 4 ∧ size ≠ 8 ∨ off % size ≠ 0) :
    reach d p off size wr = .faulty := by
  unfold reach
  refine if_pos ?_
  simpa using h

/-- A 64-bit access to a 32-bit register is faulty (R11). -/
theorem reach_of_narrow {d : Dev} {p : Port} {off : Nat} {wr : Bool} {r : RDef} (ho : off % 8 = 0) (hb : rsvdBlock off = false)
    (hs : ¬ (p = .host ∧ inSup off = true)) (hr : findReg off = some r) (hw : r.wide = false) (ha : available d p off wr = true) :
    reach d p off 8 wr = .faulty := by
  have hs : (decide (p = .host) && inSup off) = false := by simpa using hs
  simp [reach, ho, hb, hs, hr, hw, ha]

/-- An access to a RSVD block, to SUP from the host or to an offset of no register (R12). -/
theorem reach_of_unassigned {d : Dev} {p : Port} {off size : Nat} {wr : Bool} (hs : size = 4 ∨ size = 8) (ho : off % size = 0)
    (h : rsvdBlock off = true ∨ (p = .host ∧ inSup off = true) ∨ (findReg off = none ∧ available d p off wr = true)) :
    reach d p off size wr = .unassigned := by
  have hsize : ¬ ((!(decide (size = 4) || decide (size = 8)) || decide (off % size ≠ 0)) = true) := by
    rcases hs with rfl | rfl <;> simp [ho]
  unfold reach
  rw [if_neg hsize]
  by_cases hblock : (rsvdBlock off || (decide (p = .host) && inSup off)) = true
  · rw [if_pos hblock]
  · rw [if_neg hblock]
    simp only [Bool.or_eq_true, Bool.and_eq_true, decide_eq_true_eq, not_or] at hblock
    obtain ⟨hfind, havail⟩ := (h.resolve_left hblock.1).resolve_left hblock.2
    simp [hfind, havail]

/-! ### What a port's access does, by its treatment -/

section
variable {s : State} {p : Port} {off size : Nat}

/-- A write that is faulty or goes to an unassigned offset sets BAD_ACCESS (R11, R12). -/
theorem registerWrite_bad {v : U64} (hl : portAlive s.dev p = true) (ha : portAsleep s.dev p = false)
    (h : reach s.dev p off size true = .faulty ∨ reach s.dev p off size true = .unassigned) :
    exec (.registerWrite p off size v) s = leaves s (s.dev.setFld devErrStatusBadAccess 1) := by
  rcases h with h | h <;>
    simp [execRegisterWrite, cmdWrite, portWrite, hl, ha, h, leaves, State.mapDev, badAccess]

/-- A read is what `portRead` makes of the treatment of its access, emitted by the port. -/
theorem lowWordRead_eq (hl : portAlive s.dev p = true) :
    exec (.lowWordReadLatch p off size) s =
      leaves s ((portRead p off size s.dev).1.emit (.readData p size (BitVec.ofNat 64 (portRead p off size s.dev).2))) := by
  simp [execLowWordReadLatch, cmdRead, hl, leaves, State.mapDev]

theorem portRead_faulty {d : Dev} (ha : portAsleep d p = false) (ht : lateRead d p off = false)
    (h : reach d p off size false = .faulty) : portRead p off size d = (d.setFld devErrStatusBadAccess 1, 2 ^ (8 * size) - 1) := by
  simp [portRead, ha, ht, h, badAccess, allOnes]

theorem portRead_unassigned {d : Dev} (ha : portAsleep d p = false) (ht : lateRead d p off = false)
    (h : reach d p off size false = .unassigned) : portRead p off size d = (d.setFld devErrStatusBadAccess 1, 0) := by
  simp [portRead, ha, ht, h, badAccess]

end

/-- Settles O34: each kind of access is faulty or unassigned, and what such an access does is said once. -/
theorem faultyAndUnassignedAccesses : Obligations.FaultyAndUnassignedAccesses := by
  unfold Obligations.FaultyAndUnassignedAccesses
  intro s p off size v hl ha
  refine ⟨fun h => ⟨?_, fun ht => ?_⟩, fun r ho hb hs hr hw => ⟨fun hav => ?_, fun hav ht => ?_⟩,
    fun hs ho => ⟨fun h => ?_, fun ht h => ?_⟩⟩
  · exact registerWrite_bad hl ha (.inl (reach_of_faulty h))
  · rw [lowWordRead_eq hl, portRead_faulty ha ht (reach_of_faulty h)]
  · exact registerWrite_bad hl ha (.inl (reach_of_narrow ho hb hs hr hw hav))
  · rw [lowWordRead_eq hl, portRead_faulty ha ht (reach_of_narrow ho hb hs hr hw hav)]
    rfl
  · exact registerWrite_bad hl ha (.inr (reach_of_unassigned hs ho h))
  · rw [lowWordRead_eq hl, portRead_unassigned ha ht (reach_of_unassigned hs ho h)]
    rfl

/-! ### Two-word accesses (R10) -/

theorem mapFind_insert_self {α : Type} (m : SMap α) (k : Nat) (v : α) : mapFind (mapInsert m k v) k = some v := by
  induction m with
  | nil => simp [mapInsert, mapFind]
  | cons e r ih =>
    obtain ⟨a, w⟩ := e
    unfold mapInsert
    split
    next => simp [mapFind]
    next hne =>
      split
      next => simp [mapFind]
      next => simp [mapFind, hne, ih]

theorem mapErase_insert_self {α : Type} (m : SMap α) (k : Nat) (v : α) : mapErase (mapInsert m k v) k = mapErase m k := by
  induction m with
  | nil => simp [mapInsert, mapErase]
  | cons e r ih =>
    obtain ⟨a, w⟩ := e
    unfold mapInsert
    split
    next heq => simp [mapErase, heq]
    next hne =>
      split
      next => simp [mapErase, hne]
      next => simp [mapErase, hne, ih]

theorem mapErase_of_find_none {α : Type} (m : SMap α) (k : Nat) (h : mapFind m k = none) : mapErase m k = m := by
  induction m with
  | nil => rfl
  | cons e r ih =>
    obtain ⟨a, w⟩ := e
    by_cases hak : a = k
    · simp [mapFind, hak] at h
    · simp only [mapFind, if_neg hak] at h
      simp only [mapErase, if_neg hak, ih h]

@[simp] theorem portState_setPortState (d : Dev) (p : Port) (x : PortState) : portState (setPortState d p x) p = x := by
  cases p <;> rfl

@[simp] theorem setPortState_setPortState (d : Dev) (p : Port) (x y : PortState) :
    setPortState (setPortState d p x) p y = setPortState d p y := by
  cases p <;> rfl

@[simp] theorem setPortState_portState (d : Dev) (p : Port) : setPortState d p (portState d p) = d := by
  cases p <;> rfl

@[simp] theorem setPortState_regs (d : Dev) (p : Port) (x : PortState) : (setPortState d p x).regs = d.regs := by
  cases p <;> rfl

@[simp] theorem setPortState_supRegs (d : Dev) (p : Port) (x : PortState) : (setPortState d p x).supRegs = d.supRegs := by
  cases p <;> rfl

@[simp] theorem setPortState_out (d : Dev) (p : Port) (x : PortState) : (setPortState d p x).out = d.out := by
  cases p <;> rfl

/-- What a port holds of 64-bit registers does not change how an access is treated. -/
theorem reached_setPortState {d : Dev} {p : Port} {off size i : Nat} {r : RDef} (x : PortState)
    (h : Reached d p off size true r i) : Reached (setPortState d p x) p off size true r i := by
  cases p <;> exact h

/-- A write that reaches a register (R10, R15). -/
theorem cmdWrite_of_reached {s : State} {p : Port} {off size i : Nat} {r : RDef} (v : Nat) (h : Reached s.dev p off size true r i) :
    cmdWrite p off size v s = if r.wide && size = 4 then writeWord p r i off (v % 2 ^ (8 * size)) s
      else writeReg p r i (v % 2 ^ (8 * size)) s := by
  obtain ⟨hl, ha, hr, -⟩ := h
  simp [cmdWrite, portWrite, hl, ha, hr]

/-- A read of a register leaves it to the free values only whether its answer is in time (R389). -/
def readerDev (p : Port) (off : Nat) (d : Dev) : Dev := if p = .spadja && slowBlock off then d.bump else d

/-- A read that reaches a register (R10). -/
theorem portRead_of_reached {d : Dev} {p : Port} {off size i : Nat} {r : RDef} (h : Reached d p off size false r i) :
    portRead p off size d = if r.wide && size = 4 then readWord p r i off (readerDev p off d) else readReg p r i (readerDev p off d) := by
  obtain ⟨-, ha, hr, ht⟩ := h
  have ht : lateRead d p off = false := ht.resolve_left (by decide)
  simp [portRead, ha, ht, hr, readerDev]

@[simp] theorem portState_readerDev (p : Port) (off : Nat) (d : Dev) : portState (readerDev p off d) p = portState d p := by
  unfold readerDev
  split
  · cases p <;> rfl
  · rfl

@[simp] theorem readerDev_out (p : Port) (off : Nat) (d : Dev) : (readerDev p off d).out = d.out := by
  unfold readerDev
  split <;> rfl

theorem viewOf_bump (d : Dev) (p : Port) (b i : Nat) : viewOf d.bump p b i = viewOf d p b i := by
  cases p <;> rfl

theorem tsqRead_bump (n : Nat) (d : Dev) : tsqRead n d.bump = ((tsqRead n d).1.bump, (tsqRead n d).2) := by
  have hport : d.bump.port n = d.port n := rfl
  unfold tsqRead
  rw [hport]
  split <;> rfl

/-- The values of registers do not depend on how many free values have been taken. -/
theorem readReg_bump (p : Port) (r : RDef) (i : Nat) (d : Dev) :
    readReg p r i d.bump = ((readReg p r i d).1.bump, (readReg p r i d).2) := by
  have hbank : portBank d.bump p = portBank d p := by cases p <;> rfl
  simp only [readReg, viewOf_bump, hbank]
  split
  · cases p <;> rfl
  split
  · simp only [readTsqInfo, tsqRead_bump]
    split <;> cases p <;> rfl
  split
  · cases p <;> rfl
  · rfl

theorem readReg_readerDev (p : Port) (r : RDef) (i off : Nat) (d : Dev) :
    (readReg p r i (readerDev p off d)).1.out = (readReg p r i d).1.out ∧
      (readReg p r i (readerDev p off d)).2 = (readReg p r i d).2 := by
  unfold readerDev
  split
  · rw [readReg_bump]
    exact ⟨rfl, rfl⟩
  · exact ⟨rfl, rfl⟩

/-- A read of the low word latches the high one. -/
theorem readWord_low (p : Port) (r : RDef) (i : Nat) (d : Dev) :
    readWord p r i (r.at i) d = (setPortState (readReg p r i d).1 p { portState d p with
      latch := mapInsert (portState d p).latch (r.at i + 4) (BitVec.ofNat 32 ((readReg p r i d).2 / 2 ^ 32)) },
      (readReg p r i d).2 % 2 ^ 32) := by
  simp [readWord]

/-- A read of a latched high word answers it. -/
theorem readWord_latched (p : Port) (r : RDef) (i : Nat) (d : Dev) (w : U32) (h : mapFind (portState d p).latch (r.at i + 4) = some w) :
    readWord p r i (r.at i + 4) d = (setPortState d p { portState d p with
      latch := mapErase (portState d p).latch (r.at i + 4) }, w.toNat) := by
  simp [readWord, h]

/-- A low word waits for the high one. -/
theorem writeWord_low (p : Port) (r : RDef) (i v : Nat) (s : State) :
    writeWord p r i (r.at i) v s = s.mapDev fun d => setPortState d p { portState s.dev p with
      held := mapInsert (portState s.dev p).held (r.at i) (BitVec.ofNat 32 v) } := by
  simp [writeWord]

/-- No low word of the register at `off` waits at port `p` any longer. -/
def forgetLow (p : Port) (off : Nat) (s : State) : State :=
  { s with dev := setPortState s.dev p { portState s.dev p with held := mapErase (portState s.dev p).held off } }

theorem reached_forgetLow {s : State} {p : Port} {off size i : Nat} {r : RDef} (o : Nat) (h : Reached s.dev p off size true r i) :
    Reached (forgetLow p o s).dev p off size true r i :=
  reached_setPortState (d := s.dev) _ h

theorem forgetLow_of_none {s : State} {p : Port} {off : Nat} (h : mapFind (portState s.dev p).held off = none) :
    forgetLow p off s = s := by
  unfold forgetLow
  rw [mapErase_of_find_none _ _ h]
  cases p <;> rfl

/-- A high word takes effect with the low word that waits. -/
theorem writeWord_high_held (p : Port) (r : RDef) (i v : Nat) (s : State) (w : U32)
    (h : mapFind (portState s.dev p).held (r.at i) = some w) :
    writeWord p r i (r.at i + 4) v s = writeReg p r i (w.toNat + 2 ^ 32 * (v % 2 ^ 32)) (forgetLow p (r.at i) s) := by
  simp [writeWord, h, forgetLow, State.mapDev]

/-- Where none waits it goes with the present low word. -/
theorem writeWord_high_alone (p : Port) (r : RDef) (i v : Nat) (s : State) (h : mapFind (portState s.dev p).held (r.at i) = none) :
    writeWord p r i (r.at i + 4) v s = writeReg p r i
      ((bankWord (if r.perPort then portBank s.dev p else s.dev.regs) (r.at i)).toNat + 2 ^ 32 * (v % 2 ^ 32)) s := by
  generalize hb : (if r.perPort then portBank s.dev p else s.dev.regs) = b
  have hlow : bankReg b true (r.at i) % 2 ^ 32 = (bankWord b (r.at i)).toNat := by
    have := (bankWord b (r.at i)).isLt
    simp only [bankReg, if_true]
    omega
  have hstate := forgetLow_of_none h
  simp only [forgetLow] at hstate
  simp only [writeWord, h, hb, State.mapDev, hstate, show r.at i + 4 ≠ r.at i by omega, if_false, Option.map_none, Option.getD_none, hlow]

/-- The number that two words make. -/
theorem appendWords_toNat (hi lo : U32) : (hi ++ lo).toNat = lo.toNat + 2 ^ 32 * hi.toNat := by
  rw [BitVec.toNat_append, ← Nat.shiftLeft_add_eq_or_of_lt lo.isLt, Nat.shiftLeft_eq]
  omega

/-- A 64-bit write of two words, where it reaches a wide register. -/
theorem cmdWrite_words {s : State} {p : Port} {off i : Nat} {r : RDef} (hi lo : U32) (h : Reached s.dev p off 8 true r i) :
    cmdWrite p off 8 (hi ++ lo).toNat s = writeReg p r i (lo.toNat + 2 ^ 32 * hi.toNat) s := by
  have h1 := hi.isLt
  have h2 := lo.isLt
  rw [cmdWrite_of_reached _ h, appendWords_toNat, Nat.mod_eq_of_lt (by omega)]
  simp

/-- A write of one word of a wide register. -/
theorem cmdWrite_word {s : State} {p : Port} {off i : Nat} {r : RDef} (v : U32) (hw : r.wide = true) (h : Reached s.dev p off 4 true r i) :
    cmdWrite p off 4 (v.setWidth 64).toNat s = writeWord p r i off v.toNat s := by
  have hv := v.isLt
  have hmod : (v.setWidth 64).toNat % 2 ^ (8 * 4) = v.toNat := by
    rw [BitVec.toNat_setWidth]
    omega
  rw [cmdWrite_of_reached _ h, hmod]
  simp [hw]

/-- Both words written one after the other are one write. -/
theorem writeWord_both {s : State} {p : Port} {r : RDef} {i : Nat} (lo hi : U32) :
    writeWord p r i (r.at i + 4) hi.toNat (writeWord p r i (r.at i) lo.toNat s) =
      writeReg p r i (lo.toNat + 2 ^ 32 * hi.toNat) (forgetLow p (r.at i) s) := by
  have hheld : mapFind (portState (writeWord p r i (r.at i) lo.toNat s).dev p).held (r.at i) = some lo := by
    simp [writeWord_low, State.mapDev, mapFind_insert_self]
  rw [writeWord_high_held _ _ _ _ _ _ hheld, Nat.mod_eq_of_lt hi.isLt]
  simp [writeWord_low, State.mapDev, forgetLow, mapErase_insert_self]

/-- Settles O35: what a port latches and holds is read back from its own state, which no access in between changes. -/
theorem twoWordAccesses : Obligations.TwoWordAccesses := by
  unfold Obligations.TwoWordAccesses
  intro s p r i lo hi
  dsimp only
  intro hw
  refine ⟨fun hread => ?_, fun h8 hlo hhi => ⟨?_, fun hnone => ?_⟩⟩
  · obtain ⟨hout, hval⟩ := readReg_readerDev p r i (r.at i) s.dev
    refine ⟨_, lowWordRead_eq hread.1, ?_, fun u hu hnext => ⟨_, lowWordRead_eq hnext.1, ?_⟩⟩
    · simp [portRead_of_reached hread, hw, readWord_low, Dev.emit, hout, hval]
    · have hlatch : mapFind (portState (readerDev p (r.at i + 4) u.dev) p).latch (r.at i + 4) =
          some (BitVec.ofNat 32 ((readReg p r i s.dev).2 / 2 ^ 32)) := by
        have hemit : ∀ (d : Dev) (o : OutItem), portState (d.emit o) p = portState d p := by cases p <;> exact fun _ _ => rfl
        simp [hu, hemit, portRead_of_reached hread, hw, readWord_low, mapFind_insert_self, hval]
      simp [portRead_of_reached hnext, hw, readWord_latched _ _ _ _ _ hlatch, Dev.emit]
  · refine ⟨writeWord p r i (r.at i) lo.toNat s, ?_, ?_, ?_, ?_⟩
    · rw [exec_registerWrite, execRegisterWrite, cmdWrite_word lo hw hlo]
    · simp [writeWord_low, State.mapDev]
    · simp [writeWord_low, State.mapDev]
    · have hhi' : Reached (writeWord p r i (r.at i) lo.toNat s).dev p (r.at i + 4) 4 true r i := by
        rw [writeWord_low, State.mapDev]
        exact reached_setPortState (d := s.dev) _ hhi
      change exec _ _ = exec _ (forgetLow p (r.at i) s)
      rw [exec_registerWrite, exec_registerWrite, execRegisterWrite, execRegisterWrite, cmdWrite_word hi hw hhi', writeWord_both,
        cmdWrite_words hi lo (reached_forgetLow _ h8)]
  · rw [exec_registerWrite, exec_registerWrite, execRegisterWrite, execRegisterWrite, cmdWrite_word hi hw hhi,
      writeWord_high_alone _ _ _ _ _ hnone, cmdWrite_words hi _ h8, Nat.mod_eq_of_lt hi.isLt]

end Sys2Proof.Machine
end

section
/-! PROOFS. Register writes by the field codes (R14 to R16): O36. -/

namespace Sys2Proof.Machine

/-! ### Fields written one after the other -/

/-- Bits that none of the fields covers stay. -/
theorem testBit_foldl_setBits (fs : List FDef) (g : FDef → Nat) (a k : Nat) (hr : ∀ f ∈ fs, f.lo ≤ f.hi)
    (h : ∀ f ∈ fs, ¬ (f.lo ≤ k ∧ k ≤ f.hi)) : (fs.foldl (fun a f => setBits a f.hi f.lo (g f)) a).testBit k = a.testBit k := by
  induction fs generalizing a with
  | nil => rfl
  | cons f fs ih =>
    simp only [List.forall_mem_cons] at hr h
    rw [List.foldl_cons, ih _ hr.2 h.2, testBit_setBits _ _ _ _ _ (by omega), if_neg h.1]

/-- Two fields of one register do not overlap. -/
def FDef.apart (f g : FDef) : Prop := f.hi < g.lo ∨ g.hi < f.lo

/-- A field beside the fields written stays. -/
theorem bits_foldl_setBits_beside (fs : List FDef) (g : FDef → Nat) (a : Nat) (f : FDef) (hr : ∀ e ∈ fs, e.lo ≤ e.hi)
    (h : ∀ e ∈ fs, f.apart e) : bits (fs.foldl (fun a e => setBits a e.hi e.lo (g e)) a) f.hi f.lo = bits a f.hi f.lo := by
  induction fs generalizing a with
  | nil => rfl
  | cons e fs ih =>
    simp only [List.forall_mem_cons] at hr h
    rw [List.foldl_cons, ih _ hr.2 h.2, bits_setBits_ne _ _ _ _ _ _ (by omega) h.1]

/-- Each field written holds what was written to it. -/
theorem bits_foldl_setBits (fs : List FDef) (g : FDef → Nat) (a : Nat) (hr : ∀ e ∈ fs, e.lo ≤ e.hi) (hd : fs.Pairwise FDef.apart)
    (f : FDef) (hf : f ∈ fs) :
    bits (fs.foldl (fun a e => setBits a e.hi e.lo (g e)) a) f.hi f.lo = g f % 2 ^ (f.hi + 1 - f.lo) := by
  induction fs generalizing a with
  | nil => cases hf
  | cons e fs ih =>
    simp only [List.forall_mem_cons] at hr
    rw [List.pairwise_cons] at hd
    rw [List.foldl_cons]
    rcases List.mem_cons.mp hf with rfl | hf
    · rw [bits_foldl_setBits_beside fs g _ f hr.2 hd.1, bits_setBits _ _ _ _ (by omega)]
    · exact ih _ hr.2 hd.2 hf

/-- A field of the low `n` bits of a number. -/
theorem bits_mod_two_pow (v n hi lo : Nat) (h : hi < n) : bits (v % 2 ^ n) hi lo = bits v hi lo := by
  apply Nat.eq_of_testBit_eq
  intro i
  rw [testBit_bits, testBit_bits, Nat.testBit_mod_two_pow]
  by_cases a : i < hi + 1 - lo
  · have : lo + i < n := by omega
    simp [this]
  · simp [a]

/-! ### The tables of registers -/

/-- The fields of a register lie in its width and apart from each other, and no loop guards them. -/
def RDef.fieldsOk (r : RDef) : Bool :=
  r.fields.all (fun f => decide (f.lo ≤ f.hi) && decide (f.hi < if r.wide then 64 else 32) && decide (f.acc ≠ .rws)) &&
    decide (r.fields.Pairwise fun f g => f.hi < g.lo ∨ g.hi < f.lo)

theorem regTable_fieldsOk : regTable.all (fun r => !plainRegister r || r.fieldsOk) = true := by
  decide +kernel

/-- What the tables say of a register without side effects. -/
theorem fieldsOk_of_plain {r : RDef} (hm : r ∈ regTable) (hp : plainRegister r = true) :
    (∀ f ∈ r.fields, f.lo ≤ f.hi ∧ f.hi < (if r.wide then 64 else 32) ∧ f.acc ≠ .rws) ∧ r.fields.Pairwise FDef.apart := by
  have h := List.all_eq_true.mp regTable_fieldsOk r hm
  simp only [hp, Bool.not_true, Bool.false_or, RDef.fieldsOk, Bool.and_eq_true, List.all_eq_true, decide_eq_true_eq] at h
  exact ⟨fun f hf => ⟨(h.1 f hf).1.1, (h.1 f hf).1.2, (h.1 f hf).2⟩, h.2⟩

/-- A register that an access reaches stands in the tables. -/
theorem mem_regTable_of_reached {d : Dev} {p : Port} {off size i : Nat} {wr : Bool} {r : RDef} (h : Reached d p off size wr r i) :
    r ∈ regTable := by
  obtain ⟨-, -, h, -⟩ := h
  unfold reach at h
  repeat' split at h
  all_goals cases h
  next hfind _ => exact List.mem_of_find?_eq_some hfind

/-! ### A write of a register without side effects (R14 to R16) -/

/-- What follows the write of a register without side effects: nothing. -/
theorem afterWrite_plain {r : RDef} (h : plainRegister r = true) (i old v : Nat) (d : Dev) : afterWrite r.base i old v d = d := by
  simp only [plainRegister, commandRegs, Bool.and_eq_true, Bool.not_eq_true', List.contains_eq_mem, decide_eq_false_iff_not,
    List.mem_cons, List.not_mem_nil, or_false, not_or] at h
  simp [afterWrite, h]

theorem writeReg_plain {r : RDef} (h : plainRegister r = true) (p : Port) (i v : Nat) (s : State) :
    writeReg p r i v s = s.mapDev (writeByCodes p r i v) := by
  have hafter := afterWrite_plain h
  simp only [plainRegister, commandRegs, Bool.and_eq_true, Bool.not_eq_true', List.contains_eq_mem, decide_eq_false_iff_not,
    List.mem_cons, List.not_mem_nil, or_false, not_or] at h
  have hloop : ∀ b, 0xE000 ≤ b → b < 0xF000 → r.base ≠ b := fun b h1 h2 hb => h.2 (hb ▸ ⟨h1, h2⟩)
  simp [writeReg, h, hafter, ringFrozen, hloop rLoopCdata0 (by decide) (by decide), hloop rLoopCdata1 (by decide) (by decide),
    hloop rLoopCdata2 (by decide) (by decide), hloop rLoopMdata (by decide) (by decide), hloop rLoopkOut (by decide) (by decide)]

/-- What register `i` of `r` holds after a write of `v` by the field codes, where no loop guards it. -/
def writtenValue (d : Dev) (r : RDef) (i v : Nat) : Nat :=
  writeFields (d.flag devCtrlSetupLock) false r.fields (bankReg d.regs r.wide (r.at i)) v

theorem writeByCodes_plain {r : RDef} (hp : plainRegister r = true) (hrws : ∀ f ∈ r.fields, f.acc ≠ .rws)
    (p : Port) (i v : Nat) (d : Dev) :
    writeByCodes p r i v d = ({ d with regs := bankRegSet d.regs r.wide (r.at i) (writtenValue d r i v) } : Dev).setIf
      (d.flag devCtrlSetupLock && changes r.fields .rwl (bankReg d.regs r.wide (r.at i)) v) devErrStatusLockedWrite 1 := by
  have hport : r.perPort = false := by
    simp only [plainRegister, Bool.and_eq_true, Bool.not_eq_true'] at hp
    exact hp.1.1
  have hinj : r.base ≠ rLoopInjCfg := fun hb => by
    simp [plainRegister, hb, rLoopInjCfg] at hp
  have hstar : hasAcc r.fields .rws = false := by simpa [hasAcc] using hrws
  simp [writeByCodes, hport, hinj, touchesStar, hstar, writtenValue]

theorem writeField_lt (locked blocked : Bool) (old v : Nat) (f : FDef) : writeField locked blocked old v f < 2 ^ (f.hi + 1 - f.lo) := by
  have ho := bits_lt old f.hi f.lo
  have hv := bits_lt v f.hi f.lo
  unfold writeField
  split
  case h_1 => exact hv
  case h_2 => split <;> assumption
  case h_3 => split <;> assumption
  case h_4 => exact lt_of_le_of_lt (Nat.sub_le _ _) ho
  case h_5 => exact ho

/-- Each field of the written register holds what its access code makes of the write. -/
theorem bits_writtenValue {r : RDef} (hm : r ∈ regTable) (hp : plainRegister r = true) (d : Dev) (i v : Nat)
    (f : FDef) (hf : f ∈ r.fields) :
    bits (writtenValue d r i v) f.hi f.lo = writeField (d.flag devCtrlSetupLock) false (bankReg d.regs r.wide (r.at i)) v f := by
  obtain ⟨hfields, hapart⟩ := fieldsOk_of_plain hm hp
  rw [writtenValue, writeFields, bits_foldl_setBits _ _ _ (fun e he => (hfields e he).1) hapart f hf,
    Nat.mod_eq_of_lt (writeField_lt _ _ _ _ _)]

/-- The fields of a register do not see the bits of a value beyond its width. -/
theorem bits_of_width {r : RDef} (hm : r ∈ regTable) (hp : plainRegister r = true) (v : Nat) (f : FDef) (hf : f ∈ r.fields) :
    bits (v % 2 ^ (8 * if r.wide then 8 else 4)) f.hi f.lo = bits v f.hi f.lo := by
  have hlt := ((fieldsOk_of_plain hm hp).1 f hf).2.1
  refine bits_mod_two_pow _ _ _ _ ?_
  cases hw : r.wide <;> simpa [hw] using hlt

theorem changes_congr {fs : List FDef} (a : Acc) (old : Nat) {v w : Nat} (h : ∀ f ∈ fs, bits v f.hi f.lo = bits w f.hi f.lo) :
    changes fs a old v = changes fs a old w := by
  unfold changes
  rw [Bool.eq_iff_iff, List.any_eq_true, List.any_eq_true]
  exact exists_congr fun f => and_congr_right fun hf => by rw [h f hf]

/-- Settles O36: the fields of a register lie apart, so that each holds what its own code makes of the write. -/
theorem writesFollowFieldCodes : Obligations.WritesFollowFieldCodes := by
  unfold Obligations.WritesFollowFieldCodes
  intro s p off v r i
  dsimp only
  intro hreach hp
  have hm := mem_regTable_of_reached hreach
  have hfields := (fieldsOk_of_plain hm hp).1
  have hv := bits_of_width hm hp v.toNat
  refine ⟨writtenValue s.dev r i (v.toNat % 2 ^ (8 * if r.wide then 8 else 4)), ?_, fun f hf => ?_,
    fun k hk => testBit_foldl_setBits _ _ _ _ (fun f hf => (hfields f hf).1) hk⟩
  · have hone : (r.wide && decide ((if r.wide then 8 else 4) = 4)) = false := by cases r.wide <;> rfl
    rw [exec_registerWrite, execRegisterWrite, cmdWrite_of_reached _ hreach, hone, if_neg Bool.false_ne_true, writeReg_plain hp,
      State.mapDev, writeByCodes_plain hp (fun f hf => (hfields f hf).2.2), changes_congr _ _ hv]
    rfl
  · rw [bits_writtenValue hm hp _ _ _ f hf]
    simp only [writeField, hv f hf]
    refine ⟨fun ha => ?_, fun ha => ?_, fun ha => ?_, fun ha => ?_⟩
    · simp [ha]
    · simp [ha]
    · simp [ha]
    · rcases ha with ha | ha <;> simp [ha]

end Sys2Proof.Machine
end

section
/-! PROOFS. Descriptors, and that a job ends once (R327, R358 to R366, R383, R390): O25. -/

namespace Sys2Proof.Machine

/-! ### What leaves the jobs alone -/

/-- What each step of a fold leaves alone, the fold leaves alone. -/
theorem foldl_keeps {β γ δ : Type} (g : β → δ) (f : β → γ → β) (h : ∀ b c, g (f b c) = g b) (l : List γ) (b : β) :
    g (l.foldl f b) = g b := by
  rw [← List.foldl_hom g (g₁ := f) (g₂ := fun a _ => a) (fun b c => (h b c).symm), List.foldl_fixed]

@[simp] theorem Dev.incFld_jobs (d : Dev) (f : Fld) (i n : Nat) : (d.incFld f i n).jobs = d.jobs := rfl
@[simp] theorem Dev.forCount_jobs (d : Dev) (n : Nat) : (d.forCount n).jobs = d.jobs := rfl
@[simp] theorem Dev.updRec_jobs (d : Dev) (im : Nat) (f : Recording → Recording) : (d.updRec im f).jobs = d.jobs := rfl

@[simp] theorem queueFlit_jobs (d : Dev) (l : Nat) (f : Flit) : (queueFlit d l f).jobs = d.jobs := by
  unfold queueFlit
  dsimp only
  split <;> rfl

@[simp] theorem sendRing_jobs (d : Dev) (t cls what tag : Nat) (body : List Byte) : (sendRing d t cls what tag body).jobs = d.jobs := by
  unfold sendRing
  split
  · rfl
  · exact foldl_keeps Dev.jobs _ (fun d p => queueFlit_jobs { d with links := { d.links with msgSeq := d.links.msgSeq + 1 } } _ _) _ d

@[simp] theorem toRing_jobs (d : Dev) (what tag : Nat) (bytes : List Byte) : (toRing d what tag bytes).jobs = d.jobs :=
  foldl_keeps Dev.jobs _ (fun _ _ => sendRing_jobs _ _ _ _ _ _) _ _

@[simp] theorem logEvent_jobs (d : Dev) (code : Nat) (data : List Byte) : (logEvent d code data).jobs = d.jobs := by
  unfold logEvent
  dsimp only
  split <;> rfl

@[simp] theorem canopyLost_jobs (o : Nat) (d : Dev) : (canopyLost o d).jobs = d.jobs := by
  unfold canopyLost loseInfo
  dsimp only
  repeat' split
  all_goals rfl

@[simp] theorem foundUncorr_jobs (d : Dev) (a kind : Nat) : (foundUncorr d a kind).jobs = d.jobs := by
  simp [foundUncorr, apply_ite Dev.jobs, poisonWrite, ddrRowLost]

/-- A wrong code met by no job's read marks no job. -/
@[simp] theorem meetFlaw_none_jobs (d : Dev) (kind : Nat) (e : Nat × Ecc) : (meetFlaw d none kind e).jobs = d.jobs := by
  simp [meetFlaw, apply_ite Dev.jobs, Dev.jobFlag, ddrRowError]

@[simp] theorem mergeScan_jobs (d : Dev) (a n : Nat) : (mergeScan d a n).jobs = d.jobs := by
  unfold mergeScan
  split
  · rfl
  · exact foldl_keeps Dev.jobs _ (fun d e => meetFlaw_none_jobs d ekMerge e) _ d

@[simp] theorem memStore_jobs (d : Dev) (a : Nat) (l : List Byte) : (memStore d a l).1.jobs = d.jobs := by
  unfold memStore
  dsimp only
  split <;> exact mergeScan_jobs d a l.length

@[simp] theorem writeAddr_jobs (d : Dev) (a : Nat) (l : List Byte) : (writeAddr d a l).1.jobs = d.jobs := by
  unfold writeAddr
  split
  · split <;> rfl
  · exact memStore_jobs _ _ _
  · rfl

@[simp] theorem recGap_jobs (d : Dev) (r : Recording) : (recGap d r).jobs = d.jobs := by
  simp [recGap, apply_ite Dev.jobs]

@[simp] theorem recPut_jobs (d : Dev) (im type aux lt ord : Nat) (payload : List Byte) :
    (recPut d im type aux lt ord payload).jobs = d.jobs := by
  unfold recPut
  split
  · rfl
  · simp [apply_ite Dev.jobs]

@[simp] theorem recordOf_jobs (d : Dev) (j type aux lt : Nat) (payload : List Byte) : (recordOf d j type aux lt payload).jobs = d.jobs := by
  unfold recordOf
  split
  · rfl
  · exact recPut_jobs _ _ _ _ _ _ _

@[simp] theorem recordOutputs_jobs (d : Dev) (x : Job) (status : Nat) : (recordOutputs d x status).jobs = d.jobs := by
  unfold recordOutputs
  split
  · rfl
  · refine foldl_keeps Dev.jobs _ (fun d e => ?_) _ d
    split
    · exact recordOf_jobs _ _ _ _ _ _
    · rfl

/-! ### A job ends once (R327, R383) -/

/-- A change of job `j` that keeps the number changes what is known as job `j`. -/
theorem Dev.job_updJob_self (d : Dev) (j : Nat) (f : Job → Job) (hf : ∀ x, (f x).id = x.id) :
    (d.updJob j f).job j = (d.job j).map f := by
  simp only [Dev.job, Dev.updJob]
  induction d.jobs with
  | nil => rfl
  | cons x l ih =>
    by_cases hx : x.id = j
    · simp [hx, hf]
    · simpa [hx] using ih

/-- It changes no other job. -/
theorem Dev.job_updJob_ne (d : Dev) {j k : Nat} (f : Job → Job) (hf : ∀ x, (f x).id = x.id) (h : k ≠ j) :
    (d.updJob j f).job k = d.job k := by
  simp only [Dev.job, Dev.updJob]
  induction d.jobs with
  | nil => rfl
  | cons x l ih =>
    by_cases hx : x.id = j
    · simpa [hx, hf, h.symm] using ih
    · by_cases hk : x.id = k
      · simp [hk, h]
      · simpa [hx, hk] using ih

/-- What a job is once it has ended: one that had ended before stays as it was (R383). -/
def Job.endedWith (status cause : Nat) (x : Job) : Job :=
  if x.phase = .ended then x else { x with phase := .ended, status := status, cause := cause }

theorem Job.endedWith_id (status cause : Nat) (x : Job) : (x.endedWith status cause).id = x.id := by
  unfold Job.endedWith
  split <;> rfl

theorem Job.endedWith_phase (status cause : Nat) (x : Job) : (x.endedWith status cause).phase = .ended := by
  unfold Job.endedWith
  split
  · assumption
  · rfl

/-- The end of job `j` changes job `j` in the table of jobs and nothing else of it. -/
theorem endJob_job (d : Dev) (j status cause k : Nat) :
    (endJob d j status cause).job k = (d.updJob j (Job.endedWith status cause)).job k := by
  have hjobs : (endJob d j status cause).jobs = (d.updJob j (Job.endedWith status cause)).jobs := by
    unfold endJob
    split <;> simp [releaseJob, Dev.updJob, apply_ite Dev.jobs, Job.endedWith]
  simp only [Dev.job, hjobs]

theorem endJob_admitted (d : Dev) (j status cause : Nat) : ∀ a ∈ (endJob d j status cause).admitted, a.job ≠ j := by
  intro a ha
  simp only [endJob, releaseJob, List.mem_filter, decide_eq_true_eq] at ha
  exact ha.2

/-! ### What fetching a descriptor comes to (R358 to R365) -/

section
variable {d : Dev} {q : Nat} {hm : Outside} {x : Desc} {sel : Dev → Desc → Bool} {adm run : Nat → Dev → Dev}

/-- A descriptor with a defect: its job ends with INVALID_DESCRIPTOR. -/
theorem fetchJob_of_bad (h : Fetches d q hm x) (hsel : sel (scanned d q hm) x = true) (hbad : descBad (scanned d q hm) q x = true) :
    fetchJob q hm sel adm run d = endJob (opened d q hm x).1 (opened d q hm x).2 stInvalid := by
  obtain ⟨hnext, ⟨raw, hraw, hx⟩, hstep⟩ := h
  simp only [scanned] at *
  simp [fetchJob, hnext, hraw, hx, hsel, hstep, hbad, opened]

/-- A broken chain: the job ends ABORTED with cause 0xFE. -/
theorem fetchJob_of_broken (h : Fetches d q hm x) (hsel : sel (scanned d q hm) x = true) (hbad : descBad (scanned d q hm) q x = false)
    (hchain : chainBroken (scanned d q hm) q x = true) :
    fetchJob q hm sel adm run d = endJob (opened d q hm x).1 (opened d q hm x).2 stAborted 0xFE := by
  obtain ⟨hnext, ⟨raw, hraw, hx⟩, hstep⟩ := h
  simp only [scanned] at *
  simp [fetchJob, hnext, hraw, hx, hsel, hstep, hbad, hchain, opened]

/-- A descriptor that cannot be read stops its ring. -/
theorem fetchJob_of_unreadable {st : Nat} (hnext : nextFetch (placeHost d hm) = some q) (h : descBytes (scanned d q hm) q = .error st) :
    fetchJob q hm sel adm run d =
      updStopped (((scanned d q hm).setFld sqStatusFetchErr 1 q).updSq q fun c => { c with halted := true }) q := by
  simp only [scanned] at *
  simp [fetchJob, hnext, h]

end

/-- An opcode outside R4, a class above 7, a reserved flag, an entry above 63 or an image above 16 is a defect (R364). -/
theorem descBad_of_range {d : Dev} {q : Nat} {x : Desc}
    (h : x.opcode ∉ definedOpcodes ∨ 8 ≤ x.cls ∨ x.flags / 64 % 1024 ≠ 0 ∨ 63 < x.entry ∨ 16 < x.image) : descBad d q x = true := by
  unfold descBad
  simp only [Bool.or_eq_true]
  rcases h with h | h | h | h | h <;> simp [h, bits]

/-! ### What is taken from a ring (R360, R361, R390) -/

@[simp] theorem Dev.updCq_fld (d : Dev) (k : Nat) (f : CqState → CqState) (g : Fld) (i : Nat) : (d.updCq k f).fld g i = d.fld g i := rfl

@[simp] theorem Dev.cq_updCq_self (d : Dev) (k : Nat) (f : CqState → CqState) : (d.updCq k f).cq k = f (d.cq k) :=
  mapGet_set_self _ _ _ _

/-- The supervisor queue is fetched ahead of every ring. -/
theorem nextFetch_of_supEligible {d : Dev} (h : nextFetch d ≠ none) (hs : supEligible d = true) : nextFetch d = some 64 := by
  unfold nextFetch at *
  by_cases hoff : (!d.flag devStatusLockDone || safeState d || d.flag devPwrDraining || d.boot.sleeping || d.boot.reloading) = true
  · exact absurd (if_pos hoff) h
  · rw [if_neg hoff, if_pos hs]

theorem takeDesc_sup (d : Dev) : takeDesc d 64 = (d.setFld supqHeadIndex (d.fld supqHeadIndex + 1)).updCq 64
    fun c => { c with reserved := c.reserved + 1 } := rfl

/-- A descriptor of a ring that is at no triggered pass: the head moves on and a slot is reserved. -/
theorem takeDesc_ring {d : Dev} {q : Nat} (hq : q < 64) (hp : (d.sq q).pass = none) : ∃ e : Dev, e.cqs = d.cqs ∧
    takeDesc d q = (e.setFld sqStatusHead ((d.fld sqStatusHead q + 1) % sqSize d q) q).updCq (d.fld sqCfgCq q)
      fun c => { c with reserved := c.reserved + 1 } := by
  refine ⟨{ d with fetchRing := q, fetchCount := if d.fetchRing = q then (if d.fetchCount < 8 then d.fetchCount + 1 else 1) else 1 },
    rfl, ?_⟩
  have hcq : ∀ (e : Dev) (v : Nat), (e.setFld sqStatusHead v q).fld sqCfgCq q = e.fld sqCfgCq q := fun e v =>
    Dev.fld_setFld_ne _ _ _ _ _ _ (.inl (by simp only [sqStatusHead, sqCfgCq, b2n, Bool.false_eq_true, if_false]; omega))
  unfold takeDesc
  rw [if_neg (by omega)]
  simp only [Dev.sq] at hp ⊢
  rw [hp]
  dsimp only
  rw [hcq]
  rfl

/-- The job that a descriptor becomes (R350, R365, R366). -/
theorem newJob_job (d : Dev) (q : Nat) (x : Desc) :
    ∃ j : Job, (newJob d q x).1.jobs = d.jobs ++ [j] ∧ j.id = d.nextJob ∧ (newJob d q x).2 = d.nextJob ∧
      (newJob d q x).1.nextJob = d.nextJob + 1 ∧ j.q = q ∧ j.desc = x ∧ j.phase = .waiting ∧ j.admitted = false ∧
      j.waitFence = (d.sq q).fence ∧ (j.waitCount = true ↔ x.startCount ≠ 0 ∧ d.now / 1000 < x.startCount) := by
  unfold newJob
  dsimp only
  split
  all_goals
    refine ⟨_, rfl, rfl, rfl, rfl, rfl, rfl, rfl, rfl, rfl, ?_⟩
    simp only [Bool.and_eq_true, Bool.not_eq_true', decide_eq_true_eq, Bool.and_eq_false_iff, decide_eq_false_iff_not]
    omega

/-- Settles O25: a descriptor's defect is decided before anything of it runs, and the end of a job touches that job alone. -/
theorem rejectedDescriptors : Obligations.RejectedDescriptors := by
  unfold Obligations.RejectedDescriptors
  refine ⟨fun s q hm x => ?_, fun d q x => ?_, fun d j status cause x hx => ?_⟩
  · refine ⟨fun h hop => ?_, fun h hop => ⟨fun hbad => ?_, fun hbad hchain => ?_⟩,
      fun h => descBad_of_range (.inr h), fun st hnext h => ?_⟩
    · rw [exec_undefinedOpcodeJob, execUndefinedOpcodeJob, onDev, fetchJob_of_bad h (by simpa using hop) (descBad_of_range (.inl hop))]
      rfl
    · rw [exec_copy, execCopy, onDev, fetchJob_of_bad h (decide_eq_true hop) hbad]
      rfl
    · rw [exec_copy, execCopy, onDev, fetchJob_of_broken h (decide_eq_true hop) hbad hchain]
      rfl
    · rw [exec_fill, execFill, onDev, fetchJob_of_unreadable hnext h]
      rfl
  · refine ⟨nextFetch_of_supEligible, ?_, ?_, fun hq hp _ => ?_, newJob_job d q x⟩
    · rw [takeDesc_sup, Dev.updCq_fld, Dev.fld_setFld _ _ _ _ (by decide) (by decide)]
      rfl
    · rw [takeDesc_sup, Dev.cq_updCq_self]
      rfl
    · obtain ⟨e, hcqs, htake⟩ := takeDesc_ring hq hp
      rw [htake, Dev.updCq_fld, Dev.fld_setFld _ _ _ _ (by decide) (by decide), Dev.cq_updCq_self]
      refine ⟨rfl, ?_⟩
      simp only [Dev.cq, Dev.setFld_cqs, hcqs]
  · refine ⟨x.endedWith status cause, ?_, Job.endedWith_phase _ _ _, fun h => ?_, fun h => ?_, fun k hk => ?_, endJob_admitted _ _ _ _⟩
    · rw [endJob_job, Dev.job_updJob_self _ _ _ (Job.endedWith_id _ _), hx]
      rfl
    · simp [Job.endedWith, h]
    · simp [Job.endedWith, h]
    · rw [endJob_job, Dev.job_updJob_ne _ _ (Job.endedWith_id _ _) hk]

end Sys2Proof.Machine
end

section
/-! PROOFS. DEV_RESET over a register bank that is not in canonical form (R541): O39. -/

namespace Sys2Proof.Machine

/-- A powered module whose bank lists DEV_PWR_CNT twice: first with its reset value 0, which is what it reads, then with 1. -/
def listedTwice : State :=
  { dev := { regs := [(rDevPwrCnt, 0), (rDevPwrCnt, 1)], clr := { on := true }, boot := { powered := true, stage0Done := true } } }

/-- DEV_PWR_CNT, a register of the Clearing domain (R531, R540). -/
def devPwrCnt : RDef := ⟨rDevPwrCnt, 0, 1, false, false, .clearing, [⟨15, 0, .ro, 0⟩, ⟨31, 16, .ro, 0⟩]⟩

theorem devPwrCnt_mem_regTable : devPwrCnt ∈ regTable := by
  decide +kernel

theorem listedTwice_reached : ∃ r, r.base = rDevReset ∧ r.wide = false ∧ Reached listedTwice.dev .spadja rDevReset 4 true r 0 :=
  ⟨⟨rDevReset, 0, 1, false, false, .other, [⟨31, 0, .wo, 0⟩]⟩, rfl, rfl,
    by decide +kernel, by decide +kernel, by decide +kernel, .inl rfl⟩

/-- DEV_RESET with its key from the Spadja port (R541). -/
theorem devReset_of_reached {s : State} {r : RDef} (h : Reached s.dev .spadja rDevReset 4 true r 0) (hb : r.base = rDevReset)
    (hw : r.wide = false) : exec (.devReset .spadja 0xB007) s = .next (devReset s) := by
  rw [exec_devReset, execDevReset, cmdWrite_of_reached _ h]
  simp [hw, writeReg, hb, rDevReset, rDevCtrl, resetWrite]

/-- The reset drops the entry that equals the reset value and so uncovers the one behind it. -/
theorem listedTwice_devReset :
    bankWord listedTwice.dev.regs rDevPwrCnt = 0 ∧ bankWord (devReset listedTwice).dev.regs rDevPwrCnt = 1 := by
  decide +kernel

/-- Refutes O39: its statement takes every state, also one whose register bank is not in canonical form. Where a bank lists a word twice,
first with its reset value, `bankReset` drops the first entry, and a Clearing register reads the second after DEV_RESET. -/
theorem not_setupLockAndResetResults : ¬ Obligations.SetupLockAndResetResults := by
  unfold Obligations.SetupLockAndResetResults
  rintro ⟨-, hreset⟩
  obtain ⟨r, hb, hw, hreach⟩ := listedTwice_reached
  obtain ⟨hkey, -⟩ := (hreset listedTwice 0xB007).1 ⟨r, hreach⟩
  obtain ⟨u, hu, -, -, -, -, -, -, -, -, -, -, -, -, hclearing, -⟩ := hkey rfl
  rw [devReset_of_reached hreach hb hw] at hu
  injection hu with hu
  have hkept : bankWord u.dev.regs rDevPwrCnt = bankWord listedTwice.dev.regs rDevPwrCnt :=
    hclearing devPwrCnt devPwrCnt_mem_regTable rfl 0 (by decide)
  rw [← hu, listedTwice_devReset.1, listedTwice_devReset.2] at hkept
  exact absurd hkept (by decide)

end Sys2Proof.Machine
end

section
/-! PROOFS. CVTB and DCVB (R39 to R43, R171, R172): O12. -/

namespace Sys2Proof.Machine

variable {α : Type}

/-! ### A list in pieces -/

/-- With fuel for all of the list, piece `i` holds its elements `n * i` to `n * i + n - 1`. -/
theorem chunksAux_getD {n : Nat} (hn : 0 < n) (fuel : Nat) (l : List α) (i : Nat) (hf : l.length ≤ fuel) :
    (chunksAux n fuel l).getD i [] = (l.drop (n * i)).take n := by
  induction fuel generalizing l i with
  | zero =>
    have hl : l = [] := List.length_eq_zero_iff.mp (Nat.le_zero.mp hf)
    simp [hl, chunksAux]
  | succ fuel ih =>
    cases l with
    | nil => simp [chunksAux]
    | cons a r =>
      have hrest : ((a :: r).drop n).length ≤ fuel := by
        rw [List.length_drop]
        omega
      cases i with
      | zero => simp [chunksAux]
      | succ i =>
        simp only [chunksAux, List.isEmpty_cons, Bool.false_eq_true, if_false, List.getD_cons_succ]
        rw [ih _ _ hrest, List.drop_drop, Nat.mul_succ, Nat.add_comm]

/-- With fuel for all of the list, the pieces joined are the list. -/
theorem chunksAux_flatten {n : Nat} (hn : 0 < n) (fuel : Nat) (l : List α) (hf : l.length ≤ fuel) :
    (chunksAux n fuel l).flatten = l := by
  induction fuel generalizing l with
  | zero => exact (List.length_eq_zero_iff.mp (Nat.le_zero.mp hf)).symm
  | succ fuel ih =>
    cases l with
    | nil => rfl
    | cons a r =>
      have hrest : ((a :: r).drop n).length ≤ fuel := by
        rw [List.length_drop]
        omega
      simp only [chunksAux, List.isEmpty_cons, Bool.false_eq_true, if_false, List.flatten_cons]
      rw [ih _ hrest, List.take_append_drop]

/-- With fuel for all of it, a list of `m` whole pieces has `m` pieces. -/
theorem chunksAux_length {n : Nat} (hn : 0 < n) (fuel m : Nat) (l : List α) (hl : l.length = n * m) (hf : l.length ≤ fuel) :
    (chunksAux n fuel l).length = m := by
  induction fuel generalizing l m with
  | zero =>
    have hm : n * m = 0 := by omega
    exact ((Nat.mul_eq_zero.mp hm).resolve_left hn.ne').symm
  | succ fuel ih =>
    cases m with
    | zero => simp [List.length_eq_zero_iff.mp hl, chunksAux]
    | succ m =>
      rw [Nat.mul_succ] at hl
      have hne : l.isEmpty = false := by
        rw [List.isEmpty_eq_false_iff_exists_mem]
        exact List.exists_mem_of_length_pos (by omega)
      simp only [chunksAux, hne, Bool.false_eq_true, if_false, List.length_cons]
      rw [ih m (l.drop n) (by rw [List.length_drop]; omega) (by rw [List.length_drop]; omega)]

theorem chunks_getD {n : Nat} (hn : 0 < n) (l : List α) (i : Nat) : (chunks n l).getD i [] = (l.drop (n * i)).take n :=
  chunksAux_getD hn _ l i le_rfl

theorem chunks_flatten {n : Nat} (hn : 0 < n) (l : List α) : (chunks n l).flatten = l :=
  chunksAux_flatten hn _ l le_rfl

theorem chunks_length {n m : Nat} (hn : 0 < n) {l : List α} (hl : l.length = n * m) : (chunks n l).length = m :=
  chunksAux_length hn _ m l hl le_rfl

/-! ### The blocks of a register of a long format (R171) -/

@[simp] theorem unpack_length (w n v : Nat) : (unpack w n v).length = n := by
  induction n generalizing v with
  | zero => rfl
  | succ n ih => simp [unpack, ih]

@[simp] theorem rowElems_length (w : Nat) (r : Row) : (rowElems w r).length = 4096 / w := unpack_length _ _ _

/-- R171: a row holds four blocks of FP32, or eight of a 16-bit format. -/
theorem rowElems_length_of_isLong {f : Fmt} (h : isLong f = true) (r : Row) :
    (rowElems f.width r).length = 32 * if f = fp32 then 4 else 8 := by
  rw [rowElems_length]
  simp only [isLong, Bool.or_eq_true, decide_eq_true_eq] at h
  obtain (rfl | rfl) | rfl := h <;> decide

theorem sourceBlocks_length {f : Fmt} (h : isLong f = true) (r : Row) :
    (sourceBlocks f r).length = if f = fp32 then 4 else 8 :=
  chunks_length (by decide) (rowElems_length_of_isLong h r)

/-- Block `b` of a register: its elements from 32 b. -/
@[simp] theorem sourceBlocks_getD (f : Fmt) (r : Row) (b : Nat) :
    (sourceBlocks f r).getD b [] = ((rowElems f.width r).drop (32 * b)).take 32 :=
  chunks_getD (by decide) _ b

@[simp] theorem sourceBlocks_flatten (f : Fmt) (r : Row) : (sourceBlocks f r).flatten = rowElems f.width r :=
  chunks_flatten (by decide) _

/-! ### The two instructions -/

/-- Settles O12: the formats and limits pass the instruction's own test, so that it completes; the blocks CVTB cuts its register into
are the elements from 32 b, and joined they are all its elements. -/
theorem blockConversionResults : Obligations.BlockConversionResults := by
  unfold Obligations.BlockConversionResults
  intro s t f src dst hsrc hdst
  constructor
  case left =>
    intro hi hlong hshort n hblocks hregs hscales
    have hn : (sourceBlocks src ((s.dev.tile t).vr f.ra.toNat)).length = n := sourceBlocks_length hlong _
    rw [exec_cvtb, execCvtb]
    refine issue_done hi ?_
    simp only [hsrc, hdst, hn, sourceBlocks_getD, sourceBlocks_flatten]
    exact if_neg (by simp [hlong, hshort, hblocks, hregs, hscales])
  case right =>
    intro hi hshort hlong n hblocks hregs hscales
    rw [exec_dcvb, execDcvb]
    refine issue_done hi ?_
    simp only [hsrc, hdst]
    exact if_neg (by simpa [hshort, hlong, hregs] using ⟨hblocks, hscales⟩)

end Sys2Proof.Machine
end

section
/-! PROOFS. The scalar registers' reads of the tile's state, and what clears it (R42, R48, R80, R81, R94, R164, R168, R186): O6. -/

namespace Sys2Proof.Machine

/-! ### Lanes and words -/

/-- Element `i` of a bit string of elements of `w` bits. -/
theorem unpack_getD (w n v i : Nat) (h : i < n) : (unpack w n v).getD i 0 = v / 2 ^ (w * i) % 2 ^ w := by
  induction n generalizing v i with
  | zero => omega
  | succ n ih =>
    cases i with
    | zero => simp [unpack]
    | succ i => rw [unpack, List.getD_cons_succ, ih _ _ (by omega), Nat.div_div_eq_div_mul, ← Nat.pow_add, Nat.mul_succ, Nat.add_comm w]

theorem lanes_getD (r : Row) (i : Nat) (h : i < 128) : (lanes r).getD i 0 = r.toNat / 2 ^ (32 * i) % 2 ^ 32 :=
  unpack_getD 32 128 _ _ h

/-- A field write changes the words of its own register only. -/
theorem Dev.setFld_word_ne (d : Dev) (f : Fld) (i v : Nat) {o : Nat} (h : o ≠ f.base + i * f.stride)
    (hw : f.wide = true → o ≠ f.base + i * f.stride + 4) : bankWord (d.setFld f v i).regs o = bankWord d.regs o := by
  simp only [Dev.setFld, bankFldSet, bankRegSet]
  split
  · rename_i hwide
    rw [bankWord_set_ne _ _ (hw hwide), bankWord_set_ne _ _ h]
  · exact bankWord_set_ne _ _ h

/-! ### The sticky flags and the arrival counters -/

/-- The six low bits of TILE_FP_FLAGS are its six fields (R80, R82). -/
theorem fpFlags_eq (d : Dev) (t : Nat) : bankReg d.regs false (rTileFpFlags + 0x400 * t) % 64 =
    d.fld tileFpFlagsInvalid t + 2 * d.fld tileFpFlagsDivzero t + 4 * d.fld tileFpFlagsOverflow t +
      8 * d.fld tileFpFlagsUnderflow t + 16 * d.fld tileFpFlagsInexact t + 32 * d.fld tileFpFlagsIntOverflow t := by
  simp only [Dev.fld, bankFld, bits, rTileFpFlags, tileFpFlagsInvalid, tileFpFlagsDivzero, tileFpFlagsOverflow,
    tileFpFlagsUnderflow, tileFpFlagsInexact, tileFpFlagsIntOverflow, Nat.mul_comm t]
  omega

/-- An arrival counter, widened to a scalar register. -/
theorem arrivalCount_zeroExtend (d : Dev) (t c : Nat) :
    (arrivalCount d t c).zeroExtend 64 = BitVec.ofNat 64 (d.fld (tileArrival c) t) := by
  have hlt : d.fld (tileArrival c) t < 2 ^ 32 := bits_lt _ _ _
  apply BitVec.eq_of_toNat_eq
  simp [arrivalCount]
  omega

/-! ### The running maxima (R42, R48) -/

theorem fld_setFld_runmax (d : Dev) (m n v t : Nat) :
    (d.setFld (fldRunmax m) v t).fld (fldRunmax n) t = if n = m then v % 2 ^ 32 else d.fld (fldRunmax n) t := by
  split
  · subst n
    exact Dev.fld_setFld _ _ _ _ (Nat.zero_le 31) (by decide : 31 < 32)
  · refine Dev.fld_setFld_ne _ _ _ _ _ _ ?_
    simp only [fldRunmax, tileRunmax0Runmax, b2n, Bool.false_eq_true, if_false]
    omega

/-- One running maximum cleared where its bit is set. -/
def clearMaximum (t mask : Nat) (d : Dev) (n : Nat) : Dev := if bit mask n then d.setFld (fldRunmax n) 0 t else d

theorem clearMaxima_eq (d : Dev) (t mask : Nat) : clearMaxima d t mask = (upto 8).foldl (clearMaximum t mask) d := rfl

theorem clearMaximum_fld (d : Dev) (t mask m n : Nat) : (clearMaximum t mask d m).fld (fldRunmax n) t =
    if n = m ∧ bit mask m = true then 0 else d.fld (fldRunmax n) t := by
  unfold clearMaximum
  by_cases h : bit mask m = true
  · simp [h, fld_setFld_runmax]
  · simp [h]

theorem clearMaximum_word (d : Dev) (t mask : Nat) {n o : Nat} (h : o ≠ rTileRunmax0 + 4 * n + 0x400 * t) :
    bankWord (clearMaximum t mask d n).regs o = bankWord d.regs o := by
  unfold clearMaximum
  split
  · refine Dev.setFld_word_ne _ _ _ _ ?_ nofun
    simpa only [fldRunmax, tileRunmax0Runmax, Nat.mul_comm t] using h
  · rfl

theorem clearMaximum_only_regs (d : Dev) (t mask n : Nat) :
    clearMaximum t mask d n = { d with regs := (clearMaximum t mask d n).regs } := by
  unfold clearMaximum
  split <;> rfl

theorem clearMaximums_fld (l : List Nat) (d : Dev) (t mask n : Nat) : (l.foldl (clearMaximum t mask) d).fld (fldRunmax n) t =
    if n ∈ l ∧ bit mask n = true then 0 else d.fld (fldRunmax n) t := by
  induction l generalizing d with
  | nil => simp
  | cons m l ih =>
    rw [List.foldl_cons, ih, clearMaximum_fld]
    by_cases hm : n = m
    · subst hm
      by_cases hb : bit mask n = true <;> simp [hb]
    · simp [hm]

theorem clearMaximums_word (l : List Nat) (d : Dev) (t mask o : Nat) (h : ∀ n ∈ l, o ≠ rTileRunmax0 + 4 * n + 0x400 * t) :
    bankWord (l.foldl (clearMaximum t mask) d).regs o = bankWord d.regs o := by
  induction l generalizing d with
  | nil => rfl
  | cons m l ih =>
    rw [List.foldl_cons, ih _ fun n hn => h n (List.mem_cons_of_mem _ hn), clearMaximum_word _ _ _ (h m List.mem_cons_self)]

theorem clearMaximums_only_regs (l : List Nat) (d : Dev) (t mask : Nat) :
    l.foldl (clearMaximum t mask) d = { d with regs := (l.foldl (clearMaximum t mask) d).regs } := by
  induction l generalizing d with
  | nil => rfl
  | cons m l ih =>
    rw [List.foldl_cons, ih, clearMaximum_only_regs d]

/-! ### The instructions -/

/-- RDBLK's selector names one of three fields (R186). -/
theorem rdblk_done {s : State} {t : Nat} {f : Fields} (h : Issues s t 0x8 0x05 f) (hsel : f.e 1 0 ≠ 3) :
    exec (.rdblk t f) s = completes s t (s.dev.updTile t fun x => x.xw f.rd (BitVec.ofNat 64
      (if f.e 1 0 = 0 then s.dev.fld tileFmtUflowBlockUnderflow t else if f.e 1 0 = 1 then s.dev.fld tileFmtSatBlockSaturate t
        else s.dev.fld tileFmtStatusNanBlock t))) := by
  have hlt : f.e 1 0 < 4 := bits_lt _ _ _
  obtain h0 | h1 | h2 : f.e 1 0 = 0 ∨ f.e 1 0 = 1 ∨ f.e 1 0 = 2 := by omega
  all_goals
    rw [exec_rdblk, execRdblk]
    refine issue_done h ?_
    simp [*]

/-- CLRMAX clears the maxima that its mask names and touches no other register (R186). -/
theorem clrmax_done {s : State} {t : Nat} {f : Fields} (h : Issues s t 0x8 0x04 f) :
    ∃ e : Dev, exec (.clrmax t f) s = completes s t e ∧ e = { s.dev with regs := e.regs } ∧
      (∀ n < 8, e.fld (fldRunmax n) t = if bit (f.e 7 0) n then 0 else s.dev.fld (fldRunmax n) t) ∧
      (∀ o, (∀ n < 8, o ≠ rTileRunmax0 + 4 * n + 0x400 * t) → bankWord e.regs o = bankWord s.dev.regs o) := by
  refine ⟨(upto 8).foldl (clearMaximum t (f.e 7 0)) s.dev, ?_, clearMaximums_only_regs _ _ _ _, fun n hn => ?_, fun o ho => ?_⟩
  · rw [exec_clrmax, execClrmax]
    exact issue_done h rfl
  · simp [clearMaximums_fld, upto, hn]
  · exact clearMaximums_word _ _ _ _ _ fun n hn => ho n (List.mem_range.mp hn)

/-- Settles O6: each instruction completes with the value its body names; the flags are bits of one word, a lane is a part of its row,
and the running maxima are cleared one after the other. -/
theorem scalarRegisterReads : Obligations.ScalarRegisterReads := by
  unfold Obligations.ScalarRegisterReads
  refine ⟨fun s t f => ⟨fun h => issue_done h rfl, fun h => ?vext, fun h => ?rdflg, fun h => issue_done h rfl, rdblk_done,
    fun h => issue_done h rfl, fun h => issue_done h rfl, fun h => issue_done h rfl, fun h => ?rdarr⟩,
    fun s t f => ⟨fun h => issue_done h rfl, fun h => issue_done h rfl, clrmax_done, fun h => issue_done h rfl⟩⟩
  case vext =>
    have hlane : f.e 6 0 < 128 := bits_lt _ _ _
    rw [← lanes_getD _ _ hlane]
    exact issue_done h rfl
  case rdflg =>
    rw [← fpFlags_eq]
    exact issue_done h rfl
  case rdarr =>
    rw [← arrivalCount_zeroExtend]
    exact issue_done h rfl

end Sys2Proof.Machine
end

section
/-! PROOFS. Scalar floating point (R44, R74, R76, R77, R154, R164) and the lanes of VECTOR (R74 to R77, R168): O7 and O10. -/

namespace Sys2Proof.Machine

variable {s : State} {t op : Nat} {f : Fields}

/-! ### Compares (R76) -/

theorem FpNum.isSnan_of_not_isNan {x : FpNum} (h : x.isNan = false) : x.isSnan = false := by
  cases x with
  | nan signalling => cases h
  | inf neg => rfl
  | fin neg m e => rfl

/-- A compare holds between two numbers only; a signalling NaN raises invalid. -/
theorem fcmp_eq (fmt : Fmt) (p : FpNum → FpNum → Bool) (a b : Nat) : fcmp fmt p a b =
    (!(decodeNum fmt a).isNan && !(decodeNum fmt b).isNan && p (decodeNum fmt a) (decodeNum fmt b),
      if (decodeNum fmt a).isSnan || (decodeNum fmt b).isSnan then flIV else flNone) := by
  simp only [fcmp, snanFlag, List.any_cons, List.any_nil, Bool.or_false]
  split
  case isTrue hnan =>
    have hnone : (!(decodeNum fmt a).isNan && !(decodeNum fmt b).isNan) = false := by
      rw [← Bool.not_or, hnan, Bool.not_true]
    rw [hnone, Bool.false_and]
  case isFalse hnan =>
    simp only [Bool.or_eq_true, not_or, Bool.not_eq_true] at hnan
    obtain ⟨ha, hb⟩ := hnan
    simp [ha, hb, FpNum.isSnan_of_not_isNan]

/-! ### The operand forms complete (R164, R168) -/

theorem scalarFp_done {fmt : Fmt} {g : Nat → Nat → Nat → FRes} (h : Issues s t 0x0 op f) :
    let x := s.dev.tile t
    let v (r : BitVec 5) : Nat := (x.xr r).toNat % 2 ^ fmt.width
    let r := g (v f.ra) (v f.rb) (v f.rc)
    onDev (scalarFp t op f fmt g) s = completes s t (raise (s.dev.setTile t (x.xw f.rd (BitVec.ofNat 64 r.1))) t
      [(r.2, (decodeNum fmt r.1).isNan)]) :=
  issue_done h rfl

theorem scalarCmp_done {fmt : Fmt} {p : FpNum → FpNum → Bool} (h : Issues s t 0x0 op f) :
    let x := s.dev.tile t
    let v (r : BitVec 5) : FpNum := decodeNum fmt ((x.xr r).toNat % 2 ^ fmt.width)
    let holds := !(v f.ra).isNan && !(v f.rb).isNan && p (v f.ra) (v f.rb)
    onDev (scalarCmp t op f fmt p) s = completes s t (raise (s.dev.setTile t (x.xw f.rd (if holds then 1 else 0))) t
      [(if (v f.ra).isSnan || (v f.rb).isSnan then flIV else flNone, false)]) := by
  intro x v holds
  have hbit : BitVec.ofNat 64 (b2n holds) = if holds then 1 else 0 := by cases holds <;> rfl
  rw [← hbit]
  refine issue_done h ?_
  simp only [fcmp_eq]
  rfl

theorem vectorFp_done {g : Nat → Nat → Nat → FRes} (h : Issues s t 0x3 op f) :
    let x := s.dev.tile t
    let rs := ((lanes (x.vr f.ra.toNat)).zip ((lanes (x.vr f.rb.toNat)).zip (lanes (x.vr f.rc.toNat)))).map fun p => g p.1 p.2.1 p.2.2
    onDev (vectorFp t op f g) s = completes s t (raise (s.dev.setTile t (x.vw f.rd.toNat (ofLanes (rs.map (·.1))))) t
      (rs.map fun r => (r.2, (decodeNum fp32 r.1).isNan))) :=
  issue_done h rfl

theorem vectorCmp_done {p : FpNum → FpNum → Bool} (h : Issues s t 0x3 op f) :
    let x := s.dev.tile t
    let rs := ((lanes (x.vr f.ra.toNat)).zip (lanes (x.vr f.rb.toNat))).map fun q => fcmp fp32 p q.1 q.2
    onDev (vectorCmp t op f p) s = completes s t (raise (s.dev.setTile t (x.vw f.rd.toNat
      (ofLanes (rs.map fun r => if r.1 then 0xFFFFFFFF else 0)))) t (rs.map fun r => (r.2, false))) :=
  issue_done h rfl

theorem vectorBits_done {g : Row → Row → Row → Row} (h : Issues s t 0x3 op f) :
    let x := s.dev.tile t
    onDev (vectorBits t op f g) s = completes s t (s.dev.updTile t fun x' => x'.vw f.rd.toNat
      (g (x.vr f.ra.toNat) (x.vr f.rb.toNat) (x.vr f.rc.toNat))) :=
  issue_done h rfl

/-- VSEL's lanes, the condition put the other way round. -/
theorem selectLanes_eq (a b c : Row) : selectLanes a b c =
    ofLanes (((lanes a).zip ((lanes b).zip (lanes c))).map fun p => if p.2.2 = 0 then p.2.1 else p.1) := by
  simp only [selectLanes, ne_eq, ite_not]

/-- FCVT with a pair that it accepts (R44). -/
theorem fcvt_done {a b : EFmt} {r : U64 × ElemFx} (ha : efmtOf (f.e 3 0) = some a) (hb : efmtOf (f.e 7 4) = some b)
    (hr : fcvtRes a b ((s.dev.tile t).xr f.ra) = some r) (h : Issues s t 0x0 0x40 f) :
    exec (.fcvt t f) s = completes s t (raise (s.dev.updTile t fun x => x.xw f.rd r.1) t [r.2]) := by
  rw [exec_fcvt, execFcvt]
  refine issue_done h ?_
  simp only [ha, hb, hr]

/-! ### The two statements -/

/-- Settles O7: every operation has one of three forms, and each form is shown to complete once. -/
theorem scalarFloatResults : Obligations.ScalarFloatResults := by
  unfold Obligations.ScalarFloatResults
  refine ⟨fun s t f e he => ?ops, fun s t f e he => ?cmps, fun s t f a b r => fcvt_done⟩
  case ops =>
    simp only [List.mem_cons, List.not_mem_nil, or_false] at he
    rcases he with rfl | rfl | rfl | rfl | rfl | rfl | rfl | rfl | rfl | rfl | rfl | rfl | rfl | rfl | rfl | rfl
    all_goals exact scalarFp_done
  case cmps =>
    simp only [List.mem_cons, List.not_mem_nil, or_false] at he
    rcases he with rfl | rfl | rfl | rfl | rfl | rfl
    all_goals exact scalarCmp_done

/-- Settles O10: the instructions that raise flags have one of two forms; the others write a whole row. -/
theorem vectorLaneResults : Obligations.VectorLaneResults := by
  unfold Obligations.VectorLaneResults
  refine ⟨fun s t f => ⟨fun e he => ?ops, fun e he => ?cmps⟩, fun s t f e he => ?moves⟩
  case ops =>
    simp only [List.mem_cons, List.not_mem_nil, or_false] at he
    rcases he with rfl | rfl | rfl | rfl | rfl | rfl | rfl | rfl | rfl | rfl
    all_goals exact vectorFp_done
  case cmps =>
    simp only [List.mem_cons, List.not_mem_nil, or_false] at he
    rcases he with rfl | rfl | rfl
    all_goals exact vectorCmp_done
  case moves =>
    simp only [← selectLanes_eq, List.mem_cons, List.not_mem_nil, or_false] at he
    rcases he with rfl | rfl | rfl | rfl | rfl | rfl | rfl | rfl
    all_goals
      intro h
      rw [Dev.updTile]
      exact issue_done h rfl

end Sys2Proof.Machine
end

section
/-! PROOFS. END, the SYNC instructions, and the timeout of a wait (R86, R87, R120, R136, R163, R166, R178): O9. -/

namespace Sys2Proof.Machine

/-! ### A write-back over rows whose codes are right -/

/-- The first row stored, then the rest. The store of its 512 bytes stays closed: to unfold it exceeds the recursion depth. -/
theorem storeMemRows_cons (d : Dev) (a : Nat) (r : Row) (l : List Row) : ∃ e : Dev,
    storeMemRows d a (r :: l) = storeMemRows e (a + 512) l ∧ e.tiles = d.tiles ∧ e.regs = d.regs := by
  delta storeMemRows storeMemRows._f
  generalize memSetRow = write
  exact ⟨_, rfl, rfl, rfl⟩

/-- A store of rows in memory leaves the tiles and the registers alone. -/
theorem storeMemRows_frame (d : Dev) (a : Nat) (l : List Row) :
    (storeMemRows d a l).tiles = d.tiles ∧ (storeMemRows d a l).regs = d.regs := by
  induction l generalizing d a with
  | nil => exact ⟨rfl, rfl⟩
  | cons r l ih =>
    obtain ⟨e, he, htiles, hregs⟩ := storeMemRows_cons d a r l
    rw [he, ← htiles, ← hregs]
    exact ih _ _

@[simp] theorem storeMemRows_tiles (d : Dev) (a : Nat) (l : List Row) : (storeMemRows d a l).tiles = d.tiles :=
  (storeMemRows_frame d a l).1

@[simp] theorem storeMemRows_regs (d : Dev) (a : Nat) (l : List Row) : (storeMemRows d a l).regs = d.regs :=
  (storeMemRows_frame d a l).2

/-- With no wrong code in the tile a row's read finds nothing (R148). -/
theorem eccRead_of_no_flaws {d : Dev} {t : Nat} (h : (d.tile t).flaws = []) (bank prow : Nat) (hn : Option Nat) :
    eccRead d t bank prow hn = (d, false) := by
  simp [eccRead, h]

/-- No row of the tile has a wrong code, and the registers are those of `r`. -/
def SoundWith (r : Bank) (t : Nat) (d : Dev) : Prop := (d.tile t).flaws = [] ∧ d.regs = r

/-- A line's write-back touches memory and the line's mark only (R135, R136). -/
theorem SoundWith.writeBackLine {r : Bank} {t : Nat} {d : Dev} (h : SoundWith r t d) (g set : Nat) (l : CLine) :
    SoundWith r t (writeBackLine d t g set l) := by
  obtain ⟨hflaws, hregs⟩ := h
  unfold Machine.writeBackLine
  split
  · simp only [eccRead_of_no_flaws hflaws, Bool.false_eq_true, if_false]
    exact ⟨by simpa [Dev.tile, Dev.setTile] using hflaws, by simpa using hregs⟩
  · exact ⟨hflaws, hregs⟩

theorem writeBackAll_regs {d : Dev} {t : Nat} (h : (d.tile t).flaws = []) : (writeBackAll d t).regs = d.regs := by
  have hall : SoundWith d.regs t ((d.tile t).cache.foldl
      (fun d e => e.2.foldl (fun d l => writeBackLine d t (e.1 / 512) (e.1 % 512) l) d) d) :=
    List.foldlRecOn _ _ ⟨h, rfl⟩ fun _ hd e _ => List.foldlRecOn e.2 _ hd fun _ hd l _ => hd.writeBackLine _ _ l
  exact hall.2

/-! ### What reaches issue -/

theorem running_of_issues {s : State} {t cls op : Nat} {f : Fields} (h : Issues s t cls op f) :
    s.dev.fld tileStateState t = tsRunning := by
  obtain ⟨hat, -⟩ := h
  simp only [atIssue, Bool.and_eq_true, decide_eq_true_eq] at hat
  obtain ⟨⟨⟨⟨hrun, -⟩, -⟩, -⟩, -⟩ := hat
  exact hrun

section
variable {s : State} {t : Nat} {f : Fields}

theorem trapPending_eq_false {d : Dev} (h : (d.tile t).trap = none) : trapPending d t = false := by
  simp [trapPending, h]

theorem replayedWait_eq_false {d : Dev} (h : replayedOn d t = none) : replayedWait d t = false := by
  simp [replayedWait, h]

theorem endProg_stalls (h : Issues s t 0x1 0x0F f) (htrap : (s.dev.tile t).trap = none) (hbusy : (s.dev.tile t).inflight ≠ []) :
    exec (.endProg t f) s = .next s := by
  rw [exec_endProg, execEndProg]
  refine issue_stall (d := s.dev) h ?_
  simp [trapPending_eq_false htrap, hbusy]

theorem endProg_ends (h : Issues s t 0x1 0x0F f) (htrap : (s.dev.tile t).trap = none) (hidle : (s.dev.tile t).inflight = []) :
    exec (.endProg t f) s = leaves s (endProgram s.dev t) := by
  rw [exec_endProg, execEndProg]
  refine issue_stall h ?_
  simp [trapPending_eq_false htrap, hidle]

/-- With every code right the write-back cannot stop the tile. -/
theorem endProgram_of_no_flaws {d : Dev} (hrun : d.fld tileStateState t = tsRunning) (h : (d.tile t).flaws = []) :
    endProgram d t = finishTile (writeBackAll d t) t := by
  have hstill : (writeBackAll d t).fld tileStateState t = tsRunning := by
    simpa only [Dev.fld, writeBackAll_regs h] using hrun
  exact if_pos hstill

theorem waita_stalls (h : Issues s t 0x7 0x00 f) (htrap : (s.dev.tile t).trap = none) (hrep : replayedOn s.dev t = none)
    (hwait : 2 ^ 31 ≤ (arrivalCount s.dev t (f.e 4 0) - ((s.dev.tile t).xr f.ra).truncate 32).toNat)
    (hstall : (s.dev.tile t).stall = none) :
    exec (.waita t f) s = leaves s (s.dev.updTile t fun x =>
      { x with stall := some (.arrival (f.e 4 0) (((s.dev.tile t).xr f.ra).truncate 32) (((s.dev.tile t).xr f.rb).truncate 32) f.rd) }) := by
  have hnot : waitSatisfied (arrivalCount s.dev t (f.e 4 0)) (((s.dev.tile t).xr f.ra).truncate 32) = false :=
    decide_eq_false (not_lt.mpr hwait)
  rw [exec_waita, execWaita]
  refine issue_stall h ?_
  simp only [trapPending_eq_false htrap, replayedWait_eq_false hrep, hnot, Bool.false_eq_true, if_false]
  simp [stallOn, hstall, Stall.atSlots]

theorem waita_satisfied (h : Issues s t 0x7 0x00 f) (htrap : (s.dev.tile t).trap = none) (hrep : replayedOn s.dev t = none)
    (hmet : (arrivalCount s.dev t (f.e 4 0) - ((s.dev.tile t).xr f.ra).truncate 32).toNat < 2 ^ 31) :
    exec (.waita t f) s = completes s t (s.dev.updTile t fun x => x.xw f.rd 0) := by
  have hsat : waitSatisfied (arrivalCount s.dev t (f.e 4 0)) (((s.dev.tile t).xr f.ra).truncate 32) = true := decide_eq_true hmet
  rw [exec_waita, execWaita]
  refine issue_done h ?_
  simp only [trapPending_eq_false htrap, replayedWait_eq_false hrep, hsat, Bool.false_eq_true, if_false, if_true]

/-- The timeout of a wait that stalls a running tile; an arrival in the same cycle wins (R120, R121). -/
theorem waitTimeout_eq {c : Nat} {g w : U32} {rd : BitVec 5} (hstall : (s.dev.tile t).stall = some (.arrival c g w rd)) (hw : w ≠ 0)
    (hrun : s.dev.fld tileStateState t = tsRunning) (hrep : replayedOn s.dev t = none) :
    exec (.waitTimeout t) s = leaves s (if (arrivalCount s.dev t c - g).toNat < 2 ^ 31 then completeWait s.dev t rd 0
      else completeWait (recordWait s.dev t) t rd 1) := by
  simp only [exec_waitTimeout, execWaitTimeout, onDev_next, leaves, waitTimeout, hstall, waitSatisfied, decide_eq_true_eq]
  rw [if_pos ⟨hw, hrun, by rw [hrep]; rfl⟩]

end

/-- Settles O9: what each instruction waits for decides how it leaves issue; END's write-back keeps the tile running where every code
is right. -/
theorem endAndSynchronisationResults : Obligations.EndAndSynchronisationResults := by
  unfold Obligations.EndAndSynchronisationResults
  refine ⟨fun s t f h htrap => ⟨fun hidle => ⟨endProg_ends h htrap hidle, fun hflaws => ?clean⟩, endProg_stalls h htrap⟩,
    fun s t f => ⟨fun h => issue_done h rfl, fun h htrap => ?fpbar, fun h hidle => ?ebarDone, fun h hbusy => ?ebarStall,
      waita_satisfied, waita_stalls, fun c g w rd => waitTimeout_eq⟩⟩
  case clean =>
    rw [endProg_ends h htrap hidle, endProgram_of_no_flaws (running_of_issues h) hflaws]
  case fpbar => exact issue_done h (if_neg (by simp [trapPending_eq_false htrap]))
  case ebarDone => exact issue_done h (if_pos hidle)
  case ebarStall => exact issue_stall (d := s.dev) h (if_neg hbusy)

end Sys2Proof.Machine
end

section
/-! PROOFS. Illegal instructions, trap records and their delivery (R84, R85, R87, R89, R90, R159, R163): O17. -/

namespace Sys2Proof.Machine

/-! ### Fields and words of one tile's registers -/

/-- A write of field `f` of register `i` leaves field `g` of register `i`: the two lie in different words, or in different bits of one
register. -/
def Fld.beside (f g : Fld) : Bool :=
  decide (g.stride = f.stride) &&
    (decide (g.base + 4 * b2n g.wide + 4 ≤ f.base ∨ f.base + 4 * b2n f.wide + 4 ≤ g.base) ||
      decide (g.base = f.base ∧ g.wide = f.wide ∧ f.lo ≤ f.hi ∧ f.hi < (if f.wide then 64 else 32) ∧ (g.hi < f.lo ∨ f.hi < g.lo)))

theorem Dev.fld_setFld_of_beside (d : Dev) (f g : Fld) (i v : Nat) (h : f.beside g = true) : (d.setFld f v i).fld g i = d.fld g i := by
  simp only [Fld.beside, Bool.and_eq_true, Bool.or_eq_true, decide_eq_true_eq] at h
  obtain ⟨hs, hwords | ⟨hb, hw, hf, hh, hbits⟩⟩ := h
  · refine Dev.fld_setFld_ne _ _ _ _ _ _ ?_
    rw [hs]
    omega
  · exact Dev.fld_setFld_beside _ _ _ _ _ hb hs hw hf hh hbits

/-- The field lies in the trap record of its tile. -/
def Fld.inTrapRecord (f : Fld) : Bool :=
  decide (f.stride = 0x400 ∧ f.base ∈ [rTileFpTrap, rTileTrapCause, rTileTrapPc, rTileTrapOrd, rTileTrapOrd + 4, rTileTrapElem] ∧
    (f.wide = true → f.base + 4 ∈ [rTileFpTrap, rTileTrapCause, rTileTrapPc, rTileTrapOrd, rTileTrapOrd + 4, rTileTrapElem]))

theorem SameRegsBut.setFld_trap {d e : Dev} {t : Nat} (h : SameRegsBut d e (trapWords t)) (f : Fld) (v : Nat)
    (hf : f.inTrapRecord = true) : SameRegsBut d (e.setFld f v t) (trapWords t) := by
  obtain ⟨hs, hbase, hnext⟩ := of_decide_eq_true hf
  intro o ho
  have hne : ∀ b ∈ [rTileFpTrap, rTileTrapCause, rTileTrapPc, rTileTrapOrd, rTileTrapOrd + 4, rTileTrapElem], o ≠ b + 0x400 * t :=
    fun b hb hob => ho (List.mem_map.mpr ⟨b, hb, hob.symm⟩)
  rw [Dev.setFld_word_ne _ _ _ _ ?_ fun hw => ?_]
  · exact h o ho
  · rw [hs, Nat.mul_comm t]
    exact hne _ hbase
  · rw [hs, Nat.mul_comm t, Nat.add_right_comm]
    exact hne _ (hnext hw)

theorem SameRegsBut.refl (d : Dev) (os : List Nat) : SameRegsBut d d os := fun _ _ => rfl

theorem SameRegsBut.updTile {d e : Dev} {os : List Nat} (h : SameRegsBut d e os) (t : Nat) (g : Tile → Tile) :
    SameRegsBut d (e.updTile t g) os := h

/-! ### The record of a trap, and its delivery -/

/-- The device with trap `r` of tile `t` recorded, where none was pending (R84, R89, R90). -/
def trapRecorded (d : Dev) (t : Nat) (r : TrapRec) : Dev :=
  let d := d.updTile t fun x => { x with trap := some r }
  let d := (d.setFld tileTrapCauseCause r.cause.toNat t).setFld tileTrapCauseNanwatch (b2n r.nan) t
  let d := (d.setFld tileTrapPcPc r.pc.toNat t).setFld tileTrapOrdOrdinal r.ordinal t
  (d.setFld tileTrapElemElement r.elem t).setFld tileTrapElemLtile (d.fld tileIdLtile t) t

/-- The device with the pending trap of tile `t` delivered, before the work on the tile ends (R87, R163). -/
def trapDelivered (d : Dev) (t : Nat) : Dev :=
  ((d.setFld tileTrapCauseTrapped 1 t).setFld tileFpTrapPending 0 t).updTile t fun x => { x with trap := none }

section
variable {d : Dev} {t : Nat} {r : TrapRec}

theorem recordTrap_of_none (h : (d.tile t).trap = none) : recordTrap d t r = trapRecorded d t r := by
  simp only [recordTrap, h, trapRecorded]

theorem recordTrap_of_some {p : TrapRec} (h : (d.tile t).trap = some p) : recordTrap d t r = d := by
  simp only [recordTrap, h]

theorem deliverTrap_of_some (h : (d.tile t).trap = some r) : deliverTrap d t =
    tileFault (trapDelivered d t) t (if r.illegal then stInvalid else if r.nan then stNanTrapped else stNumeric) := by
  simp only [deliverTrap, h, trapDelivered]

/-- Of the tiles only `t` is touched, and of it only the trap. -/
theorem trapRecorded_tile_eq (d : Dev) (t : Nat) (r : TrapRec) (k : Nat) :
    (trapRecorded d t r).tile k = (d.updTile t fun x => { x with trap := some r }).tile k := by
  unfold trapRecorded
  iterate 6 rw [Dev.setFld_tile]

@[simp] theorem trapRecorded_tile (d : Dev) (t : Nat) (r : TrapRec) :
    (trapRecorded d t r).tile t = { d.tile t with trap := some r } := by
  rw [trapRecorded_tile_eq, Dev.tile_updTile_self]

theorem trapRecorded_otherTiles (d : Dev) (t : Nat) (r : TrapRec) : SameOtherTiles d (trapRecorded d t r) t := by
  intro k hk
  rw [trapRecorded_tile_eq, Dev.tile_updTile_ne _ _ hk]

theorem trapRecorded_fields (d : Dev) (t : Nat) (r : TrapRec) : (trapRecorded d t r).fld tileTrapCauseCause t = r.cause.toNat % 2 ^ 5 ∧
    (trapRecorded d t r).fld tileTrapCauseNanwatch t = b2n r.nan % 2 ∧ (trapRecorded d t r).fld tileTrapPcPc t = r.pc.toNat % 2 ^ 32 ∧
    (trapRecorded d t r).fld tileTrapOrdOrdinal t = r.ordinal % 2 ^ 64 ∧
    (trapRecorded d t r).fld tileTrapElemElement t = r.elem % 2 ^ 16 ∧
    (trapRecorded d t r).fld tileTrapElemLtile t = d.fld tileIdLtile t % 2 ^ 7 ∧
    (trapRecorded d t r).fld tileFpTrapPending t = d.fld tileFpTrapPending t := by
  simp (disch := decide) only [trapRecorded, Dev.fld_setFld, Dev.fld_setFld_of_beside, Dev.updTile_fld]
  exact ⟨rfl, rfl, rfl, rfl, rfl, rfl, trivial⟩

theorem trapRecorded_regs (d : Dev) (t : Nat) (r : TrapRec) : SameRegsBut d (trapRecorded d t r) (trapWords t) := by
  unfold trapRecorded
  refine SameRegsBut.setFld_trap (SameRegsBut.setFld_trap (SameRegsBut.setFld_trap (SameRegsBut.setFld_trap (SameRegsBut.setFld_trap
    (SameRegsBut.setFld_trap (SameRegsBut.updTile (SameRegsBut.refl _ _) _ _) _ _ ?_) _ _ ?_) _ _ ?_) _ _ ?_) _ _ ?_) _ _ ?_
  all_goals decide

@[simp] theorem trapDelivered_tile (d : Dev) (t : Nat) : (trapDelivered d t).tile t = { d.tile t with trap := none } := by
  rw [trapDelivered, Dev.tile_updTile_self, Dev.setFld_tile, Dev.setFld_tile]

theorem trapDelivered_fields (d : Dev) (t : Nat) :
    (trapDelivered d t).fld tileTrapCauseTrapped t = 1 ∧ (trapDelivered d t).fld tileFpTrapPending t = 0 := by
  simp (disch := decide) only [trapDelivered, Dev.fld_setFld, Dev.fld_setFld_of_beside, Dev.updTile_fld]
  exact ⟨rfl, rfl⟩

theorem trapDelivered_fld (d : Dev) (t : Nat) (g : Fld) (hc : tileTrapCauseTrapped.beside g = true)
    (hp : tileFpTrapPending.beside g = true) : (trapDelivered d t).fld g t = d.fld g t := by
  simp only [trapDelivered, Dev.updTile_fld, Dev.fld_setFld_of_beside _ _ _ _ _ hp, Dev.fld_setFld_of_beside _ _ _ _ _ hc]

theorem SameRegsBut.trapDelivered {e : Dev} (h : SameRegsBut d e (trapWords t)) :
    SameRegsBut d (trapDelivered e t) (trapWords t) :=
  SameRegsBut.updTile (SameRegsBut.setFld_trap (SameRegsBut.setFld_trap h tileTrapCauseTrapped 1 (by decide))
    tileFpTrapPending 0 (by decide)) _ _

theorem trapDelivered_otherTiles (d : Dev) (t : Nat) : SameOtherTiles d (trapDelivered d t) t := by
  intro k hk
  rw [trapDelivered, Dev.tile_updTile_ne _ _ hk, Dev.setFld_tile, Dev.setFld_tile]

theorem SameBesideTilesRegs.setFld {e : Dev} (h : SameBesideTilesRegs d e) (f : Fld) (v i : Nat) :
    SameBesideTilesRegs d (e.setFld f v i) := h

theorem SameBesideTilesRegs.updTile {e : Dev} (h : SameBesideTilesRegs d e) (t : Nat) (g : Tile → Tile) :
    SameBesideTilesRegs d (e.updTile t g) := h

theorem trapRecorded_beside (d : Dev) (t : Nat) (r : TrapRec) : SameBesideTilesRegs d (trapRecorded d t r) := by
  have h : SameBesideTilesRegs d d := rfl
  exact ((((((h.updTile _ _).setFld _ _ _).setFld _ _ _).setFld _ _ _).setFld _ _ _).setFld _ _ _).setFld _ _ _

theorem SameBesideTilesRegs.trapDelivered {e : Dev} (h : SameBesideTilesRegs d e) (t : Nat) :
    SameBesideTilesRegs d (trapDelivered e t) :=
  ((h.setFld _ _ _).setFld _ _ _).updTile _ _

/-- An illegal instruction with no trap pending is recorded and delivered (R163). -/
theorem illegal_of_none (h : (d.tile t).trap = none) : ∃ e, IllegalRecorded d e t ∧ illegal d t = tileFault e t stInvalid := by
  let r : TrapRec := ⟨(d.tile t).pc, (d.tile t).ordinal, 0, 0, false, true⟩
  obtain ⟨hcause, hnan, hpc, hord, -, hltile, -⟩ := trapRecorded_fields d t r
  obtain ⟨htrapped, hpending⟩ := trapDelivered_fields (trapRecorded d t r) t
  refine ⟨trapDelivered (trapRecorded d t r) t, ⟨(trapRecorded_beside d t r).trapDelivered t, fun k => ?tile,
    (trapRecorded_regs d t r).trapDelivered, htrapped, ?_, ?_, hpending, ?_, ?_, ?_⟩, ?fault⟩
  case tile =>
    by_cases hk : k = t
    · rw [hk, trapDelivered_tile, trapRecorded_tile, ← h]
    · rw [trapDelivered_otherTiles _ _ _ hk, trapRecorded_otherTiles _ _ _ _ hk]
  case fault =>
    rw [illegal, recordTrap_of_none h, deliverTrap_of_some (congrArg Tile.trap (trapRecorded_tile d t r))]
    rfl
  all_goals rw [trapDelivered_fld _ _ _ (by decide) (by decide)]
  · exact hcause
  · exact hnan
  · rw [hpc, Nat.mod_eq_of_lt (BitVec.isLt _)]
  · exact hord
  · exact hltile

/-- An illegal instruction with a trap pending: that trap is delivered in its place (R163). -/
theorem illegal_of_some (h : (d.tile t).trap = some r) : illegal d t = deliverTrap d t := by
  rw [illegal, recordTrap_of_some h]

end

/-! ### Raising flags (R80, R84, R89) -/

/-- The device with flags merged into TILE_FP_FLAGS of tile `t`. -/
def flagsMerged (d : Dev) (t : Nat) (fl : Fl) : Dev :=
  let d := d.setFld tileFpFlagsInvalid (d.fld tileFpFlagsInvalid t ||| fl.toNat % 2) t
  let d := d.setFld tileFpFlagsDivzero (d.fld tileFpFlagsDivzero t ||| fl.toNat / 2 % 2) t
  let d := d.setFld tileFpFlagsOverflow (d.fld tileFpFlagsOverflow t ||| fl.toNat / 4 % 2) t
  let d := d.setFld tileFpFlagsUnderflow (d.fld tileFpFlagsUnderflow t ||| fl.toNat / 8 % 2) t
  let d := d.setFld tileFpFlagsInexact (d.fld tileFpFlagsInexact t ||| fl.toNat / 16 % 2) t
  d.setFld tileFpFlagsIntOverflow (d.fld tileFpFlagsIntOverflow t ||| fl.toNat / 32) t

/-- The enabled flags that an element raised. -/
def enabledFlags (d : Dev) (t : Nat) (e : ElemFx) : BitVec 5 := e.1.truncate 5 &&& BitVec.ofNat 5 (d.fld tileFpTrapTrapEn t)

/-- The enabled flags that an operation raised. -/
def enabledOf (d : Dev) (t : Nat) (elems : List ElemFx) : BitVec 5 := elems.foldl (fun a e => a ||| enabledFlags d t e) 0

/-- The lowest element that traps: it raised an enabled flag, or the armed NaN watch saw its NaN. -/
def lowestTrap (d : Dev) (t : Nat) (elems : List ElemFx) : Option Nat :=
  firstElem (fun e => enabledFlags d t e ≠ 0 || (d.flag tileFpTrapNanwatchEn t && e.2)) elems 0

/-- The device with the flags of an operation merged and its enabled flags pending. -/
def flagsNoted (d : Dev) (t : Nat) (elems : List ElemFx) : Dev :=
  let d := flagsMerged d t (elems.foldl (fun a e => a ||| e.1) flNone)
  d.setFld tileFpTrapPending (d.fld tileFpTrapPending t ||| (enabledOf d t elems).toNat) t

section
variable (d : Dev) (t : Nat)

/-- Merging flags touches TILE_FP_FLAGS alone. -/
theorem flagsMerged_fld (fl : Fl) (g : Fld) (h : g.stride = 0x400 ∧ rTileFpFlags + 4 ≤ g.base) :
    (flagsMerged d t fl).fld g t = d.fld g t := by
  have hbeside : ∀ f : Fld, f.base = rTileFpFlags → f.stride = 0x400 → f.wide = false → f.beside g = true := by
    intro f hb hs hw
    simp [Fld.beside, hb, hs, hw, h, b2n]
  unfold flagsMerged
  iterate 6 rw [Dev.fld_setFld_of_beside _ _ _ _ _ (hbeside _ rfl rfl rfl)]

theorem flagsNoted_tile (elems : List ElemFx) (k : Nat) : (flagsNoted d t elems).tile k = d.tile k := by
  unfold flagsNoted flagsMerged
  iterate 7 rw [Dev.setFld_tile]

theorem enabledFlags_flagsMerged (fl : Fl) : enabledFlags (flagsMerged d t fl) t = enabledFlags d t := by
  funext e
  rw [enabledFlags, enabledFlags, flagsMerged_fld _ _ _ _ (by decide)]

theorem enabledOf_flagsMerged (fl : Fl) (elems : List ElemFx) : enabledOf (flagsMerged d t fl) t elems = enabledOf d t elems := by
  rw [enabledOf, enabledOf, enabledFlags_flagsMerged]

theorem nanWatch_flagsMerged (fl : Fl) : (flagsMerged d t fl).flag tileFpTrapNanwatchEn t = d.flag tileFpTrapNanwatchEn t := by
  rw [Dev.flag, Dev.flag, flagsMerged_fld _ _ _ _ (by decide)]

theorem lowestTrap_flagsMerged (fl : Fl) (elems : List ElemFx) : lowestTrap (flagsMerged d t fl) t elems = lowestTrap d t elems := by
  rw [lowestTrap, lowestTrap, enabledFlags_flagsMerged, nanWatch_flagsMerged]

theorem flagsNoted_pending (elems : List ElemFx) : (flagsNoted d t elems).fld tileFpTrapPending t =
    d.fld tileFpTrapPending t ||| (enabledOf d t elems).toNat := by
  have hlt : d.fld tileFpTrapPending t ||| (enabledOf d t elems).toNat < 2 ^ 5 :=
    Nat.or_lt_two_pow (bits_lt _ _ _) (BitVec.isLt _)
  unfold flagsNoted
  rw [Dev.fld_setFld _ _ _ _ (by decide) (by decide), enabledOf_flagsMerged, flagsMerged_fld _ _ _ _ (by decide)]
  exact Nat.mod_eq_of_lt hlt

/-- An operation with an element that traps: its flags are merged, and its trap recorded. -/
theorem raise_of_lowestTrap {elems : List ElemFx} {i : Nat} (h : lowestTrap d t elems = some i) :
    raise d t elems = recordTrap (flagsNoted d t elems) t ⟨(d.tile t).pc, (d.tile t).ordinal, i, enabledOf d t elems,
      d.flag tileFpTrapNanwatchEn t && elems.any (·.2), false⟩ := by
  let m : Dev := flagsMerged d t (elems.foldl (fun a e => a ||| e.1) flNone)
  have hm : lowestTrap m t elems = some i := (lowestTrap_flagsMerged d t _ elems).trans h
  have hraise : raise d t elems = match lowestTrap m t elems with
      | none => flagsNoted d t elems
      | some i => recordTrap (flagsNoted d t elems) t ⟨((flagsNoted d t elems).tile t).pc, ((flagsNoted d t elems).tile t).ordinal, i,
        enabledOf m t elems, m.flag tileFpTrapNanwatchEn t && elems.any (·.2), false⟩ := rfl
  rw [hraise, hm, flagsNoted_tile, enabledOf_flagsMerged, nanWatch_flagsMerged]

end

/-! ### An operation of which one element raises flags -/

/-- The lowest element for which `p` holds comes after those for which it does not. -/
theorem firstElem_append {p : ElemFx → Bool} {l : List ElemFx} (hl : ∀ e ∈ l, p e = false) {e : ElemFx} (he : p e = true)
    (r : List ElemFx) (i : Nat) : firstElem p (l ++ e :: r) i = some (i + l.length) := by
  induction l generalizing i with
  | nil => simp [firstElem, he]
  | cons a l ih =>
    have ha : p a = false := hl a List.mem_cons_self
    simp only [List.cons_append, firstElem, ha, Bool.false_eq_true, if_false, List.length_cons]
    rw [ih fun b hb => hl b (List.mem_cons_of_mem _ hb), Nat.add_assoc, Nat.add_comm 1]

section
variable {d : Dev} {t : Nat} {fl : Fl}

theorem enabledFlags_none : enabledFlags d t (flNone, false) = 0#5 := by
  simp [enabledFlags, flNone]

/-- The five flags that can be enabled are the low bits of the six. -/
theorem enabledFlags_toNat (hlt : fl.toNat < 32) (nan : Bool) :
    (enabledFlags d t (fl, nan)).toNat = d.fld tileFpTrapTrapEn t &&& fl.toNat := by
  have hen : d.fld tileFpTrapTrapEn t < 32 := bits_lt _ _ _
  simp [enabledFlags, Nat.mod_eq_of_lt hlt, Nat.mod_eq_of_lt hen, Nat.and_comm]

/-- Elements that raise nothing add nothing. -/
theorem enabledOf_quiet {l : List ElemFx} (h : ∀ e ∈ l, e = (flNone, false)) (a : BitVec 5) :
    l.foldl (fun a e => a ||| enabledFlags d t e) a = a := by
  induction l with
  | nil => rfl
  | cons e l ih =>
    rw [List.foldl_cons, h e List.mem_cons_self, enabledFlags_none, BitVec.or_zero]
    exact ih fun b hb => h b (List.mem_cons_of_mem _ hb)

theorem enabledOf_single {l r : List ElemFx} (hl : ∀ e ∈ l, e = (flNone, false)) (hr : ∀ e ∈ r, e = (flNone, false)) (e : ElemFx) :
    enabledOf d t (l ++ e :: r) = enabledFlags d t e := by
  rw [enabledOf, List.foldl_append, enabledOf_quiet hl, List.foldl_cons, enabledOf_quiet hr]
  exact BitVec.zero_or

theorem any_nan_single {l r : List ElemFx} (hl : ∀ e ∈ l, e = (flNone, false)) (hr : ∀ e ∈ r, e = (flNone, false)) :
    (l ++ (fl, false) :: r).any (·.2) = false := by
  rw [List.any_eq_false]
  intro e he
  rw [List.mem_append, List.mem_cons] at he
  obtain h | rfl | h := he
  · simp [hl e h]
  · simp
  · simp [hr e h]

theorem lowestTrap_single {l : List ElemFx} (hl : ∀ e ∈ l, e = (flNone, false)) (r : List ElemFx)
    (hen : enabledFlags d t (fl, false) ≠ 0) : lowestTrap d t (l ++ (fl, false) :: r) = some l.length := by
  rw [lowestTrap, firstElem_append ?before ?here r 0, Nat.zero_add]
  case before =>
    intro e he
    simp [hl e he, enabledFlags_none]
  case here => simpa using hen

/-- One element raises an enabled flag: its number and its flags are in the record. -/
theorem raise_single {l r : List ElemFx} (hl : ∀ e ∈ l, e = (flNone, false)) (hr : ∀ e ∈ r, e = (flNone, false))
    (hen : enabledFlags d t (fl, false) ≠ 0) :
    raise d t (l ++ (fl, false) :: r) = recordTrap (flagsNoted d t (l ++ (fl, false) :: r)) t
      ⟨(d.tile t).pc, (d.tile t).ordinal, l.length, enabledFlags d t (fl, false), false, false⟩ := by
  rw [raise_of_lowestTrap d t (lowestTrap_single hl r hen), any_nan_single hl hr, enabledOf_single hl hr, Bool.and_false]

/-- The record that one element's enabled flag leaves, where none was pending (R84, R89, R90). -/
theorem raise_single_recorded {l r : List ElemFx} (hl : ∀ e ∈ l, e = (flNone, false)) (hr : ∀ e ∈ r, e = (flNone, false))
    (hen : enabledFlags d t (fl, false) ≠ 0) (htrap : (d.tile t).trap = none) :
    raise d t (l ++ (fl, false) :: r) = trapRecorded (flagsNoted d t (l ++ (fl, false) :: r)) t
      ⟨(d.tile t).pc, (d.tile t).ordinal, l.length, enabledFlags d t (fl, false), false, false⟩ := by
  rw [raise_single hl hr hen, recordTrap_of_none (by rw [flagsNoted_tile, htrap])]

/-- A trap already recorded stays (R84). -/
theorem raise_single_kept {l r : List ElemFx} (hl : ∀ e ∈ l, e = (flNone, false)) (hr : ∀ e ∈ r, e = (flNone, false))
    (hen : enabledFlags d t (fl, false) ≠ 0) {p : TrapRec} (htrap : (d.tile t).trap = some p) :
    raise d t (l ++ (fl, false) :: r) = flagsNoted d t (l ++ (fl, false) :: r) := by
  rw [raise_single hl hr hen, recordTrap_of_some (by rw [flagsNoted_tile, htrap])]

theorem raise_single_pending {l r : List ElemFx} (hl : ∀ e ∈ l, e = (flNone, false)) (hr : ∀ e ∈ r, e = (flNone, false))
    (hen : enabledFlags d t (fl, false) ≠ 0) : (raise d t (l ++ (fl, false) :: r)).fld tileFpTrapPending t =
      d.fld tileFpTrapPending t ||| (enabledFlags d t (fl, false)).toNat := by
  rw [← enabledOf_single hl hr, ← flagsNoted_pending]
  cases htrap : (d.tile t).trap with
  | none =>
    obtain ⟨-, -, -, -, -, -, hpending⟩ := trapRecorded_fields (flagsNoted d t (l ++ (fl, false) :: r)) t
      ⟨(d.tile t).pc, (d.tile t).ordinal, l.length, enabledFlags d t (fl, false), false, false⟩
    rw [raise_single_recorded hl hr hen htrap, hpending]
  | some p => rw [raise_single_kept hl hr hen htrap]

/-- Of its tile an operation's flags change the trap alone. -/
theorem raise_single_tile {l r : List ElemFx} (hl : ∀ e ∈ l, e = (flNone, false)) (hr : ∀ e ∈ r, e = (flNone, false))
    (hen : enabledFlags d t (fl, false) ≠ 0) :
    { (raise d t (l ++ (fl, false) :: r)).tile t with trap := (d.tile t).trap } = d.tile t := by
  cases htrap : (d.tile t).trap with
  | none => rw [raise_single_recorded hl hr hen htrap, trapRecorded_tile, flagsNoted_tile, ← htrap]
  | some p => rw [raise_single_kept hl hr hen htrap, flagsNoted_tile, ← htrap]

end

/-! ### The statement -/

section
variable {s : State} {t : Nat}

theorem illegalInstruction_illegal (hrun : s.dev.fld tileStateState t = tsRunning) (hcode : (s.dev.tile t).vendor = false)
    (hword : wordIllegal s.dev t = true) : exec (.illegalInstruction t) s = leaves s (illegal s.dev t) := by
  simp [execIllegalInstruction, leaves, hrun, hcode, hword]

theorem trapDeliveryTimer_delivers (hrun : s.dev.fld tileStateState t = tsRunning) :
    exec (.trapDeliveryTimer t) s = leaves s (deliverTrap s.dev t) := by
  simp [execTrapDeliveryTimer, leaves, hrun]

theorem exec_of_not_atIssue {i : Instr} {cls op : Nat} {f : Fields} (hi : i.tileOp = some (t, cls, op, f))
    (hat : atIssue s.dev t (instrWord cls op f) = false) : exec i s = .next s := by
  obtain ⟨body, hbody⟩ := exec_tileOp i s t cls op f hi
  rw [hbody, onDev, issue_absent hat]

theorem exec_of_role {i : Instr} {cls op : Nat} {f : Fields} (hi : i.tileOp = some (t, cls, op, f))
    (hat : atIssue s.dev t (instrWord cls op f) = true) (hrole : classRole s.dev t cls = false) :
    exec i s = leaves s (illegal s.dev t) := by
  obtain ⟨body, hbody⟩ := exec_tileOp i s t cls op f hi
  rw [hbody, onDev, issue_role hat hrole, leaves]

/-- What delivery of a pending trap leaves (R87, R163). -/
theorem trapDeliveryTimer_delivered {r : TrapRec} (hrun : s.dev.fld tileStateState t = tsRunning)
    (htrap : (s.dev.tile t).trap = some r) : exec (.trapDeliveryTimer t) s = leaves s (tileFault (trapDelivered s.dev t) t
      (if r.illegal then stInvalid else if r.nan then stNanTrapped else stNumeric)) := by
  rw [trapDeliveryTimer_delivers hrun, deliverTrap_of_some htrap]

end

/-- Settles O17: an illegal instruction is recorded and delivered at once, a trap pending before it goes first; and of an operation that
raises flags the lowest element with an enabled one is recorded. -/
theorem illegalInstructionsAndTraps : Obligations.IllegalInstructionsAndTraps := by
  unfold Obligations.IllegalInstructionsAndTraps
  refine ⟨fun s t => ⟨fun i cls op f hi => ⟨exec_of_not_atIssue hi, fun hat hrole htrap => ?role⟩,
    fun hrun hcode hword htrap => ?word, fun r hrun htrap => ?timer⟩, fun d t fl r n hflags hlt hr => ?flags⟩
  case role =>
    rw [exec_of_role hi hat hrole]
    obtain ⟨e, he, hfault⟩ := illegal_of_none htrap
    exact ⟨e, he, congrArg _ hfault⟩
  case word =>
    rw [illegalInstruction_illegal hrun hcode hword]
    obtain ⟨e, he, hfault⟩ := illegal_of_none htrap
    exact ⟨e, he, congrArg _ hfault⟩
  case timer =>
    obtain ⟨htrapped, hpending⟩ := trapDelivered_fields s.dev t
    have hbeside : SameBesideTilesRegs s.dev s.dev := rfl
    refine ⟨trapDelivered s.dev t, hbeside.trapDelivered t, trapDelivered_otherTiles _ _, trapDelivered_tile _ _,
      (SameRegsBut.refl _ _).trapDelivered, htrapped, hpending, trapDeliveryTimer_delivered hrun htrap, fun hcode hword => ?_⟩
    rw [illegalInstruction_illegal hrun hcode hword, illegal_of_some htrap, trapDeliveryTimer_delivers hrun]
  case flags =>
    have hl : ∀ e ∈ List.replicate n ((flNone, false) : ElemFx), e = (flNone, false) := fun e he => List.eq_of_mem_replicate he
    have hnum := enabledFlags_toNat (d := d) (t := t) hlt false
    have hen : enabledFlags d t (fl, false) ≠ 0 := by
      intro h0
      rw [h0] at hnum
      exact hflags hnum.symm
    have hcause : enabledFlags d t (fl, false) = BitVec.ofNat 5 (d.fld tileFpTrapTrapEn t &&& fl.toNat) := by
      rw [← hnum, BitVec.ofNat_toNat, BitVec.setWidth_eq]
    refine ⟨fun htrap => ?recorded, fun p htrap => ?kept, ?_, raise_single_tile hl hr hen⟩
    case recorded =>
      rw [raise_single_recorded hl hr hen htrap, List.length_replicate, ← hcause]
      obtain ⟨-, -, hpc, -, helem, -, -⟩ := trapRecorded_fields (flagsNoted d t (List.replicate n (flNone, false) ++ (fl, false) :: r)) t
        ⟨(d.tile t).pc, (d.tile t).ordinal, n, enabledFlags d t (fl, false), false, false⟩
      exact ⟨congrArg Tile.trap (trapRecorded_tile _ _ _), hpc.trans (Nat.mod_eq_of_lt (BitVec.isLt _)), helem⟩
    case kept => rw [raise_single_kept hl hr hen htrap, flagsNoted_tile, htrap]
    rw [raise_single_pending hl hr hen, hnum]

end Sys2Proof.Machine
end

section
/-! PROOFS. VCVT into the upper half of a register (R84, R89, R168, R170): O11. -/

namespace Sys2Proof.Machine

/-- VCVT of 128 FP32 elements of v0 to FP16, into the upper half of v1: EXT[3:0] = 1, EXT[7:4] = 2, EXT[8] = 1. -/
def toUpperHalf : Fields := { rd := 1, ra := 0, ext := 0x121 }

/-- Tile 0 runs with that instruction as its code and the overflow trap enabled. Lane 0 of v0 holds the largest finite FP32 value, which
overflows in FP16; every other lane holds 0. -/
def overflowsInLane0 : State :=
  { dev := { regs := [(rTileState, 2), (rTileFpTrap, 4)],
             tiles := [(0, { v := [(0, 0x7F7FFFFF)], code := [(0, instrWord 0x3 0x23 toUpperHalf)], codeLen := 1 })] } }

/-- What VCVT makes of the 128 lanes. -/
def halvesOfLanes : List (Nat × ElemFx) :=
  (unpack 32 128 ((overflowsInLane0.dev.tile 0).vr 0).toNat).filterMap (vcvtElem (.fl fp32) (.fl fp16))

theorem overflowsInLane0_issues : Issues overflowsInLane0 0 0x3 0x23 toUpperHalf := by
  unfold Issues
  decide +kernel

/-- The element of the trap recorded on tile 0. -/
def recordedElem : Out → Option Nat
  | .next u => (u.dev.tile 0).trap.map (·.elem)
  | _ => none

/-- The model names the element by its place in the register: lane 0 has become element 128 of v1. -/
theorem vcvt_recordedElem : recordedElem (exec (.vcvt 0 toUpperHalf) overflowsInLane0) = some 128 := by
  decide +kernel

/-- Refutes O11: where VCVT writes the upper half of a register of a 16-bit format, its statement numbers the destination elements from
0, but the model numbers them by their place in the register, from 128, so that the trap record differs (R89). -/
theorem not_vectorReductionsDotConvert : ¬ Obligations.VectorReductionsDotConvert := by
  unfold Obligations.VectorReductionsDotConvert
  intro h
  obtain ⟨-, -, -, hvcvt⟩ := h overflowsInLane0 0 toUpperHalf
  have hexec := hvcvt (.fl fp32) (.fl fp16) halvesOfLanes overflowsInLane0_issues (by decide +kernel) (by decide +kernel)
    (by decide +kernel)
  have helem := vcvt_recordedElem
  rw [hexec] at helem
  exact absurd helem (by decide +kernel)

end Sys2Proof.Machine
end

section
/-! PROOFS. Loads, stores and CWB, and what a store and a load leave alone (R105, R106, R110, R115, R123, R132, R135, R139, R167): O14 and
O15. -/

namespace Sys2Proof.Machine

/-! ### What the marks of a row access leave alone -/

/-- What tile `t`'s marks of timing and physics leave alone: every other tile, memory, host memory, and of the tile everything but its times and
what the codes of its rows say. -/
def OnlyMarks (t : Nat) (d e : Dev) : Prop :=
  SameOtherTiles d e t ∧ e.mem = d.mem ∧ e.hostMem = d.hostMem ∧
    { e.tile t with pace := (d.tile t).pace, flaws := (d.tile t).flaws, rowErrs := (d.tile t).rowErrs, rowBad := (d.tile t).rowBad } = d.tile t

theorem OnlyMarks.refl (t : Nat) (d : Dev) : OnlyMarks t d d := ⟨fun _ _ => rfl, rfl, rfl, rfl⟩

theorem OnlyMarks.trans {t : Nat} {a b c : Dev} (h : OnlyMarks t a b) (h' : OnlyMarks t b c) : OnlyMarks t a c := by
  obtain ⟨hother, hmem, hhost, htile⟩ := h
  obtain ⟨hother', hmem', hhost', htile'⟩ := h'
  refine ⟨fun k hk => (hother' k hk).trans (hother k hk), hmem'.trans hmem, hhost'.trans hhost, ?_⟩
  rw [← htile, ← htile']

/-- A change of the device beside its tiles and stores. -/
theorem OnlyMarks.of_tiles {t : Nat} {d e : Dev} (htiles : e.tiles = d.tiles) (hmem : e.mem = d.mem) (hhost : e.hostMem = d.hostMem) :
    OnlyMarks t d e := by
  have htile : ∀ k, e.tile k = d.tile k := fun k => by rw [Dev.tile, Dev.tile, htiles]
  exact ⟨fun k _ => htile k, hmem, hhost, by rw [htile]⟩

theorem OnlyMarks.updTile {t : Nat} (d : Dev) {g : Tile → Tile}
    (hg : ∀ x : Tile, { g x with pace := x.pace, flaws := x.flaws, rowErrs := x.rowErrs, rowBad := x.rowBad } = x) :
    OnlyMarks t d (d.updTile t g) :=
  ⟨fun _ hk => d.tile_updTile_ne _ hk, rfl, rfl, by rw [Dev.tile_updTile_self, hg]⟩

theorem OnlyMarks.jobFlag (t : Nat) (d : Dev) (j : Option Nat) (f : Nat) : OnlyMarks t d (d.jobFlag j f) := by
  cases j <;> exact .of_tiles rfl rfl rfl

theorem eccCorrected_onlyMarks (d : Dev) (t bank prow : Nat) : OnlyMarks t d (eccCorrected d t bank prow) := by
  unfold eccCorrected
  refine ((OnlyMarks.of_tiles (e := (d.setFld tileEccStatusCorrected 1 t).incFld tileEccCorrCount t) rfl rfl rfl).trans
    (.updTile _ ?_)).trans (.jobFlag _ _ _ _)
  exact fun _ => rfl

theorem OnlyMarks.ite {t : Nat} {d a b : Dev} {p : Prop} [Decidable p] (ha : OnlyMarks t d a) (hb : OnlyMarks t d b) :
    OnlyMarks t d (if p then a else b) := by
  split
  · exact ha
  · exact hb

theorem OnlyMarks.setFld {t : Nat} {d e : Dev} (h : OnlyMarks t d e) (f : Fld) (v i : Nat) : OnlyMarks t d (e.setFld f v i) :=
  h.trans (.of_tiles rfl rfl rfl)

theorem OnlyMarks.incFld {t : Nat} {d e : Dev} (h : OnlyMarks t d e) (f : Fld) (i n : Nat) : OnlyMarks t d (e.incFld f i n) :=
  h.setFld _ _ _

theorem eccRecord_onlyMarks (d : Dev) (t bank prow : Nat) (hn : Option Nat) : OnlyMarks t d (eccRecord d t bank prow hn) := by
  unfold eccRecord
  refine OnlyMarks.trans ((OnlyMarks.ite (.refl t d) ?_).setFld _ _ _ |>.incFld _ _ _) (.updTile _ ?_)
  · exact ((((OnlyMarks.refl t d).setFld _ _ _).setFld _ _ _).setFld _ _ _).setFld _ _ _
  · exact fun _ => rfl

theorem eccRead_onlyMarks (d : Dev) (t bank prow : Nat) (hn : Option Nat) : OnlyMarks t d (eccRead d t bank prow hn).1 := by
  unfold eccRead
  split
  · exact .refl _ _
  · exact eccCorrected_onlyMarks _ _ _ _
  · exact eccRecord_onlyMarks _ _ _ _ _

theorem eccReads_onlyMarks (d : Dev) (t : Nat) (l : List (Nat × Nat × Nat)) : OnlyMarks t d (eccReads d t l).1 :=
  List.foldlRecOn l _ (motive := fun r : Dev × Bool => OnlyMarks t d r.1) (.refl _ _) fun r hr e _ =>
    hr.trans (eccRead_onlyMarks r.1 t e.1 e.2.1 (some e.2.2))

theorem bankConflict_onlyMarks (d : Dev) (t bank : Nat) : OnlyMarks t d (bankConflict d t bank) := by
  unfold bankConflict
  refine ((OnlyMarks.ite (.refl t d) ?_).setFld _ _ _).incFld _ _ _
  exact ((OnlyMarks.refl t d).setFld _ _ _).setFld _ _ _

/-- The beats that met a bank conflict, noted (R108). -/
def conflictsNoted (d : Dev) (t : Nat) (bs : List (Beat × Nat × Bool)) : Dev :=
  bs.foldl (fun d b => if b.2.2 then bankConflict d t b.1.bank else d) d

theorem conflictsNoted_onlyMarks (d : Dev) (t : Nat) (bs : List (Beat × Nat × Bool)) : OnlyMarks t d (conflictsNoted d t bs) := by
  refine List.foldlRecOn bs _ (motive := OnlyMarks t d) (.refl _ _) fun e he b _ => ?_
  split
  · exact he.trans (bankConflict_onlyMarks _ _ _)
  · exact he

/-- An access of an instruction writes as one of its requests says. -/
theorem beats_write {x : Tile} {reqs : List RowReq} {b : Beat} (h : b ∈ beats x reqs) : ∃ q ∈ reqs, b.write = q.write := by
  obtain ⟨q, hq, hb⟩ := List.mem_flatMap.mp h
  obtain ⟨r, -, rfl⟩ := List.mem_map.mp hb
  refine ⟨q, hq, ?_⟩
  dsimp only
  split <;> rfl

/-- The accesses accepted are those presented. -/
theorem accept_mem {m : SMap Nat} {c : Nat} {l : List Beat} {b : Beat × Nat × Bool} (h : b ∈ (accept m c l).1) : b.1 ∈ l := by
  induction l generalizing m c with
  | nil => exact absurd h List.not_mem_nil
  | cons a l ih =>
    unfold accept at h
    split at h <;> obtain rfl | h := List.mem_cons.mp h
    · exact List.mem_cons_self
    · exact List.mem_cons_of_mem _ (ih h)
    · exact List.mem_cons_self
    · exact List.mem_cons_of_mem _ (ih h)

/-- What the row accesses of an instruction come to: the codes given, the new times and the stall counted; then the conflicts, and the codes
of the rows read. -/
theorem accessed_eq (d : Dev) (t : Nat) (reqs : List RowReq) (a : Access) : ∃ (e : Dev) (bs : List (Beat × Nat × Bool))
    (l : List (Nat × Nat × Nat)), OnlyMarks t d e ∧ ((∀ q ∈ reqs, q.write = true) → l = []) ∧
      accessed d t reqs a = eccReads (conflictsNoted e t bs) t l := by
  refine ⟨_, _, _, ?marks, fun hw => ?stores, rfl⟩
  case marks =>
    refine OnlyMarks.trans (OnlyMarks.updTile d ?_) (.trans (.updTile _ ?_) (.ite (.refl _ _) ((OnlyMarks.refl _ _).incFld _ _ _)))
    · exact fun _ => rfl
    · exact fun _ => rfl
  case stores =>
    rw [List.map_eq_nil_iff, List.filter_eq_nil_iff]
    intro b hb
    obtain ⟨q, hq, hbq⟩ := beats_write (accept_mem hb)
    rw [hbq, hw q (List.mem_filter.mp hq).1]
    decide

/-- Stores read no row. -/
theorem readsSound_of_stores {d : Dev} {t : Nat} {reqs : List RowReq} (a : Access) (h : ∀ q ∈ reqs, q.write = true) :
    ReadsSound d t reqs a := by
  obtain ⟨e, bs, l, -, hl, haccessed⟩ := accessed_eq d t reqs a
  rw [ReadsSound, haccessed, hl h]
  rfl

/-- The row accesses of an instruction mark times and codes and nothing else. -/
theorem marked_onlyMarks (d : Dev) (t : Nat) (reqs : List RowReq) (a : Access) : OnlyMarks t d (marked d t reqs a) := by
  obtain ⟨e, bs, l, he, -, h⟩ := accessed_eq d t reqs a
  rw [marked, h]
  exact (he.trans (conflictsNoted_onlyMarks _ _ _)).trans (eccReads_onlyMarks _ _ _)

/-! ### Loads, stores and CWB (R132, R167) -/

section
variable {s : State} {t cls op : Nat} {f : Fields} {a : Access} {reqs : List RowReq} {body : Dev → Issue} {k : Dev → Issue} {e : Dev}

/-- An instruction whose row accesses are ready completes with what it makes of the rows. -/
theorem issue_withRows (h : Issues s t cls op f) (hready : RowsReady s.dev t reqs) (hsound : ReadsSound s.dev t reqs a)
    (hbody : body s.dev = withRows s.dev t reqs a k) (hk : k (marked s.dev t reqs a) = .done e) :
    onDev (issue t cls op f body) s = completes s t e :=
  issue_done h (by rw [hbody, withRows_ready hready hsound, hk])

/-- The same of an instruction that stores alone. -/
theorem issue_stores (h : Issues s t cls op f) (hready : RowsReady s.dev t reqs) (hw : ∀ q ∈ reqs, q.write = true)
    (hbody : body s.dev = withRows s.dev t reqs a k) (hk : k (marked s.dev t reqs a) = .done e) :
    onDev (issue t cls op f body) s = completes s t e :=
  issue_withRows h hready (readsSound_of_stores a hw) hbody hk

end

/-- The write-back of rows touches memory and the lines' marks only, where no code is wrong. -/
theorem SoundWith.writeBackRows {r : Bank} {t : Nat} {d : Dev} (h : SoundWith r t d) (g : Nat) (l : List Nat) :
    SoundWith r t (writeBackRows d t g l) := by
  refine List.foldlRecOn l _ h fun e he a _ => ?_
  split
  · exact he.writeBackLine _ _ _
  · exact he

/-- CWB of a CACHED handle writes back, and goes on unless a line's code has stopped the tile (R149, R167). -/
theorem cwb_cached {s : State} {t : Nat} {f : Fields} (h : Issues s t 0x2 0x06 f) (hvalid : ((s.dev.tile t).hnd f.h1).valid = true)
    (hrows : ((s.dev.tile t).xr f.ra).toNat + ((s.dev.tile t).xr f.rb).toNat ≤ ((s.dev.tile t).hnd f.h1).rows)
    (hkind : ((s.dev.tile t).hnd f.h1).kind = 1) (hcache : cacheOn s.dev t ((s.dev.tile t).hnd f.h1).group = true) {e : Dev}
    (he : writeBackRows s.dev t ((s.dev.tile t).hnd f.h1).group ((upto ((s.dev.tile t).xr f.rb).toNat).map fun i =>
      ((s.dev.tile t).hnd f.h1).rowAddr (((s.dev.tile t).xr f.ra).toNat + i)) = e) :
    exec (.cwb t f) s = if e.fld tileStateState t = tsRunning then completes s t e else leaves s e := by
  rw [exec_cwb, execCwb]
  split
  case isTrue hrun => exact issue_done h (by simp [hvalid, hkind, hcache, hrows, he, hrun])
  case isFalse hrun => exact issue_stall h (by simp [hvalid, hkind, hcache, hrows, he, hrun])

section
variable {s : State} {t : Nat} {f : Fields} {a : Access}

/-- A load of row xA into a vector register (R167). -/
theorem ld_completes (h : Issues s t 0x2 0x00 f) (hr : RowsReady s.dev t [⟨f.h1, [((s.dev.tile t).xr f.ra).toNat], false⟩])
    (hs : ReadsSound s.dev t [⟨f.h1, [((s.dev.tile t).xr f.ra).toNat], false⟩] a) :
    exec (.ld t f a) s = completes s t ((marked s.dev t [⟨f.h1, [((s.dev.tile t).xr f.ra).toNat], false⟩] a).updTile t fun x =>
      (x.vw f.rd.toNat (x.rowData (x.hnd f.h1) ((s.dev.tile t).xr f.ra).toNat)).afterRead (x.hnd f.h1) ((s.dev.tile t).xr f.ra).toNat
        (bit f.mode 0)) := by
  rw [exec_ld, execLd]
  exact issue_withRows h hr hs rfl rfl

/-- A store of a vector register into row xA (R167). -/
theorem st_completes (h : Issues s t 0x2 0x01 f) (hr : RowsReady s.dev t [⟨f.h1, [((s.dev.tile t).xr f.ra).toNat], true⟩]) :
    exec (.st t f a) s = completes s t ((marked s.dev t [⟨f.h1, [((s.dev.tile t).xr f.ra).toNat], true⟩] a).updTile t fun x =>
      x.programStore (x.hnd f.h1) ((s.dev.tile t).xr f.ra).toNat (x.vr f.rd.toNat)) := by
  rw [exec_st, execSt]
  exact issue_stores h hr (by simp) rfl rfl

end

/-- Settles O14: each instruction passes the checks of its operands, and its row accesses are ready; CWB goes on where no code of its lines
stops the tile. -/
theorem rowLoadStoreResults : Obligations.RowLoadStoreResults := by
  unfold Obligations.RowLoadStoreResults
  refine ⟨fun s t f a => ⟨ld_completes, st_completes, fun h hacc hr hs => ?accld, fun h hacc hr => ?accst⟩,
    fun s t f a => ⟨fun h hrow hrd hkind => ?ldt, fun h hstep hrd hkind => ?lds,
      fun h hvalid hrows hcache => ⟨fun hkind => ?cwbLocal, fun hkind => ?cwb⟩⟩⟩
  case accld =>
    rw [exec_accld, execAccld]
    exact issue_withRows h hr hs (if_neg (not_le.mpr hacc)) rfl
  case accst =>
    rw [exec_accst, execAccst]
    exact issue_stores h hr (by simp) (if_neg (not_le.mpr hacc)) rfl
  case ldt =>
    intro rows hr hs
    rw [exec_ldt, execLdt]
    exact issue_withRows h hr hs (if_neg (by simp [hrow, hrd, hkind])) rfl
  case lds =>
    intro rows hr hs
    rw [exec_lds, execLds]
    exact issue_withRows h hr hs (if_neg (by simp [hstep, hkind]; omega)) rfl
  case cwbLocal =>
    rw [exec_cwb, execCwb]
    refine issue_done h ?_
    simp [hvalid, hkind, hrows]
  case cwb =>
    refine ⟨cwb_cached h hvalid hrows hkind (hcache hkind) rfl, fun hflaws => ?_⟩
    obtain ⟨-, hregs⟩ := SoundWith.writeBackRows ⟨hflaws, rfl⟩ ((s.dev.tile t).hnd f.h1).group
      ((upto ((s.dev.tile t).xr f.rb).toNat).map fun i => ((s.dev.tile t).hnd f.h1).rowAddr (((s.dev.tile t).xr f.ra).toNat + i))
    rw [cwb_cached h hvalid hrows hkind (hcache hkind) rfl, if_pos]
    · rfl
    · rw [Dev.fld, hregs]
      exact running_of_issues h

/-! ### What a store and a load leave alone (R105, R110, R123, R139) -/

/-- Counting a write touches the slots alone. -/
theorem Tile.fillSlot_eq (x : Tile) (h : Hnd) (r : Nat) : x.fillSlot h r = { x with slots := (x.fillSlot h r).slots } := by
  unfold Tile.fillSlot
  dsimp only
  repeat' split
  all_goals rfl

/-- A store through a LOCAL handle: one physical row, its code, and the slot. -/
theorem Tile.programStore_local (x : Tile) {h : Hnd} (hkind : h.kind = 0) (r : Nat) (v : Row) :
    ∃ m, x.programStore h r v = { x.setPhysRow (h.bank r) (h.brow r) v with slots := m } := by
  have hnot : h.kind ≠ 1 := by omega
  rw [Tile.programStore, if_neg hnot, Tile.storeRow, Tile.fillSlot_eq, Tile.writeRow]
  exact ⟨_, rfl⟩

/-- The read of a LOCAL handle's row touches the slots alone. -/
theorem Tile.afterRead_local (x : Tile) {h : Hnd} (hkind : h.kind = 0) (r : Nat) (drain : Bool) :
    ∃ m, x.afterRead h r drain = { x with slots := m } := by
  have hnot : h.kind ≠ 1 := by omega
  rw [Tile.afterRead, if_neg hnot]
  dsimp only [Tile.drainSlot]
  repeat' split
  all_goals exact ⟨_, rfl⟩

theorem Tile.rowData_local (x : Tile) {h : Hnd} (hkind : h.kind = 0) (r : Nat) : x.rowData h r = x.readRow h r :=
  if_neg (by omega)

/-- The program goes on after an instruction that leaves the ingress quiet. -/
theorem completes_quiet {s u : State} {t : Nat} {d : Dev} (h : completes s t d = .next u) (hq : QuietIngress d t) :
    u.dev = advance s.dev d t none := by
  have hq' : QuietIngress (advance s.dev d t none) t := by
    rw [QuietIngress, advance, Dev.tile_updTile_self]
    exact hq
  rw [completes, settle_quiet hq'] at h
  injection h with h
  rw [← h]

/-- What an instruction that makes `y` of its tile leaves of it, and of everything else, where it completes on a quiet tile. -/
theorem completes_setTile {s u : State} {t : Nat} {d : Dev} {y : Tile} (h : completes s t (d.setTile t y) = .next u)
    (hd : OnlyMarks t s.dev d) (hq : y.held = [] ∧ y.backlog = []) :
    (u.dev.tile t).rows = y.rows ∧ (u.dev.tile t).x = y.x ∧ (u.dev.tile t).v = y.v ∧ (u.dev.tile t).acc = y.acc ∧
      (∀ k, k ≠ t → u.dev.tile k = s.dev.tile k) ∧ u.dev.mem = s.dev.mem ∧ u.dev.hostMem = s.dev.hostMem := by
  obtain ⟨hother, hmem, hhost, -⟩ := hd
  have hu := completes_quiet h (by rwa [QuietIngress, Dev.tile_setTile_self])
  rw [hu, advance]
  simp only [Dev.tile_updTile_self, Dev.tile_setTile_self]
  refine ⟨trivial, trivial, trivial, trivial, fun k hk => ?_, hmem, hhost⟩
  rw [Dev.tile_updTile_ne _ _ hk, Dev.tile_setTile_ne _ _ hk]
  exact hother k hk

/-- The tile after the marks of an access. -/
theorem OnlyMarks.tile_eq {t : Nat} {d e : Dev} (h : OnlyMarks t d e) :
    ∃ p fs n l, e.tile t = { d.tile t with pace := p, flaws := fs, rowErrs := n, rowBad := l } := by
  obtain ⟨-, -, -, htile⟩ := h
  exact ⟨(e.tile t).pace, (e.tile t).flaws, (e.tile t).rowErrs, (e.tile t).rowBad, by rw [← htile]⟩

/-- A store through LOCAL handle `k` after the marks of its access. -/
theorem OnlyMarks.programStore {t k : Nat} {d e : Dev} (h : OnlyMarks t d e) (hkind : ((d.tile t).hnd k).kind = 0) (r q : Nat) :
    ∃ p fs n l m, (e.tile t).programStore ((e.tile t).hnd k) r ((e.tile t).vr q) =
      { (d.tile t).setPhysRow (((d.tile t).hnd k).bank r) (((d.tile t).hnd k).brow r) ((d.tile t).vr q) with
        pace := p, flaws := fs, rowErrs := n, rowBad := l, slots := m } := by
  obtain ⟨p, fs, n, l, htile⟩ := h.tile_eq
  obtain ⟨m, hm⟩ := ({ d.tile t with pace := p, flaws := fs, rowErrs := n, rowBad := l } : Tile).programStore_local hkind r ((d.tile t).vr q)
  exact ⟨p, _, n, l, m, by rw [htile]; exact hm⟩

/-- A load through LOCAL handle `k` after the marks of its access. -/
theorem OnlyMarks.load {t k : Nat} {d e : Dev} (h : OnlyMarks t d e) (hkind : ((d.tile t).hnd k).kind = 0) (r q : Nat) (drain : Bool) :
    ∃ p fs n l m, ((e.tile t).vw q ((e.tile t).rowData ((e.tile t).hnd k) r)).afterRead ((e.tile t).hnd k) r drain =
      { (d.tile t).vw q ((d.tile t).readRow ((d.tile t).hnd k) r) with pace := p, flaws := fs, rowErrs := n, rowBad := l, slots := m } := by
  obtain ⟨p, fs, n, l, htile⟩ := h.tile_eq
  obtain ⟨m, hm⟩ := ({ (d.tile t).vw q ((d.tile t).readRow ((d.tile t).hnd k) r) with
    pace := p, flaws := fs, rowErrs := n, rowBad := l } : Tile).afterRead_local hkind r drain
  have hhnd : (e.tile t).hnd k = (d.tile t).hnd k := by
    rw [htile]
    rfl
  refine ⟨p, fs, n, l, m, ?_⟩
  rw [hhnd, Tile.rowData_local _ hkind, htile]
  exact hm

/-- Settles O15: the marks of the access leave the rows, so the store's row is the one that bank, bank row and remap table gave before, and
nothing held at the ingress goes on after it. -/
theorem localStoreFrame : Obligations.LocalStoreFrame := by
  unfold Obligations.LocalStoreFrame
  intro s t f a u x h r key hkind hquiet
  refine ⟨fun hi hr hu => ?store, fun hi hr hs hu => ?load⟩
  case store =>
    have hmarks := marked_onlyMarks s.dev t [⟨f.h1, [r], true⟩] a
    obtain ⟨p, fs, n, l, m, hstore⟩ := hmarks.programStore hkind r f.rd.toNat
    rw [st_completes hi hr, Dev.updTile, hstore] at hu
    obtain ⟨hrows, hx, hv, hacc, hothers, hmem, hhost⟩ := completes_setTile hu hmarks hquiet
    rw [hrows]
    exact ⟨mapGet_set_self _ _ _ _, fun k hk => mapGet_set_ne _ _ _ _ hk, hx, hv, hacc, hothers, hmem, hhost⟩
  case load =>
    have hmarks := marked_onlyMarks s.dev t [⟨f.h1, [r], false⟩] a
    obtain ⟨p, fs, n, l, m, hload⟩ := hmarks.load hkind r f.rd.toNat (bit f.mode 0)
    rw [ld_completes hi hr hs, Dev.updTile, hload] at hu
    obtain ⟨hrows, hx, hv, hacc, hothers, hmem, hhost⟩ := completes_setTile hu hmarks hquiet
    rw [Tile.vr, hv]
    exact ⟨hrows, Tile.vr_vw_self x _ _, fun q hq => (congrArg (mapGet 0 · q) hv).trans (Tile.vr_vw_ne x _ hq), hx, hacc, hothers, hmem, hhost⟩

end Sys2Proof.Machine
end

section
/-! PROOFS. SEND, RREAD, FILLR, COPYR and SIG (R129, R180 to R182): O18. -/

namespace Sys2Proof.Machine

/-! ### What a read of memory leaves alone -/

/-- No tile notices: the tiles and the words of their register windows stay. -/
def TilesUnaware (d e : Dev) : Prop := e.tiles = d.tiles ∧ ∀ o, 0x40000 ≤ o → bankWord e.regs o = bankWord d.regs o

theorem TilesUnaware.refl (d : Dev) : TilesUnaware d d := ⟨rfl, fun _ _ => rfl⟩

theorem TilesUnaware.trans {d e g : Dev} (h : TilesUnaware d e) (h' : TilesUnaware e g) : TilesUnaware d g :=
  ⟨h'.1.trans h.1, fun o ho => (h'.2 o ho).trans (h.2 o ho)⟩

theorem TilesUnaware.of_regs {d e : Dev} (htiles : e.tiles = d.tiles) (hregs : e.regs = d.regs) : TilesUnaware d e :=
  ⟨htiles, fun _ _ => by rw [hregs]⟩

theorem TilesUnaware.setFld {d e : Dev} (h : TilesUnaware d e) (f : Fld) (v i : Nat) (hf : f.base + i * f.stride + 4 < 0x40000) :
    TilesUnaware d (e.setFld f v i) :=
  h.trans ⟨rfl, fun _ ho => Dev.setFld_word_ne _ _ _ _ (by omega) fun _ => by omega⟩

theorem TilesUnaware.incFld {d e : Dev} (h : TilesUnaware d e) (f : Fld) (i n : Nat) (hf : f.base + i * f.stride + 4 < 0x40000) :
    TilesUnaware d (e.incFld f i n) := h.setFld _ _ _ hf

theorem TilesUnaware.ite {d a b : Dev} {p : Prop} [Decidable p] (ha : TilesUnaware d a) (hb : TilesUnaware d b) :
    TilesUnaware d (if p then a else b) := by
  split
  · exact ha
  · exact hb

theorem TilesUnaware.tile {d e : Dev} (h : TilesUnaware d e) (k : Nat) : e.tile k = d.tile k := by
  rw [Dev.tile, Dev.tile, h.1]

/-- A field of the tiles' register windows. -/
theorem TilesUnaware.fld {d e : Dev} (h : TilesUnaware d e) (g : Fld) (i : Nat) (hg : 0x40000 ≤ g.base) : e.fld g i = d.fld g i := by
  obtain ⟨-, hwords⟩ := h
  simp only [Dev.fld, bankFld, bankReg]
  rw [hwords (g.base + i * g.stride) (by omega), hwords (g.base + i * g.stride + 4) (by omega)]

theorem TilesUnaware.logEvent {d e : Dev} (h : TilesUnaware d e) (code : Nat) (data : List Byte) :
    TilesUnaware d (logEvent e code data) :=
  h.trans (.ite (.of_regs rfl rfl) (.incFld (.of_regs rfl rfl) _ _ _ (by decide)))

theorem TilesUnaware.loseInfo {d e : Dev} (h : TilesUnaware d e) (o : Nat) : TilesUnaware d (loseInfo o e) :=
  h.trans (.ite (.refl _) (.of_regs rfl rfl))

theorem TilesUnaware.canopyLost {d e : Dev} (h : TilesUnaware d e) (o : Nat) : TilesUnaware d (canopyLost o e) := by
  refine h.trans (.loseInfo (.ite ?_ (.refl _)) _)
  exact .of_regs rfl rfl

theorem TilesUnaware.poisonWrite {d e : Dev} (h : TilesUnaware d e) (a : Nat) : TilesUnaware d (poisonWrite e a) :=
  h.trans (.incFld (.of_regs rfl rfl) _ _ _ (by decide))

theorem ddrPlace_channel_lt (a : Nat) : (ddrPlace a).channel < 4 := Nat.xor_lt_two_pow (n := 2) (bits_lt a 9 8) (bits_lt a 19 18)

/-- A channel's counters lie below the tiles' windows. -/
theorem TilesUnaware.incFld_channel {d e : Dev} (h : TilesUnaware d e) (f : Fld) {c : Nat} (n : Nat) (hc : c < 4)
    (hf : f.base + 4 * f.stride + 4 < 0x40000) : TilesUnaware d (e.incFld f c n) := by
  refine h.incFld _ _ _ ?_
  have : c * f.stride ≤ 4 * f.stride := Nat.mul_le_mul_right _ hc.le
  omega

/-- The record of the first uncorrectable block (R450). -/
theorem TilesUnaware.errRecorded {d e : Dev} (h : TilesUnaware d e) (a store ch kind : Nat) : TilesUnaware d
    (((((e.setFld memErrAddrAddr a).setFld memErrInfoValid 1).setFld memErrInfoStore store).setFld memErrInfoChannel ch).setFld
      memErrInfoKind kind) :=
  ((((h.setFld _ _ _ (by decide)).setFld _ _ _ (by decide)).setFld _ _ _ (by decide)).setFld _ _ _ (by decide)).setFld _ _ _ (by decide)

theorem TilesUnaware.ddrRowLost {d e : Dev} (h : TilesUnaware d e) (a : Nat) : TilesUnaware d (ddrRowLost a e) :=
  h.trans (.of_regs rfl rfl)

/-- An uncorrectable block is recorded in the memory's registers (R447, R450). -/
theorem foundUncorr_unaware (d : Dev) (a kind : Nat) : TilesUnaware d (foundUncorr d a kind) := by
  have hch : (if decide (canopyBase ≤ a) then 0 else (ddrPlace a).channel) < 4 := by
    split
    · decide
    · exact ddrPlace_channel_lt a
  unfold foundUncorr
  refine .ite (.refl _) (.logEvent (.ite (.canopyLost ?_ _) (.ddrRowLost ?_ _)) _ _)
  · refine .incFld (.setFld (.ite (.poisonWrite (.refl _) _) (.errRecorded (.poisonWrite (.refl _) _) _ _ _ _)) _ _ _ ?_) _ _ _ ?_
    all_goals decide
  · refine .incFld_channel (.setFld (.ite (.poisonWrite (.refl _) _) (.errRecorded (.poisonWrite (.refl _) _) _ _ _ _)) _ _ _ ?_) _ _ hch ?_
    all_goals decide

theorem jobFlag_unaware (d : Dev) (j : Option Nat) (f : Nat) : TilesUnaware d (d.jobFlag j f) := by
  cases j <;> exact .of_regs rfl rfl

theorem TilesUnaware.ddrRowError {d e : Dev} (h : TilesUnaware d e) (a : Nat) : TilesUnaware d (ddrRowError a e) :=
  h.trans (.of_regs rfl rfl)

theorem TilesUnaware.setFlaws {d e : Dev} (h : TilesUnaware d e) (m : SMap Ecc) : TilesUnaware d { e with flaws := m } :=
  h.trans (.of_regs rfl rfl)

theorem meetFlaw_unaware (d : Dev) (j : Option Nat) (kind : Nat) (e : Nat × Ecc) : TilesUnaware d (meetFlaw d j kind e) := by
  unfold meetFlaw
  refine .ite (.trans (.setFld (.ite (.incFld (.setFlaws (.refl _) _) _ _ _ ?_) (.ddrRowError (.incFld_channel (.refl _) _ _ ?_ ?_) _))
    _ _ _ ?_) (jobFlag_unaware _ _ _)) (.trans (.setFlaws (.refl _) _) (foundUncorr_unaware _ _ _))
  · decide
  · exact ddrPlace_channel_lt _
  · decide
  · decide

/-- A read of memory changes no tile and no tile's registers. -/
theorem scanMem_unaware (d : Dev) (j : Option Nat) (kind a n : Nat) : TilesUnaware d (scanMem d j kind a n) :=
  List.foldlRecOn _ _ (motive := TilesUnaware d) (.refl _) fun _ h e _ => h.trans (meetFlaw_unaware _ _ _ e)

theorem memRowsAt_unaware (d : Dev) (t a n : Nat) : TilesUnaware d (memRowsAt d t a n).1 := scanMem_unaware _ _ _ _ _

/-! ### Issue of a fabric operation (R129, R182, R183) -/

/-- No trap is pending and a place in flight is free. -/
theorem sendIssue_goes {d : Dev} {t : Nat} {k : Issue} (htrap : (d.tile t).trap = none) (hroom : (d.tile t).inflight.length < 16) :
    sendIssue d t k = k := by
  rw [sendIssue, trapPending_eq_false htrap, if_neg (by decide), if_neg (not_le.mpr hroom)]

/-- A target in memory is permitted: a writable CACHED handle with the rows (R180). -/
def TargetLegal (d : Dev) (t hn : Nat) (a : FabAddr) (n : Nat) : Prop :=
  a.mem = true → memLegal d t hn a.row n = true ∧ ((d.tile t).hnd hn).writable = true

theorem TargetLegal.check {d : Dev} {t hn : Nat} {a : FabAddr} {n : Nat} (h : TargetLegal d t hn a n) :
    (a.mem && !(memLegal d t hn a.row n && ((d.tile t).hnd hn).writable)) = false := by
  cases hmem : a.mem with
  | false => rfl
  | true =>
    obtain ⟨hlegal, hwritable⟩ := h hmem
    rw [hlegal, hwritable]
    rfl

/-- The device in which the next fabric operation of tile `t` has begun. -/
def begun (d : Dev) (t : Nat) (f : Fields) : Dev := (startOp d t (fabAck f)).1

theorem startOp_eq (d : Dev) (t : Nat) (f : Fields) : startOp d t (fabAck f) = (begun d t f, d.nextXfer) := rfl

/-- An operation that has begun has changed nothing of its tile but what is in flight. -/
theorem begun_tile (d : Dev) (t : Nat) (f : Fields) :
    (begun d t f).tile t = { d.tile t with inflight := (d.tile t).inflight ++ [FabOp.mk d.nextXfer (fabAck f)] } :=
  Dev.tile_updTile_self _ _ _

theorem begun_memRowAddr (d : Dev) (t : Nat) (f : Fields) (hn r : Nat) : memRowAddr (begun d t f) t hn r = memRowAddr d t hn r := by
  rw [memRowAddr, begun_tile]
  rfl

section
variable {s : State} {t r n : Nat} {f : Fields} {a c : FabAddr}
variable (ha : fabAddr ((s.dev.tile t).xr f.ra) = some a) (hroom : (s.dev.tile t).inflight.length < 16)
  (htrap : (s.dev.tile t).trap = none)
include ha hroom htrap

theorem sig_begins (h : Issues s t 0x6 0x04 f) : exec (.sig t f) s = completes s t
    (if a.mem then sendAck (begun s.dev t f) (some t) s.dev.nextXfer
      else sendTo (begun s.dev t f) t s.dev.nextXfer a.tile 0 0 (fabCounter f) .signal none) := by
  rw [exec_sig, execSig]
  refine issue_done h ?_
  simp only [sendIssue_goes htrap hroom, ha, startOp_eq]
  split <;> rfl

variable (hb : fabLocal ((s.dev.tile t).xr f.rb) = some (r, n))
include hb

theorem fillr_begins (htarget : TargetLegal s.dev t f.h2 a n) (h : Issues s t 0x6 0x02 f) : exec (.fillr t f) s = completes s t
    (deliverRows (begun s.dev t f) t s.dev.nextXfer a f.h2 (fabCounter f) (.fill n ((s.dev.tile t).xr f.rc))) := by
  rw [exec_fillr, execFillr]
  refine issue_done h ?_
  simp only [sendIssue_goes htrap hroom, ha, hb, htarget.check, startOp_eq, Bool.false_eq_true, if_false]

theorem send_begins (htarget : TargetLegal s.dev t f.h2 a n) (h : Issues s t 0x6 0x00 f)
    (hr : RowsReady s.dev t [⟨f.h1, (upto n).map (r + ·), false⟩]) (hs : ReadsSound s.dev t [⟨f.h1, (upto n).map (r + ·), false⟩] {})
    {e : Dev} (he : marked s.dev t [⟨f.h1, (upto n).map (r + ·), false⟩] {} = e) :
    exec (.send t f) s = completes s t (deliverRows (begun (e.updTile t fun x => x.afterReads (x.hnd f.h1) false ((upto n).map (r + ·))) t f) t
      e.nextXfer a f.h2 (fabCounter f) (.rows (((upto n).map (r + ·)).map ((e.tile t).rowData ((e.tile t).hnd f.h1))))) := by
  subst he
  rw [exec_send, execSend]
  refine issue_done h ?_
  simp only [sendIssue_goes htrap hroom, ha, hb, htarget.check, withRows_ready hr hs, startOp_eq, Bool.false_eq_true, if_false]
  rfl

omit htrap in
theorem rread_asks (hmem : a.mem = false) (hlegal : reqLegal s.dev t ⟨f.h1, (upto n).map (r + ·), false⟩ = true)
    (h : Issues s t 0x6 0x01 f) : exec (.rread t f) s = completes s t
      (sendTo (begun s.dev t f) t s.dev.nextXfer a.tile f.h2 a.row (fabCounter f) (.remoteRead n)
        (some { image := (s.dev.tile t).image.getD 0, ltile := s.dev.fld tileIdLtile t, handle := f.h1, row := r, counter := fabCounter f })) := by
  rw [exec_rread, execRread]
  refine issue_done h ?_
  simp only [if_neg (not_le.mpr hroom), ha, hb, hmem, hlegal, startOp_eq, Bool.false_and, Bool.not_true, Bool.false_eq_true, if_false]
  rfl

omit htrap in
theorem rread_memory (hmem : a.mem = true) (hsrc : memLegal s.dev t f.h2 a.row n = true)
    (hlegal : reqLegal s.dev t ⟨f.h1, (upto n).map (r + ·), false⟩ = true) {e : Dev} {l : List Row}
    (hread : memRowsAt (begun s.dev t f) t (memRowAddr s.dev t f.h2 a.row) n = (e, some l)) (h : Issues s t 0x6 0x01 f) :
    exec (.rread t f) s = completes s t { e with fabric := e.fabric ++
      [(t, { id := s.dev.nextXfer, epoch := s.dev.epoch t, handle := f.h1, row := r, counter := fabCounter f, kind := .rows l,
             issuer := some t, job := (s.dev.tile t).job })] } := by
  have hquiet := memRowsAt_unaware (begun s.dev t f) t (memRowAddr s.dev t f.h2 a.row) n
  rw [hread] at hquiet
  have hjob : (e.tile t).job = (s.dev.tile t).job := by rw [hquiet.tile, begun_tile]
  have hepoch : e.epoch t = s.dev.epoch t := congrArg (BitVec.ofNat 16) (hquiet.fld tileRoleEpoch t (by decide))
  rw [exec_rread, execRread]
  refine issue_done h ?_
  simp only [if_neg (not_le.mpr hroom), ha, hb, hmem, hsrc, hlegal, startOp_eq, begun_memRowAddr, hread, hjob, hepoch, Bool.not_true,
    Bool.and_false, Bool.false_eq_true, if_false, if_true]

variable (hc : fabAddr ((s.dev.tile t).xr f.rc) = some c) (htarget : TargetLegal s.dev t f.h2 a n)
include hc htarget

theorem copyr_asks (hmem : c.mem = false) (hother : c.tile ≠ s.dev.fld tileIdLtile t) (h : Issues s t 0x6 0x03 f) :
    exec (.copyr t f) s = completes s t (sendTo (begun s.dev t f) t s.dev.nextXfer c.tile f.h3 c.row (fabCounter f)
      (.remoteRead n) (some (if a.mem
        then { image := 0, ltile := 0, handle := f.h2, row := memRowAddr s.dev t f.h2 a.row, counter := 0, mem := true }
        else { image := (s.dev.tile t).image.getD 0, ltile := a.tile, handle := f.h2, row := a.row, counter := fabCounter f }))) := by
  rw [exec_copyr, execCopyr]
  refine issue_done h ?_
  simp only [sendIssue_goes htrap hroom, ha, hb, hc, hmem, htarget.check, hother, startOp_eq, begun_memRowAddr, Bool.false_and,
    Bool.or_false, Bool.false_eq_true, if_false]

theorem copyr_memory (hmem : c.mem = true) (hsrc : memLegal s.dev t f.h3 c.row n = true) {e : Dev} {l : List Row}
    (hread : memRowsAt (begun s.dev t f) t (memRowAddr s.dev t f.h3 c.row) n = (e, some l)) (h : Issues s t 0x6 0x03 f) :
    exec (.copyr t f) s = completes s t (deliverRows e t s.dev.nextXfer a f.h2 (fabCounter f) (.rows l)) := by
  rw [exec_copyr, execCopyr]
  refine issue_done h ?_
  simp only [sendIssue_goes htrap hroom, ha, hb, hc, hmem, hsrc, htarget.check, startOp_eq, begun_memRowAddr, hread, Bool.not_true,
    Bool.and_false, Bool.or_false, Bool.false_eq_true, if_false, if_true]

theorem copyr_begins (hmem : c.mem = false) (hself : c.tile = s.dev.fld tileIdLtile t) (h : Issues s t 0x6 0x03 f)
    (hr : RowsReady s.dev t [⟨f.h3, (upto n).map (c.row + ·), false⟩])
    (hs : ReadsSound s.dev t [⟨f.h3, (upto n).map (c.row + ·), false⟩] {}) {e : Dev}
    (he : marked s.dev t [⟨f.h3, (upto n).map (c.row + ·), false⟩] {} = e) :
    exec (.copyr t f) s = completes s t (deliverRows
      (begun (e.updTile t fun x => x.afterReads (x.hnd f.h3) false ((upto n).map (c.row + ·))) t f) t e.nextXfer a f.h2 (fabCounter f)
      (.rows (((upto n).map (c.row + ·)).map ((e.tile t).rowData ((e.tile t).hnd f.h3))))) := by
  subst he
  rw [exec_copyr, execCopyr]
  refine issue_done h ?_
  simp only [sendIssue_goes htrap hroom, ha, hb, hc, hmem, htarget.check, hself, withRows_ready hr hs, startOp_eq, Bool.false_and,
    Bool.or_false, Bool.false_eq_true, if_false, if_true]
  rfl

end

/-- Settles O18: the operands are well formed and nothing keeps the operation from issue, so it begins; a read of memory at issue changes
neither the tile nor its epoch. -/
theorem fabricInstructionResults : Obligations.FabricInstructionResults := by
  unfold Obligations.FabricInstructionResults
  intro s t f a d x ha hroom htrap begun
  exact ⟨sig_begins ha hroom htrap, fun r n hb htarget => ⟨fillr_begins ha hroom htrap hb htarget,
     fun h hr hs => send_begins ha hroom htrap hb htarget h hr hs rfl⟩, fun r n hb => rread_asks ha hroom hb,
    fun r n e l hb hmem hsrc hlegal hread => rread_memory ha hroom hb hmem hsrc hlegal hread,
    fun r n c hb hc hmem hother htarget => copyr_asks ha hroom htrap hb hc htarget hmem hother,
    fun r n c e l hb hc hmem hsrc htarget => copyr_memory ha hroom htrap hb hc htarget hmem hsrc,
    fun r n c hb hc hmem hself htarget h hr hs => copyr_begins ha hroom htrap hb hc htarget hmem hself h hr hs rfl⟩

end Sys2Proof.Machine
end

section
/-! PROOFS. Transfers at their target tile (R102, R119, R124, R127, R129, R144, R334): O19. -/

namespace Sys2Proof.Machine

section
variable {s : State} {t : Nat} {q : TransferHdr}

/-- The device with the header taken off the fabric. -/
def offFabric (d : Dev) (t : Nat) (q : TransferHdr) : Dev := { d with fabric := d.fabric.erase (t, q) }

/-- A header on the fabric reaches the ingress of a tile that is in service (R102). -/
theorem transferIngress_reaches (hmem : (t, q) ∈ s.dev.fabric) (hin : s.dev.fld tileStateState t ≠ tsRetired) :
    exec (.transferIngress t q) s = leaves s (ingress (offFabric s.dev t q) t q) := by
  have hstate : (offFabric s.dev t q).fld tileStateState t ≠ tsRetired := hin
  rw [exec_transferIngress, execTransferIngress, onDev, transferIngress, if_pos (by simpa using hmem)]
  exact congrArg (leaves s) (if_neg hstate)

/-- A free hold place lets the header be checked (R127). -/
theorem transferIngress_checks (hmem : (t, q) ∈ s.dev.fabric) (hin : s.dev.fld tileStateState t ≠ tsRetired)
    (hfree : (s.dev.tile t).held.length < 4) :
    exec (.transferIngress t q) s = leaves s (checkHeader (offFabric s.dev t q) t q) :=
  (transferIngress_reaches hmem hin).trans (congrArg (leaves s) (if_pos hfree))

theorem checkHeader_admits {d : Dev} (h : headerVerdict d t q = .admits) :
    checkHeader d t q = d.updTile t fun x => { x with admitted := x.admitted ++ [q] } := by
  rw [checkHeader, h]

/-- An old epoch is refused to the sender, and counted (R102). -/
theorem checkHeader_stale {d : Dev} (h : q.epoch ≠ d.epoch t) {i : Nat} (hi : q.issuer = some i) :
    checkHeader d t q = { d.incFld tileStaleCountCount t with
      refusals := (d.incFld tileStaleCountCount t).refusals ++ [(i, q.id, .roleStale)] } := by
  have hv : headerVerdict d t q = .refuse .roleStale := if_pos h
  simp only [checkHeader, hv, refuseXfer, hi]

/-- A hold at a guarded slot that has not been counted is counted (R124). -/
theorem checkHeader_holds {d : Dev} (h : headerVerdict d t q = .hold)
    (hblocked : slotBlocked (d.tile t) ((d.tile t).hnd q.handle) q.row (xferRows q.kind) (xferReads q.kind) = true)
    (hnew : q.id ∉ (d.tile t).guardHeld) : checkHeader d t q =
      ((d.updTile t fun x => { x with held := x.held ++ [q] }).incFld tileGuardStallsCount t).updTile t fun x =>
        { x with guardHeld := x.guardHeld ++ [q.id] } := by
  rw [checkHeader, h]
  refine if_pos ?_
  rw [Dev.tile_updTile_self, Bool.and_eq_true]
  exact ⟨hblocked, by simpa using hnew⟩

/-- With no wrong code in the tile the reads of its rows find nothing. -/
theorem eccReads_of_no_flaws {d : Dev} (h : (d.tile t).flaws = []) (l : List (Nat × Nat × Nat)) : eccReads d t l = (d, false) := by
  induction l with
  | nil => rfl
  | cons e l ih =>
    rw [← ih, eccReads, List.foldl_cons, eccRead_of_no_flaws h]
    rfl

/-- A remote read of a LOCAL handle's rows whose codes are right. -/
theorem remoteRows_local {d : Dev} {hn row n : Nat} (hkind : ((d.tile t).hnd hn).kind = 0) (hflaws : (d.tile t).flaws = []) :
    remoteRows d t hn row n = (d, some ((d.tile t).readRows ((d.tile t).hnd hn) row n)) := by
  simp only [remoteRows, hkind, eccReads_of_no_flaws hflaws, Bool.false_eq_true, if_true, if_false]

/-- The device with the header taken off those admitted. -/
def landing (d : Dev) (t : Nat) (q : TransferHdr) : Dev := d.updTile t fun x => { x with admitted := x.admitted.erase q }

theorem transferLanded_lands (hfind : (s.dev.tile t).admitted.find? (fun p => p.id = q.id) = some q)
    (hjob : (if q.issuer.isNone && xferReads q.kind then q.job else none) = none) :
    exec (.transferLanded t q.id) s = leaves s (unpinOp (landXfer (landing s.dev t q) t q) q.id) := by
  simp only [exec_transferLanded, execTransferLanded, onDev, leaves, transferLanded, hfind, hjob, landing]

/-- Rows land in a LOCAL handle, count their arrival and are acknowledged (R119, R181). -/
theorem landXfer_rows {d : Dev} {l : List Row} (hrows : q.kind = .rows l) (hkind : ((d.tile t).hnd q.handle).kind = 0) :
    landXfer d t q = settle (sendAck (arrive (d.updTile t fun x => x.storeRows (x.hnd q.handle) q.row l) t q.counter) q.issuer q.id) t := by
  simp only [landXfer, hrows, hkind, if_true]
  rfl

/-- The rows of a LOCAL handle are sent on to the tile that the placement gives then (R102, R129, R185). -/
theorem landXfer_remoteRead {d : Dev} {n p : Nat} {r : ReplyTo} (hread : q.kind = .remoteRead n) (hreply : q.reply = some r)
    (hmem : r.mem = false) (hkind : ((d.tile t).hnd q.handle).kind = 0) (hon : bankOff d t ((d.tile t).hnd q.handle) q.row n = false)
    (hflaws : (d.tile t).flaws = []) (hplace : d.placed r.image r.ltile = some p) :
    landXfer d t q = { d with fabric := d.fabric ++ [(p, { q with
      epoch := d.epoch p, handle := r.handle, row := r.row, counter := r.counter,
      kind := .rows ((d.tile t).readRows ((d.tile t).hnd q.handle) q.row n), reply := none })] } := by
  simp only [landXfer, hread, hon, remoteRows_local hkind hflaws, hreply, hmem, hplace, Bool.and_false, Bool.false_eq_true, if_false]

theorem landing_tile (d : Dev) (t : Nat) (q : TransferHdr) :
    (landing d t q).tile t = { d.tile t with admitted := (d.tile t).admitted.erase q } := Dev.tile_updTile_self _ _ _

theorem landing_hnd (d : Dev) (t : Nat) (q : TransferHdr) (k : Nat) : ((landing d t q).tile t).hnd k = (d.tile t).hnd k := by
  rw [landing_tile]
  rfl

theorem landing_readRows (d : Dev) (t : Nat) (q : TransferHdr) (h : Hnd) (r n : Nat) :
    ((landing d t q).tile t).readRows h r n = (d.tile t).readRows h r n := by
  rw [landing_tile]
  rfl

end

/-- Settles O19: a header's verdict does not depend on its place on the fabric, and a landing has taken it off those admitted. -/
theorem transferResults : Obligations.TransferResults := by
  unfold Obligations.TransferResults
  intro s t q d x e
  refine ⟨fun hmem hin => ⟨fun hfull => ?backlog, fun hfree hv => ?admitted, fun hfree hstale i hi => ?stale,
    fun hfree hv hblocked hnew => ?held⟩, fun hfind => ⟨fun l hrows hkind => ?rows,
      fun n r p hread hreply hmem hissuer hkind hon hflaws hplace => ?remote⟩⟩
  case backlog => exact (transferIngress_reaches hmem hin).trans (congrArg (leaves s) (if_neg (not_lt.mpr hfull)))
  case admitted => exact (transferIngress_checks hmem hin hfree).trans (congrArg (leaves s) (checkHeader_admits hv))
  case stale => exact (transferIngress_checks hmem hin hfree).trans (congrArg (leaves s) (checkHeader_stale (d := offFabric s.dev t q) hstale hi))
  case held => exact (transferIngress_checks hmem hin hfree).trans (congrArg (leaves s) (checkHeader_holds hv hblocked hnew))
  case rows =>
    rw [transferLanded_lands hfind (by simp [hrows, xferReads]), landXfer_rows hrows (by rwa [landing_hnd])]
    rfl
  case remote =>
    have hjob : (if q.issuer.isNone && xferReads q.kind then q.job else none) = none := by
      obtain h | h := hissuer
      · rw [Option.isNone_eq_false_iff.mpr (Option.isSome_iff_ne_none.mpr h)]
        rfl
      · rw [h]
        split <;> rfl
    rw [transferLanded_lands hfind hjob, landXfer_remoteRead (d := landing s.dev t q) hread hreply hmem (by rwa [landing_hnd]) (by rwa [landing_hnd])
      (by rwa [landing_tile]) hplace, landing_readRows, landing_hnd]
    rfl

end Sys2Proof.Machine
end

section
/-! PROOFS. TILE_GUARD_STATUS.SLOT is a field of six bits (R125, R151): O20. -/

namespace Sys2Proof.Machine

/-- A read of slot 64 of handle 0 stalls tile 0, and the slot is empty. R114 gives a handle no such slot; the statement holds none back. -/
def waitsAtSlot64 : State := { dev := { regs := [(0x40008, 2)], tiles := [(0, { stall := some (.guard [(0, 64, false)]) })] } }

theorem waitsAtSlot64_stalled : (waitsAtSlot64.dev.tile 0).stall = some (.guard [(0, 64, false)]) ∧
    waitsAtSlot64.dev.fld tileStateState 0 = tsRunning ∧
    [(0, 64, false)].find? (slotWrong (waitsAtSlot64.dev.tile 0)) = some (0, 64, false) ∧
    waitsAtSlot64.dev.flag tileGuardStatusTimeout 0 = false := by decide +kernel

theorem guardStatusSlot_lt (d : Dev) (t : Nat) : d.fld tileGuardStatusSlot t < 64 := bits_lt _ _ _

/-- Refutes O20: the statement has the SLOT recorded modulo 256, and the field holds six bits. For a wait at slot 64 no device can hold
what is asked. -/
theorem not_fabricReturnResults : ¬ Obligations.FabricReturnResults := by
  unfold Obligations.FabricReturnResults
  intro h
  obtain ⟨-, hguard⟩ := h
  obtain ⟨hlimit, -⟩ := hguard waitsAtSlot64 0
  obtain ⟨hstall, hrun, hfind, hfirst⟩ := waitsAtSlot64_stalled
  obtain ⟨-, hrecorded⟩ := hlimit _ hstall hrun
  obtain ⟨e, -, -, -, -, hnew, -⟩ := hrecorded _ _ _ hfind
  obtain ⟨-, hslot, -⟩ := hnew hfirst
  have hlt := guardStatusSlot_lt e 0
  omega

end Sys2Proof.Machine
end

section
/-! PROOFS. Bank power and role changes (R101, R102, R122, R144, R146, R147, R153, R319, R557): O21. -/

namespace Sys2Proof.Machine

/-! ### Bits of a bank mask -/

theorem bit_eq_testBit (v i : Nat) : bit v i = v.testBit i := (Nat.testBit_eq_decide_div_mod_eq).symm

theorem bits_single (v i : Nat) : bits v i i = if bit v i then 1 else 0 := by
  have hone : i + 1 - i = 1 := by omega
  simp only [bits, bit, hone, pow_one, decide_eq_true_eq]
  split <;> omega

/-- One bit cleared, as a subtraction. -/
theorem setBits_clear_bit (v b : Nat) : setBits v b b 0 = v - (if bit v b then 2 ^ b else 0) := by
  rw [setBits, bits_single]
  split <;> simp

theorem bit_clear_bit (v b c : Nat) : bit (v - (if bit v b then 2 ^ b else 0)) c = (bit v c && decide (c ≠ b)) := by
  rw [← setBits_clear_bit, bit_eq_testBit, bit_eq_testBit, testBit_setBits _ _ _ _ _ (by omega)]
  by_cases h : c = b
  · simp [h]
  · have hout : ¬ (b ≤ c ∧ c ≤ b) := by omega
    simp [h, hout]

/-! ### Banks (R144, R146, R147) -/

section
variable {s : State} {t b : Nat}

theorem bankDrain_drains (hb : b < 16) (hon : bit (s.dev.fld tileBankPwrOn t) b = true)
    (hdr : bit (s.dev.fld tileBankPwrDraining t) b = false) (hstopped : s.dev.fld tileStateState t ≠ tsRunning)
    (hjob : (s.dev.tile t).job = none)
    (hfree : s.dev.fld tileRoleRole t = 0 ∨ (s.dev.tile t).image = none ∨ bankMapped s.dev t b = false ∨
      (∃ n im, (s.dev.tile t).image = some n ∧ s.dev.image n = some im ∧ im.unloading ≠ none)) :
    exec (.bankDrain t b) s = leaves s (s.dev.setFld tileBankPwrDraining (s.dev.fld tileBankPwrDraining t + 2 ^ b) t) := by
  rw [exec_bankDrain, execBankDrain, onDev, if_pos]
  · rfl
  · simp only [mayDrain, hon, hdr, hjob]
    obtain h | h | h | ⟨n, im, himage, him, hun⟩ := hfree
    · simp [hb, h, hstopped]
    · simp [hb, h, hstopped]
    · simp [hb, h, hstopped]
    · have hsome : im.unloading.isSome = true := Option.isSome_iff_ne_none.mpr hun
      simp [hb, himage, him, hsome, hstopped]

/-- What a bank's gating leaves of its tile: the rows, codes and lines of other banks. -/
def bankLost (b : Nat) (x : Tile) : Tile :=
  { x with rows := mapDrop (fun k => k / 528 = b) x.rows, flaws := mapDrop (fun k => k / 528 = b) x.flaws,
           cache := if b < 8 then x.cache else mapDrop (fun k => k / 512 = (b - 8) / 4) x.cache }

/-- The device with bank `b` of tile `t` gated. -/
def bankGated (t b : Nat) (d : Dev) : Dev :=
  ((d.setFld tileBankPwrOn (d.fld tileBankPwrOn t - (if bit (d.fld tileBankPwrOn t) b then 2 ^ b else 0)) t).setFld tileBankPwrDraining
    (d.fld tileBankPwrDraining t - 2 ^ b) t).updTile t (bankLost b)

theorem bankGate_gates (hb : b < 16) (hdr : bit (s.dev.fld tileBankPwrDraining t) b = true)
    (hidle : (s.dev.tile t).admitted.any (writesBank (s.dev.tile t) b) = false) :
    exec (.bankGate t b) s = leaves s (bankGated t b s.dev) := by
  rw [exec_bankGate, execBankGate, onDev, bankGate, if_pos]
  · rfl
  · simp [hb, hdr, hidle]

theorem bankGate_waits (hbusy : (s.dev.tile t).admitted.any (writesBank (s.dev.tile t) b) = true) : exec (.bankGate t b) s = .next s := by
  rw [exec_bankGate, execBankGate, onDev, bankGate, if_neg]
  simp [hbusy]

theorem bankGated_pwr (d : Dev) (t b : Nat) (hdr : bit (d.fld tileBankPwrDraining t) b = true) (c : Nat) :
    bit ((bankGated t b d).fld tileBankPwrOn t) c = (bit (d.fld tileBankPwrOn t) c && decide (c ≠ b)) ∧
      bit ((bankGated t b d).fld tileBankPwrDraining t) c = (bit (d.fld tileBankPwrDraining t) c && decide (c ≠ b)) := by
  have hon_lt : d.fld tileBankPwrOn t < 2 ^ 16 := bits_lt _ _ _
  have hdr_lt : d.fld tileBankPwrDraining t < 2 ^ 16 := bits_lt _ _ _
  rw [← bit_clear_bit, ← bit_clear_bit, hdr, if_pos rfl]
  simp (disch := decide) only [bankGated, Dev.updTile_fld, Dev.fld_setFld, Dev.fld_setFld_of_beside]
  refine ⟨congrArg (bit · c) (Nat.mod_eq_of_lt ?_), congrArg (bit · c) (Nat.mod_eq_of_lt ?_)⟩
  · exact lt_of_le_of_lt (Nat.sub_le _ _) hon_lt
  · exact lt_of_le_of_lt (Nat.sub_le _ _) hdr_lt

/-- A field of one word changes that word alone. -/
theorem SameRegsBut.setFld_word {d e : Dev} {os : List Nat} (h : SameRegsBut d e os) (f : Fld) (v : Nat)
    (hf : f.stride = 0x400 ∧ f.wide = false) (hmem : f.base + 0x400 * t ∈ os) : SameRegsBut d (e.setFld f v t) os := by
  obtain ⟨hstride, hwide⟩ := hf
  intro o ho
  rw [Dev.setFld_word_ne _ _ _ _ ?_ fun hw => ?_]
  · exact h o ho
  · rw [hstride, Nat.mul_comm t]
    exact fun hc => ho (hc ▸ hmem)
  · exact absurd hw (by rw [hwide]; decide)

theorem bankGated_beside (d : Dev) (t b : Nat) : SameBesideTilesRegs d (bankGated t b d) := by
  have h : SameBesideTilesRegs d d := rfl
  exact ((h.setFld _ _ _).setFld _ _ _).updTile _ _

theorem bankGated_words (d : Dev) (t b : Nat) : SameRegsBut d (bankGated t b d) [rTileBankPwr + 0x400 * t] :=
  (((SameRegsBut.refl d _).setFld_word tileBankPwrOn _ ⟨rfl, rfl⟩ List.mem_cons_self).setFld_word tileBankPwrDraining _ ⟨rfl, rfl⟩
    List.mem_cons_self).updTile _ _

theorem bankGated_tile (d : Dev) (t b : Nat) : (bankGated t b d).tile t = bankLost b (d.tile t) := by
  rw [bankGated, Dev.tile_updTile_self, Dev.setFld_tile, Dev.setFld_tile]

theorem bankGated_otherTiles (d : Dev) (t b : Nat) : SameOtherTiles d (bankGated t b d) t := by
  intro k hk
  rw [bankGated, Dev.tile_updTile_ne _ _ hk, Dev.setFld_tile, Dev.setFld_tile]

/-- A key dropped reads as unlisted, every other as before. -/
theorem mapGet_drop {α : Type} (z : α) (p : Nat → Bool) (m : SMap α) (k : Nat) :
    mapGet z (mapDrop p m) k = if p k then z else mapGet z m k := by
  induction m with
  | nil => simp [mapDrop]
  | cons e m ih =>
    obtain ⟨a, v⟩ := e
    rw [mapDrop] at ih
    rw [mapDrop, List.filter_cons]
    by_cases hk : a = k
    · subst hk
      cases hp : p a <;> simp [hp, mapGet, ih]
    · cases hp : p a <;> simp [mapGet, hk, ih]

end

/-! ### What a role change clears of a tile's window (R101, R122, R153) -/

/-- Words of tile `t`'s window zeroed. -/
def zeroWords (t : Nat) (os : List Nat) (b : Bank) : Bank := os.foldl (fun b o => bankSet b (o + 0x400 * t) 0) b

theorem zeroWords_word (t : Nat) (os : List Nat) (b : Bank) (o : Nat) :
    bankWord (zeroWords t os b) (o + 0x400 * t) = if o ∈ os then 0 else bankWord b (o + 0x400 * t) := by
  induction os generalizing b with
  | nil => rfl
  | cons a os ih =>
    rw [zeroWords, List.foldl_cons]
    refine (ih _).trans ?_
    by_cases ha : o = a
    · subst ha
      simp
    · rw [bankWord_set_ne _ _ (by omega)]
      simp [ha]

/-- The words that TILE_FMT_UFLOW to TILE_TRAP_ELEM hold (R49, R81). -/
def markWords : List Nat :=
  [rTileFmtUflow, rTileFmtSat, rTileFmtStatus, rTileRunmax0, rTileRunmax0 + 4, rTileRunmax0 + 8, rTileRunmax0 + 12,
    rTileRunmax0 + 16, rTileRunmax0 + 20, rTileRunmax0 + 24, rTileRunmax0 + 28, rTileFpFlags, rTileFpTrap, rTileTrapCause,
    rTileTrapPc, rTileTrapOrd, rTileTrapOrd + 4, rTileTrapElem]

theorem clearMarks_eq (d : Dev) (t watch : Nat) : clearMarks d t watch =
    ({ d with regs := zeroWords t markWords d.regs } : Dev).setFld tileFpTrapNanwatchEn watch t := rfl

/-- The status words of the tile that a role change clears. -/
def statusWords : List Nat := [rTileConflictStatus, rTileConflictPc, rTileGuardStatus, rTileSbStatus, rTileCacheMode]

/-- A word of tile `t`'s window zeroed. -/
def zeroWord (t : Nat) (d : Dev) (o : Nat) : Dev := { d with regs := bankSet d.regs (o + 0x400 * t) 0 }

theorem foldl_zeroWord (t : Nat) (os : List Nat) (d : Dev) : os.foldl (zeroWord t) d = { d with regs := zeroWords t os d.regs } := by
  induction os generalizing d with
  | nil => rfl
  | cons o os ih => exact ih _

/-- The device with the counters, marks and status words of tile `t` cleared. -/
def windowCleared (d : Dev) (t : Nat) : Dev := statusWords.foldl (zeroWord t) (clearArrivals (clearMarks d t 0) t)

/-- The tile with everything lost that a role change clears. -/
def wipedTile (x : Tile) : Tile :=
  { x with handles := [], slots := [], rows := [], cache := [], code := [], codeLen := 0, x := [], v := [], acc := [], capB := none,
           pc := 0, ordinal := 0, trap := none, stall := none, paused := [], vendor := false, groveSize := 0,
           pace := {}, flaws := [], guardHeld := [] }

/-- All banks of tile `t` powered, for a role other than IDLE. -/
def rolePowered (t role : Nat) (d : Dev) : Dev := if role = 0 then d else (d.setFld tileBankPwrOn 0xFFFF t).setFld tileBankPwrDraining 0 t

/-- The device with tile `t` wiped for a role, its row that waited to be spared apart. -/
def wiped (d : Dev) (t role : Nat) : Dev :=
  (((rolePowered t role ((windowCleared d t).updTile t wipedTile)).setFld tileIdLtile 0 t).setFld tileIdLvalid 0 t).setFld
    tileFmtStatusStrict 0 t

/-- What comes of a row that waits to be spared: its remap entry and its count, and nothing below the spare rows' words. -/
structure SparingDone (d e : Dev) (t : Nat) : Prop where
  beside : SameBesideTilesRegs d e
  others : SameOtherTiles d e t
  words : ∀ o, o < rTileSpare0 → bankWord e.regs (o + 0x400 * t) = bankWord d.regs (o + 0x400 * t)
  tile : ∃ m, e.tile t = { d.tile t with remap := m, sparing := none } ∧ ((d.tile t).sparing = none → m = (d.tile t).remap)

theorem clearTile_of_none {d : Dev} {t : Nat} (role : Nat) (hs : (d.tile t).sparing = none) : clearTile d t role = wiped d t role := by
  simp only [clearTile, hs]
  rfl

/-- The device with the row that waits spared. -/
def waitingSpared (d : Dev) (t b r : Nat) : Dev :=
  (d.updTile t fun x => { x with remap := mapSet 0 x.remap (512 * b + r) (512 + d.fld (fldSpare b) t), sparing := none }).setFld
    (fldSpare b) (d.fld (fldSpare b) t + 1) t

theorem clearTile_of_some {d : Dev} {t h b r : Nat} (role : Nat) (hs : (d.tile t).sparing = some (h, b, r)) :
    clearTile d t role = wiped (waitingSpared d t b r) t role := by
  simp only [clearTile, hs]
  rfl

theorem waitingSpared_done {d : Dev} {t h b r : Nat} (hs : (d.tile t).sparing = some (h, b, r)) :
    SparingDone d (waitingSpared d t b r) t where
  beside := by
    have h : SameBesideTilesRegs d d := rfl
    exact (h.updTile t _).setFld _ _ _
  others k hk := by rw [waitingSpared, Dev.setFld_tile, Dev.tile_updTile_ne _ _ hk]
  words o ho := by
    refine Dev.setFld_word_ne _ _ _ _ ?_ nofun
    simp only [fldSpare, tileSpare0UsedA]
    omega
  tile := by
    refine ⟨mapSet 0 (d.tile t).remap (512 * b + r) (512 + d.fld (fldSpare b) t), ?_,
      fun hn => absurd (hs.symm.trans hn) (Option.some_ne_none _)⟩
    rw [waitingSpared, Dev.setFld_tile]
    exact Dev.tile_updTile_self _ _ _

/-- A role change spares the row that waits, if one does, and wipes the tile. -/
theorem clearTile_eq (d : Dev) (t role : Nat) : ∃ e, SparingDone d e t ∧ clearTile d t role = wiped e t role := by
  cases hs : (d.tile t).sparing with
  | none =>
    have hdone : SparingDone d d t := ⟨rfl, fun _ _ => rfl, fun _ _ => rfl, (d.tile t).remap, by rw [← hs], fun _ => rfl⟩
    exact ⟨d, hdone, clearTile_of_none role hs⟩
  | some w => exact ⟨_, waitingSpared_done hs, clearTile_of_some role hs⟩

/-! ### The window of a tile that has changed its role -/

/-- Clearing the window touches registers alone. -/
theorem windowCleared_only_regs (d : Dev) (t : Nat) : windowCleared d t = { d with regs := (windowCleared d t).regs } := by
  have harrivals : ∃ r, clearArrivals (clearMarks d t 0) t = { d with regs := r } := by
    refine List.foldlRecOn (upto 32) _ (motive := fun e : Dev => ∃ r, e = { d with regs := r }) ⟨_, rfl⟩ fun e he c _ => ?_
    obtain ⟨r, rfl⟩ := he
    exact ⟨_, rfl⟩
  obtain ⟨r, hr⟩ := harrivals
  rw [windowCleared, foldl_zeroWord, hr]

theorem clearArrivals_word (d : Dev) (t : Nat) {o : Nat} (ho : o < 0x40300) :
    bankWord (clearArrivals d t).regs (o + 0x400 * t) = bankWord d.regs (o + 0x400 * t) := by
  refine List.foldlRecOn (upto 32) _ (motive := fun e : Dev => bankWord e.regs (o + 0x400 * t) = bankWord d.regs (o + 0x400 * t)) rfl
    fun e he c _ => ?_
  rw [← he]
  refine Dev.setFld_word_ne _ _ _ _ ?_ nofun
  simp only [tileArrival]
  omega

theorem clearMarks_word (d : Dev) (t : Nat) {o : Nat} (ho : o ≠ rTileFpTrap) :
    bankWord (clearMarks d t 0).regs (o + 0x400 * t) = if o ∈ markWords then 0 else bankWord d.regs (o + 0x400 * t) := by
  rw [clearMarks_eq, ← zeroWords_word]
  refine Dev.setFld_word_ne _ _ _ _ ?_ nofun
  simp only [rTileFpTrap, tileFpTrapNanwatchEn] at ho ⊢
  omega

theorem windowCleared_word (d : Dev) (t : Nat) {o : Nat} (ho : o < 0x40300) (htrap : o ≠ rTileFpTrap) :
    bankWord (windowCleared d t).regs (o + 0x400 * t) =
      if o ∈ statusWords then 0 else if o ∈ markWords then 0 else bankWord d.regs (o + 0x400 * t) := by
  rw [windowCleared, foldl_zeroWord]
  refine (zeroWords_word _ _ _ _).trans ?_
  rw [clearArrivals_word _ _ ho, clearMarks_word _ _ htrap]

/-- A field of one word reads what its word holds. -/
theorem Dev.fld_of_word {d e : Dev} {f : Fld} {t : Nat} (hf : f.stride = 0x400 ∧ f.wide = false)
    (h : bankWord e.regs (f.base + 0x400 * t) = bankWord d.regs (f.base + 0x400 * t)) : e.fld f t = d.fld f t := by
  obtain ⟨hstride, hwide⟩ := hf
  simp only [Dev.fld, bankFld, bankReg, hwide, hstride, Nat.mul_comm t, h, Bool.false_eq_true, if_false]

theorem fld_arrival_setFld_arrival (d : Dev) (t a c : Nat) : (d.setFld (tileArrival a) 0 t).fld (tileArrival c) t =
    if c = a then 0 else d.fld (tileArrival c) t := by
  split
  · subst c
    exact Dev.fld_setFld _ _ _ _ (Nat.zero_le 31) (by decide : 31 < 32)
  · refine Dev.fld_setFld_ne _ _ _ _ _ _ ?_
    simp only [tileArrival, b2n, Bool.false_eq_true, if_false]
    omega

theorem clearArrivals_fld (d : Dev) (t : Nat) {c : Nat} (hc : c < 32) : (clearArrivals d t).fld (tileArrival c) t = 0 := by
  have hall : ∀ (l : List Nat) (e : Dev), (l.foldl (fun d a => d.setFld (tileArrival a) 0 t) e).fld (tileArrival c) t =
      if c ∈ l then 0 else e.fld (tileArrival c) t := by
    intro l
    induction l with
    | nil => simp
    | cons a l ih =>
      intro e
      rw [List.foldl_cons, ih, fld_arrival_setFld_arrival]
      by_cases h : c = a <;> simp [h]
  refine (hall _ _).trans (if_pos ?_)
  simpa [upto] using hc

theorem windowCleared_arrival (d : Dev) (t : Nat) {c : Nat} (hc : c < 32) : (windowCleared d t).fld (tileArrival c) t = 0 := by
  rw [← clearArrivals_fld (clearMarks d t 0) t hc, windowCleared, foldl_zeroWord]
  refine Dev.fld_of_word ⟨rfl, rfl⟩ ((zeroWords_word _ _ _ _).trans (if_neg ?_))
  simp only [tileArrival, statusWords, rTileConflictStatus, rTileConflictPc, rTileGuardStatus, rTileSbStatus, rTileCacheMode,
    List.mem_cons, List.not_mem_nil, or_false]
  omega

section
variable (d : Dev) (t role : Nat)

theorem rolePowered_bankPwr (h : role ≠ 0) : (rolePowered t role d).fld tileBankPwrOn t = 0xFFFF := by
  rw [rolePowered, if_neg h, Dev.fld_setFld_of_beside _ _ _ _ _ (by decide), Dev.fld_setFld _ _ _ _ (by decide) (by decide)]
  exact Nat.mod_eq_of_lt (by decide)

theorem rolePowered_tile (k : Nat) : (rolePowered t role d).tile k = d.tile k := by
  rw [rolePowered]
  split
  · rfl
  · rw [Dev.setFld_tile, Dev.setFld_tile]

/-- The words of tile `t`'s window that a role change writes before its end, other than to clear them. -/
def wipedWords (t : Nat) : List Nat := [rTileBankPwr + 0x400 * t, rTileId + 0x400 * t, rTileFmtStatus + 0x400 * t]

theorem SameRegsBut.rolePowered {d e : Dev} {os : List Nat} (h : SameRegsBut d e os) (hmem : rTileBankPwr + 0x400 * t ∈ os) :
    SameRegsBut d (rolePowered t role e) os := by
  rw [Machine.rolePowered]
  split
  · exact h
  · exact (h.setFld_word tileBankPwrOn _ ⟨rfl, rfl⟩ hmem).setFld_word tileBankPwrDraining _ ⟨rfl, rfl⟩ hmem

theorem wiped_words : SameRegsBut (windowCleared d t) (wiped d t role) (wipedWords t) := by
  have hid : rTileId + 0x400 * t ∈ wipedWords t := by simp [wipedWords]
  have hfmt : rTileFmtStatus + 0x400 * t ∈ wipedWords t := by simp [wipedWords]
  have hpowered := ((SameRegsBut.refl (windowCleared d t) (wipedWords t)).updTile t wipedTile).rolePowered t role
    (by simp [wipedWords])
  exact ((hpowered.setFld_word tileIdLtile _ ⟨rfl, rfl⟩ hid).setFld_word tileIdLvalid _ ⟨rfl, rfl⟩ hid).setFld_word
    tileFmtStatusStrict _ ⟨rfl, rfl⟩ hfmt

/-- A role change writes no other field of the tile's window before its end than those of `wipedWords`, but to clear it. -/
theorem wiped_fld (g : Fld) (hg : g.stride = 0x400 ∧ g.wide = false)
    (hout : g.base ∉ [rTileBankPwr, rTileId, rTileFmtStatus]) : (wiped d t role).fld g t = (windowCleared d t).fld g t := by
  refine Dev.fld_of_word hg (wiped_words d t role _ fun hmem => hout ?_)
  simpa [wipedWords] using hmem

theorem wiped_lvalid : (wiped d t role).fld tileIdLvalid t = 0 := by
  rw [wiped, Dev.fld_setFld_of_beside _ _ _ _ _ (by decide), Dev.fld_setFld _ _ _ _ (by decide) (by decide), Nat.zero_mod]

theorem wiped_bankPwr (h : role ≠ 0) : (wiped d t role).fld tileBankPwrOn t = 0xFFFF := by
  rw [wiped, Dev.fld_setFld_of_beside _ _ _ _ _ (by decide), Dev.fld_setFld_of_beside _ _ _ _ _ (by decide),
    Dev.fld_setFld_of_beside _ _ _ _ _ (by decide), rolePowered_bankPwr _ _ _ h]

theorem wiped_tile : (wiped d t role).tile t = wipedTile (d.tile t) := by
  rw [wiped, Dev.setFld_tile, Dev.setFld_tile, Dev.setFld_tile, rolePowered_tile, Dev.tile_updTile_self, windowCleared_only_regs]
  rfl

theorem rolePowered_beside {e : Dev} (h : SameBesideTilesRegs d e) : SameBesideTilesRegs d (rolePowered t role e) := by
  rw [rolePowered]
  split
  · exact h
  · exact (h.setFld _ _ _).setFld _ _ _

theorem wiped_beside {e : Dev} (h : SameBesideTilesRegs d e) : SameBesideTilesRegs d (wiped e t role) := by
  have hcleared : SameBesideTilesRegs d (windowCleared e t) := by
    rw [windowCleared_only_regs]
    exact h
  exact (((rolePowered_beside _ _ _ (hcleared.updTile t wipedTile)).setFld _ _ _).setFld _ _ _).setFld _ _ _

theorem wiped_otherTiles : SameOtherTiles d (wiped d t role) t := by
  intro k hk
  rw [wiped, Dev.setFld_tile, Dev.setFld_tile, Dev.setFld_tile, rolePowered_tile, Dev.tile_updTile_ne _ _ hk, windowCleared_only_regs]
  rfl

end

/-! ### The tile in its new role -/

/-- The tile bound to nothing. -/
def unbound (x : Tile) : Tile := { x with roleTo := none, loadFor := none, drainTo := none, job := none }

/-- The device with tile `t` in its new role, ready, and bound to nothing (R101, R153). -/
def roleTaken (d : Dev) (t role : Nat) : Dev :=
  (((d.setFld tileRoleRole role t).setFld tileRoleChanging 0 t).setFld tileStateState tsReady t).updTile t unbound

section
variable (d : Dev) (t role : Nat)

theorem roleTaken_role (h : role < 4) : (roleTaken d t role).fld tileRoleRole t = role := by
  rw [roleTaken, Dev.updTile_fld, Dev.fld_setFld_of_beside _ _ _ _ _ (by decide), Dev.fld_setFld_of_beside _ _ _ _ _ (by decide),
    Dev.fld_setFld _ _ _ _ (by decide) (by decide)]
  exact Nat.mod_eq_of_lt h

theorem roleTaken_changing : (roleTaken d t role).fld tileRoleChanging t = 0 := by
  rw [roleTaken, Dev.updTile_fld, Dev.fld_setFld_of_beside _ _ _ _ _ (by decide), Dev.fld_setFld _ _ _ _ (by decide) (by decide),
    Nat.zero_mod]

theorem roleTaken_state : (roleTaken d t role).fld tileStateState t = tsReady := by
  rw [roleTaken, Dev.updTile_fld, Dev.fld_setFld _ _ _ _ (by decide) (by decide)]
  rfl

theorem roleTaken_fld (g : Fld) (hrole : tileRoleRole.beside g = true) (hchanging : tileRoleChanging.beside g = true)
    (hstate : tileStateState.beside g = true) : (roleTaken d t role).fld g t = d.fld g t := by
  rw [roleTaken, Dev.updTile_fld, Dev.fld_setFld_of_beside _ _ _ _ _ hstate, Dev.fld_setFld_of_beside _ _ _ _ _ hchanging,
    Dev.fld_setFld_of_beside _ _ _ _ _ hrole]

theorem roleTaken_word {o : Nat} (h : o ∉ [rTileRole, rTileState]) :
    bankWord (roleTaken d t role).regs (o + 0x400 * t) = bankWord d.regs (o + 0x400 * t) := by
  let os := [rTileRole + 0x400 * t, rTileState + 0x400 * t]
  have hwords : SameRegsBut d (roleTaken d t role) os :=
    ((((SameRegsBut.refl d os).setFld_word tileRoleRole _ ⟨rfl, rfl⟩ (by simp [os, rTileRole, tileRoleRole])).setFld_word
      tileRoleChanging _ ⟨rfl, rfl⟩ (by simp [os, rTileRole, tileRoleChanging])).setFld_word tileStateState _ ⟨rfl, rfl⟩
      (by simp [os, rTileState, tileStateState])).updTile _ _
  refine hwords _ fun hmem => h ?_
  simpa [os] using hmem

theorem roleTaken_tile : (roleTaken d t role).tile t = unbound (d.tile t) := by
  rw [roleTaken, Dev.tile_updTile_self, Dev.setFld_tile, Dev.setFld_tile, Dev.setFld_tile]

theorem roleTaken_otherTiles : SameOtherTiles d (roleTaken d t role) t := by
  intro k hk
  rw [roleTaken, Dev.tile_updTile_ne _ _ hk, Dev.setFld_tile, Dev.setFld_tile, Dev.setFld_tile]

end

/-- What the end of a role change leaves of tile `t`, before its image learns of it. -/
structure RoleChanged (d e : Dev) (t role : Nat) : Prop where
  beside : SameBesideTilesRegs d e
  others : SameOtherTiles d e t
  newRole : e.fld tileRoleRole t = role
  changing : e.fld tileRoleChanging t = 0
  epoch : e.fld tileRoleEpoch t = d.fld tileRoleEpoch t
  state : e.fld tileStateState t = tsReady
  lvalid : e.fld tileIdLvalid t = 0
  arrival : ∀ c < 32, e.fld (tileArrival c) t = 0
  bankPwr : role ≠ 0 → e.fld tileBankPwrOn t = 0xFFFF
  fpFlags : bankWord e.regs (rTileFpFlags + 0x400 * t) = 0
  tile : ∃ m, e.tile t = unbound (wipedTile { d.tile t with remap := m, sparing := none }) ∧
    ((d.tile t).sparing = none → m = (d.tile t).remap)

theorem SparingDone.fld {d e : Dev} {t : Nat} (h : SparingDone d e t) (g : Fld) (hg : g.stride = 0x400 ∧ g.wide = false)
    (hbase : g.base < rTileSpare0) : e.fld g t = d.fld g t := Dev.fld_of_word hg (h.words _ hbase)

theorem windowCleared_fld (d : Dev) (t : Nat) (g : Fld) (hg : g.stride = 0x400 ∧ g.wide = false) (hbase : g.base < 0x40300)
    (hout : g.base ∉ rTileFpTrap :: (statusWords ++ markWords)) : (windowCleared d t).fld g t = d.fld g t := by
  simp only [List.mem_cons, List.mem_append, not_or] at hout
  obtain ⟨htrap, hstatus, hmark⟩ := hout
  refine Dev.fld_of_word hg ?_
  rw [windowCleared_word d t hbase htrap, if_neg hstatus, if_neg hmark]

theorem roleChanged_of_sparingDone {d e : Dev} {t role : Nat} (h : SparingDone d e t) (hrole : role < 4) :
    RoleChanged d (roleTaken (wiped e t role) t role) t role where
  beside := (((wiped_beside d t role h.beside).setFld _ _ _).setFld _ _ _ |>.setFld _ _ _).updTile _ _
  others k hk := by rw [roleTaken_otherTiles _ _ _ _ hk, wiped_otherTiles _ _ _ _ hk, h.others _ hk]
  newRole := roleTaken_role _ _ _ hrole
  changing := roleTaken_changing _ _ _
  epoch := by
    rw [roleTaken, Dev.updTile_fld, Dev.fld_setFld_of_beside _ _ _ _ _ (by decide), Dev.fld_setFld_of_beside _ _ _ _ _ (by decide),
      Dev.fld_setFld_of_beside _ _ _ _ _ (by decide), wiped_fld _ _ _ _ ⟨rfl, rfl⟩ (by decide),
      windowCleared_fld _ _ _ ⟨rfl, rfl⟩ (by decide) (by decide), h.fld _ ⟨rfl, rfl⟩ (by decide)]
  state := roleTaken_state _ _ _
  lvalid := by rw [roleTaken_fld _ _ _ _ (by decide) (by decide) (by decide), wiped_lvalid]
  arrival c hc := by
    rw [← windowCleared_arrival e t hc, ← wiped_fld e t role (tileArrival c) ⟨rfl, rfl⟩]
    · refine Dev.fld_of_word ⟨rfl, rfl⟩ (roleTaken_word _ _ _ ?_)
      simp only [tileArrival, rTileRole, rTileState, List.mem_cons, List.not_mem_nil, or_false]
      omega
    · simp only [tileArrival, rTileBankPwr, rTileId, rTileFmtStatus, List.mem_cons, List.not_mem_nil, or_false]
      omega
  bankPwr h0 := by rw [roleTaken_fld _ _ _ _ (by decide) (by decide) (by decide), wiped_bankPwr _ _ _ h0]
  fpFlags := by
    rw [roleTaken_word _ _ _ (by decide), wiped_words, windowCleared_word _ _ (by decide) (by decide), if_neg (by decide),
      if_pos (by decide)]
    simp only [wipedWords, rTileFpFlags, rTileBankPwr, rTileId, rTileFmtStatus, List.mem_cons, List.not_mem_nil, or_false]
    omega
  tile := by
    obtain ⟨m, hm, hkeep⟩ := h.tile
    exact ⟨m, by rw [roleTaken_tile, wiped_tile, hm], hkeep⟩

/-- What the image of tile `t` makes of the end of its role change: it loses the tile, or takes it for the logical tile it loaded. -/
def roleSettled (d e : Dev) (t : Nat) : Dev :=
  match (d.tile t).loadFor with
  | none => tileReleased e t
  | some (n, l) => match d.image n with
    | none => e
    | some im => substituted (loadProgress (placeAt (loadTile e t im l) n l (some t)) n) t

theorem SameBesideTilesRegs.image {d e : Dev} (h : SameBesideTilesRegs d e) (n : Nat) : e.image n = d.image n := by
  rw [← h]
  rfl

theorem roleChangeDone_eq {d : Dev} {t role : Nat} (hto : (d.tile t).roleTo = some role) (hadm : (d.tile t).admitted = [])
    (hchanging : d.flag tileRoleChanging t = true) (hbusy : drainBusy d t = false) (hstate : d.fld tileStateState t ≠ tsRetired)
    (hrole : role < 4) : ∃ e, RoleChanged d e t role ∧ roleChangeDone t d = roleSettled d e t := by
  obtain ⟨a, ha, hclear⟩ := clearTile_eq d t role
  have hdone := roleChanged_of_sparingDone ha hrole
  have hready : (((wiped a t role).setFld tileRoleRole role t).setFld tileRoleChanging 0 t).fld tileStateState t ≠ tsRetired := by
    rwa [Dev.fld_setFld_of_beside _ _ _ _ _ (by decide), Dev.fld_setFld_of_beside _ _ _ _ _ (by decide),
      wiped_fld _ _ _ _ ⟨rfl, rfl⟩ (by decide), windowCleared_fld _ _ _ ⟨rfl, rfl⟩ (by decide) (by decide),
      ha.fld _ ⟨rfl, rfl⟩ (by decide)]
  have hfree : ¬ (((d.tile t).admitted ≠ [] || !d.flag tileRoleChanging t || drainBusy d t) = true) := by simp [hadm, hchanging, hbusy]
  refine ⟨_, hdone, ?_⟩
  have hpast : roleChangeDone t d = match (d.tile t).loadFor with
      | none => tileReleased (roleTaken (wiped a t role) t role) t
      | some (n, l) => match (roleTaken (wiped a t role) t role).image n with
        | none => roleTaken (wiped a t role) t role
        | some im => substituted (loadProgress (placeAt (loadTile (roleTaken (wiped a t role) t role) t im l) n l (some t)) n) t := by
    simp only [roleChangeDone, hto]
    rw [if_neg hfree, hclear, if_neg hready]
    rfl
  simp only [hdone.beside.image] at hpast
  exact hpast

theorem exec_roleChangeDone_eq {s : State} {t role : Nat} (hto : (s.dev.tile t).roleTo = some role) (hadm : (s.dev.tile t).admitted = [])
    (hchanging : s.dev.flag tileRoleChanging t = true) (hbusy : drainBusy s.dev t = false)
    (hstate : s.dev.fld tileStateState t ≠ tsRetired) (hrole : role < 4) : ∃ e, RoleChanged s.dev e t role ∧
      exec (.roleChangeDone t) s = .next (applyLibrary { s with dev := resumeGraphs (roleSettled s.dev e t) }) := by
  obtain ⟨e, he, heq⟩ := roleChangeDone_eq hto hadm hchanging hbusy hstate hrole
  exact ⟨e, he, by rw [exec_roleChangeDone, execRoleChangeDone, heq]⟩

/-- Settles O21: `bankGated` for the banks, and `RoleChanged`, field by field, for the end of a role change. -/
theorem bankAndRoleResults : Obligations.BankAndRoleResults := by
  unfold Obligations.BankAndRoleResults
  refine ⟨fun s t b hb => ⟨bankDrain_drains hb, fun hdr hidle => ?_, fun _ hbusy => bankGate_waits hbusy⟩, ?_⟩
  · refine ⟨bankGated t b s.dev, bankGate_gates hb hdr hidle, bankGated_beside _ _ _, bankGated_otherTiles _ _ _, bankGated_words _ _ _,
      fun c _ => bankGated_pwr _ _ _ hdr c, fun k => ?_, ?_⟩
    · rw [bankGated_tile]
      simp only [bankLost, mapGet_drop, decide_eq_true_eq]
    · rw [bankGated_tile]
      rfl
  · intro s t role hrole d x hto hadm hchanging hbusy hstate
    obtain ⟨e, he, hexec⟩ := exec_roleChangeDone_eq hto hadm hchanging hbusy hstate hrole
    obtain ⟨m, hm, hkeep⟩ := he.tile
    refine ⟨e, he.beside, he.others, he.newRole, he.changing, he.epoch, he.state, he.lvalid, he.arrival, he.bankPwr, he.fpFlags, ?_, ?_⟩
    · simp only [hm]
      exact ⟨rfl, rfl, rfl, rfl, rfl, rfl, rfl, rfl, rfl, rfl, rfl, rfl, rfl, rfl, rfl, rfl, hkeep⟩
    · exact hexec

end Sys2Proof.Machine
end

section
/-! PROOFS. Live remap and spare rows of a tile (R139, R140, R142, R143, R546): O22. -/

namespace Sys2Proof.Machine

/-! ### A handle's row moved (R142, R143) -/

theorem hndOf_withBase_baseRow (e : BitVec 128) {base : Nat} (h : base < 512) : (hndOf (withBase e base)).baseRow = base := by
  have hlt : setBits e.toNat 40 32 base < 2 ^ 128 := setBits_lt _ _ _ _ _ (by decide) (by decide) e.isLt
  have hentry : (withBase e base).toNat = setBits e.toNat 40 32 base := (BitVec.toNat_ofNat _ _).trans (Nat.mod_eq_of_lt hlt)
  calc (hndOf (withBase e base)).baseRow = bits (setBits e.toNat 40 32 base) 40 32 := by rw [← hentry]; rfl
    _ = base % 2 ^ 9 := bits_setBits _ _ _ _ (by decide)
    _ = base := Nat.mod_eq_of_lt h

section
variable {s : State} {t h base : Nat}

theorem liveRemap_pauses (hvalid : ((s.dev.tile t).hnd h).valid = true) (hlocal : ((s.dev.tile t).hnd h).kind = 0)
    (hnew : h ∉ (s.dev.tile t).paused) :
    exec (.liveRemap t h) s = leaves s (s.dev.updTile t fun x => { x with paused := x.paused ++ [h] }) := by
  rw [exec_liveRemap, execLiveRemap, onDev_next]
  simp only
  rw [if_pos (by simp [hvalid, hlocal, hnew])]
  rfl

/-- No admitted operation uses the handle. -/
theorem admitted_clear (hclear : ∀ q ∈ (s.dev.tile t).admitted, q.handle ≠ h) :
    (s.dev.tile t).admitted.all (fun q => decide (q.handle ≠ h)) = true :=
  List.all_eq_true.mpr fun q hq => decide_eq_true (hclear q hq)

/-- The tile with handle `h` at row `base` and no longer paused. -/
def rebased (x : Tile) (h base : Nat) : Tile :=
  { x with handles := mapSet 0 x.handles h (withBase (mapGet 0 x.handles h) base), paused := x.paused.erase h }

/-- The tile with the rows of handle `h` at their new base. -/
def remapped (x : Tile) (h base : Nat) : Tile :=
  let rows := (upto (x.hnd h).rows).map fun i => x.readRow (x.hnd h) (0 + i)
  (rows.zip (upto rows.length)).foldl (fun y r => y.writeRow (hndOf (withBase (mapGet 0 x.handles h) base)) r.2 r.1) (rebased x h base)

theorem liveRemapResume_moves (hpaused : h ∈ (s.dev.tile t).paused) (hsparing : (s.dev.tile t).sparing = none)
    (hclear : ∀ q ∈ (s.dev.tile t).admitted, q.handle ≠ h) (hbase : base < 512)
    (hok : basesOk ((upto 64).map (s.dev.tile t).hnd)
      (fun k => if k = h then base else (((upto 64).map (s.dev.tile t).hnd).getD k (hndOf 0)).baseRow) = true) :
    exec (.liveRemapResume t h base) s = leaves s (settle
      (if ((s.dev.tile t).hnd h).baseRow = base then s.dev.setTile t (remapped (s.dev.tile t) h base)
        else (s.dev.setTile t (remapped (s.dev.tile t) h base)).forCount 6) t) := by
  have hgo : ((s.dev.tile t).paused.contains h && (s.dev.tile t).admitted.all (fun q => decide (q.handle ≠ h)) && decide (base < 512) &&
      basesOk ((upto 64).map (s.dev.tile t).hnd)
        (fun k => if k = h then base else (((upto 64).map (s.dev.tile t).hnd).getD k (hndOf 0)).baseRow)) = true := by
    rw [hok, admitted_clear hclear]
    simp [hpaused, hbase]
  rw [exec_liveRemapResume, execLiveRemapResume, onDev_next]
  simp only [remapResume]
  split
  · rename_i hsome
    exact absurd (hsparing.symm.trans hsome) (Option.some_ne_none _).symm
  · rw [if_pos hgo]
    rfl

theorem liveRemapResume_spares {b r : Nat} (hsparing : (s.dev.tile t).sparing = some (h, b, r))
    (hclear : ∀ q ∈ (s.dev.tile t).admitted, q.handle ≠ h) : exec (.liveRemapResume t h base) s =
      leaves s (settle ((switchRow t b r s.dev).updTile t fun x => { x with paused := x.paused.erase h, sparing := none }) t) := by
  rw [exec_liveRemapResume, execLiveRemapResume, onDev_next]
  simp only [remapResume, hsparing]
  rw [admitted_clear hclear, Bool.and_true, if_pos (decide_eq_true trivial)]
  rfl

end

/-! ### A row moved to its bank's next spare row (R139, R140, R142, R546) -/

/-- The repair record takes the spared row, once the device has logged it. -/
def sparingRecorded (s : State) (t b r : Nat) (e : Dev) : State :=
  keepRepair (fun q => { q with tileRows := mapSet 0 q.tileRows (8192 * t + 512 * b + r) (512 + s.dev.fld (fldSpare b) t) })
    { s with dev := logEvent e lgSpared (leBytes 1 2 ++ leBytes 1 t ++ leBytes 1 b ++ leBytes 4 r) }

/-- The row is one that may be spared, and has reported three corrected errors or an uncorrectable one. -/
structure RowWorn (d : Dev) (t b r : Nat) : Prop where
  tile : t < 136
  bank : b < 16
  row : r < 512
  ready : fwReady d = true
  errors : 3 ≤ mapGet 0 (d.tile t).rowErrs (rowKey b ((d.tile t).prow b r)) ∨ rowKey b ((d.tile t).prow b r) ∈ (d.tile t).rowBad
  free : (d.tile t).sparing = none

section
variable {s : State} {t b r : Nat}

theorem tileRowSpare_of_worn (hw : RowWorn s.dev t b r) : tileRowSpare t b r s =
    if 16 ≤ s.dev.fld (fldSpare b) t then retire t 0 s
    else match handleOfRow (s.dev.tile t) b r with
      | some h => if (s.dev.tile t).paused.contains h then s
          else sparingRecorded s t b r (s.dev.updTile t fun y => { y with paused := y.paused ++ [h], sparing := some (h, b, r) })
      | none => sparingRecorded s t b r (switchRow t b r s.dev) := by
  obtain ⟨ht, hb, hr, hready, herr, hfree⟩ := hw
  have hgo : ¬ ((!fwReady s.dev || decide (tileCount ≤ t) || decide (16 ≤ b) || decide (512 ≤ r) || (s.dev.tile t).sparing.isSome ||
      !(decide (3 ≤ mapGet 0 (s.dev.tile t).rowErrs (rowKey b ((s.dev.tile t).prow b r))) ||
        (s.dev.tile t).rowBad.contains (rowKey b ((s.dev.tile t).prow b r)))) = true) := by
    have htile : ¬ tileCount ≤ t := Nat.not_le.mpr ht
    have hworn : (decide (3 ≤ mapGet 0 (s.dev.tile t).rowErrs (rowKey b ((s.dev.tile t).prow b r))) ||
        (s.dev.tile t).rowBad.contains (rowKey b ((s.dev.tile t).prow b r))) = true := by
      simpa only [Bool.or_eq_true, decide_eq_true_eq, List.contains_iff_mem] using herr
    rw [hworn]
    simp [hready, htile, hb, hr, hfree]
  simp only [tileRowSpare]
  exact if_neg hgo

theorem exec_tileRowSpare_eq : exec (.tileRowSpare t b r) s = .next (applyLibrary (tileRowSpare t b r s)) := rfl

theorem tileRowSpare_retires (hw : RowWorn s.dev t b r) (hused : 16 ≤ s.dev.fld (fldSpare b) t) :
    tileRowSpare t b r s = retire t 0 s := by
  rw [tileRowSpare_of_worn hw, if_pos hused]

theorem tileRowSpare_pauses (hw : RowWorn s.dev t b r) {h : Nat} (hused : s.dev.fld (fldSpare b) t < 16)
    (hh : handleOfRow (s.dev.tile t) b r = some h) (hnew : h ∉ (s.dev.tile t).paused) : tileRowSpare t b r s =
      sparingRecorded s t b r (s.dev.updTile t fun y => { y with paused := y.paused ++ [h], sparing := some (h, b, r) }) := by
  rw [tileRowSpare_of_worn hw, if_neg (Nat.not_le.mpr hused), hh]
  exact if_neg (by simpa using hnew)

theorem tileRowSpare_moves (hw : RowWorn s.dev t b r) (hused : s.dev.fld (fldSpare b) t < 16)
    (hh : handleOfRow (s.dev.tile t) b r = none) : tileRowSpare t b r s = sparingRecorded s t b r (switchRow t b r s.dev) := by
  rw [tileRowSpare_of_worn hw, if_neg (Nat.not_le.mpr hused), hh]

end

/-- The tile with bank row `r` of bank `b` mapped to physical row `p`, its errors forgotten. -/
def rowMapped (x : Tile) (b r p : Nat) : Tile :=
  let k := rowKey b (x.prow b r)
  { x with remap := mapSet 0 x.remap (512 * b + r) p, rowErrs := mapSet 0 x.rowErrs k 0, rowBad := x.rowBad.filter (· ≠ k) }

theorem rowMapped_prow (x : Tile) (b r : Nat) {p : Nat} (hp : p ≠ 0) : (rowMapped x b r p).prow b r = p := by
  simp only [Tile.prow, rowMapped, mapGet_set_self, hp, if_false]

section
variable (d : Dev) (t b r : Nat)

theorem switchRow_tile : (switchRow t b r d).tile t =
    (rowMapped (d.tile t) b r (512 + d.fld (fldSpare b) t)).setPhysRow b r ((d.tile t).physRow b r) := by
  rw [switchRow, Dev.setFld_tile, Dev.tile_setTile_self]
  rfl

theorem switchRow_prow : ((switchRow t b r d).tile t).prow b r = 512 + d.fld (fldSpare b) t := by
  rw [switchRow_tile]
  exact rowMapped_prow _ _ _ (by omega)

theorem switchRow_physRow : ((switchRow t b r d).tile t).physRow b r = (d.tile t).physRow b r := by
  rw [switchRow_tile, Tile.physRow_set_self]

theorem switchRow_used (hused : d.fld (fldSpare b) t < 16) : (switchRow t b r d).fld (fldSpare b) t = d.fld (fldSpare b) t + 1 := by
  have hhi : (fldSpare b).hi < if (fldSpare b).wide then 64 else 32 := by
    simp only [fldSpare, tileSpare0UsedA, Bool.false_eq_true, if_false]
    omega
  have hwidth : (fldSpare b).hi + 1 - (fldSpare b).lo = 5 := by
    simp only [fldSpare]
    omega
  rw [switchRow, Dev.fld_setFld _ _ _ _ (Nat.le_add_right _ _) hhi, hwidth, Nat.mod_eq_of_lt]
  omega

theorem switchRow_rows {k : Nat} (hk : k ≠ rowKey b (512 + d.fld (fldSpare b) t)) :
    mapGet 0 ((switchRow t b r d).tile t).rows k = mapGet 0 (d.tile t).rows k := by
  rw [switchRow_tile, Tile.setPhysRow_rows_ne]
  · rfl
  · rwa [rowMapped_prow _ _ _ (by omega)]

end

/-- Settles O22: the rules of a live remap, of a worn row, and of `switchRow`. -/
theorem remapAndSparingResults : Obligations.RemapAndSparingResults := by
  unfold Obligations.RemapAndSparingResults
  refine ⟨fun s t h base =>
    ⟨liveRemap_pauses, liveRemapResume_moves, fun b r => liveRemapResume_spares, hndOf_withBase_baseRow _⟩, ?_⟩
  intro s t b r ht hb hr hready d x k herr hfree used recorded
  have hw : RowWorn s.dev t b r := ⟨ht, hb, hr, hready, herr, hfree⟩
  simp only [exec_tileRowSpare_eq]
  refine ⟨fun hused => ?_, fun h hused hh hnew => ?_, fun hused hh => ?_, fun hused => ?_⟩
  · rw [tileRowSpare_retires hw hused]
  · rw [tileRowSpare_pauses hw hused hh hnew]
    rfl
  · rw [tileRowSpare_moves hw hused hh]
    rfl
  · exact ⟨switchRow_prow _ _ _ _, switchRow_physRow _ _ _ _, switchRow_used _ _ _ _ hused, fun k => switchRow_rows _ _ _ _⟩

end Sys2Proof.Machine
end

section
/-! PROOFS. Completions: the entry's fields, its posting and its phase (R136, R151, R294, R366, R367, R383, R384, R390): O28. -/

namespace Sys2Proof.Machine

/-! ### Little-endian fields of a record (R18) -/

theorem leNat_leBytes (n v : Nat) : leNat (leBytes n v) = v % 256 ^ n := by
  induction n generalizing v with
  | zero => rw [pow_zero, Nat.mod_one]; rfl
  | succ n ih =>
    rw [leBytes, leNat, ih, BitVec.toNat_ofNat, pow_succ' 256 n, Nat.mod_mul]

section
variable (n v : Nat) (l : List Byte)

theorem recLe_here : recLe (leBytes n v ++ l) 0 n = v % 256 ^ n := by
  rw [recLe, List.drop_zero, List.take_left' (leBytes_length n v), leNat_leBytes]

theorem recLe_last : recLe (leBytes n v) 0 n = v % 256 ^ n := by
  rw [← recLe_here n v [], List.append_nil]

theorem recLe_past {o : Nat} (m : Nat) (h : n ≤ o) : recLe (leBytes n v ++ l) o m = recLe l (o - n) m := by
  rw [recLe, List.drop_append, leBytes_length, List.drop_eq_nil_of_le (by rwa [leBytes_length]), List.nil_append, recLe]

end

/-! ### The entry (R366) -/

theorem cqEntry_length (d : Dev) (x : Job) (ph : Nat) : (cqEntry d x ph).length = 32 := by
  simp only [cqEntry, List.length_append, leBytes_length]

theorem cqEntry_fields (d : Dev) (x : Job) (ph : Nat) :
    recLe (cqEntry d x ph) 0 8 = x.desc.tag % 256 ^ 8 ∧ recLe (cqEntry d x ph) 8 1 = x.status % 256 ^ 1 ∧
      recLe (cqEntry d x ph) 9 1 = x.desc.opcode % 256 ^ 1 ∧ recLe (cqEntry d x ph) 10 2 = x.flags % 256 ^ 2 ∧
      recLe (cqEntry d x ph) 12 1 = x.q % 256 ^ 1 ∧ recLe (cqEntry d x ph) 13 1 = ph % 256 ^ 1 ∧
      recLe (cqEntry d x ph) 14 2 = headOf d x.q % 256 ^ 2 ∧
      recLe (cqEntry d x ph) 16 4 = (x.detailIdx % 16384 + 2 ^ 16 * (x.cause % 256)) % 256 ^ 4 ∧
      recLe (cqEntry d x ph) 20 4 = 0 % 256 ^ 4 ∧ recLe (cqEntry d x ph) 24 8 = d.now % 256 ^ 8 := by
  simp (disch := decide) only [cqEntry, List.append_assoc, recLe_past, recLe_here, recLe_last, Nat.reduceSub, and_self]

/-! ### The job ends (R136, R151, R294, R367, R383, R390) -/

/-- The device once the tiles of ended job `j` are at rest and nothing of it waits in Attend, in Solve or at a fence. -/
def jobAtRest (d : Dev) (j status : Nat) : Dev :=
  let d := withdrawAttn (settleTiles d j status) j
  releaseFence { d with solv := { d.solv with problems := d.solv.problems.filter fun p => p.job ≠ j } } j

/-- The job leaves, and what waited for it learns of it. -/
def jobTold (d : Dev) (j : Nat) (x : Job) : Dev := tellWaiters { d with jobs := d.jobs.filter fun y => y.id ≠ j } j x.q x.status

section
variable {d : Dev} {x : Job} {j : Nat} {fails : Bool}

theorem completionPost_waits (hj : d.job j = some x) (hphase : x.phase ≠ .ended) : completionPost j fails d = d := by
  simp only [completionPost, hj]
  exact if_pos hphase

theorem completionPost_ended (hj : d.job j = some x) (hphase : x.phase = .ended) (hreplay : x.replayed = false)
    (hsilent : x.silent = false) (hq : x.q ≤ 64) : completionPost j fails d =
      (let e := jobTold (if x.q = 64 then postSup (jobAtRest d j x.status) x else postHost (jobAtRest d j x.status) x x.cq fails) j x
       replayPump (finishAborts (if x.q < 64 then updCqStopped (updStopped (endPass e x.q) x.q) x.cq else e))) := by
  have hspoken : ¬ ((x.silent || decide (64 < x.q)) = true) := by simp [hsilent, hq]
  have hnew : ¬ (x.replayed = true) := by simp [hreplay]
  simp only [completionPost, hj]
  rw [if_neg (not_not.mpr hphase), if_neg hspoken, if_neg hnew]
  rfl

theorem completionPost_supervisor (hj : d.job j = some x) (hphase : x.phase = .ended) (hreplay : x.replayed = false)
    (hsilent : x.silent = false) (hq : x.q = 64) :
    completionPost j fails d = replayPump (finishAborts (jobTold (postSup (jobAtRest d j x.status) x) j x)) := by
  rw [completionPost_ended hj hphase hreplay hsilent hq.le]
  simp only
  rw [if_pos hq, if_neg hq.not_lt]

theorem completionPost_host (hj : d.job j = some x) (hphase : x.phase = .ended) (hreplay : x.replayed = false)
    (hsilent : x.silent = false) (hq : x.q < 64) : completionPost j fails d = replayPump (finishAborts
      (updCqStopped (updStopped (endPass (jobTold (postHost (jobAtRest d j x.status) x x.cq fails) j x) x.q) x.q) x.cq)) := by
  rw [completionPost_ended hj hphase hreplay hsilent hq.le]
  simp only
  rw [if_neg hq.ne, if_pos hq]

theorem exec_completionPost_leaves (s : State) (j : Nat) (fails : Bool) :
    exec (.completionPost j fails) s = leaves s (completionPost j fails s.dev) := rfl

end

/-! ### The entry is posted (R366, R367, R384) -/

/-- Bytes at a host address go to host memory. -/
theorem writeAddr_host (d : Dev) {a : Nat} (l : List Byte) (ha : a < 2 ^ 62) (hlink : linkUp d = true) :
    writeAddr d a l = ({ d with hostMem := memWriteN d.hostMem a l }, stDone) := by
  have hspace : bits a 63 62 = 0 := by rw [bits, Nat.div_eq_of_lt ha, Nat.zero_mod]
  have hplace : bits a 61 0 = a := by rw [bits, pow_zero, Nat.div_one, Nat.mod_eq_of_lt ha]
  have hjob : jobAddr a = some (.host a) := by simp only [jobAddr, hspace, hplace]
  simp only [writeAddr, hjob]
  exact if_pos hlink

theorem inHost_of_lt {a : Nat} (ha : a < 2 ^ 62) : inHost a = true := by
  rw [inHost, bits, Nat.div_eq_of_lt ha, Nat.zero_mod, decide_eq_true rfl]

/-- The device with one reserved slot of ring `c` given back. -/
abbrev slotTaken (d : Dev) (c : Nat) : Dev := d.updCq c fun s => { s with reserved := s.reserved - 1 }

theorem flag_slotTaken (d : Dev) (c : Nat) (f : Fld) (i : Nat) : (slotTaken d c).flag f i = d.flag f i := rfl

theorem linkUp_slotTaken (d : Dev) (c : Nat) : linkUp (slotTaken d c) = linkUp d := rfl

/-- Tail, phase and count of ring `c` once an entry stands at its tail. -/
def tailMoved (d : Dev) (c : Nat) : Dev :=
  let t' := (d.fld cqStatusTail c + 1) % cqSize d c
  let ph := d.fld cqStatusPhase c
  ((d.setFld cqStatusTail t' c).setFld cqStatusPhase (if t' = 0 then 1 - ph else ph) c).updCq c
    fun s => { s with used := s.used + 1, unsignalled := s.unsignalled + 1 }

/-- The device with the entry of job `x` at the tail of ring `c` in host memory. -/
def entryStored (d : Dev) (x : Job) (c : Nat) : Dev :=
  { d with hostMem := memWriteN d.hostMem (d.fld cqBaseAddr c + 32 * d.fld cqStatusTail c) (cqEntry d x (d.fld cqStatusPhase c)) }

theorem tailMoved_fld (d : Dev) (c : Nat) (g : Fld) (htail : cqStatusTail.beside g = true) (hphase : cqStatusPhase.beside g = true) :
    (tailMoved d c).fld g c = d.fld g c := by
  rw [tailMoved, Dev.updCq_fld, Dev.fld_setFld_of_beside _ _ _ _ _ hphase, Dev.fld_setFld_of_beside _ _ _ _ _ htail]

theorem tailMoved_flag (d : Dev) (c : Nat) (g : Fld) (htail : cqStatusTail.beside g = true) (hphase : cqStatusPhase.beside g = true) :
    (tailMoved d c).flag g c = d.flag g c := by
  rw [Dev.flag, tailMoved_fld _ _ _ htail hphase, Dev.flag]

section
variable {d : Dev} {x : Job} {c : Nat}

theorem postHost_posted (henable : d.flag cqCfgEnable c = true) (hwb : d.fld cqTailwbAddr c = 0) (hirq : d.flag cqCfgIrqEn c = false)
    (hbase : d.fld cqBaseAddr c + 32 * 65536 < 2 ^ 62) (hlink : linkUp d = true) :
    postHost d x c false = tailMoved (entryStored (slotTaken d c) x c) c := by
  have htail : d.fld cqStatusTail c < 2 ^ 16 := bits_lt _ _ _
  have hwrite : writeAddr (slotTaken d c) ((slotTaken d c).fld cqBaseAddr c + 32 * (slotTaken d c).fld cqStatusTail c)
      (cqEntry (slotTaken d c) x ((slotTaken d c).fld cqStatusPhase c)) = (entryStored (slotTaken d c) x c, stDone) :=
    writeAddr_host _ _ (by simp only [Dev.updCq_fld]; omega) hlink
  have hon : ¬ ((!(slotTaken d c).flag cqCfgEnable c) = true) := by
    rw [flag_slotTaken, henable]
    decide
  have hup : ¬ ((inHost ((slotTaken d c).fld cqBaseAddr c) && !linkUp (slotTaken d c)) = true) := by
    rw [linkUp_slotTaken, hlink, Bool.not_true, Bool.and_false]
    decide
  have hwb' : (slotTaken d c).fld cqTailwbAddr c = 0 := hwb
  have hquiet : (tailMoved (entryStored (slotTaken d c) x c) c).flag cqCfgIrqEn c = false := by
    rw [tailMoved_flag _ _ _ (by decide) (by decide)]
    exact hirq
  simp only [postHost]
  rw [if_neg hon, if_neg hup, if_neg (by decide : ¬ (false = true)), hwrite]
  simp only
  rw [if_neg (by decide : ¬ (stDone ≠ stDone)), if_pos hwb']
  simp only
  rw [if_neg (by decide : ¬ (stDone ≠ stDone))]
  exact if_neg fun hsignal => Bool.false_ne_true (hquiet.symm.trans (Bool.and_eq_true_iff.mp hsignal).1)

theorem postHost_lost (henable : d.flag cqCfgEnable c = true) (hbase : d.fld cqBaseAddr c + 32 * 65536 < 2 ^ 62)
    (hlink : linkUp d = false) : postHost d x c false = loseEntry (slotTaken d c) c false := by
  have hhost : inHost (d.fld cqBaseAddr c) = true := inHost_of_lt (by omega)
  have hon : ¬ ((!(slotTaken d c).flag cqCfgEnable c) = true) := by
    rw [flag_slotTaken, henable]
    decide
  have hdown : (inHost ((slotTaken d c).fld cqBaseAddr c) && !linkUp (slotTaken d c)) = true := by
    rw [linkUp_slotTaken, hlink, Dev.updCq_fld, hhost]
    rfl
  simp only [postHost]
  rw [if_neg hon, if_pos hdown]

theorem tailMoved_tail (hsize : cqSize d c ≤ 65535) (hpos : 0 < cqSize d c) :
    (tailMoved d c).fld cqStatusTail c = (d.fld cqStatusTail c + 1) % cqSize d c := by
  have hlt : (d.fld cqStatusTail c + 1) % cqSize d c < 2 ^ 16 := lt_of_lt_of_le (Nat.mod_lt _ hpos) (hsize.trans (by decide))
  rw [tailMoved, Dev.updCq_fld, Dev.fld_setFld_of_beside _ _ _ _ _ (by decide), Dev.fld_setFld _ _ _ _ (by decide) (by decide)]
  exact Nat.mod_eq_of_lt hlt

theorem tailMoved_phase (d : Dev) (c : Nat) : (tailMoved d c).fld cqStatusPhase c =
    if (d.fld cqStatusTail c + 1) % cqSize d c = 0 then 1 - d.fld cqStatusPhase c else d.fld cqStatusPhase c := by
  have hbit : d.fld cqStatusPhase c < 2 := bits_lt _ _ _
  rw [tailMoved, Dev.updCq_fld, Dev.fld_setFld _ _ _ _ (by decide) (by decide)]
  refine Nat.mod_eq_of_lt (show _ < 2 from ?_)
  split <;> omega

theorem updCq_hostMem (d : Dev) (c : Nat) (f : CqState → CqState) : (d.updCq c f).hostMem = d.hostMem := rfl

theorem setFld_cq (d : Dev) (f : Fld) (v i c : Nat) : (d.setFld f v i).cq c = d.cq c := rfl

theorem tailMoved_hostMem (d : Dev) (c : Nat) : (tailMoved d c).hostMem = d.hostMem := by
  rw [tailMoved, updCq_hostMem, Dev.setFld_hostMem, Dev.setFld_hostMem]

theorem entryStored_hostMem (d : Dev) (x : Job) (c : Nat) : (entryStored d x c).hostMem =
    memWriteN d.hostMem (d.fld cqBaseAddr c + 32 * d.fld cqStatusTail c) (cqEntry d x (d.fld cqStatusPhase c)) := rfl

/-- The stored entry stands at the ring's tail. -/
theorem entryStored_read (d : Dev) (x : Job) (c : Nat) :
    memReadN (entryStored d x c).hostMem (d.fld cqBaseAddr c + 32 * d.fld cqStatusTail c) 32 = cqEntry d x (d.fld cqStatusPhase c) := by
  have hread := memReadN_writeN_self d.hostMem (d.fld cqBaseAddr c + 32 * d.fld cqStatusTail c) (cqEntry d x (d.fld cqStatusPhase c))
  rw [cqEntry_length] at hread
  rw [entryStored_hostMem, hread]

theorem entryStored_fld (d : Dev) (x : Job) (c : Nat) (g : Fld) (i : Nat) : (entryStored d x c).fld g i = d.fld g i := rfl

theorem entryStored_cq (d : Dev) (x : Job) (c k : Nat) : (entryStored d x c).cq k = d.cq k := rfl

theorem cqSize_of_fld {d e : Dev} {c : Nat} (h : e.fld cqCfgLog2size c = d.fld cqCfgLog2size c) : cqSize e c = cqSize d c := by
  rw [cqSize, h, cqSize]

/-- What is stored of an entry is the same with its slot taken. -/
theorem cqEntry_slotTaken (d : Dev) (x : Job) (c ph : Nat) : cqEntry (slotTaken d c) x ph = cqEntry d x ph := by
  have hhead : headOf (slotTaken d c) x.q = headOf d x.q := by simp only [headOf, Dev.updCq_fld]
  have hnow : (slotTaken d c).now = d.now := rfl
  rw [cqEntry, hhead, hnow, cqEntry]

theorem tailMoved_cq (d : Dev) (c : Nat) :
    (tailMoved d c).cq c = { d.cq c with used := (d.cq c).used + 1, unsignalled := (d.cq c).unsignalled + 1 } := by
  rw [tailMoved, Dev.cq_updCq_self, setFld_cq, setFld_cq]

theorem slotTaken_cq (d : Dev) (c : Nat) : (slotTaken d c).cq c = { d.cq c with reserved := (d.cq c).reserved - 1 } :=
  Dev.cq_updCq_self _ _ _

theorem loseEntry_count (d : Dev) (c : Nat) : (loseEntry d c false).fld cqLostCount c = min (d.fld cqLostCount c + 1) (2 ^ 32 - 1) := by
  have hlt : min (d.fld cqLostCount c + 1) (2 ^ 32 - 1) < 2 ^ 32 := lt_of_le_of_lt (min_le_right _ _) (by decide)
  rw [loseEntry, Dev.setIf, if_neg (by decide), Dev.incFld, Dev.fld_setFld _ _ _ _ (by decide) (by decide)]
  exact Nat.mod_eq_of_lt hlt

theorem loseEntry_tail (d : Dev) (c : Nat) : (loseEntry d c false).fld cqStatusTail c = d.fld cqStatusTail c := by
  rw [loseEntry, Dev.setIf, if_neg (by decide), Dev.incFld, Dev.fld_setFld_of_beside _ _ _ _ _ (by decide)]

theorem loseEntry_hostMem (d : Dev) (c : Nat) : (loseEntry d c false).hostMem = d.hostMem := rfl

end

/-- Settles O28: the ended job by `completionPost_ended`, the entry by `cqEntry_fields`, its posting by `tailMoved` and `loseEntry`. -/
theorem completionPostResults : Obligations.CompletionPostResults := by
  unfold Obligations.CompletionPostResults
  refine ⟨fun s j fails x hj hreplay => ⟨fun hphase => ?_, fun hphase => ⟨fun hq hsilent => ?_, fun hq hsilent => ?_⟩⟩, ?_, ?_⟩
  · rw [exec_completionPost_leaves, completionPost_waits hj hphase, leaves]
  · rw [exec_completionPost_leaves, completionPost_supervisor hj hphase hreplay hsilent hq]
    rfl
  · rw [exec_completionPost_leaves, completionPost_host hj hphase hreplay hsilent hq]
    rfl
  · intro d x ph htag hstatus hopcode hflags hq hph b
    obtain ⟨ftag, fstatus, fopcode, fflags, fq, fph, fhead, fdetail, fzero, fnow⟩ := cqEntry_fields d x ph
    refine ⟨cqEntry_length _ _ _, ftag.trans (Nat.mod_eq_of_lt ?_), fstatus.trans (Nat.mod_eq_of_lt ?_),
      fopcode.trans (Nat.mod_eq_of_lt ?_), fflags.trans (Nat.mod_eq_of_lt ?_), fq.trans (Nat.mod_eq_of_lt ?_),
      fph.trans (Nat.mod_eq_of_lt ?_), fhead, fdetail.trans (Nat.mod_eq_of_lt ?_), fzero, fnow⟩ <;> omega
  · intro d x c _ henable hwb hirq hbase
    refine ⟨fun hlink htail hsize => ?_, fun hlink => ?_⟩
    · have hfld (g : Fld) : (entryStored (slotTaken d c) x c).fld g c = d.fld g c := by rw [entryStored_fld, Dev.updCq_fld]
      have hsame := cqSize_of_fld (hfld cqCfgLog2size)
      have hcq : (entryStored (slotTaken d c) x c).cq c = { d.cq c with reserved := (d.cq c).reserved - 1 } := by
        rw [entryStored_cq, slotTaken_cq]
      simp only [postHost_posted henable hwb hirq hbase hlink]
      refine ⟨?_, ?_, ?_, ?_, ?_⟩
      · have hread := entryStored_read (slotTaken d c) x c
        rw [cqEntry_slotTaken, Dev.updCq_fld, Dev.updCq_fld, Dev.updCq_fld] at hread
        rw [tailMoved_hostMem, hread]
      · rw [tailMoved_tail (hsame ▸ hsize) (hsame ▸ Nat.zero_lt_of_lt htail), hfld, hsame]
      · rw [tailMoved_phase, hfld, hfld, hsame]
      · rw [tailMoved_cq, hcq]
      · rw [tailMoved_cq, hcq]
    · simp only [postHost_lost henable hbase hlink]
      rw [loseEntry_tail, loseEntry_count, Dev.updCq_fld, Dev.updCq_fld]
      exact ⟨loseEntry_hostMem _ _, rfl, rfl⟩

end Sys2Proof.Machine
end

section
/-! PROOFS. Instruction words and the decoder of tile instructions (R158, R159): O4. -/

namespace Sys2Proof.Machine

/-! ### Words -/

/-- The fields that issue reads from a word are those that encode it (R158). -/
theorem wordFields_instrWord {cls op : Nat} (f : Fields) (hcls : cls < 16) (hop : op < 256) :
    wordFields (instrWord cls op f) = (cls, op, f) := by
  obtain ⟨rd, ra, rb, rc, ext⟩ := f
  have hrd := rd.isLt
  have hra := ra.isLt
  have hrb := rb.isLt
  have hrc := rc.isLt
  have hext := ext.isLt
  have hword : (instrWord cls op ⟨rd, ra, rb, rc, ext⟩).toNat = ext.toNat + 2 ^ 32 * rc.toNat + 2 ^ 37 * rb.toNat + 2 ^ 42 * ra.toNat +
      2 ^ 47 * rd.toNat + 2 ^ 52 * op + 2 ^ 60 * cls := by
    simp only [instrWord, BitVec.toNat_ofNat, Nat.mod_eq_of_lt hcls, Nat.mod_eq_of_lt hop]
    omega
  simp only [wordFields, hword, bits, Prod.mk.injEq, Fields.mk.injEq, ← BitVec.toNat_inj, BitVec.toNat_ofNat]
  omega

/-! ### The decoder (R159, R164 to R187) -/

/-- The SCALAR instructions; the immediate form of an integer operation stands 0x80 above it (R164). -/
def scalarInstr (op : Nat) : Option (Nat → Fields → Instr) :=
  match op with
  | 0x00 => some (.add · false ·)
  | 0x01 => some (.sub · false ·)
  | 0x02 => some (.andI · false ·)
  | 0x03 => some (.orI · false ·)
  | 0x04 => some (.xor · false ·)
  | 0x05 => some (.sll · false ·)
  | 0x06 => some (.srl · false ·)
  | 0x07 => some (.sra · false ·)
  | 0x08 => some (.slt · false ·)
  | 0x09 => some (.sltu · false ·)
  | 0x0A => some (.mul · false ·)
  | 0x0B => some (.mulh · false ·)
  | 0x0C => some (.mulhu · false ·)
  | 0x0D => some (.div · false ·)
  | 0x0E => some (.divu · false ·)
  | 0x0F => some (.rem · false ·)
  | 0x10 => some (.remu · false ·)
  | 0x20 => some .faddS
  | 0x21 => some .fsubS
  | 0x22 => some .fmulS
  | 0x23 => some .fmaS
  | 0x24 => some .fdivS
  | 0x25 => some .fsqrtS
  | 0x26 => some .fminS
  | 0x27 => some .fmaxS
  | 0x28 => some .feqS
  | 0x29 => some .fltS
  | 0x2A => some .fleS
  | 0x30 => some .faddD
  | 0x31 => some .fsubD
  | 0x32 => some .fmulD
  | 0x33 => some .fmaD
  | 0x34 => some .fdivD
  | 0x35 => some .fsqrtD
  | 0x36 => some .fminD
  | 0x37 => some .fmaxD
  | 0x38 => some .feqD
  | 0x39 => some .fltD
  | 0x3A => some .fleD
  | 0x40 => some .fcvt
  | 0x80 => some (.add · true ·)
  | 0x81 => some (.sub · true ·)
  | 0x82 => some (.andI · true ·)
  | 0x83 => some (.orI · true ·)
  | 0x84 => some (.xor · true ·)
  | 0x85 => some (.sll · true ·)
  | 0x86 => some (.srl · true ·)
  | 0x87 => some (.sra · true ·)
  | 0x88 => some (.slt · true ·)
  | 0x89 => some (.sltu · true ·)
  | 0x8A => some (.mul · true ·)
  | 0x8B => some (.mulh · true ·)
  | 0x8C => some (.mulhu · true ·)
  | 0x8D => some (.div · true ·)
  | 0x8E => some (.divu · true ·)
  | 0x8F => some (.rem · true ·)
  | 0x90 => some (.remu · true ·)
  | 0x91 => some .lih
  | _ => none

def branchInstr (op : Nat) : Option (Nat → Fields → Instr) :=
  match op with
  | 0x00 => some .beq
  | 0x01 => some .bne
  | 0x02 => some .blt
  | 0x03 => some .bge
  | 0x04 => some .bltu
  | 0x05 => some .bgeu
  | 0x08 => some .jal
  | 0x09 => some .jr
  | 0x0F => some .endProg
  | _ => none

/-- The LDST instructions with no event of physics at their accesses. -/
def ldstInstr (op : Nat) : Option (Nat → Fields → Instr) :=
  match op with
  | 0x00 => some (.ld · · {})
  | 0x01 => some (.st · · {})
  | 0x02 => some (.ldt · · {})
  | 0x03 => some (.lds · · {})
  | 0x04 => some (.accld · · {})
  | 0x05 => some (.accst · · {})
  | 0x06 => some .cwb
  | _ => none

def vectorInstr (op : Nat) : Option (Nat → Fields → Instr) :=
  match op with
  | 0x00 => some .vadd
  | 0x01 => some .vsub
  | 0x02 => some .vmul
  | 0x03 => some .vfma
  | 0x04 => some .vmin
  | 0x05 => some .vmax
  | 0x06 => some .vceq
  | 0x07 => some .vclt
  | 0x08 => some .vcle
  | 0x09 => some .vsel
  | 0x0A => some .vand
  | 0x0B => some .vor
  | 0x0C => some .vxor
  | 0x0D => some .viadd
  | 0x10 => some .vexp2
  | 0x11 => some .vlog2
  | 0x12 => some .vrcp
  | 0x13 => some .vrsq
  | 0x18 => some .vbcast
  | 0x19 => some .vext
  | 0x1A => some .vins
  | 0x1B => some .vmov
  | 0x20 => some .vrsum
  | 0x21 => some .vrmax
  | 0x22 => some .vdot
  | 0x23 => some .vcvt
  | _ => none

def convertInstr (op : Nat) : Option (Nat → Fields → Instr) :=
  match op with
  | 0x00 => some .cvtb
  | 0x01 => some .dcvb
  | _ => none

/-- The ARRAY instructions; the checking lane of the MMA finds no mismatch. -/
def arrayInstr (op : Nat) : Option (Nat → Fields → Instr) :=
  match op with
  | 0x00 => some (.mma · · {} false)
  | 0x01 => some .accz
  | _ => none

def fabricInstr (op : Nat) : Option (Nat → Fields → Instr) :=
  match op with
  | 0x00 => some .send
  | 0x01 => some .rread
  | 0x02 => some .fillr
  | 0x03 => some .copyr
  | 0x04 => some .sig
  | _ => none

def syncInstr (op : Nat) : Option (Nat → Fields → Instr) :=
  match op with
  | 0x00 => some .waita
  | 0x01 => some .fpbar
  | 0x02 => some .ebar
  | 0x03 => some .nop
  | _ => none

def stateInstr (op : Nat) : Option (Nat → Fields → Instr) :=
  match op with
  | 0x00 => some .rdflg
  | 0x01 => some .clrflg
  | 0x02 => some .trapen
  | 0x03 => some .rdmax
  | 0x04 => some .clrmax
  | 0x05 => some .rdblk
  | 0x06 => some .clrblk
  | 0x07 => some .rdid
  | 0x10 => some .rdcyc
  | 0x11 => some .rdtime
  | 0x12 => some .rdarr
  | _ => none

def assistInstr (op : Nat) : Option (Nat → Fields → Instr) :=
  match op with
  | 0x00 => some .ricf
  | 0x01 => some .rics
  | _ => none

def attendInstr (op : Nat) : Option (Nat → Fields → Instr) :=
  match op with
  | 0x00 => some .pgreq
  | 0x01 => some .pgapp
  | _ => none

/-- The instruction of a class and operation, by tile and fields; none where undefined (R159). -/
def tileInstr (cls op : Nat) : Option (Nat → Fields → Instr) :=
  match cls with
  | 0x0 => scalarInstr op
  | 0x1 => branchInstr op
  | 0x2 => ldstInstr op
  | 0x3 => vectorInstr op
  | 0x4 => convertInstr op
  | 0x5 => arrayInstr op
  | 0x6 => fabricInstr op
  | 0x7 => syncInstr op
  | 0x8 => stateInstr op
  | 0x9 => assistInstr op
  | 0xA => attendInstr op
  | _ => none

/-- An instruction is, but for what comes to it from outside, the one that its class and operation decode to. -/
theorem tileInstr_of_tileOp {i : Instr} {t cls op : Nat} {f : Fields} (h : i.tileOp = some (t, cls, op, f)) :
    ∃ g, tileInstr cls op = some g ∧ i.ctorIdx = (g t f).ctorIdx := by
  cases i <;> simp only [Instr.tileOp, Option.some.injEq, Prod.mk.injEq, reduceCtorEq] at h
  all_goals obtain ⟨rfl, rfl, rfl, rfl⟩ := h
  case add | sub | andI | orI | xor | sll | srl | sra | slt | sltu | mul | mulh | mulhu | div | divu | rem | remu =>
    split <;> exact ⟨_, rfl, rfl⟩
  all_goals exact ⟨_, rfl, rfl⟩

/-- A class and operation that an instruction word can hold, that the manual defines, and as which the instructions of `g` encode. -/
def Spells (cls op : Nat) (g : Nat → Fields → Instr) : Prop :=
  cls < 16 ∧ op < 256 ∧ (opRule cls op).isSome = true ∧ ∀ t f, (g t f).tileOp = some (t, cls, op, f)

/-- What decodes is a class and operation that the manual defines, and encodes as them (R159). -/
theorem spells_of_tileInstr {cls op : Nat} {g : Nat → Fields → Instr} (h : tileInstr cls op = some g) : Spells cls op g := by
  unfold tileInstr at h
  split at h
  case h_12 => cases h
  all_goals
    simp only [scalarInstr, branchInstr, ldstInstr, vectorInstr, convertInstr, arrayInstr, fabricInstr, syncInstr, stateInstr,
      assistInstr, attendInstr] at h
    split at h <;> cases h <;> exact ⟨by decide, by decide, rfl, fun t f => rfl⟩

theorem scalarInstr_isSome {op : Nat} (h : (scalarRule op).isSome = true) : (scalarInstr op).isSome = true := by
  unfold scalarRule at h
  split at h
  case isTrue hint => interval_cases op <;> rfl
  split at h
  case isTrue himm =>
    have hop : 0x80 ≤ op ∧ op ≤ 0x91 := by omega
    obtain ⟨hlo, hhi⟩ := hop
    interval_cases op <;> rfl
  split at h
  case isTrue hcvt => exact hcvt ▸ rfl
  split at h
  case isTrue hfloat => obtain ⟨hlo, hhi⟩ | ⟨hlo, hhi⟩ := hfloat <;> interval_cases op <;> rfl
  case isFalse => cases h

/-- Every class and operation that the manual defines decodes (R159). -/
theorem tileInstr_isSome {cls op : Nat} (h : (opRule cls op).isSome = true) : (tileInstr cls op).isSome = true := by
  unfold opRule at h
  split at h
  case h_1 => exact scalarInstr_isSome h
  case h_12 => cases h
  all_goals
    simp only [branchRule, ldstRule, vectorRule, convertRule, arrayRule, fabricRule, syncRule, stateRule, assistRule, attendRule] at h
    split at h <;> simp [tileInstr, branchInstr, ldstInstr, vectorInstr, convertInstr, arrayInstr, fabricInstr, syncInstr, stateInstr,
      assistInstr, attendInstr] at h ⊢

/-- Settles O4: an instruction is the one that its class and operation decode to, and a class and operation decode where the manual defines
them. -/
theorem tileWordsReadBack : Obligations.TileWordsReadBack := by
  unfold Obligations.TileWordsReadBack
  refine ⟨fun i t cls op f hi => ?readBack, fun i j t cls op f hi hj => ?oneToOne, fun t cls op f hrule => ?covered⟩
  case readBack =>
    obtain ⟨g, hg, -⟩ := tileInstr_of_tileOp hi
    obtain ⟨hcls, hop, hrule, -⟩ := spells_of_tileInstr hg
    exact ⟨wordFields_instrWord f hcls hop, hrule⟩
  case oneToOne =>
    obtain ⟨g, hg, hctor⟩ := tileInstr_of_tileOp hi
    obtain ⟨g', hg', hctor'⟩ := tileInstr_of_tileOp hj
    obtain rfl : g = g' := Option.some.inj (hg.symm.trans hg')
    exact hctor.trans hctor'.symm
  case covered =>
    obtain ⟨g, hg⟩ := Option.isSome_iff_exists.mp (tileInstr_isSome hrule)
    obtain ⟨-, -, -, hspell⟩ := spells_of_tileInstr hg
    exact ⟨g t f, hspell t f⟩

end Sys2Proof.Machine
end

section
/-! PROOFS. Scalar integers (R94, R95, R164) and branches (R163, R165): O5 and O8. -/

namespace Sys2Proof.Machine

/-! ### Results on 64 bits (R95, R164) -/

theorem mul64_eq (a b : U64) : a * b = BitVec.ofNat 64 (a.toNat * b.toNat) := by
  apply BitVec.eq_of_toNat_eq
  rw [BitVec.toNat_mul, BitVec.toNat_ofNat]

/-- The high half of a signed product: division by a positive power of two rounds down whichever way it is written. -/
theorem mulhs64_eq (a b : U64) : mulhs64 a b = BitVec.ofInt 64 ((a.toInt * b.toInt) / 2 ^ 64) := by
  rw [mulhs64, Int.fdiv_eq_ediv_of_nonneg _ (by decide)]

section
variable {s : State} {t : Nat} {f : Fields}

/-- An integer operation completes with its result on xA and the second operand of its form (R164). -/
theorem scalarInt_done {op : Nat} {imm : Bool} {g r : U64 → U64 → U64} (hr : ∀ a b, g a b = r a b)
    (h : Issues s t 0x0 (if imm then op + 0x80 else op) f) :
    onDev (scalarInt t op imm f g) s = completes s t (s.dev.updTile t fun x => x.xw f.rd
      (r (x.xr f.ra) (if imm then f.ext.signExtend 64 else x.xr f.rb))) := by
  obtain rfl : g = r := funext₂ hr
  exact issue_done h rfl

/-- A conditional branch is taken where its condition holds (R165). -/
theorem branch_done {op : Nat} {p : U64 → U64 → Bool} {c : Prop} [Decidable c]
    (hc : p ((s.dev.tile t).xr f.ra) ((s.dev.tile t).xr f.rb) = true ↔ c) (h : Issues s t 0x1 op f) :
    onDev (branch t op f p) s = if decide c then jumps s t s.dev ((s.dev.tile t).pc + 8 * f.ext) else completes s t s.dev := by
  simp only [decide_eq_true_eq]
  split
  case isTrue htaken => exact issue_jump h (if_pos (hc.mpr htaken))
  case isFalse hnot => exact issue_done h (if_neg (hc.not.mpr hnot))

/-- JR with a target inside the code (R163, R165). -/
theorem jr_done (h : Issues s t 0x1 0x09 f) (halign : ((s.dev.tile t).xr f.ra).toNat % 8 = 0)
    (hcode : ((s.dev.tile t).xr f.ra).toNat / 8 < (s.dev.tile t).codeLen) :
    exec (.jr t f) s = jumps s t s.dev (((s.dev.tile t).xr f.ra).truncate 32) := by
  rw [exec_jr, execJr]
  exact issue_jump h (if_pos ⟨halign, hcode⟩)

end

/-! ### The two statements -/

/-- Settles O5: every operation has one form; signed and unsigned order, the product and its high half are those of the numbers. -/
theorem scalarIntegerResults : Obligations.ScalarIntegerResults := by
  unfold Obligations.ScalarIntegerResults
  intro s t imm f e he
  simp only [List.mem_cons, List.not_mem_nil, or_false] at he
  rcases he with rfl | rfl | rfl | rfl | rfl | rfl | rfl | rfl | rfl | rfl | rfl | rfl | rfl | rfl | rfl | rfl | rfl
  iterate 8 exact scalarInt_done fun _ _ => rfl
  · exact scalarInt_done fun a b => by simp only [BitVec.slt_iff_toInt_lt]
  · exact scalarInt_done fun a b => by simp only [BitVec.ult_iff_toNat_lt]
  · exact scalarInt_done mul64_eq
  · exact scalarInt_done mulhs64_eq
  all_goals exact scalarInt_done fun _ _ => rfl

/-- Settles O8: the six branches have one form; JAL and JR always jump. -/
theorem branchResults : Obligations.BranchResults := by
  unfold Obligations.BranchResults
  refine fun s t f => ⟨fun e he => ?branches, fun h => issue_jump h rfl, jr_done⟩
  simp only [List.mem_cons, List.not_mem_nil, or_false] at he
  rcases he with rfl | rfl | rfl | rfl | rfl | rfl
  · exact branch_done beq_iff_eq
  · exact branch_done bne_iff_ne
  · exact branch_done BitVec.slt_iff_toInt_lt
  · exact branch_done (by rw [Bool.not_eq_true', ← Bool.not_eq_true, BitVec.slt_iff_toInt_lt, Int.not_lt])
  · exact branch_done BitVec.ult_iff_toNat_lt
  · exact branch_done (by rw [Bool.not_eq_true', ← Bool.not_eq_true, BitVec.ult_iff_toNat_lt, Nat.not_lt])

end Sys2Proof.Machine
end

section
/-! PROOFS. ACCZ, MMA, RICF and RICS (R173 to R177, R205, R206, R556): O13. -/

namespace Sys2Proof.Machine

/-- Settles O13: the operands pass each instruction's own test, and the rows it names are ready. -/
theorem arrayAndRiccatiResults : Obligations.ArrayAndRiccatiResults := by
  unfold Obligations.ArrayAndRiccatiResults
  refine ⟨fun s t f => ⟨fun h hacc => ?accz, ?mma⟩, fun s t f => ⟨fun h hrsvd hpos hready hsound => ?ricf,
    fun h hready hsound hstore => ?rics⟩⟩
  case accz =>
    rw [exec_accz, execAccz]
    exact issue_done h (if_neg hacc.not_ge)
  case mma =>
    intro a fa fb mode h hacc x m c k ra rb hfa hfb hmode hrsvd hrsvd' hk hkmax hblock ha6 hb6 hpass hkeep reqs hready hsound
    rw [exec_mma, execMma]
    refine issue_done h ?_
    dsimp only
    rw [show efmtOf (mmaMode f.mode).fmtA = some fa from hfa, show efmtOf (mmaMode f.mode).fmtB = some fb from hfb]
    dsimp only
    rw [show dotMode fa fb (mmaMode f.mode).scaleA (mmaMode f.mode).scaleB = some mode from hmode]
    refine (if_neg ?_).trans (withRows_ready hready hsound)
    rintro (hbad | hbad | hbad | hbad | hbad | ⟨hside, hbad⟩ | ⟨hw, hbad⟩ | ⟨hw, hnew, hbad⟩ | ⟨hm, hbad⟩ | ⟨hm, hbad⟩ |
      ⟨hold, hbad⟩)
    · exact hacc.not_ge hbad
    · exact hbad hrsvd
    · exact hbad hrsvd'
    · exact Nat.ne_of_gt hk hbad
    · exact hkmax.not_gt hbad
    · exact hbad (hblock hside)
    · exact hbad (ha6 hw)
    · exact hbad (hb6 hw (by simpa using hnew))
    · exact hpass.mp hm hbad
    · exact hm (hpass.mpr hbad)
    · exact absurd (hkeep hold) (Bool.eq_false_iff.mp (by simpa using hbad))
  case ricf =>
    rw [exec_ricf, execRicf]
    refine issue_withRows h hready hsound (if_neg ?_) rfl
    exact not_or.mpr ⟨not_not.mpr hrsvd, hpos.not_gt⟩
  case rics =>
    rw [exec_rics, execRics]
    exact issue_withRows h hready hsound rfl (if_neg (by rw [hstore]; decide))

end Sys2Proof.Machine
end

section
/-! PROOFS. What the instructions without row accesses leave alone (R154, R158, R164 to R172, R178, R186): O16. -/

namespace Sys2Proof.Machine

/-! ### One tile -/

/-- The vector registers that an instruction of class `cls` may write: RD, and in CONVERT three registers from RD, and RC. -/
def vectorDest (cls : Nat) (f : Fields) (q : Nat) : Prop :=
  q = f.rd.toNat ∨ (cls = 0x4 ∧ (q = f.rc.toNat ∨ (f.rd.toNat ≤ q ∧ q < f.rd.toNat + 3)))

/-- `y` is the tile `x` but for the destination registers of an instruction of class `cls` and for the trap record. -/
structure DestsOnly (cls : Nat) (f : Fields) (x y : Tile) : Prop where
  rest : { y with x := x.x, v := x.v, acc := x.acc, trap := x.trap } = x
  scalar : ∀ q, q ≠ f.rd → y.xr q = x.xr q
  vector : ∀ q, ¬vectorDest cls f q → y.vr q = x.vr q
  array : ∀ q, ¬(cls = 0x5 ∧ q = f.rd.toNat) → y.ar q = x.ar q

section
variable {cls : Nat} {f : Fields} {x y z : Tile}

theorem DestsOnly.refl (x : Tile) : DestsOnly cls f x x := ⟨rfl, fun _ _ => rfl, fun _ _ => rfl, fun _ _ => rfl⟩

theorem DestsOnly.trans (h : DestsOnly cls f x y) (h' : DestsOnly cls f y z) : DestsOnly cls f x z where
  rest := by
    have hrest := h.rest
    rw [← h'.rest] at hrest
    exact hrest
  scalar q hq := (h'.scalar q hq).trans (h.scalar q hq)
  vector q hq := (h'.vector q hq).trans (h.vector q hq)
  array q hq := (h'.array q hq).trans (h.array q hq)

theorem DestsOnly.xw (h : DestsOnly cls f x y) (v : U64) : DestsOnly cls f x (y.xw f.rd v) := by
  refine h.trans ⟨?_, fun _ hq => ?_, fun _ _ => ?_, fun _ _ => ?_⟩
  · unfold Tile.xw
    split <;> rfl
  · rw [Tile.xr_xw, if_neg hq]
  · rw [Tile.vr, Tile.xw_v, Tile.vr]
  · rw [Tile.ar, Tile.xw_acc, Tile.ar]

theorem DestsOnly.vw (h : DestsOnly cls f x y) {r : Nat} (hr : vectorDest cls f r) (v : Row) : DestsOnly cls f x (y.vw r v) :=
  h.trans ⟨rfl, fun _ _ => rfl, fun _ hq => Tile.vr_vw_ne _ _ fun hqr => hq (hqr ▸ hr), fun _ _ => rfl⟩

theorem DestsOnly.vwList (h : DestsOnly cls f x y) (l : List Row) {r : Nat} (hr : ∀ k < l.length, vectorDest cls f (r + k)) :
    DestsOnly cls f x (y.vwList r l) := by
  induction l generalizing y r with
  | nil => exact h
  | cons v l ih =>
    refine ih (h.vw (hr 0 (Nat.zero_lt_succ _)) v) fun k hk => ?_
    have hnext := hr (k + 1) (Nat.succ_lt_succ hk)
    rwa [Nat.add_comm k, ← Nat.add_assoc] at hnext

@[simp] theorem natRows_length (n v : Nat) : (natRows n v).length = n := by
  induction n generalizing v with
  | zero => rfl
  | succ n ih => rw [natRows, List.length_cons, ih]

/-- A packed operand takes at most three registers (R172). -/
theorem natRows_packed_length (w v : Nat) : (natRows (packedRegs w) v).length ≤ 3 := by
  rw [natRows_length, packedRegs]
  split <;> decide

theorem DestsOnly.aw (h : DestsOnly 0x5 f x y) (v : Row) : DestsOnly 0x5 f x (y.aw f.rd.toNat v) :=
  h.trans ⟨rfl, fun _ _ => rfl, fun _ _ => rfl, fun _ hq => Tile.ar_aw_ne _ _ fun hqr => hq ⟨rfl, hqr⟩⟩

theorem DestsOnly.trap (h : DestsOnly cls f x y) (r : Option TrapRec) : DestsOnly cls f x { y with trap := r } :=
  h.trans ⟨rfl, fun _ _ => rfl, fun _ _ => rfl, fun _ _ => rfl⟩

end

/-! ### The device -/

/-- The field lies in its tile's format, flag and trap group (R48, R82). -/
def Fld.inFloatGroup (g : Fld) : Bool :=
  decide (g.stride = 0x400 ∧ 0x40100 ≤ g.base ∧ g.base + 4 * b2n g.wide + 4 ≤ 0x40168)

/-- `e` is `d` but for the destination registers and the trap record of tile `t`, and for the registers of its format, flag and trap
group. -/
structure RegistersOnly (t cls : Nat) (f : Fields) (d e : Dev) : Prop where
  others : SameOtherTiles d e t
  beside : SameBesideTilesRegs d e
  words : ∀ o, o < 0x40100 + 0x400 * t ∨ 0x40168 + 0x400 * t ≤ o → bankWord e.regs o = bankWord d.regs o
  dests : DestsOnly cls f (d.tile t) (e.tile t)

section
variable {t cls : Nat} {f : Fields} {d e : Dev}

theorem RegistersOnly.refl (d : Dev) : RegistersOnly t cls f d d := ⟨fun _ _ => rfl, rfl, fun _ _ => rfl, .refl _⟩

/-- A change of registers of the group. -/
theorem RegistersOnly.regs (h : RegistersOnly t cls f d e) {b : Bank}
    (hb : ∀ o, o < 0x40100 + 0x400 * t ∨ 0x40168 + 0x400 * t ≤ o → bankWord b o = bankWord e.regs o) :
    RegistersOnly t cls f d { e with regs := b } :=
  ⟨h.others, h.beside, fun o ho => (hb o ho).trans (h.words o ho), h.dests⟩

theorem RegistersOnly.setFld (h : RegistersOnly t cls f d e) {g : Fld} (hg : g.inFloatGroup = true) (v : Nat) :
    RegistersOnly t cls f d (e.setFld g v t) := by
  obtain ⟨hstride, hlo, hhi⟩ := of_decide_eq_true hg
  refine h.regs fun o ho => Dev.setFld_word_ne e g t v ?_ fun hwide => ?_
  · rw [hstride]
    omega
  · rw [hwide] at hhi
    simp only [b2n, if_true] at hhi
    rw [hstride]
    omega

theorem RegistersOnly.setTile (h : RegistersOnly t cls f d e) {y : Tile} (hy : DestsOnly cls f (d.tile t) y) :
    RegistersOnly t cls f d (e.setTile t y) :=
  ⟨fun k hk => (Dev.tile_setTile_ne e y hk).trans (h.others k hk), h.beside, h.words, (Dev.tile_setTile_self e t y).symm ▸ hy⟩

theorem RegistersOnly.incFld (h : RegistersOnly t cls f d e) {g : Fld} (hg : g.inFloatGroup = true) (n : Nat) :
    RegistersOnly t cls f d (e.incFld g t n) := h.setFld hg _

theorem RegistersOnly.setIf (h : RegistersOnly t cls f d e) (c : Bool) {g : Fld} (hg : g.inFloatGroup = true) (v : Nat) :
    RegistersOnly t cls f d (e.setIf c g v t) := by
  unfold Dev.setIf
  split
  · exact h.setFld hg v
  · exact h

/-- CLRFLG writes TILE_FP_FLAGS alone (R186). -/
theorem RegistersOnly.clearedFlags (h : RegistersOnly t cls f d e) (v : U32) :
    RegistersOnly t cls f d { e with regs := bankSet e.regs (rTileFpFlags + 0x400 * t) v } :=
  h.regs fun o ho => bankWord_set_ne _ _ (by rw [rTileFpFlags]; omega)

/-- CLRMAX writes running maxima alone (R186). -/
theorem RegistersOnly.clearedMaxima (h : RegistersOnly t cls f d e) (mask : Nat) : RegistersOnly t cls f d (clearMaxima e t mask) := by
  rw [clearMaxima_eq, clearMaximums_only_regs]
  refine h.regs fun o ho => clearMaximums_word _ _ _ _ _ fun n hn => ?_
  have hlt : n < 8 := List.mem_range.mp hn
  rw [rTileRunmax0]
  omega

theorem RegistersOnly.trapRec (h : RegistersOnly t cls f d e) (r : TrapRec) : RegistersOnly t cls f d (trapRecorded e t r) := by
  unfold trapRecorded Dev.updTile
  iterate 6 refine RegistersOnly.setFld ?_ (by decide) _
  exact h.setTile (h.dests.trap _)

theorem RegistersOnly.flags (h : RegistersOnly t cls f d e) (elems : List ElemFx) :
    RegistersOnly t cls f d (flagsNoted e t elems) := by
  unfold flagsNoted flagsMerged
  iterate 7 refine RegistersOnly.setFld ?_ (by decide) _
  exact h

/-- Raising flags merges them, and may record a trap (R80, R84). -/
theorem raise_cases (d : Dev) (t : Nat) (elems : List ElemFx) :
    raise d t elems = flagsNoted d t elems ∨ ∃ r, raise d t elems = trapRecorded (flagsNoted d t elems) t r := by
  unfold raise
  dsimp only
  split
  case h_1 => exact .inl rfl
  case h_2 =>
    cases htrap : ((flagsNoted d t elems).tile t).trap with
    | none => exact .inr ⟨_, recordTrap_of_none htrap⟩
    | some p => exact .inl (recordTrap_of_some htrap)

theorem RegistersOnly.raised (h : RegistersOnly t cls f d e) (elems : List ElemFx) : RegistersOnly t cls f d (raise e t elems) := by
  obtain hraise | ⟨r, hraise⟩ := raise_cases e t elems
  · exact hraise ▸ h.flags elems
  · exact hraise ▸ (h.flags elems).trapRec r

theorem RegistersOnly.blocksNoted (h : RegistersOnly t cls f d e) {rmx : Nat} (hrmx : rmx < 8) (src : Fmt) (codes : List Nat)
    (rs : List BlockRes) : RegistersOnly t cls f d (noteBlocks e t rmx src codes rs) := by
  unfold noteBlocks
  refine RegistersOnly.setFld ?_ ?_ _
  · have hcount := (h.incFld (g := tileFmtUflowBlockUnderflow) (by decide) ((rs.map (·.under)).foldl (· + ·) 0)).incFld
      (g := tileFmtSatBlockSaturate) (by decide) ((rs.map (·.sat)).foldl (· + ·) 0)
    split
    · exact hcount.setFld (by decide) _
    · exact hcount
  · interval_cases rmx <;> decide

end

/-! ### Issue -/

/-- An instruction without row accesses is illegal, or completes or jumps with its destinations changed only. -/
def Issue.registersOnly (t cls : Nat) (f : Fields) (d : Dev) : Issue → Prop
  | .done e => RegistersOnly t cls f d e
  | .jump e _ => RegistersOnly t cls f d e
  | .stall _ => False
  | .illegal => True
  | .trap => False

section
variable {t cls op : Nat} {f : Fields} {d e : Dev}

/-- Moving on changes the tile's program counter, ordinal, stall and times (R82). -/
theorem advance_tile (d0 d : Dev) (t : Nat) (pc : Option U32) : ∃ p r, (advance d0 d t pc).tile t =
    { d.tile t with pc := p, ordinal := (d.tile t).ordinal + 1, stall := none, pace := r } :=
  ⟨_, _, Dev.tile_updTile_self _ _ _⟩

/-- What the obligation asks of the next device, once the tile has moved on to its next instruction. -/
theorem RegistersOnly.advanced (h : RegistersOnly t cls f d e) (pc : Option U32) :
    let x := d.tile t
    let g := advance d e t pc
    let y := g.tile t
    SameOtherTiles d g t ∧ SameBesideTilesRegs d g ∧
    (∀ o, o < 0x40100 + 0x400 * t ∨ 0x40168 + 0x400 * t ≤ o → bankWord g.regs o = bankWord d.regs o) ∧
    { y with x := x.x, v := x.v, acc := x.acc, pc := x.pc, ordinal := x.ordinal, trap := x.trap, stall := x.stall,
             pace := x.pace } = x ∧
    y.ordinal = x.ordinal + 1 ∧ y.stall = none ∧
    (∀ q : BitVec 5, q ≠ f.rd → y.xr q = x.xr q) ∧
    (∀ q, q ≠ f.rd.toNat → ¬(cls = 0x4 ∧ (q = f.rc.toNat ∨ (f.rd.toNat ≤ q ∧ q < f.rd.toNat + 3))) → y.vr q = x.vr q) ∧
    (∀ q, ¬(cls = 0x5 ∧ q = f.rd.toNat) → y.ar q = x.ar q) := by
  obtain ⟨hothers, hbeside, hwords, hrest, hscalar, hvector, harray⟩ := h
  obtain ⟨p, r, htile⟩ := advance_tile d e t pc
  dsimp only
  rw [htile]
  refine ⟨fun k hk => (Dev.tile_updTile_ne _ _ hk).trans (hothers k hk), hbeside, hwords, ?_, ?_, rfl, hscalar,
    fun q hq hq' => hvector q (not_or.mpr ⟨hq, hq'⟩), harray⟩
  · exact congrArg (fun y : Tile => { y with pc := (d.tile t).pc, ordinal := (d.tile t).ordinal, stall := (d.tile t).stall,
                                             pace := (d.tile t).pace }) hrest
  · exact congrArg (fun x => x.ordinal + 1) hrest

/-- Nothing waits at the ingress, before the instruction or after. -/
theorem RegistersOnly.quiet (h : RegistersOnly t cls f d e) (hq : QuietIngress d t) (pc : Option U32) :
    QuietIngress (advance d e t pc) t := by
  obtain ⟨p, r, htile⟩ := advance_tile d e t pc
  obtain ⟨hheld, hbacklog⟩ := hq
  rw [QuietIngress, htile]
  exact ⟨(congrArg Tile.held h.dests.rest).trans hheld, (congrArg Tile.backlog h.dests.rest).trans hbacklog⟩

end

/-! ### What each form of instruction does -/

section
variable {t cls : Nat} {f : Fields} {d : Dev}

theorem Issue.registersOnly_xw (v : U64) : (Issue.done (d.setTile t ((d.tile t).xw f.rd v))).registersOnly t cls f d :=
  (RegistersOnly.refl d).setTile ((DestsOnly.refl _).xw v)

theorem Issue.registersOnly_xw_raise (v : U64) (elems : List ElemFx) :
    (Issue.done (raise (d.setTile t ((d.tile t).xw f.rd v)) t elems)).registersOnly t cls f d :=
  ((RegistersOnly.refl d).setTile ((DestsOnly.refl _).xw v)).raised elems

theorem Issue.registersOnly_vw (v : Row) : (Issue.done (d.setTile t ((d.tile t).vw f.rd.toNat v))).registersOnly t cls f d :=
  (RegistersOnly.refl d).setTile ((DestsOnly.refl _).vw (.inl rfl) v)

theorem Issue.registersOnly_vw_raise (v : Row) (elems : List ElemFx) :
    (Issue.done (raise (d.setTile t ((d.tile t).vw f.rd.toNat v)) t elems)).registersOnly t cls f d :=
  ((RegistersOnly.refl d).setTile ((DestsOnly.refl _).vw (.inl rfl) v)).raised elems

theorem Issue.registersOnly_ite {c : Prop} [Decidable c] {a b : Issue} (ha : a.registersOnly t cls f d)
    (hb : b.registersOnly t cls f d) : (if c then a else b).registersOnly t cls f d := by
  split
  · exact ha
  · exact hb

end

/-- The instructions that the statement names: SCALAR, VECTOR, CONVERT, STATE, BRANCH but END, ACCZ and NOP. -/
def registerClass (cls op : Nat) : Prop :=
  cls = 0x0 ∨ cls = 0x3 ∨ cls = 0x4 ∨ cls = 0x8 ∨ (cls = 0x1 ∧ op ≠ 0x0F) ∨ (cls = 0x5 ∧ op = 0x01) ∨ (cls = 0x7 ∧ op = 0x03)

/-- Each of them is an issue that is illegal, or changes its destinations and the group's registers only. -/
theorem exec_registersOnly {i : Instr} {t cls op : Nat} {f : Fields} (s : State) (h : i.tileOp = some (t, cls, op, f))
    (hcls : registerClass cls op) :
    ∃ body, exec i s = onDev (issue t cls op f body) s ∧ (body s.dev).registersOnly t cls f s.dev := by
  unfold registerClass at hcls
  cases i <;> simp only [Instr.tileOp, Option.some.injEq, Prod.mk.injEq, reduceCtorEq] at h
  all_goals obtain ⟨rfl, rfl, rfl, rfl⟩ := h
  case ld | st | ldt | lds | accld | accst | cwb | endProg | mma | waita | fpbar | ebar | send | rread | fillr | copyr | sig |
      ricf | rics | pgreq | pgapp => exact absurd hcls (by decide)
  case add | sub | andI | orI | xor | sll | srl | sra | slt | sltu | mul | mulh | mulhu | div | divu | rem | remu | lih | vext |
      rdflg | rdmax | rdid | rdcyc | rdtime | rdarr => exact ⟨_, rfl, Issue.registersOnly_xw _⟩
  case faddS | fsubS | fmulS | fmaS | fdivS | fsqrtS | fminS | fmaxS | feqS | fltS | fleS | faddD | fsubD | fmulD | fmaD | fdivD |
      fsqrtD | fminD | fmaxD | feqD | fltD | fleD | vrsum | vrmax => exact ⟨_, rfl, Issue.registersOnly_xw_raise _ _⟩
  case vsel | vand | vor | vxor | viadd | vbcast | vins | vmov => exact ⟨_, rfl, Issue.registersOnly_vw _⟩
  case vadd | vsub | vmul | vfma | vmin | vmax | vceq | vclt | vcle | vexp2 | vlog2 | vrcp | vrsq =>
    exact ⟨_, rfl, Issue.registersOnly_vw_raise _ _⟩
  case beq | bne | blt | bge | bltu | bgeu =>
    exact ⟨_, rfl, Issue.registersOnly_ite (RegistersOnly.refl _) (RegistersOnly.refl _)⟩
  case jal => exact ⟨_, rfl, (RegistersOnly.refl s.dev).setTile ((DestsOnly.refl _).xw _)⟩
  case jr => exact ⟨_, rfl, Issue.registersOnly_ite (RegistersOnly.refl _) trivial⟩
  case nop => exact ⟨_, rfl, RegistersOnly.refl _⟩
  case accz => exact ⟨_, rfl, Issue.registersOnly_ite trivial ((RegistersOnly.refl s.dev).setTile ((DestsOnly.refl _).aw _))⟩
  case trapen => exact ⟨_, rfl, (RegistersOnly.refl s.dev).setFld (by decide) _⟩
  case clrblk =>
    exact ⟨_, rfl, (((RegistersOnly.refl s.dev).setIf _ (by decide) _).setIf _ (by decide) _).setIf _ (by decide) _⟩
  case clrflg => exact ⟨_, rfl, (RegistersOnly.refl s.dev).clearedFlags _⟩
  case clrmax => exact ⟨_, rfl, (RegistersOnly.refl s.dev).clearedMaxima _⟩
  case rdblk =>
    refine ⟨_, rfl, ?_⟩
    split
    iterate 3 exact Issue.registersOnly_xw _
    trivial
  case fcvt =>
    refine ⟨_, rfl, ?_⟩
    split
    · split
      · exact Issue.registersOnly_xw_raise _ _
      · trivial
    · trivial
  case vdot =>
    refine ⟨_, rfl, ?_⟩
    dsimp only
    split
    · split
      · trivial
      · exact Issue.registersOnly_ite trivial (Issue.registersOnly_xw_raise _ _)
    · trivial
  case vcvt =>
    refine ⟨_, rfl, ?_⟩
    dsimp only
    split
    · exact Issue.registersOnly_ite trivial (Issue.registersOnly_vw_raise _ _)
    · trivial
  case dcvb =>
    refine ⟨_, rfl, ?_⟩
    dsimp only
    split
    · exact Issue.registersOnly_ite trivial (Issue.registersOnly_vw_raise _ _)
    · trivial
  case cvtb =>
    refine ⟨_, rfl, ?_⟩
    dsimp only
    split
    · refine Issue.registersOnly_ite trivial (RegistersOnly.raised (RegistersOnly.blocksNoted
        ((RegistersOnly.refl s.dev).setTile (((DestsOnly.refl _).vwList _ fun k hk => ?_).vw (.inr ⟨rfl, .inl rfl⟩) _))
        (bits_lt _ _ _) _ _ _) _)
      exact .inr ⟨rfl, .inr ⟨Nat.le_add_right _ _, Nat.add_lt_add_left (hk.trans_le (natRows_packed_length _ _)) _⟩⟩
    · trivial

/-- Settles O16: an instruction without row accesses is illegal, or leaves issue with its destinations changed only; moving on to the next
instruction then changes the tile's own times and counts. -/
theorem registerInstructionFrame : Obligations.RegisterInstructionFrame := by
  unfold Obligations.RegisterInstructionFrame
  intro i s u t cls op f hi hcls hissues hquiet hnext
  obtain ⟨body, hexec, hbody⟩ := exec_registersOnly s hi hcls
  injection hexec.symm.trans hnext with hu
  rw [issue_eq hissues] at hu
  generalize body s.dev = b at hu hbody
  cases b with
  | done e =>
    dsimp only at hu
    rw [settle_quiet (RegistersOnly.quiet hbody hquiet none)] at hu
    subst hu
    exact .inr ⟨⟨rfl, rfl⟩, RegistersOnly.advanced hbody none⟩
  | jump e pc =>
    subst hu
    exact .inr ⟨⟨rfl, rfl⟩, RegistersOnly.advanced hbody (some pc)⟩
  | illegal => exact .inl hu.symm
  | stall | trap => exact False.elim hbody

end Sys2Proof.Machine
end

section
/-! PROOFS. PGREQ, PGAPP and missed entries that come back (R187, R277 to R283, R448): O31. -/

namespace Sys2Proof.Machine

/-- The class of a tile's work depends on the tile's job and on the jobs alone (R287). -/
theorem tileDeadline_congr {d e : Dev} {t : Nat} (hjob : (e.tile t).job = (d.tile t).job) (hjobs : e.jobs = d.jobs) :
    tileDeadline e t = tileDeadline d t := by
  simp only [tileDeadline, deadlineClass, Dev.job, hjob, hjobs]
  rfl

/-- Starting an operation leaves the class of the tile's work. -/
theorem tileDeadline_startOp (d : Dev) (t : Nat) (ack : Option Nat) : tileDeadline (startOp d t ack).1 t = tileDeadline d t :=
  tileDeadline_congr (by rw [startOp, Dev.tile_updTile_self]; rfl) rfl

/-- A page request is served from the look-aside buffer where it holds the entry, and misses otherwise (R277). -/
theorem requestPage_eq (d : Dev) (l : Lookup) : requestPage d l =
    if (l.seq, l.idx) ∈ d.attn.lab then serveLookup (labLookup d l.seq l.idx).1 l else missLookup (d.attnCount 1) l := by
  simp only [requestPage, List.contains_iff_mem]

/-- A missed entry that nothing waits for and the buffer does not hold changes nothing. -/
theorem missReturn_idle {d : Dev} {q i : Nat} {u : Bool}
    (hnone : (d.attn.lookups.filter fun l => !l.waiting && l.seq = q && l.idx = i) = [])
    (hlab : (q, i) ∉ d.attn.lab) : missReturn q i u d = d := by
  simp [missReturn, hnone, hlab]

/-- Settles O31: PGREQ and PGAPP pass their tests and begin their operation, which leaves the class of the tile's work; a missed entry comes
back to the lookups that wait for it. -/
theorem walkerResults : Obligations.WalkerResults := by
  unfold Obligations.WalkerResults
  refine fun s t f r n => ⟨fun hlocal hfree h hfour hvalid hkind hrows => ?pgreq, fun hlocal hfree h hready hsound => ?pgapp,
    fun q i u => ⟨fun hsome => ?served, fun hnone hlab => ?idle⟩⟩
  case pgreq =>
    rw [exec_pgreq, execPgreq, ← requestPage_eq]
    refine issue_done h ?_
    rw [if_neg (by simp [hfree, hfour]), hlocal, ← tileDeadline_startOp s.dev t none]
    exact if_neg (by simp [hvalid, hkind, hrows])
  case pgapp =>
    rw [exec_pgapp, execPgapp]
    refine issue_done h ?_
    rw [if_neg hfree.not_ge, hlocal]
    exact withRows_ready hready hsound
  case served =>
    rw [exec_walkerMissReturn, execWalkerMissReturn, onDev_next, missReturn, if_neg hsome]
    rfl
  case idle =>
    rw [exec_walkerMissReturn, execWalkerMissReturn, onDev, missReturn_idle hnone hlab]

end Sys2Proof.Machine
end

section
/-! PROOFS. What releases a waiting job (R222, R350 to R352, R365): O26. -/

namespace Sys2Proof.Machine

section
variable {d : Dev} {j : Nat} {x : Job}

theorem Dev.job_id (hj : d.job j = some x) : x.id = j := by simpa using List.find?_some hj

/-! ### Start counts, fences and previous jobs (R350, R365) -/

/-- A job whose start count the global count has reached waits for it no longer (R350). -/
theorem startAtCount_of_wait (hj : d.job j = some x) (hwait : x.waitCount = true) : startAtCount j d =
    if x.desc.startCount ≤ d.gcount then proceed admitJob runJob j (d.updJob j fun y => { y with waitCount := false }) else d := by
  simp only [startAtCount, hj, hwait, Bool.true_and, decide_eq_true_eq]

/-- A FENCE at work is done once every job ahead of it is (R365). -/
theorem fenceRelease_of_job (hj : d.job j = some x) : fenceRelease j d =
    if x.desc.opcode = opFence ∧ x.phase = .running ∧ x.after = [] then releaseFence (endJob d j stDone) j else d := by
  simp only [fenceRelease, hj, Bool.and_eq_true, decide_eq_true_eq, and_assoc]

theorem afterPrevRelease_of_done {k st : Nat} (hj : d.job j = some x) (hprev : x.waitPrev = some k) (hdone : x.prevDone = some st) :
    afterPrevRelease j d =
      let e := d.updJob j fun y => { y with waitPrev := none }
      if st = stDone then proceed admitJob runJob j e else endJob e j stAborted 0xFE := by
  simp only [afterPrevRelease, hj, hprev, hdone]

/-! ### Ring jobs (R351, R352) -/

theorem goJob_of_job (hj : d.job j = some x) : goJob d j =
    let e := if 1000 * x.desc.startCount < d.now then d.forCount 5 else d
    proceed admitJob runJob j (e.updJob j fun y =>
      { y with waitGo := false, waitCount := y.waitCount && decide (d.gcount < x.desc.startCount) }) := by
  simp only [goJob, hj, decide_eq_true_eq]
  split <;> rfl

/-- What module `m`'s answer makes of the ring job (R351). -/
def Job.answered (m : Nat) (a : RingAnswer) (y : Job) : Job :=
  { y with ringWait := y.ringWait.filter (· ≠ m), ringRefused := y.ringRefused || a ≠ .admitted
           cause := match a with
             | .refused c => if y.ringRefused then y.cause else c
             | _ => y.cause
           status := if a = .noImage then stInvalid else y.status }

theorem Job.answered_id (m : Nat) (a : RingAnswer) (y : Job) : (y.answered m a).id = y.id := rfl

theorem Job.answered_admitted (m : Nat) :
    Job.answered m .admitted = fun y => { y with ringWait := y.ringWait.filter (· ≠ m) } := by
  funext y
  simp [Job.answered]

theorem Job.answered_refused (m c : Nat) : Job.answered m (.refused c) = fun y =>
    { y with ringWait := y.ringWait.filter (· ≠ m), ringRefused := true, cause := if y.ringRefused then y.cause else c } := by
  funext y
  simp [Job.answered]

/-- The answer of the last module decides: the job ends, is refused, or goes on every module (R351). -/
theorem ringAnswer_of_last {m : Nat} {tag : U64} (a : RingAnswer) (hj : d.job j = some x) (hring : ringJobOf d tag true = some x)
    (hlast : x.ringWait = [m]) : ringAnswer m tag a d =
      let e := d.updJob j (Job.answered m a)
      let y := x.answered m a
      if y.status = stInvalid then endJob e j stInvalid
      else if y.ringRefused then closeSolve j (refuseJob e j y.cause)
      else goJob (toRing e 3 x.desc.tag []) j := by
  have hanswered : (d.updJob j (Job.answered m a)).job j = some (x.answered m a) := by
    rw [Dev.job_updJob_self d j _ (Job.answered_id m a), hj, Option.map_some]
  have hin : (x.answered m a).ringWait = [] := by simp [Job.answered, hlast]
  unfold ringAnswer
  rw [hring]
  dsimp only
  rw [if_neg (by simp [hlast]), Dev.job_id hj]
  split
  next hnone => exact absurd (hanswered.symm.trans hnone) nofun
  next y hy =>
    obtain rfl : x.answered m a = y := Option.some.inj (hanswered.symm.trans hy)
    rw [if_neg (not_not.mpr hin)]
    rfl

/-! ### Re-execution (R222) -/

/-- Without a suspect problem Forester decides on the job's own fault (R222). -/
theorem jobReexecute_of_fault {st : Nat} (hj : d.job j = some x) (hsuspect : suspectOf d j = none) (hfault : x.fault = some st)
    (hphase : x.phase = .running) : jobReexecute j d =
      if bit x.flags 2 || !jobPlaced d x then endJob d j st
      else if tilesPending d x then d
      else if slackTest x.deadline (declaredNs d j) d.now then restartJob d j
      else endJob d j st := by
  simp only [jobReexecute, hsuspect, hj, hfault]
  exact if_neg (not_not.mpr hphase)

end

/-- Settles O26: what each command does with the job it finds is said once; the conditions of the statement choose the branch. -/
theorem jobReleaseResults : Obligations.JobReleaseResults := by
  unfold Obligations.JobReleaseResults
  intro s j x hj
  refine ⟨fun hwait hcount => ?count, fun hwait hcount => ?early, fun hop hphase hafter => ?fence, fun _ hafter => ?ahead,
    fun k st hprev hdone => ?previous, fun tag hring => ⟨?go, ?cancel⟩,
    fun m tag hring hlast hrefused hstatus _ => ⟨?admitted, fun c => ?refused⟩,
    fun st hsuspect hfault hphase => ⟨fun hbit => ?twice, fun hbit hplaced hpending hslack => ?again⟩⟩
  case count =>
    rw [exec_jobStartAtCount, execJobStartAtCount, onDev_next, startAtCount_of_wait hj hwait, if_pos hcount]
    rfl
  case early => rw [exec_jobStartAtCount, execJobStartAtCount, onDev_next, startAtCount_of_wait hj hwait, if_neg hcount.not_ge]
  case fence =>
    rw [exec_fenceRelease, execFenceRelease, onDev_next, fenceRelease_of_job hj, if_pos ⟨hop, hphase, hafter⟩]
    rfl
  case ahead => rw [exec_fenceRelease, execFenceRelease, onDev_next, fenceRelease_of_job hj, if_neg fun h => hafter h.2.2]
  case previous =>
    rw [exec_afterPrevRelease, execAfterPrevRelease, onDev_next, afterPrevRelease_of_done hj hprev hdone]
    rfl
  case go =>
    rw [exec_ringJobGo, execRingJobGo, onDev_next, hring]
    dsimp only
    rw [goJob_of_job ((Dev.job_id hj).symm ▸ hj)]
    rfl
  case cancel =>
    rw [exec_ringJobCancel, execRingJobCancel, onDev_next, hring]
    rfl
  case admitted =>
    have hvalid : ¬(x.answered m .admitted).status = stInvalid := by
      rw [Job.answered_admitted]
      exact hstatus ▸ by decide
    have haccepted : ¬(x.answered m .admitted).ringRefused = true := by
      rw [Job.answered_admitted]
      exact hrefused ▸ Bool.false_ne_true
    rw [exec_ringJobAnswer, execRingJobAnswer, onDev_next, ringAnswer_of_last _ hj hring hlast]
    dsimp only
    rw [if_neg hvalid, if_neg haccepted, Job.answered_admitted]
    rfl
  case refused =>
    have hvalid : ¬(x.answered m (.refused c)).status = stInvalid := by
      rw [Job.answered_refused]
      exact hstatus ▸ by decide
    have hcause : (x.answered m (.refused c)).cause = c := by simp [Job.answered_refused, hrefused]
    rw [exec_ringJobAnswer, execRingJobAnswer, onDev_next, ringAnswer_of_last _ hj hring hlast]
    dsimp only
    rw [if_neg hvalid, if_pos (by rw [Job.answered_refused]), hcause, Job.answered_refused]
    rfl
  case twice =>
    rw [exec_jobReexecute, execJobReexecute, jobReexecute_of_fault hj hsuspect hfault hphase, if_pos (by rw [hbit, Bool.true_or])]
  case again =>
    rw [exec_jobReexecute, execJobReexecute, jobReexecute_of_fault hj hsuspect hfault hphase, if_neg (by simp [hbit, hplaced]),
      if_neg (by simp [hpending]), if_pos hslack]

end Sys2Proof.Machine
end

section
/-! PROOFS. The run of a solve problem and its certification (R199, R207 to R224): O30. -/

namespace Sys2Proof.Machine

/-! ### What leaves the problems, the jobs and the time alone -/

section
variable {d e : Dev} {j i : Nat}

theorem SameBesideTilesRegs.trans {g : Dev} (h : SameBesideTilesRegs d e) (h' : SameBesideTilesRegs e g) :
    SameBesideTilesRegs d g := by
  unfold SameBesideTilesRegs at h
  rw [← h'] at h
  exact h

theorem SameBesideTilesRegs.foldl {γ : Type} {f : Dev → γ → Dev} (hf : ∀ d c, SameBesideTilesRegs d (f d c)) (l : List γ)
    (d : Dev) : SameBesideTilesRegs d (l.foldl f d) :=
  List.foldlRecOn l f (motive := SameBesideTilesRegs d) rfl fun _ he _ _ => he.trans (hf _ _)

theorem SameBesideTilesRegs.prob (h : SameBesideTilesRegs d e) (j i : Nat) : e.prob j i = d.prob j i := by
  rw [← h]
  rfl

theorem SameBesideTilesRegs.job (h : SameBesideTilesRegs d e) (j : Nat) : e.job j = d.job j := by
  rw [← h]
  rfl

theorem SameBesideTilesRegs.now (h : SameBesideTilesRegs d e) : e.now = d.now := by
  rw [← h]
  rfl

/-- The two devices agree in everything but what memory holds. -/
def SameBesideMemory (d e : Dev) : Prop := { e with hostMem := d.hostMem, mem := d.mem, poison := d.poison } = d

theorem SameBesideMemory.prob (h : SameBesideMemory d e) (j i : Nat) : e.prob j i = d.prob j i := by
  rw [← h]
  rfl

theorem SameBesideMemory.now (h : SameBesideMemory d e) : e.now = d.now := by
  rw [← h]
  rfl

theorem stopTile_beside (d : Dev) (t : Nat) : SameBesideTilesRegs d (stopTile d t) := by
  unfold stopTile
  split <;> rfl

theorem freeTiles_beside (d : Dev) (ts : List Nat) : SameBesideTilesRegs d (freeTiles d ts) := by
  refine SameBesideTilesRegs.foldl (fun d t => ?_) ts d
  dsimp only
  split <;> rfl

theorem mergeTiles_beside (d : Dev) (p : Problem) (fl : Nat → Fl) : SameBesideTilesRegs d (mergeTiles d p fl) := by
  refine SameBesideTilesRegs.foldl (fun d e => ?_) _ d
  rfl

theorem mergePts_beside (d : Dev) (p : Problem) (l : List (Pt × Fl)) : SameBesideTilesRegs d (mergePts d p l) := by
  unfold mergePts
  split
  · rfl
  · exact mergeTiles_beside _ _ _

theorem startTile_beside (d : Dev) (t : Nat) (x : Job) (pc : U32) (vendor : Bool) :
    SameBesideTilesRegs d (startTile d t x pc vendor) := rfl

/-! ### Problems -/

theorem Dev.prob_key {p : Problem} (h : d.prob j i = some p) : p.job = j ∧ p.idx = i := by simpa using List.find?_some h

/-- A change of problem `i` of job `j` that keeps its numbers changes what is known as that problem. -/
theorem Dev.prob_updProb_self (d : Dev) (j i : Nat) (f : Problem → Problem)
    (hf : ∀ p, p.job = j → p.idx = i → (f p).job = j ∧ (f p).idx = i) : (d.updProb j i f).prob j i = (d.prob j i).map f := by
  simp only [Dev.prob, Dev.updProb]
  induction d.solv.problems with
  | nil => rfl
  | cons p l ih =>
    by_cases hp : p.job = j ∧ p.idx = i
    · simp [hp, hf p hp.1 hp.2]
    · simpa [hp] using ih

end

/-! ### A problem starts (R199, R218) -/

/-- Tile `t` runs for job `j` (R151). -/
def RunsFor (d : Dev) (j t : Nat) : Prop := (d.tile t).job = some j ∧ d.fld tileStateState t = tsRunning

theorem TilesUnaware.runsFor {d e : Dev} {j t : Nat} (h : TilesUnaware d e) (hr : RunsFor d j t) : RunsFor e j t := by
  rw [RunsFor, h.tile, h.fld _ _ (by decide)]
  exact hr

/-- Words outside the zeroed ones stay. -/
theorem zeroWords_word_of_outside {t p : Nat} {os : List Nat} (h : ∀ o ∈ os, p ≠ o + 0x400 * t) (b : Bank) :
    bankWord (zeroWords t os b) p = bankWord b p :=
  List.foldlRecOn os _ (motive := fun c => bankWord c p = bankWord b p) rfl fun _ hc o ho =>
    (bankWord_set_ne _ _ (h o ho)).trans hc

section
variable {t cls : Nat} {f : Fields} {d e : Dev}

/-- The marks that a start clears lie in the tile's format, flag and trap group (R49, R81). -/
theorem RegistersOnly.clearedMarks (h : RegistersOnly t cls f d e) (watch : Nat) : RegistersOnly t cls f d (clearMarks e t watch) := by
  rw [clearMarks_eq]
  refine (h.regs fun o ho => zeroWords_word_of_outside (fun m hm => ?_) e.regs).setFld (by decide) watch
  have hmark : ∀ m ∈ markWords, 0x40100 ≤ m ∧ m < 0x40168 := by decide
  obtain ⟨hlo, hhi⟩ := hmark m hm
  omega

/-- TILE_STATE, of every tile, is outside that group. -/
theorem RegistersOnly.state (h : RegistersOnly t cls f d e) (k : Nat) : e.fld tileStateState k = d.fld tileStateState k := by
  refine Dev.fld_of_word ⟨rfl, rfl⟩ (h.words _ ?_)
  simp only [tileStateState]
  omega

end

section
variable (d : Dev) (t : Nat) (x : Job) (pc : U32) (vendor : Bool)

theorem startTile_job_self : ((startTile d t x pc vendor).tile t).job = some x.id := by
  rw [startTile, Dev.setFld_tile, Dev.setFld_tile, Dev.tile_updTile_self]

theorem startTile_tile_ne {k : Nat} (h : k ≠ t) : (startTile d t x pc vendor).tile k = d.tile k := by
  rw [startTile, Dev.setFld_tile, Dev.setFld_tile, Dev.tile_updTile_ne _ _ h]
  rfl

theorem startTile_state (k : Nat) :
    (startTile d t x pc vendor).fld tileStateState k = if k = t then tsRunning else d.fld tileStateState k := by
  have hmarks := ((RegistersOnly.refl (t := t) (cls := 0) (f := {}) d).clearedMarks (b2n x.nanWatch)).state k
  have hstrict (e : Dev) : (e.setFld tileFmtStatusStrict (b2n x.strict) t).fld tileStateState k = e.fld tileStateState k :=
    ((RegistersOnly.refl (cls := 0) (f := {}) e).setFld (by decide) _).state k
  rw [startTile, hstrict]
  split
  next hk =>
    subst hk
    exact Dev.fld_setFld _ _ _ _ (Nat.zero_le 2) (by decide : 2 < 32)
  next hk =>
    rw [Dev.fld_setFld_ne, Dev.updTile_fld, hmarks]
    simp only [tileStateState, b2n, Bool.false_eq_true, if_false]
    omega

theorem startTile_runsFor {k : Nat} (h : k = t ∨ RunsFor d x.id k) : RunsFor (startTile d t x pc vendor) x.id k := by
  rw [RunsFor, startTile_state]
  by_cases hk : k = t
  · subst hk
    exact ⟨startTile_job_self _ _ _ _ _, if_pos rfl⟩
  · rw [startTile_tile_ne _ _ _ _ _ hk, if_neg hk]
    exact h.resolve_left hk

end

/-- Every tile that is started runs for the job. -/
theorem startTiles_runFor (x : Job) (pc : U32) (vendor : Bool) (ts : List Nat) (d : Dev) {t : Nat} (h : t ∈ ts ∨ RunsFor d x.id t) :
    RunsFor (ts.foldl (fun d t => startTile d t x pc vendor) d) x.id t := by
  induction ts generalizing d with
  | nil => exact h.resolve_left List.not_mem_nil
  | cons a ts ih =>
    refine ih _ ?_
    rw [List.mem_cons, or_assoc] at h
    obtain ha | hts | hr := h
    · exact .inr (startTile_runsFor _ _ _ _ _ (.inl ha))
    · exact .inl hts
    · exact .inr (startTile_runsFor _ _ _ _ _ (.inr hr))

/-! ### Memory whose codes are right (R436, R447) -/

section
variable {d : Dev} (h : d.flaws = [])
include h

theorem scanAll_quiet (j : Nat) (l : List (Nat × Nat)) : scanAll d j l = d := by
  refine List.foldlRecOn l _ (motive := (· = d)) rfl fun e he r _ => ?_
  rw [he, scanAddr]
  split
  · rfl
  · split
    · rw [scanMem, h]
      rfl
    · rfl

theorem memStore_quiet (a : Nat) (l : List Byte) : SameBesideMemory d (memStore d a l).1 := by
  have hscan : mergeScan d a l.length = d := if_pos h
  rw [memStore, hscan]
  dsimp only
  split <;> rfl

theorem writeAddr_quiet (a : Nat) (l : List Byte) : SameBesideMemory d (writeAddr d a l).1 := by
  unfold writeAddr
  split
  · split <;> rfl
  · exact memStore_quiet h _ _
  · rfl

theorem writeFallback_quiet (p : Problem) (pts : List Pt) : SameBesideMemory d (writeFallback d p pts) := by
  unfold writeFallback
  split
  · rfl
  · dsimp only
    split
    · rfl
    · exact writeAddr_quiet h _ _

end

/-! ### PROBLEM_START (R218) -/

/-- A problem of KIND 0 or 2 as its start on the tiles `ts` leaves it. One that Forester starts again keeps its first warm-start
snapshot (R222). -/
def startedProblem (d : Dev) (p : Problem) (ts : List Nat) (inp : Inputs) : Problem :=
  let ws := warmStateOf d p
  { p with
    xhat := inp.xhat, params := inp.params, weights := inp.weights
    est := if p.reexec then p.est0 else none
    est0 := if p.reexec then p.est0 else none
    map := if p.reexec then p.map else some inp.map
    warmState := if p.reexec then p.warmState else ws
    warm := if p.reexec then p.warm else if ws = 1 && p.rcd.warmUse then findWarm d p else none
    warmRejected := if p.reexec then p.warmRejected else decide (ws = 3)
    tMeas := match p.taken with
      | some e => e.2
      | none => d.now
    pts := (assemble (coefBlock d p) p.t p.rcd.perStage inp.params inp.weights).map (·.1)
    phase := .assembling, tiles := ts, asm := none, it := 0, best := none, lastCert := 0, pivots := 0 }

/-- The device before the tiles start: the problem recorded, a slot that was rejected counted, the fallback written (R216, R218). -/
def beforeTiles (d : Dev) (p q : Problem) : Dev :=
  let e := d.bump.updProb p.job p.idx fun _ => q
  writeFallback (if warmStateOf d p = 3 && !p.reexec then e.solvCount 5 else e) q q.pts

/-- The problem at work on its tiles. -/
def startedDev (d : Dev) (x : Job) (p : Problem) (ts : List Nat) (inp : Inputs) : Dev :=
  let q := startedProblem d p ts inp
  (q.atWork.foldl (fun d t => startTile d t x 0 true) (beforeTiles d p q)).updActive

theorem startedProblem_atWork (d : Dev) (p : Problem) (ts : List Nat) (inp : Inputs) : (startedProblem d p ts inp).atWork = ts :=
  List.append_nil ts

theorem startedDev_runsFor (d : Dev) (x : Job) (p : Problem) (inp : Inputs) {ts : List Nat} {t : Nat} (ht : t ∈ ts) :
    RunsFor (startedDev d x p ts inp) x.id t := by
  have hactive (e : Dev) : TilesUnaware e e.updActive := (TilesUnaware.refl e).setFld _ _ _ (by decide)
  refine (hactive _).runsFor (startTiles_runFor _ _ _ _ _ (.inl ?_))
  rwa [startedProblem_atWork]

section
variable {d : Dev} {x : Job} {p : Problem} {inp : Inputs}

/-- A problem starts on the tiles reserved for it once all of them are free and none has sooner work (R328). -/
theorem pickTiles_of_reserved (hplace : p.t.asmPlace = 0) (hreserved : p.reserved ≠ [])
    (hfree : ∀ t ∈ p.reserved, tileFree d t = true ∧ sooner d t (p.deadline.map fun a => (a, admOrder d p.job p.idx)) = false) :
    pickTiles d p = some (p.reserved, none, d) := by
  have hall : (p.reserved.all fun t => tileFree d t && !sooner d t (p.deadline.map fun a => (a, admOrder d p.job p.idx))) = true := by
    refine List.all_eq_true.mpr fun t ht => ?_
    obtain ⟨hrest, hsooner⟩ := hfree t ht
    rw [hrest, hsooner]
    rfl
  simp only [pickTiles, pickSolve, if_neg hreserved, if_pos hreserved, hall, if_true, hplace]

variable (hflaws : d.flaws = [])
include hflaws

theorem beforeTiles_eq (q : Problem) : ∃ e, SameBesideMemory e (beforeTiles d p q) ∧
    SameBesideTilesRegs (d.bump.updProb p.job p.idx fun _ => q) e := by
  refine ⟨_, writeFallback_quiet ?_ q q.pts, ?_⟩ <;> split
  · exact hflaws
  · exact hflaws
  · rfl
  · rfl

theorem startedDev_prob (hprob : d.prob p.job p.idx = some p) (ts : List Nat) :
    (startedDev d x p ts inp).prob p.job p.idx = some (startedProblem d p ts inp) := by
  obtain ⟨e, hmem, hregs⟩ := beforeTiles_eq (p := p) hflaws (startedProblem d p ts inp)
  calc (startedDev d x p ts inp).prob p.job p.idx
    _ = (beforeTiles d p (startedProblem d p ts inp)).prob p.job p.idx :=
      (SameBesideTilesRegs.foldl (fun d t => startTile_beside d t x 0 true) _ _).prob _ _
    _ = (d.bump.updProb p.job p.idx fun _ => startedProblem d p ts inp).prob p.job p.idx := by rw [hmem.prob, hregs.prob]
    _ = (d.prob p.job p.idx).map fun _ => startedProblem d p ts inp := Dev.prob_updProb_self _ _ _ _ fun _ _ _ => ⟨rfl, rfl⟩
    _ = some (startedProblem d p ts inp) := by rw [hprob, Option.map_some]

theorem startedDev_now (ts : List Nat) : (startedDev d x p ts inp).now = d.now := by
  obtain ⟨e, hmem, hregs⟩ := beforeTiles_eq (p := p) hflaws (startedProblem d p ts inp)
  calc (startedDev d x p ts inp).now
    _ = (beforeTiles d p (startedProblem d p ts inp)).now :=
      (SameBesideTilesRegs.foldl (fun d t => startTile_beside d t x 0 true) _ _).now
    _ = d.now := by rw [hmem.now, hregs.now]; rfl

/-- A problem of KIND 0 or 2 whose inputs can be read starts in time (R218). -/
theorem startProblem_of_inputs (hkind : p.t.kind ≠ 1) (hread : readInputs d p = .ok inp) (hmap : seqMapBad d inp.map = false)
    (htimely : ∀ a, p.deadline = some a → d.now < a) (ts : List Nat) : startProblem x p ts none d = startedDev d x p ts inp := by
  have hwarm : scanWarm d p = d := if_pos hflaws
  unfold startProblem
  rw [hwarm, scanAll_quiet hflaws]
  dsimp only
  rw [hread]
  dsimp only
  rw [hmap, if_neg Bool.false_ne_true, if_neg hkind]
  dsimp only
  split
  next a ha =>
    refine if_neg (Nat.not_le.mpr ?_)
    exact (startedDev_now hflaws ts).trans_lt (htimely a ha)
  next => rfl

end

/-! ### Assembly and iterations (R199, R208 to R212) -/

section
variable {d : Dev} {j i : Nat} {p : Problem} {x : Job}

/-- The problem iterating from the start that its data give (R209, R211). -/
def Problem.begun (p : Problem) (pts : List Pt) (q : Problem) : Problem :=
  { q with asm := none, phase := .iterating, pts := pts, start := startIterate p pts, cur := startIterate p pts }

theorem beginIterations_prob (hstop : p.replayStop = none) (x : Job) (pts : List Pt) (d : Dev) :
    (beginIterations x p pts true false d).prob p.job p.idx = (d.prob p.job p.idx).map (p.begun pts) := by
  unfold beginIterations
  rw [if_neg (by simp)]
  dsimp only
  rw [hstop]
  dsimp only
  rw [(mergeTiles_beside _ _ _).prob, Dev.prob_updProb_self, freeAsm, Dev.prob_updProb_self, (freeTiles_beside _ _).prob,
    Option.map_map]
  · rfl
  all_goals exact fun _ hj hi => ⟨hj, hi⟩

/-- Data that is not valid ends the problem, where no NaN watch is armed (R199). -/
theorem beginIterations_of_invalid (hwatch : x.nanWatch = false) (p : Problem) (pts : List Pt) (nan : Bool) (d : Dev) :
    beginIterations x p pts false nan d = endProblem d p.job p.idx stNumeric 4 .fallback := by
  rw [beginIterations, if_pos (by simp), assemblyFails, if_neg (by simp [hwatch])]

/-- The assembly of a problem of KIND 0 or 2 whose xhat it has read itself (R199). -/
theorem assemblyDone_of_read (hprob : d.prob j i = some p) (hjob : d.job j = some x) (hphase : p.phase = .assembling)
    (hsrc : p.rcd.x0Src = 0) (htaken : p.taken = none) (hest : p.est = none) : assemblyDone j i d =
      let r := assemble (coefBlock d p) p.t p.rcd.perStage p.params p.weights
      let pts := r.map (·.1)
      beginIterations x p pts (pts.all ptFinite && p.weights.all f64Pos) (pts.any ptNan)
        ((mergePts d p r).updProb j i fun q => { q with xhat := p.xhat }) := by
  unfold assemblyDone
  rw [hprob, hjob]
  dsimp only
  rw [if_neg (by simp [hphase, hsrc])]
  split
  next =>
    split
    next e he => exact absurd (htaken.symm.trans he) nofun
    next => rfl
  next e he => exact absurd (hest.symm.trans he) nofun

/-- The problem once its work has raised its flags, with what it has counted (R80, R207). -/
def iterated (d : Dev) (p : Problem) (r : IterRun) (j i : Nat) (q : Problem) : Dev :=
  ((mergeTiles d p (r.flags p)).solvCount 6 r.pivots).updProb j i fun _ => q

/-- The problem with one more iteration counted. -/
def Problem.counted (p : Problem) (r : IterRun) : Problem := { p with it := p.it + 1, pivots := (p.pivots + r.pivots) % 2 ^ 32 }

/-- One iteration in time, without an armed NaN watch (R207, R208, R210, R212). -/
theorem solveIteration_of_iterating (hprob : d.prob j i = some p) (hjob : d.job j = some x) (hphase : p.phase = .iterating)
    (hdeadline : ∀ a, p.deadline = some a → d.now ≤ a) (hwatch : x.nanWatch = false) (upset : List (Nat × U64)) :
    solveIteration j i upset d =
      let r := methodStep p upset
      let q := p.counted r
      let n := { q with cur := r.next }
      let due : Prop := p.t.method = 0 ∨ (p.it + 1) % p.t.checkEvery = 0 ∨ p.it + 1 = p.rcd.itCap
      if r.fails p.t.prec then endProblem (iterated d p r j i q) j i stNumeric 4 .fallback
      else endAtCap (if due then certifyIfDue (iterated d p r j i n) n else iterated d p r j i n) n := by
  have hkeep : ((mergeTiles d p ((methodStep p upset).flags p)).solvCount 6 (methodStep p upset).pivots).job j = some x :=
    ((mergeTiles_beside d p _).job j).trans hjob
  unfold solveIteration
  rw [hprob]
  dsimp only
  rw [if_neg ?intime, hkeep, if_neg (by simp [hwatch])]
  case intime =>
    rw [Bool.or_eq_true, not_or]
    refine ⟨by simp [hphase], ?_⟩
    split
    next a ha => simpa using hdeadline a ha
    next => exact Bool.false_ne_true
  split
  · rfl
  · simp only [Bool.or_eq_true, decide_eq_true_eq, or_assoc]
    rfl

/-- Where no iteration is recorded as the last, only the cap ends a problem that goes on (R212). -/
theorem endAtCap_of_below (hstop : p.replayStop = none) (hcap : p.it ≠ p.rcd.itCap) : endAtCap d p = d := by
  unfold endAtCap
  rw [hstop, if_neg hcap]
  exact ite_self _

/-! ### The deadline keeper (R224) -/

theorem deadlineExpiry_of_running {t : Nat} (hprob : d.prob j i = some p) (hjob : d.job j = some x) (hdeadline : p.deadline = some t)
    (hphase : p.phase ≠ .ended) (hrun : x.phase = .running) : deadlineExpiry j i d =
      if d.now < t then d else endBestOrFallback (p.atWork.foldl stopTile d) j i 2 := by
  simp only [deadlineExpiry, hprob, hjob, hdeadline, hphase, hrun]
  simp

theorem endBestOrFallback_of_prob (hprob : d.prob j i = some p) (cause : Nat) : endBestOrFallback d j i cause =
    p.best.elim (endProblem d j i stFallback cause .fallback) fun b => endProblem d j i stDeadlineBest cause (.iterate b 1) := by
  rw [endBestOrFallback, hprob]
  dsimp only
  cases p.best <;> rfl

/-! ### Certification (R212, R213, R220 to R222) -/

/-- The iterate is certified where it meets the internal targets, at a checkpoint that it passes, and at the cap (R212). -/
theorem certifyIfDue_of_unwatched (hwatch : (d.job p.job).any (·.nanWatch) = false) : certifyIfDue d p =
    let r := internalTest p.t p.pts p.xhat p.cur
    let c := certify p.t p.pts p.xhat p.cur
    let e := commitCert d p
    let checkpoint : Prop := 0 < p.t.checkEvery ∧ p.it % p.t.checkEvery = 0 ∧ passAccept p.rcd r = true
    if passTarget p.rcd r = true ∨ checkpoint ∨ p.it = p.rcd.itCap then
      if passTarget p.rcd r = true ∧ passTarget p.rcd c = true then endDone e p c
      else if passAccept p.rcd c then offerBest e p c
      else if passTarget p.rcd r then suspectEnd e p
      else e
    else d := by
  simp only [certifyIfDue, hwatch, Bool.false_and, Bool.false_eq_true, if_false, Bool.or_eq_true, Bool.and_eq_true, decide_eq_true_eq,
    or_assoc, and_assoc]

/-- A best is replaced by an iterate whose score is not larger (R213). -/
theorem offerBest_of_best {b : Best} (hbest : p.best = some b) (d : Dev) (c : Cert) : offerBest d p c =
    if f64Le (score p.rcd c) (score p.rcd b.cert) then
      (writePlanCopy d p p.cur (1 - b.copy)).1.updProb p.job p.idx fun q => { q with best := some ⟨p.it, p.cur, c, 1 - b.copy⟩ }
    else d := by
  simp only [offerBest, otherCopy, hbest]

end

/-- Settles O30: a start by `startedDev`, the other stages by the equation of each command's function, a certificate by the outcomes of
`certifyIfDue`. -/
theorem problemResults : Obligations.ProblemResults := by
  unfold Obligations.ProblemResults
  refine ⟨fun s j i p x hprob hjob => ?_, fun d p => ⟨fun hwatch => ?_, fun b hbest => ?_⟩⟩
  · obtain ⟨rfl, rfl⟩ := Dev.prob_key hprob
    refine ⟨fun inp hready hkind hplace hreserved hflaws htimely htiles hread hmap => ?start, fun hwaits => ?waits,
      fun hphase hsrc htaken hest => ⟨fun hvalid hnan hstop => ?assembled, fun hbad hwatch => ?invalid⟩,
      fun upset hphase htime hwatch => ⟨fun hdue hstop => ?between, fun hdue => ?due⟩,
      fun t hdeadline hphase hrun => ⟨fun hcome => ?expired, fun hearly => ?early⟩⟩
    case start =>
      have hfree := pickTiles_of_reserved hplace hreserved fun t ht => (htiles t ht).2
      refine ⟨startedDev s.dev x p p.reserved inp, startedProblem s.dev p p.reserved inp, ?_, startedDev_prob hflaws hprob _,
        rfl, rfl, rfl, rfl, rfl, rfl, rfl, rfl, rfl, fun t ht => ?_⟩
      · rw [exec_problemStart, execProblemStart, onDev_next, problemStart, hprob, hjob]
        dsimp only
        rw [if_pos hready, hfree]
        dsimp only
        rw [startProblem_of_inputs hflaws hkind hread hmap htimely]
        rfl
      · rw [← Dev.job_id hjob]
        exact startedDev_runsFor _ _ _ _ ht
    case waits =>
      rw [exec_problemStart, execProblemStart, onDev_next, problemStart, hprob, hjob]
      dsimp only
      rw [hwaits, if_neg Bool.false_ne_true]
    case assembled =>
      rw [exec_assemblyDone, execAssemblyDone, onDev_next, assemblyDone_of_read hprob hjob hphase hsrc htaken hest]
      dsimp only
      rw [hvalid, hnan]
      refine ⟨_, p.begun _ p, rfl, ?_, rfl, rfl, rfl, rfl, rfl, rfl, rfl⟩
      rw [beginIterations_prob hstop, Dev.prob_updProb_self, (mergePts_beside _ _ _).prob, hprob]
      · rfl
      · exact fun _ hj hi => ⟨hj, hi⟩
    case invalid =>
      rw [exec_assemblyDone, execAssemblyDone, onDev_next, assemblyDone_of_read hprob hjob hphase hsrc htaken hest]
      dsimp only
      rw [hbad, beginIterations_of_invalid hwatch]
      rfl
    case between =>
      rw [exec_solveIteration, execSolveIteration, onDev_next, solveIteration_of_iterating hprob hjob hphase htime hwatch]
      have hno : ¬(p.t.method = 0 ∨ (p.it + 1) % p.t.checkEvery = 0 ∨ p.it + 1 = p.rcd.itCap) := hdue
      dsimp only
      rw [if_neg hno, endAtCap_of_below]
      · rfl
      · exact hstop
      · exact fun hcap => hno (.inr (.inr hcap))
    case due =>
      rw [exec_solveIteration, execSolveIteration, onDev_next, solveIteration_of_iterating hprob hjob hphase htime hwatch]
      have hyes : p.t.method = 0 ∨ (p.it + 1) % p.t.checkEvery = 0 ∨ p.it + 1 = p.rcd.itCap := hdue
      dsimp only
      rw [if_pos hyes]
      rfl
    case expired =>
      have hstopped : (p.atWork.foldl stopTile s.dev).prob p.job p.idx = some p :=
        ((SameBesideTilesRegs.foldl stopTile_beside _ _).prob _ _).trans hprob
      rw [exec_deadlineExpiry, execDeadlineExpiry, onDev_next, deadlineExpiry_of_running hprob hjob hdeadline hphase hrun,
        if_neg hcome.not_gt, endBestOrFallback_of_prob hstopped]
      cases p.best <;> rfl
    case early =>
      rw [exec_deadlineExpiry, execDeadlineExpiry, onDev_next, deadlineExpiry_of_running hprob hjob hdeadline hphase hrun, if_pos hearly]
  · rw [certifyIfDue_of_unwatched hwatch]
    dsimp only
    refine ⟨fun htarget => ?_, fun hmiss hdue => ?_, fun hmiss hcheck hcap => ?_⟩
    · simp only [htarget, true_or, true_and, if_true]
    · rw [if_pos (.inr hdue)]
      simp only [hmiss, Bool.false_eq_true, false_and, if_false]
    · rw [if_neg (by simp [hmiss, hcheck, hcap])]
  · rw [offerBest_of_best hbest]
    exact ⟨fun hworse => if_neg (hworse ▸ Bool.false_ne_true), fun hbetter => if_pos hbetter⟩

end Sys2Proof.Machine
end

section
/-! PROOFS. Pages copied from slot to slot and moved between the stores (R274, R323, R444, R445): O33. -/

namespace Sys2Proof.Machine

/-! ### Reading and copying memory -/

/-- Memory whose codes are right is read without consequence (R432). -/
theorem scanMem_quiet {d : Dev} (h : d.flaws = []) (j : Option Nat) (kind a n : Nat) : scanMem d j kind a n = d := by
  rw [scanMem, h]
  rfl

theorem memReadN_length (m : Memory) (a n : Nat) : (memReadN m a n).length = n := by
  induction n generalizing a with
  | zero => rfl
  | succ n ih => exact congrArg (· + 1) (ih (a + 1))

section
variable (d : Dev) (src tgt n : Nat)

/-- What the poisoning of a block leaves alone, the poison that goes with a copy leaves alone (R445). -/
theorem carryPoison_keeps {δ : Type} {g : Dev → δ} (h : ∀ d a, g (poisonWrite d a) = g d) :
    g (carryPoison d src tgt n) = g d := by
  refine foldl_keeps g _ (fun d o => ?_) _ d
  rw [apply_ite g, h, ite_self]

theorem copySlot_attn : (copySlot d src tgt n).attn = d.attn :=
  carryPoison_keeps _ _ _ _ fun _ _ => rfl

/-- A copy's target reads what its source held. -/
theorem copySlot_reads : memReadN (copySlot d src tgt n).mem tgt n = memReadN d.mem src n := by
  have hbytes := memReadN_writeN_self (memZero d tgt n).mem tgt (memReadN d.mem src n)
  rw [memReadN_length] at hbytes
  rw [copySlot, carryPoison_keeps (g := Dev.mem) _ _ _ _ fun _ _ => rfl]
  exact hbytes

end

/-! ### Free choices -/

/-- Where there is something to choose, one of it is chosen, and only the number for free values moves on. -/
theorem choose_of_ne_nil {α : Type} {l : List α} (h : l ≠ []) (d : Dev) :
    ∃ x ∈ l, ∃ c, choose d l = (some x, { d with freeCtr := c }) := by
  match l, h with
  | [x], _ => exact ⟨x, List.mem_singleton_self x, d.freeCtr, rfl⟩
  | x :: y :: l, _ =>
    have hlt : (Config.freeU64 d.freeCtr).toNat % (x :: y :: l).length < (x :: y :: l).length := Nat.mod_lt _ (Nat.zero_lt_succ _)
    exact ⟨_, List.getElem_mem hlt, d.freeCtr + 1, congrArg (·, d.bump) (List.getElem?_eq_getElem hlt)⟩

/-! ### Pages -/

theorem Dev.page_congr {d e : Dev} (h : e.attn = d.attn) (p : Nat) : e.page p = d.page p := by rw [Dev.page, Dev.page, h]

theorem pageAddr_congr {d e : Dev} (h : e.attn = d.attn) (p : Nat) : pageAddr e p = pageAddr d p := by
  simp only [pageAddr, Dev.page_congr h, h]

theorem Dev.page_setPage_self (d : Dev) (p : Nat) (v : PageInfo) : (d.setPage p v).page p = v := mapGet_set_self _ _ _ _

theorem Dev.page_setPage_ne (d : Dev) {p q : Nat} (v : PageInfo) (h : q ≠ p) : (d.setPage p v).page q = d.page q :=
  mapGet_set_ne _ _ _ _ h

/-- Reservations counted anew change nothing of the pages or of memory (R323). -/
theorem recharge_attn (d : Dev) (j : Nat) : (recharge d j).attn = d.attn := by
  unfold recharge
  repeat' split
  all_goals rfl

theorem recharge_mem (d : Dev) (j : Nat) : (recharge d j).mem = d.mem := by
  unfold recharge
  repeat' split
  all_goals rfl

section
variable {d : Dev} {p k : Nat} {toCanopy : Bool}

/-- A move begins at a free slot of the other store (R274). -/
theorem pageMove_begins (halloc : (d.page p).alloc = true) (hpin : (d.page p).pin = 0) (hstore : (d.page p).canopy = !toCanopy)
    (hidle : ∀ m ∈ d.attn.moves, m.1 ≠ p) {js : List Nat} (hjs : readersOf d p = js) {moved : Dev}
    (hmoved : js.foldl recharge (d.setPage p { d.page p with canopy := toCanopy }) = moved) (hfits : js.all (stillFits moved) = true)
    {free : List Nat} (hfree : (if toCanopy then freeSlots d.attn.canopyUsed d.attn.canopySlots
      else freeSlots d.attn.ddrUsed d.attn.ddrSlots) = free) (hsome : free ≠ []) :
    ∃ k ∈ free, ∃ c, pageMove p toCanopy d = { d with admitted := moved.admitted, freeCtr := c, attn := { d.attn with
      moves := d.attn.moves ++ [(p, toCanopy, k)]
      canopyUsed := if toCanopy then d.attn.canopyUsed ++ [k] else d.attn.canopyUsed
      ddrUsed := if toCanopy then d.attn.ddrUsed else d.attn.ddrUsed ++ [k] } } := by
  obtain ⟨k, hk, c, hchoice⟩ := choose_of_ne_nil hsome { d with admitted := moved.admitted }
  refine ⟨k, hk, c, ?_⟩
  unfold pageMove
  dsimp only
  have hnone : (d.attn.moves.any fun m => m.1 = p) = false := by simpa only [List.any_eq_false, decide_eq_true_eq] using hidle
  rw [hjs, hmoved, hfree, hchoice, if_neg (by simp [halloc, hpin, hstore, hfits, hnone])]

theorem pageMove_stays (h : (d.page p).pin ≠ 0 ∨ (readersOf d p).all (stillFits
    ((readersOf d p).foldl recharge (d.setPage p { d.page p with canopy := toCanopy }))) = false) : pageMove p toCanopy d = d := by
  refine if_pos ?_
  obtain hpin | hfits := h
  · simp [hpin]
  · simp [hfits]

/-- The page table once a page lies in slot `k` of the other store, its old slot given back (R274). -/
def relocated (d : Dev) (p k : Nat) (toCanopy : Bool) : Dev :=
  let i := d.page p
  ({ d with attn := { d.attn with
      moves := d.attn.moves.erase (p, toCanopy, k)
      canopyUsed := if i.canopy then d.attn.canopyUsed.erase i.slot else d.attn.canopyUsed
      ddrUsed := if i.canopy then d.attn.ddrUsed else d.attn.ddrUsed.erase i.slot } }).setPage p { i with canopy := toCanopy, slot := k }

/-- The page copied there, and the copy counted (R274, R450). -/
def movedTo (d : Dev) (p k : Nat) (toCanopy : Bool) : Dev :=
  let e := relocated d p k toCanopy
  ((copySlot e (pageAddr d p) (pageAddr e p) pageBytes).incFld memCopyCntCount).forCount 7

theorem movedTo_attn (d : Dev) (p k : Nat) (toCanopy : Bool) : (movedTo d p k toCanopy).attn = (relocated d p k toCanopy).attn :=
  copySlot_attn _ _ _ _

/-- The page table once a move has come to nothing, its slot given back. -/
def moveDropped (d : Dev) (p k : Nat) (toCanopy : Bool) : Dev :=
  { d with attn := { d.attn with
      moves := d.attn.moves.erase (p, toCanopy, k)
      canopyUsed := if toCanopy then d.attn.canopyUsed.erase k else d.attn.canopyUsed
      ddrUsed := if toCanopy then d.attn.ddrUsed else d.attn.ddrUsed.erase k } }

variable (hmove : d.attn.moves.find? (fun m => m.1 = p) = some (p, toCanopy, k))
include hmove

theorem pageMoveDone_moves (halloc : (d.page p).alloc = true) (hpin : (d.page p).pin = 0) (hstore : (d.page p).canopy = !toCanopy)
    (hflaws : d.flaws = []) : pageMoveDone p d = movedTo d p k toCanopy := by
  unfold pageMoveDone
  rw [hmove]
  dsimp only
  rw [if_neg (by simp [halloc, hpin, hstore]), scanMem_quiet hflaws]
  rfl

theorem pageMoveDone_stays (h : (d.page p).alloc = false ∨ (d.page p).pin ≠ 0) : pageMoveDone p d =
    (readersOf (moveDropped d p k toCanopy) p).foldl recharge (moveDropped d p k toCanopy) := by
  unfold pageMoveDone
  rw [hmove]
  refine if_pos ?_
  obtain halloc | hpin := h
  · simp [halloc]
  · simp [hpin]

end

/-- Settles O33: a move begins at a slot that `choose` takes of the free ones; its end is a copy between two slots, or the slot given
back. -/
theorem pageMoveResults : Obligations.PageMoveResults := by
  unfold Obligations.PageMoveResults
  refine fun s p toCanopy => ⟨fun halloc hpin hstore hidle hfits hsome => ?begins, fun hblocked => ?blocked,
    fun k hmove => ⟨fun halloc hpin hstore hflaws => ?done, fun hgone => ?dropped⟩⟩
  case begins =>
    obtain ⟨k, hk, c, hmoved⟩ := pageMove_begins halloc hpin hstore hidle rfl rfl hfits rfl hsome
    refine ⟨k, hk, _, rfl, ?_⟩
    rw [hmoved]
  case blocked =>
    rw [exec_pageMove, execPageMove, onDev_next, pageMove_stays hblocked]
  case done =>
    have hattn := movedTo_attn s.dev p k toCanopy
    have hself : (movedTo s.dev p k toCanopy).page p = { s.dev.page p with canopy := toCanopy, slot := k } :=
      (Dev.page_congr hattn p).trans (Dev.page_setPage_self _ _ _)
    rw [exec_pageMoveDone, execPageMoveDone, onDev_next, pageMoveDone_moves hmove halloc hpin hstore hflaws]
    refine ⟨_, rfl, ?_, ?_, ?_, fun q hq => ?_, ?_⟩
    · rw [hself]
    · rw [hself]
    · rw [pageAddr_congr hattn]
      exact copySlot_reads _ _ _ _
    · exact (Dev.page_congr hattn q).trans (Dev.page_setPage_ne _ _ hq)
    · rw [hattn]
      rfl
  case dropped =>
    have hattn := foldl_keeps Dev.attn recharge recharge_attn (readersOf (moveDropped s.dev p k toCanopy) p)
      (moveDropped s.dev p k toCanopy)
    rw [exec_pageMoveDone, execPageMoveDone, onDev_next, pageMoveDone_stays hmove hgone]
    refine ⟨_, rfl, fun q => Dev.page_congr hattn q, ?_, ?_, ?_, ?_⟩
    · exact foldl_keeps Dev.mem recharge recharge_mem _ _
    all_goals
      rw [hattn]
      rfl

end Sys2Proof.Machine
end

section
/-! PROOFS. Copies, commits, attention entries and partial results (R266, R287, R291, R292, R303, R310, R311): O32. -/

namespace Sys2Proof.Machine

/-! ### What leaves the sequences, the appends and the jobs alone -/

theorem Dev.seq_congr {d e : Dev} (h : e.attn.seqs = d.attn.seqs) (k : Nat) : e.seq k = d.seq k := by rw [Dev.seq, Dev.seq, h]

theorem Dev.append_congr {d e : Dev} (h : e.attn.appends = d.attn.appends) (k : Nat) : e.append k = d.append k := by
  rw [Dev.append, Dev.append, h]

/-- From memory whose codes are right, the step leaves the sequences, the appends and the jobs as they are, and those codes right. -/
def KeepsSequences (d e : Dev) : Prop :=
  d.flaws = [] → e.flaws = [] ∧ e.attn.seqs = d.attn.seqs ∧ e.attn.appends = d.attn.appends ∧ e.jobs = d.jobs

namespace KeepsSequences
variable {d e g : Dev}

theorem ofFields (hflaws : e.flaws = d.flaws) (hseqs : e.attn.seqs = d.attn.seqs) (happends : e.attn.appends = d.attn.appends)
    (hjobs : e.jobs = d.jobs) : KeepsSequences d e := fun h => ⟨hflaws.trans h, hseqs, happends, hjobs⟩

theorem refl (d : Dev) : KeepsSequences d d := ofFields rfl rfl rfl rfl

theorem trans (h : KeepsSequences d e) (h' : KeepsSequences e g) : KeepsSequences d g := fun hflaws => by
  obtain ⟨hflaws, hseqs, happends, hjobs⟩ := h hflaws
  obtain ⟨hflaws', hseqs', happends', hjobs'⟩ := h' hflaws
  exact ⟨hflaws', hseqs'.trans hseqs, happends'.trans happends, hjobs'.trans hjobs⟩

/-- The last step first: the goal tells it, and with it the device between. -/
theorem after (h' : KeepsSequences e g) (h : KeepsSequences d e) : KeepsSequences d g := h.trans h'

theorem foldl {γ : Type} {f : Dev → γ → Dev} (hf : ∀ d c, KeepsSequences d (f d c)) (l : List γ) (d : Dev) :
    KeepsSequences d (l.foldl f d) :=
  List.foldlRecOn l f (motive := KeepsSequences d) (refl d) fun _ he _ _ => he.trans (hf _ _)

theorem ite {p : Prop} [Decidable p] (he : KeepsSequences d e) (hg : KeepsSequences d g) :
    KeepsSequences d (if p then e else g) := by
  split
  · exact he
  · exact hg

variable (h : KeepsSequences d e) (hflaws : d.flaws = [])
include h hflaws

theorem seq (k : Nat) : e.seq k = d.seq k := by
  obtain ⟨-, hseqs, -⟩ := h hflaws
  exact Dev.seq_congr hseqs k

theorem append (k : Nat) : e.append k = d.append k := by
  obtain ⟨-, -, happends, -⟩ := h hflaws
  exact Dev.append_congr happends k

theorem job (j : Nat) : e.job j = d.job j := by
  obtain ⟨-, -, -, hjobs⟩ := h hflaws
  rw [Dev.job, Dev.job, hjobs]

theorem quiet : e.flaws = [] := (h hflaws).1

end KeepsSequences

open KeepsSequences (ofFields)

/-! ### Pages and memory -/

theorem setFld_keeps (d : Dev) (f : Fld) (v i : Nat) : KeepsSequences d (d.setFld f v i) := ofFields rfl rfl rfl rfl

theorem attnCount_keeps (d : Dev) (n k : Nat) : KeepsSequences d (d.attnCount n k) := setFld_keeps _ _ _ _

theorem reclaim_keeps (d : Dev) (p : Nat) : KeepsSequences d (reclaim d p) := .ite (ofFields rfl rfl rfl rfl) (.refl d)

theorem dropRef_keeps (d : Dev) (p : Nat) : KeepsSequences d (dropRef d p) :=
  .ite (.refl d) ((reclaim_keeps _ p).after (ofFields rfl rfl rfl rfl))

theorem unpinPage_keeps (d : Dev) (p : Nat) : KeepsSequences d (unpinPage d p) :=
  .ite (.refl d) ((reclaim_keeps _ p).after (ofFields rfl rfl rfl rfl))

/-- Where no code is wrong, none is left to be put right. -/
theorem setFlaws_keeps (d : Dev) (p : Nat × Ecc → Bool) : KeepsSequences d { d with flaws := d.flaws.filter p } :=
  fun h => ⟨by rw [h]; rfl, rfl, rfl, rfl⟩

theorem rewritten_keeps (d : Dev) (as : List Nat) : KeepsSequences d (rewritten d as) := .ite (.refl d) (setFlaws_keeps d _)

theorem setHeaderFill_keeps (d : Dev) (p f : Nat) : KeepsSequences d (setHeaderFill d p f) :=
  .ite (.refl d) ((rewritten_keeps _ _).after (ofFields rfl rfl rfl rfl))

theorem memZero_keeps (d : Dev) (a n : Nat) : KeepsSequences d (memZero d a n) :=
  .trans (setFlaws_keeps d _) (ofFields rfl rfl rfl rfl)

theorem carryPoison_keepsSequences (d : Dev) (src tgt n : Nat) : KeepsSequences d (carryPoison d src tgt n) := by
  refine .foldl (fun e o => ?_) _ _
  exact .ite (ofFields rfl rfl rfl rfl) (.refl e)

theorem copySlot_keeps (d : Dev) (src tgt n : Nat) : KeepsSequences d (copySlot d src tgt n) :=
  (carryPoison_keepsSequences _ _ _ _).after ((memZero_keeps d tgt n).trans (ofFields rfl rfl rfl rfl))

theorem zeroAbove_keeps (d : Dev) (base fill : Nat) : KeepsSequences d (zeroAbove d base fill) := ofFields rfl rfl rfl rfl

theorem copyHalf_keeps (d : Dev) (src dst fill : Nat) : KeepsSequences d (copyHalf d src dst fill) := by
  unfold copyHalf
  dsimp only
  refine .ite (.refl d) ((setHeaderFill_keeps _ _ _).after ((zeroAbove_keeps _ _ _).after ?_))
  have hcopied := copySlot_keeps d (pageAddr d src) (pageAddr d dst) pageBytes
  exact hcopied.trans (ofFields rfl rfl rfl rfl)

theorem writeToken_keeps (base p : Nat) (ks vs : List Nat) (d : Dev) : KeepsSequences d (writeToken base p ks vs d) := by
  unfold writeToken
  dsimp only
  exact (attnCount_keeps _ _ _).after ((attnCount_keeps _ _ _).after ((rewritten_keeps _ _).after (ofFields rfl rfl rfl rfl)))

theorem putToken_keeps (q : Seq) (rows : List Row) (old k : Nat) (d : Dev) : KeepsSequences d (putToken q rows old k d) := by
  refine .foldl (fun e c => ?_) _ _
  dsimp only
  exact .ite (.refl _) (writeToken_keeps _ _ _ _ _)

/-! ### Messages and recordings -/

theorem queueFlit_keeps (d : Dev) (l : Nat) (f : Flit) : KeepsSequences d (queueFlit d l f) :=
  .ite (ofFields rfl rfl rfl rfl) (ofFields rfl rfl rfl rfl)

theorem sendRing_keeps (d : Dev) (t cls what tag : Nat) (body : List Byte) : KeepsSequences d (sendRing d t cls what tag body) := by
  unfold sendRing
  split
  · exact .refl d
  · dsimp only
    refine .foldl (fun e p => ?_) _ _
    exact (queueFlit_keeps _ _ _).after (ofFields rfl rfl rfl rfl)

theorem sendChange_keeps (d : Dev) (q : Seq) (bytes : List Byte) : KeepsSequences d (sendChange d q bytes) :=
  .ite (.foldl (fun e _ => .ite (.refl e) (sendRing_keeps _ _ _ _ _ _)) _ _) (.refl d)

theorem toRing_keeps (d : Dev) (what tag : Nat) (bytes : List Byte) : KeepsSequences d (toRing d what tag bytes) :=
  .foldl (fun _ _ => sendRing_keeps _ _ _ _ _ _) _ _

theorem SameBesideMemory.keepsSequences {d e : Dev} (h : SameBesideMemory d e) : KeepsSequences d e := by
  apply ofFields
  all_goals rw [← h]

theorem writeAddr_keeps (d : Dev) (a : Nat) (l : List Byte) : KeepsSequences d (writeAddr d a l).1 := fun h =>
  (writeAddr_quiet h a l).keepsSequences h

theorem recGap_keeps (d : Dev) (r : Recording) : KeepsSequences d (recGap d r) := by
  have hwritten := writeAddr_keeps d (r.bufAddr + r.bufBytes - 64) (recBytes d r reGap 0 0 r.jobOrd [])
  unfold recGap
  dsimp only
  split
  all_goals exact hwritten.trans (ofFields rfl rfl rfl rfl)

theorem recPut_keeps (d : Dev) (im type aux lt ord : Nat) (payload : List Byte) :
    KeepsSequences d (recPut d im type aux lt ord payload) := by
  unfold recPut
  split
  · exact .refl d
  · exact .ite (.refl d) (.ite (recGap_keeps _ _) (.ite (recGap_keeps _ _) ((writeAddr_keeps _ _ _).trans (ofFields rfl rfl rfl rfl))))

theorem recordOutputs_keeps (d : Dev) (x : Job) (status : Nat) : KeepsSequences d (recordOutputs d x status) := by
  refine .ite (.refl d) (.foldl (fun e r => ?_) _ _)
  split
  · unfold recordOf
    split
    · exact .refl e
    · exact recPut_keeps _ _ _ _ _ _ _
  · exact .refl e

/-- A job ends in a device whose sequences and appends are as they were (R383). -/
theorem endJob_eq (d : Dev) (j status cause : Nat) :
    ∃ e, KeepsSequences d e ∧ endJob d j status cause = releaseJob (e.updJob j (Job.endedWith status cause)) j := by
  refine ⟨_, ?_, rfl⟩
  split
  · exact .ite ((recordOutputs_keeps _ _ _).after (.ite (toRing_keeps _ _ _ _) (.refl d))) (.ite (toRing_keeps _ _ _ _) (.refl d))
  · exact .refl d

/-! ### Sequences -/

theorem Dev.seq_setSeq (d : Dev) (q k : Nat) (v : Seq) : (d.setSeq q v).seq k = if k = q then v else d.seq k := mapGet_set _ _ _ _ _

theorem listSet_eq_set {α : Type} (l : List α) (i : Nat) (v : α) : listSet l i v = l.set i v := by
  induction l generalizing i with
  | nil => rfl
  | cons x l ih =>
    cases i with
    | zero => rfl
    | succ i => exact congrArg (x :: ·) (ih i)

/-- Which modules hold pages of a sequence is known from its record and the number of modules (R312). -/
theorem splitLost_congr {d e : Dev} (h : e.ringCount = d.ringCount) (q : Seq) : splitLost e q = splitLost d q := by
  rw [splitLost, splitLost, h]

theorem scanPage_quiet {d : Dev} (h : d.flaws = []) (j : Option Nat) (kind p : Nat) : scanPage d j kind p = d := by
  rw [scanPage, scanMem_quiet h, ite_self]

/-! ### The copy of a shared tail (R291, R292) -/

theorem copyHalf_ringCount (d : Dev) (src dst fill : Nat) : (copyHalf d src dst fill).ringCount = d.ringCount := by
  have hpoison (d : Dev) (a : Nat) : (poisonWrite d a).ringCount = d.ringCount :=
    congrArg (max 1) (Dev.fld_setFld_ne _ _ _ _ _ _ (by decide))
  have hrewritten (d : Dev) (as : List Nat) : (rewritten d as).ringCount = d.ringCount := by
    unfold rewritten
    split <;> rfl
  have hslot (src tgt n : Nat) : (copySlot d src tgt n).ringCount = d.ringCount :=
    carryPoison_keeps (g := Dev.ringCount) _ _ _ _ hpoison
  have hcopied := hslot (pageAddr d src) (pageAddr d dst) pageBytes
  unfold copyHalf
  dsimp only
  generalize copySlot d (pageAddr d src) (pageAddr d dst) pageBytes = e at hcopied ⊢
  generalize memWriteN e.mem _ _ = m
  split
  · rfl
  · rw [setHeaderFill]
    split
    · exact hcopied
    · exact (hrewritten _ _).trans hcopied

/-- Both halves of a sequence's tail copied, and the copies counted (R292, R450). -/
def tailCopied (d : Dev) (q : Seq) (src dst : Nat × Nat) : Dev :=
  let e := q.entries.getD (q.entries.length - 1) { p0 := noPage }
  (copyHalf (copyHalf d src.1 dst.1 e.fill) src.2 dst.2 e.fill).incFld memCopyCntCount 0 (halves q.d)

theorem tailCopied_keeps (d : Dev) (q : Seq) (src dst : Nat × Nat) : KeepsSequences d (tailCopied d q src dst) :=
  (setFld_keeps _ _ _ _).after ((copyHalf_keeps _ _ _ _).after (copyHalf_keeps _ _ _ _))

theorem tailCopied_ringCount (d : Dev) (q : Seq) (src dst : Nat × Nat) : (tailCopied d q src dst).ringCount = d.ringCount := by
  have hcounted (e : Dev) (n : Nat) : (e.incFld memCopyCntCount 0 n).ringCount = e.ringCount :=
    congrArg (max 1) (Dev.fld_setFld_ne _ _ _ _ _ _ (by decide))
  rw [tailCopied, hcounted, copyHalf_ringCount, copyHalf_ringCount]

/-- The sequence with the last entry at the fresh pages, its other parts kept (R292). -/
def tailAt (q : Seq) (dst : Nat × Nat) : Seq :=
  let i := q.entries.length - 1
  { q with entries := listSet q.entries i { q.entries.getD i { p0 := noPage } with p0 := dst.1, p1 := dst.2 } }

theorem tailAt_last {q : Seq} {e : PtEntry} (h : q.entries[q.entries.length - 1]? = some e) (dst : Nat × Nat) :
    (tailAt q dst).entries[q.entries.length - 1]? = some { e with p0 := dst.1, p1 := dst.2 } := by
  obtain ⟨hlt, -⟩ := List.getElem?_eq_some_iff.mp h
  rw [tailAt, listSet_eq_set, List.getElem?_set_self hlt, List.getD_eq_getElem?_getD, h]
  rfl

theorem tailAt_before (q : Seq) (dst : Nat × Nat) {k : Nat} (hk : k < q.entries.length - 1) :
    (tailAt q dst).entries[k]? = q.entries[k]? := by
  rw [tailAt, listSet_eq_set, List.getElem?_set_ne hk.ne']

/-- The last entry of sequence `s` names the fresh pages, and its append has nothing left to copy (R292). -/
def tailNamed (d : Dev) (s : Nat) (q : Seq) (dst : Nat × Nat) : Dev :=
  let d := (d.setSeq s (tailAt q dst)).labDrop s (q.entries.length - 1)
  { d with attn := { d.attn with appends := d.attn.appends.map fun b => if b.seq = s then { b with copy := none } else b } }

/-- The source is given up: its reference and the pin of the copy. -/
def sourceLeft (d : Dev) (src : Nat × Nat) : Dev :=
  (unpinPage (unpinPage (dropRef (dropRef d src.1) src.2) src.1) src.2).attnCount 3

theorem sourceLeft_keeps (d : Dev) (src : Nat × Nat) : KeepsSequences d (sourceLeft d src) :=
  (attnCount_keeps _ _ _).after ((unpinPage_keeps _ _).after ((unpinPage_keeps _ _).after ((dropRef_keeps _ _).after (dropRef_keeps _ _))))

section
variable {d : Dev} {s : Nat} {a : Append} {src dst : Nat × Nat}

theorem tailNamed_append (h : d.append s = some a) (q : Seq) : (tailNamed d s q dst).append s = some { a with copy := none } := by
  have hseq : a.seq = s := by simpa using List.find?_some h
  have hnamed : (fun b : Append => decide ((if b.seq = s then { b with copy := none } else b).seq = s)) = fun b => decide (b.seq = s) := by
    funext b
    split <;> rfl
  have hfound : (d.attn.appends.find? fun b => b.seq = s) = some a := h
  refine (List.find?_map ..).trans ?_
  simp only [Function.comp_def, hnamed]
  refine (congrArg _ hfound).trans ?_
  rw [Option.map_some, if_pos hseq]

theorem tailNamed_seq (d : Dev) (s : Nat) (q : Seq) (dst : Nat × Nat) (k : Nat) : (tailNamed d s q dst).seq k =
    if k = s then tailAt q dst else d.seq k := Dev.seq_setSeq _ _ _ _

theorem copyDone_of_sound (happend : d.append s = some a) (hcopy : a.copy = some (src, dst)) (hflaws : d.flaws = [])
    (hfirst : pagePoisoned d src.1 = false) (hsecond : pagePoisoned d src.2 = false) (hlost : splitLost d (d.seq s) = false) :
    copyDone s d = sourceLeft (tailNamed (tailCopied d (d.seq s) src dst) s (d.seq s) dst) src := by
  have hkept := (tailCopied_keeps d (d.seq s) src dst).seq hflaws s
  have hlost' := (splitLost_congr (tailCopied_ringCount d (d.seq s) src dst) (d.seq s)).trans hlost
  simp only [tailCopied] at hkept hlost'
  unfold copyDone
  rw [happend]
  dsimp only
  rw [hcopy]
  dsimp only
  rw [scanPage_quiet hflaws, scanPage_quiet hflaws, hfirst, hsecond, hlost']
  simp only [Bool.or_self, Bool.false_and, Bool.false_eq_true, if_false, hkept]
  rfl

end

/-! ### Commits (R287) -/

/-- Page-table entries once the sequence holds `total` tokens: those from `lo` on are as full as that makes them. -/
def filledEntries (es : List PtEntry) (lo total : Nat) : List PtEntry :=
  (es.zip (upto es.length)).map fun e => if e.2 < lo then e.1 else { e.1 with fill := min 256 (total - 256 * e.2) }

theorem filledEntries_length (es : List PtEntry) (lo total : Nat) : (filledEntries es lo total).length = es.length := by
  simp [filledEntries, upto]

theorem filledEntries_getElem? (es : List PtEntry) (lo total i : Nat) : (filledEntries es lo total)[i]? =
    es[i]?.map fun e => if i < lo then e else { e with fill := min 256 (total - 256 * i) } := by
  by_cases h : i < es.length
  · simp [filledEntries, upto, h]
  · simp [filledEntries, upto, h]

/-- The tokens of an append (R283). -/
def Append.tokens (a : Append) : Nat := a.rows.length / (2 * tokenHalves a.d)

/-- The sequence as an append leaves it. -/
def committedSeq (d : Dev) (q : Seq) (a : Append) : Seq :=
  { q with
    active := true
    entries := filledEntries (q.entries ++ a.fresh.map fun f => { p0 := f.1, p1 := f.2 }) (q.entries.length - 1)
      (q.length + a.tokens)
    born := if q.active then q.born else d.attn.births }

/-- Whoever asked for an append is told that it is done. -/
def commitAnswer (d : Dev) : AppendBy → Dev
  | .job j => endJob d j stDone
  | .tile t op => sendAck d (some t) op
  | .ring => d

/-- The pages that an append to `q` writes, by index. -/
def touchedPages (q c : Seq) : List Nat := (upto c.entries.length).filter fun i => q.length / 256 ≤ i

/-- The rows of an append to `q` written to the pages of `c`, with their headers (R287 step 4). -/
def tokensWritten (d : Dev) (q c : Seq) (a : Append) : Dev :=
  let d : Dev := if q.active then d else { d with attn := { d.attn with births := d.attn.births + 1 } }
  let d := (upto a.tokens).foldl (fun d k => putToken c a.rows q.length k d) d
  (touchedPages q c).foldl (fun d i =>
    let e := c.entries.getD i { p0 := noPage }
    setHeaderFill (setHeaderFill d e.p0 e.fill) e.p1 e.fill) d

theorem tokensWritten_keeps (d : Dev) (q c : Seq) (a : Append) : KeepsSequences d (tokensWritten d q c a) := by
  refine .after (.foldl (fun e i => ?_) _ _) (.after (.foldl (fun e k => putToken_keeps _ _ _ _ _) _ _) ?_)
  · exact (setHeaderFill_keeps _ _ _).after (setHeaderFill_keeps _ _ _)
  · exact .ite (.refl d) (ofFields rfl rfl rfl rfl)

/-- The change of sequence `s` from `q` to `c` and the end of its append. -/
def seqCommitted (d : Dev) (s : Nat) (c : Seq) : Dev := (d.setSeq s c).dropAppend s

theorem seqCommitted_seq (d : Dev) (s : Nat) (c : Seq) (k : Nat) :
    (seqCommitted d s c).seq k = if k = s then c else d.seq k := Dev.seq_setSeq d s k c

theorem seqCommitted_append (d : Dev) (s : Nat) (c : Seq) : (seqCommitted d s c).append s = none :=
  List.find?_eq_none.mpr fun b hb => by simpa using (List.mem_filter.mp hb).2

theorem seqCommitted_flaws (d : Dev) (s : Nat) (c : Seq) : (seqCommitted d s c).flaws = d.flaws := rfl

theorem seqCommitted_job (d : Dev) (s : Nat) (c : Seq) (j : Nat) : (seqCommitted d s c).job j = d.job j := rfl

/-- What follows the change: the buffer's entries dropped, the tokens counted, the other modules told (R277, R310, R313). -/
def commitTold (d : Dev) (s : Nat) (q c : Seq) (a : Append) : Dev :=
  sendChange (((touchedPages q c).foldl (fun d i => d.labDrop s i) d).attnCount 5 a.tokens) c
    (changeBytes 0x21 s a.d a.tokens a.rows)

theorem commitTold_keeps (d : Dev) (s : Nat) (q c : Seq) (a : Append) : KeepsSequences d (commitTold d s q c a) := by
  refine (sendChange_keeps _ _ _).after ((attnCount_keeps _ _ _).after (.foldl (fun e i => ?_) _ _))
  exact ofFields rfl rfl rfl rfl

section
variable {d : Dev} {s : Nat} {a : Append} {q : Seq}

/-- An append leaves what lies before the last page (R287). -/
theorem committedSeq_before (d : Dev) (q : Seq) (a : Append) {k : Nat} (hk : k < q.entries.length - 1) :
    (committedSeq d q a).entries[k]? = q.entries[k]? := by
  have hold : (q.entries ++ a.fresh.map fun f => ({ p0 := f.1, p1 := f.2 } : PtEntry))[k]? = q.entries[k]? :=
    List.getElem?_append_left (by omega)
  rw [committedSeq, filledEntries_getElem?, hold]
  simp [hk]

/-- A sequence of whole pages up to its last is as long as its last entry says (R275). -/
theorem committedSeq_length (d : Dev) (hsome : 0 < a.tokens)
    (hpages : q.entries.length + a.fresh.length = pagesOf (q.length + a.tokens)) :
    (committedSeq d q a).length = q.length + a.tokens := by
  have hlen : (committedSeq d q a).entries.length = pagesOf (q.length + a.tokens) := by
    rw [committedSeq, filledEntries_length, List.length_append, List.length_map, hpages]
  have hcover : 0 < pagesOf (q.length + a.tokens) := by
    unfold pagesOf
    omega
  have hlast : (committedSeq d q a).entries.getLast?.map (·.fill) =
      some (min 256 (q.length + a.tokens - 256 * (pagesOf (q.length + a.tokens) - 1))) := by
    rw [List.getLast?_eq_getElem?, hlen, committedSeq, filledEntries_getElem?, List.getElem?_eq_getElem (by
      rw [List.length_append, List.length_map]; omega), Option.map_some, Option.map_some, if_neg (by omega)]
  obtain ⟨e, he, hfill⟩ := Option.map_eq_some_iff.mp hlast
  rw [Seq.length, he]
  dsimp only
  rw [hlen, hfill]
  unfold pagesOf
  omega

theorem commitAppend_of_sound (happend : d.append s = some a) (hcopy : a.copy = none) (hflaws : d.flaws = [])
    (hq : appendSeq d s a.d a.split = q) {tail : PtEntry} (htail : q.entries.getLast?.getD { p0 := noPage } = tail)
    (hfirst : pagePoisoned d tail.p0 = false) (hsecond : pagePoisoned d tail.p1 = false) (hlost : splitLost d q = false) :
    commitAppend s d =
      commitAnswer (commitTold (seqCommitted (tokensWritten d q (committedSeq d q a) a) s (committedSeq d q a)) s q (committedSeq d q a) a)
        a.who := by
  unfold commitAppend
  rw [happend]
  dsimp only
  rw [hq, htail, scanPage_quiet hflaws, scanPage_quiet hflaws, ite_self, hfirst, hsecond, hlost]
  simp only [hcopy, Option.isSome_none, Bool.or_self, Bool.and_false, Bool.false_and, Bool.false_eq_true, if_false]
  cases a.who <;> rfl

/-- An append that waits for its commit ends in its sequence alone (R287). -/
theorem appendCommit_of_sound (happend : d.append s = some a) (hcopy : a.copy = none) (hflaws : d.flaws = [])
    (hq : appendSeq d s a.d a.split = q) {tail : PtEntry} (htail : q.entries.getLast?.getD { p0 := noPage } = tail)
    (hfirst : pagePoisoned d tail.p0 = false) (hsecond : pagePoisoned d tail.p1 = false) (hlost : splitLost d q = false) :
    ∃ e, commitAppend s d = commitAnswer e a.who ∧ e.flaws = [] ∧ (∀ k, e.seq k = if k = s then committedSeq d q a else d.seq k) ∧
      e.append s = none ∧ ∀ j, e.job j = d.job j := by
  have hwritten := tokensWritten_keeps d q (committedSeq d q a) a
  have htold := commitTold_keeps (seqCommitted (tokensWritten d q (committedSeq d q a) a) s (committedSeq d q a)) s q (committedSeq d q a) a
  have hquiet := (seqCommitted_flaws _ s (committedSeq d q a)).trans (hwritten.quiet hflaws)
  refine ⟨_, commitAppend_of_sound happend hcopy hflaws hq htail hfirst hsecond hlost, htold.quiet hquiet, fun k => ?_, ?_, fun j => ?_⟩
  · rw [htold.seq hquiet, seqCommitted_seq, hwritten.seq hflaws]
  · rw [htold.append hquiet, seqCommitted_append]
  · rw [htold.job hquiet, seqCommitted_job, hwritten.job hflaws]

/-- The answer, the end of a job included, changes no sequence and no append. -/
theorem commitAnswer_sequences (hflaws : d.flaws = []) (who : AppendBy) :
    (commitAnswer d who).attn.seqs = d.attn.seqs ∧ (commitAnswer d who).attn.appends = d.attn.appends := by
  cases who with
  | job j =>
    obtain ⟨e, hkept, hend⟩ := endJob_eq d j stDone 0
    obtain ⟨-, hseqs, happends, -⟩ := hkept hflaws
    rw [commitAnswer, hend]
    exact ⟨hseqs, happends⟩
  | tile t op => exact ⟨rfl, rfl⟩
  | ring => exact ⟨rfl, rfl⟩

/-- The job that asked for the append is DONE (R287). -/
theorem commitAnswer_job {j : Nat} {y : Job} (hj : d.job j = some y) (hrun : y.phase = .running) :
    (commitAnswer d (.job j)).job j = some { y with phase := .ended, status := stDone, cause := 0 } := by
  rw [commitAnswer, endJob_job, Dev.job_updJob_self _ _ _ (Job.endedWith_id _ _), hj, Option.map_some, Job.endedWith,
    if_neg (by simp [hrun])]

end

/-! ### Attention entries (R303 to R305) -/

section
variable {d : Dev} {j k : Nat} {a : AttendJob} {x : Job} {e : AttendEntry}

theorem Dev.attendOf_job (h : d.attendOf j = some a) : a.job = j := by simpa using List.find?_some h

theorem scanAddr_quiet (h : d.flaws = []) (i : Option Nat) (b n kind : Nat) : scanAddr d i b n kind = d := by
  unfold scanAddr
  split
  · exact scanMem_quiet h _ _ _ _
  · rfl

theorem scanEntry_quiet (h : d.flaws = []) (j : Nat) (a : AttendJob) (e : AttendEntry) : scanEntry d j a e = d := by
  have hpages : ((pagesRead [e]).foldl (fun d p => scanMem d (some j) ekJob (pageAddr d p) pageBytes) d) = d :=
    List.foldlRecOn _ _ (motive := (· = d)) rfl fun c hc p _ => by rw [hc, scanMem_quiet h]
  rw [scanEntry, hpages, scanAddr_quiet h]

/-- An entry that does not go round the ring is whole on this module (R312). -/
theorem ringLost_of_local (h : e.ring a = false) (d : Dev) : ringLost d a e = false := by
  rw [ringLost, h, Bool.false_and]

/-- The entry is next of its job, and its tile runs for the job (R303). -/
structure EntryTurn (d : Dev) (j k : Nat) (a : AttendJob) (x : Job) (e : AttendEntry) : Prop where
  attend : d.attendOf j = some a
  job : d.job j = some x
  entry : a.entries[k]? = some e
  undone : e.done = false
  next : (a.entries.take k).any (!·.done) = false
  tile : (d.tile e.tile).job = some j
  running : d.fld tileStateState e.tile = tsRunning
  quiet : d.flaws = []
  whole : e.ring a = false

/-- Pages that cannot be read end the job (R306). -/
theorem attendWrite_of_uncorrectable (h : EntryTurn d j k a x e) : attendWrite j k true d =
    let g := match (pagesRead [e]).head? with
      | some p => foundUncorr d (pageAddr d p) ekJob
      | none => d
    failAttend g a stUncorrectable := by
  obtain ⟨hattend, hjob, hentry, hundone, hnext, htile, hrunning, hquiet, hwhole⟩ := h
  unfold attendWrite
  rw [hattend, hjob]
  dsimp only
  rw [hentry]
  dsimp only
  rw [if_neg (by simp [hundone, hnext, htile, hrunning]), ringLost_of_local hwhole, if_neg Bool.false_ne_true, scanEntry_quiet hquiet,
    if_pos (by simp)]
  rfl

/-- The rows of an entry computed: query index, row number, partial result (R303, R304). -/
def rowsComputed (d : Dev) (a : AttendJob) (x : Job) (e : AttendEntry) (qs : List (Nat × Nat × List Nat)) : List (Nat × Nat × RowAcc) :=
  qs.map fun q => (q.1, q.2.1, rowPartial d x.strict a.d a.smScale q.2.2 e q.1)

/-- Their outputs: row number, and what `writeRow` writes. -/
def rowOutputs (e : AttendEntry) (rs : List (Nat × Nat × RowAcc)) : List (Nat × Nat × Nat × List (Nat × Fl)) :=
  rs.map fun r => (r.2.1, rowOutput e r.1 r.2.2.m r.2.2.l r.2.2.o)

/-- The device once the rows `rs` of an entry that does not go round the ring are written, their flags and statistics with them, and the
scores of its pages updated (R80, R297, R303 to R305). -/
def rowsWritten (d : Dev) (a : AttendJob) (e : AttendEntry) (rs : List (Nat × Nat × RowAcc)) : Dev :=
  let outs := rowOutputs e rs
  let g := mergeFlags (noteRows d e.tile (rs.map (·.2.2))) e.tile (outs.foldl (fun f o => o.2.2.2.foldl (fun f v => f ||| v.2) f) flNone)
  let g := outs.foldl (fun g o => writeRow g a o.1 (o.2.1, o.2.2.1, o.2.2.2.map (·.1))) g
  let g := g.attnCount 10 (rs.filter fun r => !attendsAny e r.1).length
  updateScores g e (entryMasses e a.hq (((rs.map fun r => r.2.2.part r.2.1).zip outs).map fun p => (p.1, p.2.2.1, p.2.2.2.1)))

/-- Without an armed NaN watch, readable queries give the entry's outputs, and the entry is done (R303). -/
theorem attendWrite_of_read (h : EntryTurn d j k a x e) (hpages : (pagesRead [e]).any (pagePoisoned d) = false)
    {qs : List (Nat × Nat × List Nat)} (hread : readQueries d a (entryRows a e) = .ok qs) (hwatch : x.nanWatch = false) :
    attendWrite j k false d = endAttend ((rowsWritten d a e (rowsComputed d a x e qs)).updAttend j fun a =>
      { a with entries := listSet a.entries k { e with done := true } }) j := by
  obtain ⟨hattend, hjob, hentry, hundone, hnext, htile, hrunning, hquiet, hwhole⟩ := h
  unfold attendWrite
  rw [hattend, hjob]
  dsimp only
  rw [hentry]
  dsimp only
  rw [if_neg (by simp [hundone, hnext, htile, hrunning]), ringLost_of_local hwhole, if_neg Bool.false_ne_true, scanEntry_quiet hquiet,
    if_neg (by simpa using hpages), hread]
  dsimp only
  rw [hwatch, hwhole, Bool.and_false]
  rfl

end

/-! ### Round the ring (R310, R311) -/

section
variable {d : Dev} {j : Nat} {a : AttendJob} {x : Job} {e : AttendEntry} {r : RowPart}

/-- A partial result goes to the job of its TAG: it waits for this module's own, or goes on (R311). -/
theorem ringPartial_of_job (hattend : d.attendOf j = some a) (hjob : d.job j = some x) (hentry : a.entries[entryOfRow a r.row]? = some e)
    (hring : e.ring a = true) (hlost : ringLost d a e = false)
    (hfind : d.jobs.find? (fun y => y.desc.tag = x.desc.tag && y.desc.opcode = opAttend && y.phase ≠ .ended) = some x)
    (hnew : r.row ∉ a.ringRows) (hwidth : r.o.length = a.d) : ringPartial x.desc.tag r d =
      if e.done then endAttend (passRow x (entryOfRow a r.row) r d) j
      else if (x.desc.tag, r) ∈ d.attn.early then d
      else { d with attn := { d.attn with early := d.attn.early ++ [(x.desc.tag, r)] } } := by
  obtain rfl := Dev.job_id hjob
  unfold ringPartial
  dsimp only
  rw [hfind]
  dsimp only
  rw [hattend]
  dsimp only
  rw [hentry]
  dsimp only
  rw [if_neg (by simp [hring, hnew, hwidth]), hlost, if_neg Bool.false_ne_true]
  cases e.done <;> simp

theorem execRingSplitPartial_of_job {s : State} (hjob : s.dev.job j = some x) (row : Nat) (m l : U32) (o : List U32) :
    execRingSplitPartial j row m l o s =
      leaves s (ringPartial x.desc.tag { row := row, m := m.toNat, l := l.toNat, o := o.map (·.toNat) } s.dev) := by
  rw [execRingSplitPartial, onDev_next, hjob]
  rfl

/-- The entry after a row has gone through, noted with the row (R311). -/
def rowNoted (d : Dev) (j k row : Nat) (e : AttendEntry) : Dev :=
  d.updAttend j fun a => { a with ringRows := a.ringRows ++ [row], entries := listSet a.entries k e }

/-- The tiles' windows lie beside PLK_STATUS. -/
theorem mergeFlags_ringPos (d : Dev) (t : Nat) (fl : Fl) : (mergeFlags d t fl).ringPos = d.ringPos := by
  have hword : bankWord (mergeFlags d t fl).regs rPlkStatus = bankWord d.regs rPlkStatus :=
    bankWord_set_ne _ _ (by simp only [rPlkStatus, rTileFpFlags]; omega)
  exact congrArg (bits ·.toNat 2 0) hword

variable {k : Nat} (hattend : d.attendOf j = some a) (hjob : d.job j = some x) (hentry : a.entries[k]? = some e)
  (hwatch : x.nanWatch = false)
include hattend hjob hentry hwatch

/-- On module 0 a row has gone round: it is divided and written (R311). -/
theorem passRow_home (hpos : d.ringPos = 0) : passRow x k r d =
    let i := (r.row - e.row0) / a.hq
    let out := rowOutput e i r.m r.l r.o
    let g := mergeFlags d e.tile (out.2.2.foldl (fun f v => f ||| v.2) flNone)
    let g := if attendsAny e i then g else g.attnCount 10
    closeEntry x k (rowNoted (writeRow g a r.row (out.1, out.2.1, out.2.2.map (·.1))) j k r.row
      { e with finals := e.finals ++ [(r.row, out.1, out.2.1)] }) := by
  obtain rfl := Dev.job_id hjob
  unfold passRow
  rw [hattend]
  dsimp only
  rw [hentry]
  dsimp only
  rw [if_pos hpos, hwatch, Bool.false_and, if_neg Bool.false_ne_true]
  rfl

/-- Elsewhere it is combined with this module's own and goes on to the next module, or home (R311). -/
theorem passRow_onward (hpos : d.ringPos ≠ 0) {own : RowPart} (hown : e.parts.find? (fun p => p.row = r.row) = some own) :
    passRow x k r d =
      let c := combinePartial r own
      sendPartial (rowNoted (mergeFlags d e.tile c.2) j k r.row e) x (if d.ringPos + 1 = e.ringM then 0 else d.ringPos + 1) c.1 := by
  obtain rfl := Dev.job_id hjob
  unfold passRow
  rw [hattend]
  dsimp only
  rw [hentry]
  dsimp only
  rw [if_neg hpos, hown]
  dsimp only
  rw [hwatch, Bool.false_and, if_neg Bool.false_ne_true, mergeFlags_ringPos]
  rfl

end

/-- Settles O32: a copy and a commit change their sequence alone, a job's end included; an entry's turn, a change from module 0 and a
partial result follow the equations of their functions. -/
theorem sequenceEventResults : Obligations.SequenceEventResults := by
  unfold Obligations.SequenceEventResults
  refine ⟨fun s q a src dst happend hcopy hflaws hfirst hsecond hentries hlost => ?copied,
    fun s q a happend hcopy hflaws hfirst hsecond hlost hsome hpages => ?committed,
    fun s j k a x e hattend hjob hentry hundone hnext htile hrunning hquiet hwhole => ?attended,
    fun s c => ⟨fun hring hpos => ?change, fun hpos => ?home⟩,
    fun s j row m l o a x e hattend hjob hentry hring hlost hfind hnew hwidth hwatch =>
      ⟨fun hdone hearly => ?early, fun hdone hpos => ?last, fun own hdone hpos hown => ?onward⟩⟩
  case copied =>
    have hcopied := tailCopied_keeps s.dev (s.dev.seq q) src dst
    have hquiet := hcopied.quiet hflaws
    have hleft := sourceLeft_keeps (tailNamed (tailCopied s.dev (s.dev.seq q) src dst) q (s.dev.seq q) dst) src
    have hself := hleft.seq hquiet q
    rw [tailNamed_seq, if_pos rfl] at hself
    have hlast : (s.dev.seq q).entries.length - 1 < (s.dev.seq q).entries.length := by
      have := List.length_pos_of_ne_nil hentries
      omega
    refine ⟨sourceLeft (tailNamed (tailCopied s.dev (s.dev.seq q) src dst) q (s.dev.seq q) dst) src, _, ?_,
      List.getElem?_eq_getElem hlast, ?_, fun k hk => ?_, fun k hk => ?_, ?_⟩
    · rw [exec_pageCopyDone, execPageCopyDone, onDev_next, copyDone_of_sound happend hcopy hflaws hfirst hsecond hlost]
      rfl
    · rw [hself]
      exact tailAt_last (List.getElem?_eq_getElem hlast) dst
    · rw [hself]
      exact tailAt_before _ dst hk
    · rw [hleft.seq hquiet, tailNamed_seq, if_neg hk, hcopied.seq hflaws]
    · rw [hleft.append hquiet]
      exact tailNamed_append ((hcopied.append hflaws q).trans happend) _
  case committed =>
    obtain ⟨e, hcommit, hquiet, hseqs, hdropped, hjobs⟩ := appendCommit_of_sound happend hcopy hflaws rfl rfl hfirst hsecond hlost
    obtain ⟨hkeepSeqs, hkeepAppends⟩ := commitAnswer_sequences hquiet a.who
    have hself : (commitAnswer e a.who).seq q = committedSeq s.dev (appendSeq s.dev q a.d a.split) a := by
      rw [Dev.seq_congr hkeepSeqs, hseqs, if_pos rfl]
    refine ⟨commitAnswer e a.who, ?_, ?_, ?_, ?_, fun k hk => ?_, fun k hk => ?_, ?_, fun j y hwho hjob hrun => ?_⟩
    · rw [exec_appendCommit, execAppendCommit, onDev_next, hcommit]
      rfl
    · rw [hself]
      rfl
    · rw [hself]
      rfl
    · rw [hself]
      exact committedSeq_length _ hsome hpages
    · rw [hself]
      exact committedSeq_before _ _ _ hk
    · rw [Dev.seq_congr hkeepSeqs, hseqs, if_neg hk]
    · rw [Dev.append_congr hkeepAppends, hdropped]
    · rw [hwho]
      exact ⟨_, commitAnswer_job ((hjobs j).trans hjob) hrun, rfl, rfl⟩
  case attended =>
    have hturn : EntryTurn s.dev j k a x e := ⟨hattend, hjob, hentry, hundone, hnext, htile, hrunning, hquiet, hwhole⟩
    refine ⟨?_, fun qs hpages hread hwatch => ?_⟩
    · rw [exec_attendOutputWrite, execAttendOutputWrite, onDev_next, attendWrite_of_uncorrectable hturn, failAttend,
        Dev.attendOf_job hattend]
      rfl
    · rw [exec_attendOutputWrite, execAttendOutputWrite, onDev_next, attendWrite_of_read hturn hpages hread hwatch]
      rfl
  case change =>
    rw [exec_splitChangeMessage, execSplitChangeMessage, onDev_next, if_neg (by simp [hring.not_ge, hpos])]
    rfl
  case home =>
    rw [exec_splitChangeMessage, execSplitChangeMessage, onDev_next, if_pos (by simp [hpos])]
  all_goals
    have hpartial := ringPartial_of_job (r := { row := row, m := m.toNat, l := l.toNat, o := o.map (·.toNat) }) hattend hjob hentry hring
      hlost hfind hnew ((List.length_map _).trans hwidth)
    rw [hdone] at hpartial
    rw [exec_ringSplitPartial, execRingSplitPartial_of_job hjob, hpartial]
  case early => rw [if_neg Bool.false_ne_true, if_neg hearly]
  case last =>
    rw [if_pos rfl, passRow_home hattend hjob hentry hwatch hpos]
    rfl
  case onward =>
    rw [if_pos rfl, passRow_onward hattend hjob hentry hwatch hpos hown]
    rfl

end Sys2Proof.Machine
end

section
/-! PROOFS. The commands of the jobs' rows and the fetch of their descriptors (R318, R319, R347, R348, R361 to R365, R380, R557): O24. -/

namespace Sys2Proof.Machine

/-! ### A descriptor fetched by the command of its row, and by that of another -/

section
variable {d : Dev} {q : Nat} {hm : Outside} {x : Desc} {sel : Dev → Desc → Bool} {adm run : Nat → Dev → Dev}

/-- A job that is no ring job is not sent to the other modules (R351). -/
theorem ringSetup_of_not_ring {j : Nat} (h : ∀ y, d.job j = some y → y.ring = false) : ringSetup d j = d := by
  unfold ringSetup
  split
  next => rfl
  next y hy => simp [h y hy]

/-- The command of another row reads the descriptor and leaves it in the ring. -/
theorem fetchJob_of_other_row (h : Fetches d q hm x) (hsel : sel (scanned d q hm) x = false) :
    fetchJob q hm sel adm run d = scanned d q hm := by
  obtain ⟨hnext, ⟨raw, hraw, hx⟩, -⟩ := h
  simp only [scanned] at *
  simp [fetchJob, hnext, hraw, hx, hsel]

/-- A descriptor that R364 accepts becomes a job, which goes on as far as its waits allow. -/
theorem fetchJob_of_accepted (h : Accepted d q hm x) (hsel : sel (scanned d q hm) x = true) :
    fetchJob q hm sel adm run d = proceed adm run (opened d q hm x).2 (opened d q hm x).1 := by
  obtain ⟨⟨hnext, ⟨raw, hraw, hx⟩, hstep⟩, hbad, hchain, habort, hoff, hring, hjob, hstart⟩ := h
  have hsetup := ringSetup_of_not_ring hjob
  simp only [scanned, opened] at *
  have hontime : ¬(¬x.startCount = 0 ∧ 1000 * x.startCount < (openJob (placeHost d hm) q x).1.now) :=
    fun hlate => absurd (hstart hlate.1) (Nat.not_le.mpr hlate.2)
  simp [fetchJob, hnext, hraw, hx, hsel, hstep, hbad, hchain, habort, hoff, hring, hsetup, hontime]

end

/-! ### The rows and their opcodes -/

section
variable (q : Nat) (hm : Outside)

/-- The rows whose jobs are dispatched by opcode as they are admitted and as they run. -/
def jobRows : List (Instr × Nat) :=
  [(.runGraph q hm, 0x01), (.loadImage q hm, 0x02), (.unloadImage q hm, 0x03), (.copy q hm, 0x30), (.fill q hm, 0x31),
   (.fence q hm, 0x40), (.abort q hm, 0x41), (.replayCtl q hm, 0x51)]

/-- The rows of the Solve family. -/
def solveJobRows : List (Instr × Nat) :=
  [(.solve q hm, 0x10), (.solveBatch q hm, 0x11), (.estimate q hm, 0x12), (.scenarioSolve q hm, 0x13)]

/-- The rows of the Attend family. -/
def attendJobRows : List (Instr × Nat) :=
  [(.attend q hm, 0x20), (.kvAppend q hm, 0x21), (.seqFork q hm, 0x22), (.seqFree q hm, 0x23), (.seqEvict q hm, 0x24)]

/-- The rows of RECORD_CTL with their actions. -/
def recordJobRows : List (Instr × Nat) := [(.recordStart q hm, 0), (.recordStop q hm, 1), (.recordSwitch q hm, 2)]

/-- The command of each row of `l` fetches a descriptor that carries the row's opcode. -/
def FetchByOpcode (l : List (Instr × Nat)) (adm run : Nat → Dev → Dev) : Prop :=
  ∀ e ∈ l, ∀ s, exec e.1 s = leaves s (fetchJob q hm (isOp e.2) adm run s.dev)

theorem jobRows_fetchByOpcode : FetchByOpcode q hm (jobRows q hm) admitJob runJob := by
  simp only [FetchByOpcode, jobRows, List.forall_mem_cons]
  exact ⟨fun _ => rfl, fun _ => rfl, fun _ => rfl, fun _ => rfl, fun _ => rfl, fun _ => rfl, fun _ => rfl, fun _ => rfl, nofun⟩

theorem solveJobRows_fetchByOpcode : FetchByOpcode q hm (solveJobRows q hm) admitSolve runSolve := by
  simp only [FetchByOpcode, solveJobRows, List.forall_mem_cons]
  exact ⟨fun _ => rfl, fun _ => rfl, fun _ => rfl, fun _ => rfl, nofun⟩

theorem attendJobRows_fetchByOpcode : FetchByOpcode q hm (attendJobRows q hm) admitAttn runAttn := by
  simp only [FetchByOpcode, attendJobRows, List.forall_mem_cons]
  exact ⟨fun _ => rfl, fun _ => rfl, fun _ => rfl, fun _ => rfl, fun _ => rfl, nofun⟩

variable {q hm} {l : List (Instr × Nat)} {adm run : Nat → Dev → Dev} {x : Desc} {e : Instr × Nat} {s : State}

/-- The command of the descriptor's row starts its job. -/
theorem FetchByOpcode.starts (h : FetchByOpcode q hm l adm run) (hacc : Accepted s.dev q hm x) (he : e ∈ l) (hop : x.opcode = e.2) :
    exec e.1 s = leaves s (proceed adm run (opened s.dev q hm x).2 (opened s.dev q hm x).1) := by
  rw [h e he s, fetchJob_of_accepted hacc (decide_eq_true hop)]

/-- The command of another row leaves the descriptor where it is. -/
theorem FetchByOpcode.passesOver (h : FetchByOpcode q hm l adm run) (hfetch : Fetches s.dev q hm x) (he : e ∈ l) (hop : x.opcode ≠ e.2) :
    exec e.1 s = leaves s (scanned s.dev q hm) := by
  rw [h e he s, fetchJob_of_other_row hfetch (decide_eq_false hop)]

/-- The command of a RECORD_CTL's action starts its job (R345, R347). -/
theorem recordJobRows_start (hacc : Accepted s.dev q hm x) (he : e ∈ recordJobRows q hm) (hop : x.opcode = opRecord)
    (haction : recordAction (scanned s.dev q hm) x = some e.2) :
    exec e.1 s = leaves s (proceed admitJob runJob (opened s.dev q hm x).2 (opened s.dev q hm x).1) := by
  simp only [recordJobRows, List.mem_cons, List.not_mem_nil, or_false] at he
  rcases he with rfl | rfl | rfl
  · rw [exec_recordStart, execRecordStart, onDev, fetchJob_of_accepted hacc (by simp [hop, haction])]
    rfl
  · rw [exec_recordStop, execRecordStop, onDev, fetchJob_of_accepted hacc (by simp [isRecord, hop, haction])]
    rfl
  · rw [exec_recordSwitch, execRecordSwitch, onDev, fetchJob_of_accepted hacc (by simp [isRecord, hop, haction])]
    rfl

end

/-- Settles O24: each row's command fetches by its opcode, RECORD_CTL's by the action of its block as well; what is accepted proceeds. -/
theorem jobFetchResults : Obligations.JobFetchResults := by
  unfold Obligations.JobFetchResults
  intro s q hm x d p all solving attending recording
  have hplain : FetchByOpcode q hm all admitJob runJob := jobRows_fetchByOpcode q hm
  have hsolve : FetchByOpcode q hm solving admitSolve runSolve := solveJobRows_fetchByOpcode q hm
  have hattend : FetchByOpcode q hm attending admitAttn runAttn := attendJobRows_fetchByOpcode q hm
  refine ⟨fun hacc => ⟨fun e => hplain.starts hacc, fun e => hsolve.starts hacc, fun e => hattend.starts hacc,
    fun e => recordJobRows_start hacc⟩, fun hfetch e he hop => ?_⟩
  rcases List.mem_append.mp he with he | he
  · rcases List.mem_append.mp he with he | he
    · exact hplain.passesOver hfetch he hop
    · exact hsolve.passesOver hfetch he hop
  · exact hattend.passesOver hfetch he hop

end Sys2Proof.Machine
end

section
/-! PROOFS. What takes a tile out of service, drains it and sets its duty (R329, R333, R334, R337, R484, R485, R546): O23. -/

namespace Sys2Proof.Machine

/-! ### Retirement (R333, R546) -/

/-- A tile that serves is retired, and the repair record names it once. -/
theorem retire_of_serving {s : State} {t : Nat} (ht : t < tileCount) (hserves : (s.dev.tile t).service ≠ .retired) (reason : Nat) :
    retire t reason s = keepRepair (fun r => { r with retired := if t ∈ r.retired then r.retired else r.retired ++ [t] })
      { s with dev := retireTile t reason s.dev } := by
  simp only [retire, Nat.not_le.mpr ht, hserves, decide_false, Bool.or_self, Bool.false_eq_true, if_false, List.contains_iff_mem]

/-! ### Drain (R337) -/

/-- Tile `t` of image `n`, its logical tile `l`, can be drained onto tile `u`: the image is neither loading nor unloading, its copy can
be read, no other drain goes on, the tile keeps its role, and what has not started there fits on `u`. -/
structure Drainable (d : Dev) (t n l u : Nat) (im : Image) : Prop where
  holds : (d.tile t).image = some n
  image : d.image n = some im
  staying : im.unloading = none
  loaded : im.loading = none
  place : (upto im.place.length).find? (fun l => im.place.getD l none = some t) = some l
  substitute : pickSubstitute d t = some u
  quiet : ∀ k < tileCount, (d.tile k).drainTo = none
  settled : (d.tile t).roleTo = none
  readable : copyReadable d n = true
  fits : fitsAll u (unstarted d t) d = true

theorem tileDrain_of_drainable {d : Dev} {t n l u : Nat} {im : Image} (h : Drainable d t n l u im) :
    tileDrain t d = moveWork (prepareSub (d.updTile t fun y => { y with drainTo := some u }) n l u t) t u := by
  have hidle : ((upto tileCount).any fun k => (d.tile k).drainTo.isSome) = false :=
    List.any_eq_false.mpr fun k hk => by simp [h.quiet k (List.mem_range.mp hk)]
  simp only [tileDrain, h.holds, h.image, h.staying, h.loaded, h.place, h.substitute, hidle, h.settled, h.readable, h.fits,
    Option.bind_some, Option.isSome_none, Bool.or_self, Bool.not_true, Bool.false_eq_true, if_false]

/-! ### Thermal duty (R329, R484) -/

section
variable {s : State} {r : Nat} (hr : r < 16) (hready : fwReady s.dev = true)
include hr hready

theorem exec_throttleStep_of_ready : exec (.throttleStep r) s = leaves s
    (if 16 * throttleC s.dev < s.dev.sfld mgmtTempTemp r then regionDuty (fun n => max 1 (n - 1)) r s.dev else s.dev) := by
  simp only [exec_throttleStep, execThrottleStep, onDev, leaves, hr, hready, decide_true, Bool.true_and, decide_eq_true_eq]

theorem exec_dutyRaiseStep_of_ready : exec (.dutyRaiseStep r) s = leaves s
    (if s.dev.sfld mgmtTempTemp r < 16 * (throttleC s.dev - 3) then regionDuty (fun n => min 16 (n + 1)) r s.dev else s.dev) := by
  simp only [exec_dutyRaiseStep, execDutyRaiseStep, onDev, leaves, hr, hready, decide_true, Bool.true_and, decide_eq_true_eq]

end

/-- Settles O23: a retirement, a drain and a change of duty are each decided by one test of the state that the command finds. -/
theorem tileServiceResults : Obligations.TileServiceResults := by
  unfold Obligations.TileServiceResults
  refine ⟨fun s t reason ht hready => ⟨fun hserves => ?retired,
    fun n im l u hholds himage hstaying hloaded hplace hsub hquiet hsettled hreadable hfits => ?drained⟩,
    fun s r hr hready => ⟨fun hhot => ?falls, fun hcool => ?rises, fun hlow hhigh => ⟨?keepsDown, ?keepsUp⟩⟩⟩
  case retired => rw [exec_tileRetire, execTileRetire, if_pos hready, retire_of_serving ht hserves]
  case drained =>
    rw [exec_tileDrain, execTileDrain, onDev, if_pos hready, tileDrain_of_drainable
      ⟨hholds, himage, hstaying, hloaded, hplace, hsub, hquiet, hsettled, hreadable, hfits⟩]
    rfl
  case falls =>
    rw [exec_throttleStep_of_ready hr hready, if_pos hhot]
    rfl
  case rises =>
    rw [exec_dutyRaiseStep_of_ready hr hready, if_pos hcool]
    rfl
  case keepsDown =>
    rw [exec_throttleStep_of_ready hr hready, if_neg hhigh.not_gt]
    rfl
  case keepsUp =>
    rw [exec_dutyRaiseStep_of_ready hr hready, if_neg hlow.not_gt]
    rfl

end Sys2Proof.Machine
end

section
/-! PROOFS. Items of work, output blocks and the end of an image (R318, R322, R328, R557): O27. -/

namespace Sys2Proof.Machine

/-! ### The item that runs next (R328) -/

/-- The first of those behind an item goes before it just if it has a deadline and the item has none, or a later one. -/
theorem nextItem_cons (x : Item) {k : Item} {l : List Item} (h : nextItem l = some k) :
    (nextItem (x :: l) = some k ∧ ∃ b, k.deadline = some b ∧ ∀ a, x.deadline = some a → b < a) ∨
    (nextItem (x :: l) = some x ∧ ∀ b, k.deadline = some b → ∃ a, x.deadline = some a ∧ a ≤ b) := by
  cases hx : x.deadline with
  | none => cases hk : k.deadline with
    | none => exact .inr ⟨by simp [nextItem, h, hx, hk], nofun⟩
    | some b => exact .inl ⟨by simp [nextItem, h, hx, hk], b, rfl, nofun⟩
  | some a => cases hk : k.deadline with
    | none => exact .inr ⟨by simp [nextItem, h, hx, hk], nofun⟩
    | some b =>
      rcases Nat.lt_or_ge b a with hlt | hle
      · exact .inl ⟨by simp [nextItem, h, hx, hk, hlt], b, rfl, fun _ hc => Option.some.inj hc ▸ hlt⟩
      · exact .inr ⟨by simp [nextItem, h, hx, hk, hle.not_gt], fun _ hc => ⟨a, rfl, Option.some.inj hc ▸ hle⟩⟩

theorem nextItem_last (x : Item) {l : List Item} (h : nextItem l = none) : nextItem (x :: l) = some x := by simp only [nextItem, h]

theorem nextItem_eq_none {l : List Item} (h : nextItem l = none) : l = [] := by
  cases l with
  | nil => rfl
  | cons x l =>
    cases hl : nextItem l with
    | none => cases h.symm.trans (nextItem_last x hl)
    | some k => rcases nextItem_cons x hl with ⟨hnext, -⟩ | ⟨hnext, -⟩ <;> cases h.symm.trans hnext

/-- The next item is one of those that wait, and no deadline there is earlier than its own. -/
theorem nextItem_earliest {l : List Item} {i : Item} (h : nextItem l = some i) :
    i ∈ l ∧ ∀ k ∈ l, ∀ a, k.deadline = some a → ∃ b, i.deadline = some b ∧ b ≤ a := by
  induction l generalizing i with
  | nil => cases h
  | cons x l ih =>
    cases hl : nextItem l with
    | none =>
      obtain rfl := nextItem_eq_none hl
      obtain rfl : x = i := Option.some.inj h
      exact ⟨List.mem_singleton_self x, fun k hk a ha => ⟨a, List.mem_singleton.mp hk ▸ ha, Nat.le_refl a⟩⟩
    | some k =>
      obtain ⟨hmem, hmin⟩ := ih hl
      rcases nextItem_cons x hl with ⟨hnext, b, hb, hbefore⟩ | ⟨hnext, hbefore⟩
      · obtain rfl : k = i := Option.some.inj (hnext.symm.trans h)
        refine ⟨List.mem_cons_of_mem x hmem, List.forall_mem_cons.mpr ⟨fun a ha => ⟨b, hb, (hbefore a ha).le⟩, hmin⟩⟩
      · obtain rfl : x = i := Option.some.inj (hnext.symm.trans h)
        refine ⟨List.mem_cons_self, List.forall_mem_cons.mpr ⟨fun a ha => ⟨a, ha, Nat.le_refl a⟩, fun y hy a ha => ?_⟩⟩
        obtain ⟨b, hb, hle⟩ := hmin y hy a ha
        obtain ⟨c, hc, hcb⟩ := hbefore b hb
        exact ⟨c, hc, hcb.trans hle⟩

/-! ### The start of an item (R318, R328) -/

section
variable {d : Dev} {t : Nat} {x : Job}

/-- On a tile without items that no problem has reserved, nothing runs before an item. -/
theorem sooner_of_unreserved (hitems : (d.tile t).items = []) (hfree : ∀ p ∈ d.solv.problems, t ∉ p.reserved)
    (dl : Option (Nat × Nat)) : sooner d t dl = false := by
  have hnone : ∀ p ∈ d.solv.problems, p.reserved.contains t = false := fun p hp => by simpa using hfree p hp
  simp only [sooner, hitems, List.any_nil, Bool.or_false]
  exact List.any_eq_false.mpr fun p hp => by simp only [hnone p hp, Bool.false_and, Bool.false_eq_true, not_false_eq_true]

theorem dispatchTile_of_next {i : Item} (hfree : tileFree d t = true) (hnext : nextItem (d.tile t).items = some i)
    (hjob : d.job i.job = some x) (hunreserved : ∀ p ∈ d.solv.problems, t ∉ p.reserved) (hshort : tooLong d t i = false) :
    dispatchTile t d = startItem (d.updTile t fun y => { y with items := y.items.erase i }) t x := by
  have hfirst := sooner_of_unreserved (d := d.updTile t fun y => { y with items := [] }) (t := t)
    (congrArg Tile.items (Dev.tile_updTile_self ..)) hunreserved (i.deadline.map fun a => (a, admOrder d i.job 0))
  simp only [dispatchTile, hfree, hnext, hshort, hjob, Bool.not_true, Bool.false_or, Bool.false_eq_true, if_false]
  exact if_neg (Bool.eq_false_iff.mp hfirst)

/-- Best-effort work too long for the tile waits. -/
theorem dispatchTile_of_tooLong {i : Item} (hnext : nextItem (d.tile t).items = some i) (hlong : tooLong d t i = true) :
    dispatchTile t d = d := by
  simp only [dispatchTile, hnext, hlong, Bool.true_or, if_true, ite_self]

theorem entryPc_dequeued (i : Item) (entry : Nat) :
    entryPc (d.updTile t fun y => { y with items := y.items.erase i }) t entry = entryPc d t entry := by
  simp only [entryPc, Dev.tile_updTile_self]
  rfl

theorem startItem_of_graph {pc : Nat} (hop : x.desc.opcode = opRunGraph) (hpc : entryPc d t x.desc.entry = some pc) :
    startItem d t x = startTile d t x (BitVec.ofNat 32 pc) false := by
  simp [startItem, hop, hpc]

theorem startItem_of_vendor (hop : x.desc.opcode ≠ opRunGraph) : startItem d t x = startTile d t x 0 true := by
  simp [startItem, hop]

/-! ### Output blocks (R318) and the end of an image (R557) -/

variable {j : Nat} {im : Image}

/-- The output rows of a graph whose tiles are all done are written to AUX, and the job ends. -/
theorem graphOutputCopy_of_admitted {io : EntryIo} (hjob : d.job j = some x) (himage : d.image x.desc.image = some im)
    (hphase : x.phase = .running) (hout : x.outCopy = true) (htiles : x.tiles = []) (hfault : x.fault = none)
    (hio : im.entryIo.getD x.desc.entry {} = io) (htile : im.tileAt io.outTile = some t) (hfirst : outputWaits (d.tile t) j = false)
    (hadmits : headerVerdict d t (outputHdr d t j io) = .admits) (hkind : ((d.tile t).hnd io.outHandle).kind = 0)
    (hflaws : (d.tile t).flaws = []) : graphOutputCopy j d =
      let w := writeAddr d x.desc.aux (((d.tile t).readRows ((d.tile t).hnd io.outHandle) io.outRow io.outRows).flatMap bytesOfRow)
      endJob (w.1.updJob j fun y => { y with outCopy := false }) j w.2 := by
  have hgo : ¬(x.phase ≠ .running || !x.outCopy || x.tiles ≠ [] || x.fault.isSome) = true := by simp [hphase, hout, htiles, hfault]
  simp only [graphOutputCopy, hjob, himage, hio, htile, hfirst, hadmits, finishOutput, remoteRows_local hkind hflaws,
    Bool.false_eq_true, if_true, if_false]
  exact if_neg hgo

/-- The image's tiles change to IDLE; an image that no tile holds is gone at once. -/
theorem unloadFinish_of_free (hjob : d.job j = some x) (himage : d.image x.desc.image = some im) (hphase : x.phase = .running)
    (hop : x.desc.opcode = opUnloadImage) (hafter : x.after = []) (hfirst : im.unloading = none) : unloadFinish j d =
      let n := x.desc.image
      let e := d.updImage n fun im => { im with unloading := some j }
      let ts := (upto tileCount).filter fun t => (e.tile t).image = some n || (e.tile t).loadFor.map (·.1) = some n
      if ts = [] then endJob (dropImage e n) j stDone
      else ts.foldl (fun d t => roleChangeStart (d.updTile t fun x => { x with image := some n, replaces := none }) t 0 none) e := by
  simp [unloadFinish, hjob, himage, hphase, hop, hafter, hfirst]

end

/-- Settles O27: the next item is the earliest and starts unless deadline work has to come first; a graph's output and an image's end
each wait for nothing else. -/
theorem foresterResults : Obligations.ForesterResults := by
  unfold Obligations.ForesterResults
  intro s t j x
  refine ⟨fun i hfree hnext hjob hunreserved hbound => ?starts, fun i hnext hbest hdeadline hlong => ?waits,
    fun l i => nextItem_earliest, fun im u hjob himage hphase hout htiles hfault htile hfirst hadmits hkind hflaws => ?output,
    fun im hjob himage hphase hop hafter hfirst => ?unload⟩
  case starts =>
    have hshort : tooLong s.dev t i = false := by
      cases hdl : i.deadline with
      | none => simp [tooLong, (hbound hdl).not_gt]
      | some a => simp [tooLong, hdl]
    rw [exec_itemDispatch, execItemDispatch, onDev, dispatchTile_of_next hfree hnext hjob hunreserved hshort]
    refine ⟨fun hop => ?_, fun pc hop hpc => ?_⟩
    · exact congrArg (leaves s) (startItem_of_vendor hop)
    · exact congrArg (leaves s) (startItem_of_graph hop ((entryPc_dequeued i _).trans hpc))
  case waits =>
    have htooLong : tooLong s.dev t i = true := by simp [tooLong, hbest, hdeadline, hlong]
    rw [exec_itemDispatch, execItemDispatch, onDev, dispatchTile_of_tooLong hnext htooLong]
  case output =>
    rw [exec_graphOutputCopy, execGraphOutputCopy, onDev,
      graphOutputCopy_of_admitted hjob himage hphase hout htiles hfault rfl htile hfirst hadmits hkind hflaws]
    rfl
  case unload =>
    rw [exec_unloadImageFinish, execUnloadImageFinish, unloadFinish_of_free hjob himage hphase hop hafter hfirst]
    rfl

end Sys2Proof.Machine
end

section
/-! PROOFS. The coalescing timer, messages of vectors, and passes of triggered rings (R369 to R371): O29. -/

namespace Sys2Proof.Machine

/-! ### The state of one ring -/

@[simp] theorem Dev.sq_updSq_self (d : Dev) (k : Nat) (f : SqState → SqState) : (d.updSq k f).sq k = f (d.sq k) :=
  mapGet_set_self _ _ _ _

theorem Dev.sq_updSq_ne (d : Dev) {k m : Nat} (f : SqState → SqState) (h : m ≠ k) : (d.updSq k f).sq m = d.sq m :=
  mapGet_set_ne _ _ _ _ h

@[simp] theorem Dev.sq_setFld (d : Dev) (f : Fld) (v i k : Nat) : (d.setFld f v i).sq k = d.sq k := rfl

@[simp] theorem Dev.updSq_fld (d : Dev) (k : Nat) (f : SqState → SqState) (g : Fld) (i : Nat) : (d.updSq k f).fld g i = d.fld g i := rfl

@[simp] theorem Dev.updSq_flag (d : Dev) (k : Nat) (f : SqState → SqState) (g : Fld) (i : Nat) : (d.updSq k f).flag g i = d.flag g i :=
  rfl

@[simp] theorem Dev.updCq_flag (d : Dev) (k : Nat) (f : CqState → CqState) (g : Fld) (i : Nat) : (d.updCq k f).flag g i = d.flag g i :=
  rfl

/-! ### Vectors (R369) -/

/-- A masked vector sets its pending bit. -/
theorem signalVector_of_masked {d : Dev} {v : Nat} (h : d.flag msixCtrlMask v = true) :
    signalVector d v = { d with
      regs := bankSet d.regs (rMsixPba + 4 * (v / 32)) (bankWord d.regs (rMsixPba + 4 * (v / 32)) ||| BitVec.ofNat 32 (2 ^ (v % 32))) } := by
  rw [signalVector, if_pos h]

/-- An unmasked vector sends its message while the link is up. -/
theorem signalVector_of_unmasked {d : Dev} {v : Nat} (h : d.flag msixCtrlMask v = false) (hlink : linkUp d = true) :
    signalVector d v = d.emit (.msix v (BitVec.ofNat 64 (d.fld msixAddrLoWord v + 2 ^ 32 * d.fld msixAddrHiWord v))
      (BitVec.ofNat 32 (d.fld msixDataWord v))) := by
  simp [signalVector, h, hlink]

/-- The timer of a ring with entries not yet signalled. -/
theorem exec_coalTimerExpiry_signals {s : State} {k : Nat} (hwait : (s.dev.cq k).unsignalled ≠ 0) (hus : s.dev.fld cqCfgCoalUs k ≠ 0)
    (hirq : s.dev.flag cqCfgIrqEn k = true) : exec (.coalTimerExpiry k) s =
      leaves s (signalVector (s.dev.updCq k fun c => { c with unsignalled := 0 }) (s.dev.fld cqCfgVector k)) := by
  simp [execCoalTimerExpiry, coalTimer, signalCq, hwait, hus, hirq, leaves]

/-! ### Passes (R370, R371) -/

/-- The ring has looked at the global count. -/
def countSeen (d : Dev) (k : Nat) : Dev := d.updSq k fun s => { s with lastTick := d.gcount }

theorem sq_countSeen (d : Dev) (k : Nat) : (countSeen d k).sq k = { d.sq k with lastTick := d.gcount } :=
  mapGet_set_self _ _ _ _

/-- A pass has started that waits for its submission, with room for its results in the completion ring. -/
def passStarted (d : Dev) (k n instant : Nat) : Dev :=
  (d.updSq k fun s => { s with pass := some ⟨0, instant, true⟩ }).updCq (d.fld sqCfgCq k) fun s => { s with reserved := s.reserved + n }

theorem sq_passStarted (d : Dev) (k n i : Nat) : (passStarted d k n i).sq k = { d.sq k with pass := some ⟨0, i, true⟩ } :=
  mapGet_set_self _ _ _ _

/-- Nothing but the rings' states has changed. -/
def RingsChanged (d e : Dev) : Prop := ∃ sqs cqs, e = { d with sqs := sqs, cqs := cqs }

theorem RingsChanged.beside {d e : Dev} (h : RingsChanged d e) : e = { d with sqs := e.sqs, cqs := e.cqs } := by
  obtain ⟨sqs, cqs, rfl⟩ := h; rfl

theorem RingsChanged.updSq {d e : Dev} (h : RingsChanged d e) (k : Nat) (f : SqState → SqState) : RingsChanged d (e.updSq k f) := by
  obtain ⟨sqs, cqs, rfl⟩ := h; exact ⟨_, cqs, rfl⟩

theorem RingsChanged.updCq {d e : Dev} (h : RingsChanged d e) (k : Nat) (f : CqState → CqState) : RingsChanged d (e.updCq k f) := by
  obtain ⟨sqs, cqs, rfl⟩ := h; exact ⟨sqs, _, rfl⟩

theorem ringsChanged_passStarted (d : Dev) (k n i : Nat) : RingsChanged d (passStarted (countSeen d k) k n i) :=
  (RingsChanged.updSq (RingsChanged.updSq ⟨d.sqs, d.cqs, rfl⟩ k _) k _).updCq _ _

/-- The room that the pass reserves in the ring's completion ring. -/
theorem reserved_passStarted (d : Dev) (k n i : Nat) :
    ((passStarted d k n i).cq (d.fld sqCfgCq k)).reserved = (d.cq (d.fld sqCfgCq k)).reserved + n := by
  rw [passStarted, Dev.cq_updCq_self]; rfl

section
variable {d : Dev} {k n : Nat}

theorem countEvent_of_deaf (h : takesEvents d k 9 = false) : countEvent d k = d := by
  simp [countEvent, h]

/-- The count has passed a multiple of the ring's period since the ring last looked. -/
theorem countEvent_of_due (h : takesEvents d k 9 = true) (hp : d.fld sqTrigPeriodUs k ≠ 0) (hsync : waitSync d = false)
    (hdue : (d.sq k).lastTick / d.fld sqTrigPeriodUs k < d.gcount / d.fld sqTrigPeriodUs k) :
    countEvent d k = raiseTrigger (countSeen d k) k (1000 * (d.gcount / d.fld sqTrigPeriodUs k * d.fld sqTrigPeriodUs k)) := by
  have hsync' : waitSync (countSeen d k) = false := hsync
  rw [countSeen] at hsync' ⊢
  simp [countEvent, h, hp, hsync', hdue]

theorem raiseTrigger_of_unarmed (instant : Nat) (h : (d.sq k).armed = none) :
    raiseTrigger d k instant = d.incFld sqDiscardCount k := by
  simp [raiseTrigger, h]

theorem raiseTrigger_of_full (instant : Nat) (h : (d.sq k).armed = some n) (hroom : cqRoom d (d.fld sqCfgCq k) n = false) :
    raiseTrigger d k instant = d.incFld sqDiscardCount k := by
  simp [raiseTrigger, h, hroom]

theorem raiseTrigger_of_room (instant : Nat) (h : (d.sq k).armed = some n) (hpass : (d.sq k).pass = none)
    (hroom : cqRoom d (d.fld sqCfgCq k) n = true) : raiseTrigger d k instant = passStarted d k n instant := by
  simp [raiseTrigger, passStarted, h, hpass, hroom]

/-- An event that is discarded leaves the ring without a pass, and nothing is submitted. -/
theorem triggeredPass_of_discarded (hpass : (d.sq k).pass = none) (h : countEvent d k = (countSeen d k).incFld sqDiscardCount k) :
    triggeredPass k d = (countSeen d k).incFld sqDiscardCount k := by
  have hnone : ((countEvent d k).sq k).pass = none :=
    h ▸ (congrArg SqState.pass (sq_countSeen d k)).trans hpass
  rw [triggeredPass, hnone, h]

theorem endPass_lastTick (d : Dev) (k : Nat) : ((endPass d k).sq k).lastTick = (d.sq k).lastTick := by
  unfold endPass; split
  · split
    · rw [Dev.sq_updSq_self]
    · rfl
  · rfl

theorem endPass_armed (d : Dev) (k : Nat) : ((endPass d k).sq k).armed = (d.sq k).armed := by
  unfold endPass; split
  · split
    · rw [Dev.sq_updSq_self]
    · rfl
  · rfl

theorem triggeredPass_of_some {p : Pass} (h : ((countEvent d k).sq k).pass = some p) :
    triggeredPass k d = endPass ((countEvent d k).updSq k fun s => { s with pass := some { p with waits := false } }) k := by
  rw [triggeredPass, h]

/-- The list of a pass that has just started is not empty, so that the pass is not over as it is submitted. -/
theorem triggeredPass_of_started {i : Nat} (h : ((countEvent d k).sq k).pass = some ⟨0, i, true⟩)
    (harmed : ((countEvent d k).sq k).armed = some n) (hn : 0 < n) :
    triggeredPass k d = (countEvent d k).updSq k fun s => { s with pass := some ⟨0, i, false⟩ } := by
  simp [triggeredPass, h, endPass, harmed, hn.ne']

end

/-- Settles O29: the timer signals the ring's vector; a pass starts at the count, and is submitted as it is. -/
theorem signalAndTriggerResults : Obligations.SignalAndTriggerResults := by
  unfold Obligations.SignalAndTriggerResults
  intro s k _
  refine ⟨fun hwait hus hirq => ⟨fun hmask hlink => ?sends, fun hmask => ?pends⟩, fun i n hdeaf hpass harmed hn => ?submits,
    fun hhears hperiod hsync hdue hpass => ?counts⟩
  case sends => exact (exec_coalTimerExpiry_signals hwait hus hirq).trans (congrArg _ (signalVector_of_unmasked hmask hlink))
  case pends => exact (exec_coalTimerExpiry_signals hwait hus hirq).trans (congrArg _ (signalVector_of_masked hmask))
  case submits =>
    have hcount := countEvent_of_deaf hdeaf
    have hpassed := triggeredPass_of_started (hcount.symm ▸ hpass) (hcount.symm ▸ harmed) hn
    rw [hcount] at hpassed
    refine ⟨triggeredPass k s.dev, rfl, ?_⟩
    rw [hpassed]
    exact ⟨rfl, Dev.sq_updSq_self _ _ _, fun m hm => Dev.sq_updSq_ne _ _ hm⟩
  case counts =>
    have hcount := countEvent_of_due hhears hperiod hsync hdue
    have hseen := sq_countSeen s.dev k
    have discarded (h : countEvent s.dev k = (countSeen s.dev k).incFld sqDiscardCount k) :=
      triggeredPass_of_discarded hpass h
    have hquiet : (((countSeen s.dev k).incFld sqDiscardCount k).sq k).pass = none := (congrArg SqState.pass hseen).trans hpass
    refine ⟨triggeredPass k s.dev, rfl, ?_⟩
    rcases harmed : (s.dev.sq k).armed with _ | n
    case none =>
      rw [discarded (hcount.trans (raiseTrigger_of_unarmed _ (hseen ▸ harmed)))]
      exact ⟨congrArg SqState.lastTick hseen, (congrArg SqState.armed hseen).trans harmed, fun _ => ⟨hquiet, rfl⟩, nofun⟩
    case some n =>
      cases hroom : cqRoom s.dev (s.dev.fld sqCfgCq k) n
      case false =>
        rw [discarded (hcount.trans (raiseTrigger_of_full _ (hseen ▸ harmed) hroom))]
        refine ⟨congrArg SqState.lastTick hseen, (congrArg SqState.armed hseen).trans harmed, nofun, ?_⟩
        rintro m ⟨⟩ -
        exact ⟨fun h => absurd (hroom.symm.trans h) nofun, fun _ => ⟨hquiet, rfl⟩⟩
      case true =>
        have hstart := hcount.trans (raiseTrigger_of_room _ (hseen ▸ harmed) (hseen ▸ hpass) hroom)
        have hsq : (countEvent s.dev k).sq k = { s.dev.sq k with
            lastTick := s.dev.gcount
            pass := some ⟨0, 1000 * (s.dev.gcount / s.dev.fld sqTrigPeriodUs k * s.dev.fld sqTrigPeriodUs k), true⟩ } := by
          rw [hstart, sq_passStarted, hseen]
        have hpassed := triggeredPass_of_some (congrArg SqState.pass hsq)
        refine ⟨?_, ?_, nofun, ?_⟩
        · rw [hpassed, endPass_lastTick, Dev.sq_updSq_self]; exact congrArg SqState.lastTick hsq
        · rw [hpassed, endPass_armed, Dev.sq_updSq_self]; exact (congrArg SqState.armed hsq).trans harmed
        rintro m ⟨⟩ hn
        refine ⟨fun _ => ?_, fun h => absurd (hroom.symm.trans h) nofun⟩
        rw [triggeredPass_of_started (congrArg SqState.pass hsq) ((congrArg SqState.armed hsq).trans harmed) hn]
        refine ⟨congrArg SqState.pass (Dev.sq_updSq_self _ _ _), ?_, ?_⟩
        · rw [hstart]; exact ((ringsChanged_passStarted _ _ _ _).updSq _ _).beside
        · rw [hstart]; exact reserved_passStarted (countSeen s.dev k) _ _ _

end Sys2Proof.Machine
end

section
/-! PROOFS. Doorbells (R359, R360, R370, R380, R547): O37. -/

namespace Sys2Proof.Machine

/-! ### Which writes of a page act (R359, R547) -/

/-- A doorbell that acts. -/
theorem pageWrite_of_ready {d : Dev} {k off : Nat} (v : Nat) (hlink : linkUp d = true) (hk : k < 64)
    (hready : d.flag devStatusReady = true) : pageWrite k off 4 v d = pageDoorbell k off v d := by
  simp [pageWrite, hlink, hready, hk.not_ge]

theorem pageWrite_of_size {d : Dev} {k size : Nat} (off v : Nat) (hlink : linkUp d = true) (hk : k < 64) (hsize : size ≠ 4) :
    pageWrite k off size v d = d.setFld devErrStatusBadAccess 1 := by
  simp [pageWrite, hlink, hk.not_ge, hsize, badAccess]

theorem pageWrite_of_notReady {d : Dev} {k : Nat} (off v : Nat) (hlink : linkUp d = true) (hk : k < 64)
    (hready : d.flag devStatusReady = false) : pageWrite k off 4 v d = d.setFld devErrStatusNotReady 1 := by
  simp [pageWrite, hlink, hk.not_ge, hready, notReady]

theorem pageWrite_of_absent {d : Dev} {k : Nat} (off size v : Nat) (h : linkUp d = false ∨ 64 ≤ k) : pageWrite k off size v d = d := by
  rcases h with h | h <;> simp [pageWrite, h]

/-- The three doorbells of page `k`. -/
theorem exec_doorbell {s : State} {k size : Nat} {v : U32} {c : Instr}
    (hc : c ∈ [Instr.sqTailDb k size v, .cqHeadDb k size v, .abortDb k size v]) :
    ∃ off, exec c s = leaves s (pageWrite k off size v.toNat s.dev) := by
  simp only [List.mem_cons, List.not_mem_nil, or_false] at hc
  rcases hc with rfl | rfl | rfl
  · exact ⟨0x000, rfl⟩
  · exact ⟨0x100, rfl⟩
  · exact ⟨0x200, rfl⟩

section
variable {d : Dev} {k t : Nat}

/-! ### The submission tail (R360, R370) -/

theorem tailDoorbell_of_stopped (t : Nat) (h : sqRunning d k = false) : tailDoorbell k t d = d.setFld sqStatusDbErr 1 k := by
  simp [tailDoorbell, h, tailRefused]

/-- A tail that names more descriptors, or as many. -/
theorem tailDoorbell_of_ahead (hrun : sqRunning d k = true) (htrig : d.flag sqCfgTriggered k = false) (ht : t < sqSize d k)
    (hahead : ringDist (sqSize d k) (d.fld sqStatusHead k) (d.sq k).tail ≤ ringDist (sqSize d k) (d.fld sqStatusHead k) t) :
    tailDoorbell k t d = d.updSq k fun q => { q with tail := t } := by
  simp [tailDoorbell, hrun, htrig, ht.not_ge, hahead.not_gt]

theorem tailDoorbell_of_behind (hrun : sqRunning d k = true) (htrig : d.flag sqCfgTriggered k = false) (h : sqSize d k ≤ t ∨
      ringDist (sqSize d k) (d.fld sqStatusHead k) t < ringDist (sqSize d k) (d.fld sqStatusHead k) (d.sq k).tail) :
    tailDoorbell k t d = tailRefused k true d := by
  simp [tailDoorbell, hrun, htrig, h]

theorem tailDoorbell_arms (hrun : sqRunning d k = true) (htrig : d.flag sqCfgTriggered k = true) (harmed : (d.sq k).armed = none)
    (ht : t < sqSize d k) : tailDoorbell k t d = d.updSq k fun q => { q with armed := some t } := by
  simp [tailDoorbell, hrun, htrig, harmed, ht.not_ge]

theorem tailDoorbell_of_beyond (hrun : sqRunning d k = true) (htrig : d.flag sqCfgTriggered k = true) (harmed : (d.sq k).armed = none)
    (ht : sqSize d k ≤ t) : tailDoorbell k t d = tailRefused k true d := by
  simp [tailDoorbell, hrun, htrig, harmed, ht]

theorem tailDoorbell_of_armed (t : Nat) (hrun : sqRunning d k = true) (htrig : d.flag sqCfgTriggered k = true)
    (harmed : (d.sq k).armed ≠ none) : tailDoorbell k t d = d.setFld sqStatusDbErr 1 k := by
  simp [tailDoorbell, hrun, htrig, Option.isSome_iff_ne_none.mpr harmed, tailRefused]

/-- A refused tail halts its ring: DB_ERR sets, and neither the tail nor the list armed changes. -/
theorem tailRefused_halts (hk : k < 64) : (tailRefused k true d).fld sqStatusDbErr k = 1 ∧
    (tailRefused k true d).sq k = { d.sq k with halted := true } := by
  constructor
  · rw [tailRefused, if_pos rfl, updStopped, if_neg hk.not_ge, Dev.fld_setFld_of_beside _ _ _ _ _ (by decide), Dev.updSq_fld,
      Dev.fld_setFld _ _ _ _ (by decide) (by decide)]
    rfl
  · rw [tailRefused, if_pos rfl, updStopped, if_neg hk.not_ge, Dev.sq_setFld, Dev.sq_updSq_self, Dev.sq_setFld]

/-! ### The completion head (R360) -/

theorem headDoorbell_of_bad (h : cqSize d k ≤ t ∨ (d.cq k).used < ringDist (cqSize d k) (d.cq k).head t) :
    headDoorbell k t d = d.setFld cqStatusDbErr 1 k := by
  simp [headDoorbell, h]

theorem abortDoorbell_of_other (k : Nat) (d : Dev) {v : U32} (h : v ≠ 0xAB0B) : abortDoorbell k v.toNat d = d :=
  if_neg fun e => h (BitVec.eq_of_toNat_eq e)

theorem replayPump_of_none (h : d.replays = []) : replayPump d = d := by
  rw [replayPump, h, List.foldl_nil]

theorem headDoorbell_of_good (ht : t < cqSize d k) (hused : ringDist (cqSize d k) (d.cq k).head t ≤ (d.cq k).used)
    (hreplays : d.replays = []) : headDoorbell k t d =
      d.updCq k fun c => { c with head := t, used := c.used - ringDist (cqSize d k) c.head t } := by
  have h : ¬ (cqSize d k ≤ t ∨ (d.cq k).used < ringDist (cqSize d k) (d.cq k).head t) := by omega
  simp only [headDoorbell, if_neg h]
  exact replayPump_of_none hreplays

end

/-- Settles O37: a page's writes act under four conditions, and each doorbell does what its ring allows. -/
theorem doorbellResults : Obligations.DoorbellResults := by
  unfold Obligations.DoorbellResults
  intro s k v
  refine ⟨fun hlink hk hready => ?acts, fun hlink hk hready c hc => ?early, fun habsent size c hc => ?absent⟩
  case early =>
    obtain ⟨off, hexec⟩ := exec_doorbell hc
    rw [hexec, pageWrite_of_notReady _ _ hlink hk hready]
  case absent =>
    obtain ⟨off, hexec⟩ := exec_doorbell hc
    rw [hexec, pageWrite_of_absent _ _ _ habsent]
    rfl
  case acts =>
    have htail : exec (.sqTailDb k 4 v) s = leaves s (tailDoorbell k (v.toNat % 65536) s.dev) :=
      congrArg (leaves s) (pageWrite_of_ready _ hlink hk hready)
    have hhead : exec (.cqHeadDb k 4 v) s = leaves s (headDoorbell k (v.toNat % 65536) s.dev) :=
      congrArg (leaves s) (pageWrite_of_ready _ hlink hk hready)
    have habort : exec (.abortDb k 4 v) s = leaves s (abortDoorbell k v.toNat s.dev) :=
      congrArg (leaves s) (pageWrite_of_ready _ hlink hk hready)
    obtain ⟨hdberr, hhalted⟩ := tailRefused_halts (d := s.dev) hk
    rw [htail, hhead, habort]
    refine ⟨fun hstop => ?_, fun hrun htrig => ⟨fun ht hahead => ?_, fun hbad => ?_⟩,
      fun hrun htrig => ⟨fun harmed ht => ?_, fun harmed ht => ?_, fun harmed => ?_⟩, ⟨fun hbad => ?_, fun ht hused hreplays => ?_⟩,
      fun hkey => ?_, fun hkey => ?_, fun size hsize c hc => ?_⟩
    · rw [tailDoorbell_of_stopped _ hstop]
    · rw [tailDoorbell_of_ahead hrun htrig ht hahead]
    · rw [tailDoorbell_of_behind hrun htrig hbad]
      exact ⟨_, rfl, hdberr, by rw [hhalted], by rw [hhalted]⟩
    · rw [tailDoorbell_arms hrun htrig harmed ht]
    · rw [tailDoorbell_of_beyond hrun htrig harmed ht]
      exact ⟨_, rfl, hdberr, by rw [hhalted], by rw [hhalted]; exact harmed⟩
    · rw [tailDoorbell_of_armed _ hrun htrig harmed]
    · rw [headDoorbell_of_bad hbad]
    · rw [headDoorbell_of_good ht hused hreplays]
    · rw [hkey]
      rfl
    · rw [abortDoorbell_of_other k s.dev hkey]
    · obtain ⟨off, hexec⟩ := exec_doorbell hc
      rw [hexec, pageWrite_of_size _ _ hlink hk hsize]

end Sys2Proof.Machine
end

section
/-! PROOFS. ENABLE of the rings, mask bits, the supervisor queue (R358, R367, R369, R390): O38. -/

namespace Sys2Proof.Machine

/-! ### Fields of words written beside them -/

/-- A field of a 32-bit register is a matter of its word. -/
theorem Dev.fld_congr_word {d e : Dev} {f : Fld} {i : Nat} (hw : f.wide = false)
    (h : bankWord e.regs (f.base + i * f.stride) = bankWord d.regs (f.base + i * f.stride)) : e.fld f i = d.fld f i := by
  simp only [Dev.fld, bankFld, bankReg, hw, h, Bool.false_eq_true, if_false]

theorem bits_congr {a b hi lo : Nat} (h : ∀ i, lo ≤ i → a.testBit i = b.testBit i) : bits a hi lo = bits b hi lo := by
  apply Nat.eq_of_testBit_eq
  intro i
  rw [testBit_bits, testBit_bits, h (lo + i) (Nat.le_add_right _ _)]

/-- The settings beside ENABLE. -/
theorem bits_and_not_one (v : U32) {hi lo : Nat} (h : 0 < lo) : bits (v &&& ~~~1#32).toNat hi lo = bits v.toNat hi lo :=
  bits_congr fun i hi => by
    have hone : (1#32).getLsbD i = false := by rw [BitVec.getLsbD_one]; simp; omega
    have hlt := v.getLsbD_of_ge i
    rw [BitVec.testBit_toNat, BitVec.testBit_toNat, BitVec.getLsbD_and, BitVec.getLsbD_not, hone]
    by_cases hi : i < 32
    · simp [hi]
    · simp [hi, hlt (by omega)]

theorem bits_or_one (v : U32) {hi lo : Nat} (h : 0 < lo) : bits (v ||| 1).toNat hi lo = bits v.toNat hi lo :=
  bits_congr fun i hi => by
    have hone : (1#32).getLsbD i = false := by rw [BitVec.getLsbD_one]; simp; omega
    rw [BitVec.testBit_toNat, BitVec.testBit_toNat, BitVec.getLsbD_or]
    simp [hone]

theorem bit_and_not_one (v : U32) : bit (v &&& ~~~1#32).toNat 0 = false := by
  rw [bit_eq_testBit, BitVec.testBit_toNat, BitVec.getLsbD_and, BitVec.getLsbD_not]; simp

theorem bit_or_one (v : U32) : bit (v ||| 1).toNat 0 = true := by
  rw [bit_eq_testBit, BitVec.testBit_toNat, BitVec.getLsbD_or]; simp

/-- What a write with ENABLE replaced by `x` holds beside ENABLE. -/
theorem bits_setBit_ne (v x : Nat) {hi lo : Nat} (hlo : 0 < lo) (hhi : hi < 32) :
    bits (setBits v 0 0 x % 2 ^ (8 * 4)) hi lo = bits v hi lo := by
  rw [bits_mod_two_pow _ _ _ _ hhi, bits_setBits_ne _ _ _ _ _ _ (by omega) (.inr hlo)]

theorem bits_setBit (v x : Nat) : bits (setBits v 0 0 x % 2 ^ (8 * 4)) 0 0 = x % 2 := by
  rw [bits_mod_two_pow _ _ _ _ (by omega), bits_setBits _ _ _ _ (by omega)]; rfl

/-- ENABLE as the write leaves it. -/
theorem bit_setBit (v x : Nat) : bit (setBits v 0 0 x % 2 ^ (8 * 4)) 0 = decide (x % 2 = 1) := by
  have h := bits_setBit v x
  rw [bits_single] at h
  split at h
  · next hbit => rw [hbit, ← h]; rfl
  · next hbit => rw [Bool.not_eq_true] at hbit; rw [hbit, ← h]; rfl

/-- Nothing but registers is written. -/
def RegsWritten (d e : Dev) : Prop := ∃ b, e = { d with regs := b }

section
variable {d e : Dev} (h : RegsWritten d e)
include h

theorem RegsWritten.sqs : e.sqs = d.sqs := by obtain ⟨b, rfl⟩ := h; rfl
theorem RegsWritten.cqs : e.cqs = d.cqs := by obtain ⟨b, rfl⟩ := h; rfl
theorem RegsWritten.jobs : e.jobs = d.jobs := by obtain ⟨b, rfl⟩ := h; rfl
theorem RegsWritten.replays : e.replays = d.replays := by obtain ⟨b, rfl⟩ := h; rfl
theorem RegsWritten.out : e.out = d.out := by obtain ⟨b, rfl⟩ := h; rfl

end

/-! ### Registers that nothing guards but their field codes -/

/-- A write of the 32-bit register is a write by its field codes, whatever follows it. -/
structure RDef.WordByCodes (r : RDef) : Prop where
  word : r.wide = false
  shared : r.perPort = false
  unguarded : r.base ≠ rLoopInjCfg
  fields : ∀ f ∈ r.fields, f.lo ≤ f.hi ∧ f.hi < 32 ∧ f.acc ≠ .rws
  apart : r.fields.Pairwise FDef.apart

section
variable {r : RDef} {f : Fld} {i j : Nat}

theorem RDef.WordByCodes.write (hr : r.WordByCodes) (p : Port) (i v : Nat) (d : Dev) :
    writeByCodes p r i v d = ({ d with regs := bankSet d.regs (r.at i) (BitVec.ofNat 32 (writtenValue d r i v)) } : Dev).setIf
      (d.flag devCtrlSetupLock && changes r.fields .rwl (bankReg d.regs r.wide (r.at i)) v) devErrStatusLockedWrite 1 := by
  have hstar : hasAcc r.fields .rws = false := by simpa [hasAcc] using fun f hf => (hr.fields f hf).2.2
  simp [writeByCodes, hr.shared, hr.unguarded, touchesStar, hstar, writtenValue, hr.word, bankRegSet]

theorem setIf_word (d : Dev) (c : Bool) {o : Nat} (ho : o ≠ rDevErrStatus) :
    bankWord (d.setIf c devErrStatusLockedWrite 1).regs o = bankWord d.regs o := by
  cases c
  · rfl
  · exact Dev.setFld_word_ne _ _ _ _ ho nofun

theorem RDef.WordByCodes.word_ne (hr : r.WordByCodes) (p : Port) (i v : Nat) (d : Dev) {o : Nat} (ho : o ≠ r.at i)
    (he : o ≠ rDevErrStatus) : bankWord (writeByCodes p r i v d).regs o = bankWord d.regs o := by
  rw [hr.write, setIf_word _ _ he]
  exact bankWord_set_ne _ _ ho

theorem RDef.WordByCodes.regsWritten (hr : r.WordByCodes) (p : Port) (i v : Nat) (d : Dev) : RegsWritten d (writeByCodes p r i v d) := by
  rw [hr.write]; unfold Dev.setIf; split <;> exact ⟨_, rfl⟩

/-- A read-write field takes its bits of the value written. -/
theorem RDef.WordByCodes.fld_self (hr : r.WordByCodes) (p : Port) (i v : Nat) (d : Dev) (hw : f.wide = false)
    (hat : f.base + i * f.stride = r.at i) (he : r.at i ≠ rDevErrStatus) {g : FDef} (hg : g ∈ r.fields) (hacc : g.acc = .rw)
    (hbits : g.hi = f.hi ∧ g.lo = f.lo) : (writeByCodes p r i v d).fld f i = bits v f.hi f.lo := by
  have hlt : writtenValue d r i v < 2 ^ 32 := by
    refine List.foldlRecOn (motive := (· < 2 ^ 32)) r.fields _ ?_ fun a ha e he => ?_
    · rw [hr.word]; exact (bankWord _ _).isLt
    · exact setBits_lt _ _ _ _ _ (by have := hr.fields e he; omega) (hr.fields e he).2.1 ha
  rw [Dev.fld, bankFld, hw, hat, bankReg, if_neg Bool.false_ne_true, hr.write, setIf_word _ _ he]
  rw [bankWord_set_self, BitVec.toNat_ofNat, Nat.mod_eq_of_lt hlt, ← hbits.1, ← hbits.2, writtenValue, writeFields,
    bits_foldl_setBits _ _ _ (fun e he => (hr.fields e he).1) hr.apart g hg, Nat.mod_eq_of_lt (writeField_lt _ _ _ _ _),
    writeField, hacc]

end

def sqCfgReg : RDef :=
  ⟨rSqCfg, 0x20, 64, false, false, .host, [⟨0, 0, .rw, 0⟩, ⟨4, 1, .rw, 4⟩, ⟨11, 6, .rw, 0⟩, ⟨12, 12, .rw, 0⟩, ⟨20, 16, .rwl, 1⟩]⟩

def cqCfgReg : RDef :=
  ⟨rCqCfg, 0x20, 64, false, false, .host,
    [⟨0, 0, .rw, 0⟩, ⟨4, 1, .rw, 4⟩, ⟨10, 5, .rw, 0⟩, ⟨11, 11, .rw, 0⟩, ⟨23, 16, .rw, 0⟩, ⟨31, 24, .rw, 0⟩]⟩

def msixCtrlReg : RDef := ⟨rMsixCtrl, 0x10, 64, false, false, .host, [⟨0, 0, .rw, 1⟩]⟩

theorem findReg_sqCfg : ∀ k < 64, findReg (rSqCfg + 0x20 * k) = some sqCfgReg := by decide +kernel
theorem findReg_cqCfg : ∀ k < 64, findReg (rCqCfg + 0x20 * k) = some cqCfgReg := by decide +kernel
theorem findReg_msixCtrl : ∀ k < 64, findReg (rMsixCtrl + 0x10 * k) = some msixCtrlReg := by decide +kernel

theorem sqCfgReg_wordByCodes : sqCfgReg.WordByCodes :=
  ⟨rfl, rfl, by decide, by decide, by simp [sqCfgReg, FDef.apart]⟩
theorem cqCfgReg_wordByCodes : cqCfgReg.WordByCodes :=
  ⟨rfl, rfl, by decide, by decide, by simp [cqCfgReg, FDef.apart]⟩
theorem msixCtrlReg_wordByCodes : msixCtrlReg.WordByCodes :=
  ⟨rfl, rfl, by decide, by decide, by simp [msixCtrlReg]⟩

theorem findReg_of_reached {d : Dev} {p : Port} {off size i : Nat} {wr : Bool} {r : RDef} (h : Reached d p off size wr r i) :
    findReg off = some r := by
  obtain ⟨-, -, hreach, -⟩ := h
  unfold reach at hreach
  split at hreach
  · cases hreach
  · split at hreach
    · cases hreach
    · split at hreach
      · cases hreach
      · split at hreach
        next => cases hreach
        next r' hfind =>
          split at hreach
          · cases hreach
          · cases hreach; exact hfind

/-- A write command to one of an array of registers. -/
theorem arrayWrite_of_reached {s : State} {p : Port} {base stride k : Nat} {r r' : RDef} (v : Nat) (hk : k < 64)
    (h : Reached s.dev p (base + stride * k) 4 true r k) (hr : findReg (base + stride * k) = some r') (hw : r'.wide = false) :
    arrayWrite p base stride 64 k v s = writeReg p r' k (v % 2 ^ (8 * 4)) s := by
  cases Option.some.inj ((findReg_of_reached h).symm.trans hr)
  rw [arrayWrite, if_pos hk, cmdWrite_of_reached v h, hw]
  rfl

/-- The registers whose writes are commands of their own. -/
def ownWriteRegs : List Nat :=
  [rDevCtrl, rDevReset, rSupSafe, rMboxCtrl, rSupqTail, rSupcqHead, rTimeStep, rLoopCdata0, rLoopCdata1, rLoopCdata2, rLoopMdata, rLoopkOut]

/-- Every other register that no setting freezes is written by its field codes, and what its write sets off follows. -/
theorem writeReg_of_unfrozen {s : State} {r : RDef} {i v : Nat} (p : Port) (hown : r.base ∉ ownWriteRegs) (hr : r.WordByCodes)
    (hfree : ringFrozen s.dev r.base i (bankWord s.dev.regs (r.at i)).toNat v = false) : writeReg p r i v s =
      { s with dev := afterWrite r.base i (bankWord s.dev.regs (r.at i)).toNat v (writeByCodes p r i v s.dev) } := by
  simp only [ownWriteRegs, List.mem_cons, List.not_mem_nil, or_false, not_or] at hown
  simp only [writeReg, hown, hr.shared, hr.word, bankReg, hfree, if_false, Bool.false_eq_true, decide_false, Bool.false_and, State.mapDev]

section
variable {s : State} {k v : Nat}

theorem ringFrozen_sqCfg {d : Dev} {old : Nat} (hsize : bits old 4 1 = bits v 4 1) (hcq : bits old 11 6 = bits v 11 6) :
    ringFrozen d rSqCfg k old v = false := by
  simp [ringFrozen, hsize, hcq, rSqCfg, rSqBase, rCqBase, rCqCfg]

theorem ringFrozen_cqCfg {d : Dev} {old : Nat} (hsize : bits old 4 1 = bits v 4 1) : ringFrozen d rCqCfg k old v = false := by
  simp [ringFrozen, hsize, rSqCfg, rSqBase, rCqBase, rCqCfg]

theorem ringFrozen_msixCtrl (d : Dev) (k old v : Nat) : ringFrozen d rMsixCtrl k old v = false := by
  simp [ringFrozen, rMsixCtrl, rSqCfg, rSqBase, rCqBase, rCqCfg]

/-- A write of SQk_CFG that keeps the ring's size and completion ring. -/
theorem writeReg_sqCfg (p : Port) {old : U32} (hold : bankWord s.dev.regs (rSqCfg + k * 0x20) = old)
    (hsize : bits old.toNat 4 1 = bits v 4 1) (hcq : bits old.toNat 11 6 = bits v 11 6) : writeReg p sqCfgReg k v s =
      { s with dev := sqEnableChange k old.toNat v (writeByCodes p sqCfgReg k v s.dev) } := by
  subst hold
  exact writeReg_of_unfrozen p (by decide) sqCfgReg_wordByCodes (ringFrozen_sqCfg hsize hcq)

/-- A write of CQk_CFG that keeps the ring's size. -/
theorem writeReg_cqCfg (p : Port) {old : U32} (hold : bankWord s.dev.regs (rCqCfg + k * 0x20) = old)
    (hsize : bits old.toNat 4 1 = bits v 4 1) : writeReg p cqCfgReg k v s =
      { s with dev := cqEnableChange k old.toNat v (writeByCodes p cqCfgReg k v s.dev) } := by
  subst hold
  exact writeReg_of_unfrozen p (by decide) cqCfgReg_wordByCodes (ringFrozen_cqCfg hsize)

/-- The mask bit of a masked vector is cleared. -/
theorem writeReg_msixCtrl (p : Port) (h : bit (bankWord s.dev.regs (rMsixCtrl + k * 0x10)).toNat 0 = true) :
    writeReg p msixCtrlReg k 0 s = { s with dev := vectorUnmasked k (writeByCodes p msixCtrlReg k 0 s.dev) } := by
  rw [writeReg_of_unfrozen p (by decide) msixCtrlReg_wordByCodes (ringFrozen_msixCtrl _ _ _ _)]
  have hset : (bit (bankWord s.dev.regs (msixCtrlReg.at k)).toNat 0 && !bit 0 0) = true := by
    rw [show msixCtrlReg.at k = rMsixCtrl + k * 0x10 from rfl, h]; rfl
  simp only [show msixCtrlReg.base = rMsixCtrl from rfl, afterWrite, hset, if_true]
  rfl

end

/-! ### The fields of a ring once ENABLE is written -/

section
variable {d : Dev} {p : Port} {k : Nat} (v : Nat)

/-- A field of another word of the same array. -/
theorem RDef.WordByCodes.fld_ne {r : RDef} (hr : r.WordByCodes) (p : Port) (i v : Nat) (d : Dev) {f : Fld} {j : Nat} (hw : f.wide = false)
    (ho : f.base + j * f.stride ≠ r.at i) (he : f.base + j * f.stride ≠ rDevErrStatus) :
    (writeByCodes p r i v d).fld f j = d.fld f j :=
  Dev.fld_congr_word hw (hr.word_ne p i v d ho he)

theorem sqCfgEnable_written : (writeByCodes p sqCfgReg k v d).fld sqCfgEnable k = bits v 0 0 :=
  sqCfgReg_wordByCodes.fld_self p k v d rfl rfl (by simp [RDef.at, sqCfgReg, rSqCfg, rDevErrStatus]; omega) List.mem_cons_self rfl ⟨rfl, rfl⟩

theorem cqCfgEnable_written : (writeByCodes p cqCfgReg k v d).fld cqCfgEnable k = bits v 0 0 :=
  cqCfgReg_wordByCodes.fld_self p k v d rfl rfl (by simp [RDef.at, cqCfgReg, rCqCfg, rDevErrStatus]; omega) List.mem_cons_self rfl ⟨rfl, rfl⟩

theorem msixCtrlMask_written : (writeByCodes p msixCtrlReg k v d).fld msixCtrlMask k = bits v 0 0 :=
  msixCtrlReg_wordByCodes.fld_self p k v d rfl rfl (by simp [RDef.at, msixCtrlReg, rMsixCtrl, rDevErrStatus]; omega) List.mem_cons_self rfl
    ⟨rfl, rfl⟩

/-- STOPPED: the ring does not run and no job of it is left (R358). -/
theorem updStopped_flag (hk : k < 64) (d : Dev) :
    (updStopped d k).flag sqStatusStopped k = (!sqRunning d k && d.jobs.all fun j => j.q ≠ k) := by
  rw [updStopped, if_neg hk.not_ge, Dev.flag, Dev.fld_setFld _ _ _ _ (by decide) (by decide)]
  generalize (!sqRunning d k && d.jobs.all fun j => j.q ≠ k) = b
  cases b <;> rfl

theorem updStopped_fld (d : Dev) (k : Nat) {f : Fld} (h : sqStatusStopped.beside f = true) : (updStopped d k).fld f k = d.fld f k := by
  unfold updStopped; split
  · rfl
  · exact Dev.fld_setFld_of_beside _ _ _ _ _ h

@[simp] theorem updStopped_jobs (d : Dev) (k : Nat) : (updStopped d k).jobs = d.jobs := by unfold updStopped; split <;> rfl
@[simp] theorem updStopped_sqs (d : Dev) (k : Nat) : (updStopped d k).sqs = d.sqs := by unfold updStopped; split <;> rfl
@[simp] theorem updStopped_cqs (d : Dev) (k : Nat) : (updStopped d k).cqs = d.cqs := by unfold updStopped; split <;> rfl

/-- A ring that starts: head and tail at 0, and it runs. -/
theorem sqEnableChange_starts {old v : Nat} {e : Dev} (hk : k < 64) (hv : bit v 0 = true) (hold : bit old 0 = false)
    (hen : e.fld sqCfgEnable k = 1) : ∀ u, u = sqEnableChange k old v e → u.flag sqCfgEnable k = true ∧ u.fld sqStatusHead k = 0 ∧
      (u.sq k).tail = 0 ∧ u.flag sqStatusStopped k = false ∧ u.cqs = e.cqs ∧ u.jobs = e.jobs := by
  rintro u rfl
  simp only [sqEnableChange, hv, hold, Bool.not_false, Bool.and_self, if_true]
  set m := (e.setFld sqStatusHead 0 k).setSq k { lastTick := e.gcount, fence := (e.sq k).fence } with hm
  have hmen : m.fld sqCfgEnable k = 1 := (Dev.fld_setFld_of_beside e sqStatusHead sqCfgEnable k 0 (by decide)).trans hen
  have hmsq : m.sq k = { lastTick := e.gcount, fence := (e.sq k).fence } := mapGet_set_self _ _ _ _
  refine ⟨?_, ?_, ?_, ?_, ?_, ?_⟩
  · rw [Dev.flag, updStopped_fld _ _ (by decide), hmen]; rfl
  · rw [updStopped_fld _ _ (by decide)]
    exact (Dev.fld_setFld e sqStatusHead k 0 (by decide) (by decide)).trans (Nat.zero_mod _)
  · rw [Dev.sq, updStopped_sqs]; exact congrArg SqState.tail hmsq
  · rw [updStopped_flag hk, sqRunning, Dev.flag, hmen, hmsq]; rfl
  · exact updStopped_cqs _ _
  · exact updStopped_jobs _ _

/-- A ring without a pass is disabled: it stops once its jobs have ended. -/
theorem disableRing_of_quiet {e : Dev} (hk : k < 64) (hpass : (e.sq k).pass = none) : (disableRing e k).flag sqCfgEnable k = false ∧
    (disableRing e k).jobs = e.jobs ∧
    ((disableRing e k).flag sqStatusStopped k = true ↔ ∀ x ∈ e.jobs, x.q ≠ k) := by
  simp only [disableRing, hpass, Option.isSome_none, Bool.false_eq_true, if_false]
  set m := (e.setFld sqCfgEnable 0 k).updSq k fun s => { s with armed := none } with hm
  have hmen : m.fld sqCfgEnable k = 0 := Dev.fld_setFld e sqCfgEnable k 0 (by decide) (by decide)
  have hmjobs : m.jobs = e.jobs := rfl
  refine ⟨?_, ?_, ?_⟩
  · rw [Dev.flag, updStopped_fld _ _ (by decide), hmen]; rfl
  · rw [updStopped_jobs, hmjobs]
  · rw [updStopped_flag hk, sqRunning, Dev.flag, hmen, hmjobs]; simp

/-- A completion ring that starts: tail, head and count at 0, the phase at 1. -/
theorem cqEnableChange_starts {old v : Nat} {e : Dev} (hk : k < 64) (hv : bit v 0 = true) (hold : bit old 0 = false)
    (hen : e.fld cqCfgEnable k = 1) (hreplays : e.replays = []) : ∀ u, u = cqEnableChange k old v e → u.flag cqCfgEnable k = true ∧
      u.fld cqStatusTail k = 0 ∧ u.fld cqStatusPhase k = 1 ∧ (u.cq k).head = 0 ∧ (u.cq k).used = 0 := by
  rintro u rfl
  simp only [cqEnableChange, hv, hold, Bool.not_false, Bool.and_self, if_true]
  set m := ((e.setFld cqStatusTail 0 k).setFld cqStatusPhase 1 k).updCq k
    fun c => { c with head := 0, used := 0, unsignalled := 0 } with hm
  have hmcq : m.cq k = { e.cq k with head := 0, used := 0, unsignalled := 0 } := Dev.cq_updCq_self _ _ _
  have hmen : m.fld cqCfgEnable k = 1 := by
    rw [hm, Dev.updCq_fld, Dev.fld_setFld_of_beside _ _ _ _ _ (by decide), Dev.fld_setFld_of_beside _ _ _ _ _ (by decide), hen]
  have htail : m.fld cqStatusTail k = 0 := by
    rw [hm, Dev.updCq_fld, Dev.fld_setFld_of_beside _ _ _ _ _ (by decide), Dev.fld_setFld _ _ _ _ (by decide) (by decide)]; rfl
  have hphase : m.fld cqStatusPhase k = 1 := by
    rw [hm, Dev.updCq_fld, Dev.fld_setFld _ _ _ _ (by decide) (by decide)]; rfl
  rw [replayPump_of_none (by rw [updCqStopped, if_neg (by omega)]; exact hreplays), updCqStopped, if_neg (by omega)]
  refine ⟨?_, ?_, ?_, by rw [setFld_cq, hmcq], by rw [setFld_cq, hmcq]⟩
  · rw [Dev.flag, Dev.fld_setFld_of_beside _ _ _ _ _ (by decide), hmen]; rfl
  · rw [Dev.fld_setFld_of_beside _ _ _ _ _ (by decide), htail]
  · rw [Dev.fld_setFld_of_beside _ _ _ _ _ (by decide), hphase]

theorem cqEnableChange_stops {old v : Nat} {e : Dev} (hk : k < 64) (hv : bit v 0 = false) (hen : e.fld cqCfgEnable k = 0)
    (hreplays : e.replays = []) : (cqEnableChange k old v e).flag cqCfgEnable k = false ∧
      (cqEnableChange k old v e).jobs = e.jobs := by
  simp only [cqEnableChange, hv, Bool.false_and, Bool.false_eq_true, if_false]
  rw [replayPump_of_none (by rw [updCqStopped, if_neg (by omega)]; exact hreplays), updCqStopped, if_neg (by omega)]
  exact ⟨by rw [Dev.flag, Dev.fld_setFld_of_beside _ _ _ _ _ (by decide), hen]; rfl, rfl⟩

theorem sqEnableChange_stops {old v : Nat} (e : Dev) (hv : bit v 0 = false) (hold : bit old 0 = true) :
    sqEnableChange k old v e = disableRing e k := by
  simp [sqEnableChange, hv, hold]

end

/-! ### A vector whose mask bit clears (R369) -/

theorem bit_sub_two_pow {w i : Nat} (h : bit w i = true) : bit (w - 2 ^ i) i = false := by
  have hdiv : (w - 2 ^ i * 1) / 2 ^ i = w / 2 ^ i - 1 := by
    rw [Nat.sub_mul_div]
  simp only [bit, decide_eq_true_eq, decide_eq_false_iff_not] at h ⊢
  rw [mul_one] at hdiv
  omega

section
variable {e : Dev} {k : Nat}

theorem vectorUnmasked_of_quiet (h : bit (bankWord e.regs (rMsixPba + 4 * (k / 32))).toNat (k % 32) = false) :
    vectorUnmasked k e = e := by
  simp [vectorUnmasked, h]

/-- A vector that was pending sends its message, and is pending no longer. -/
theorem vectorUnmasked_of_pending (h : bit (bankWord e.regs (rMsixPba + 4 * (k / 32))).toNat (k % 32) = true)
    (hmask : e.fld msixCtrlMask k = 0) (hlink : linkUp e = true) : ∀ u, u = vectorUnmasked k e → u.fld msixCtrlMask k = 0 ∧
      bit (bankWord u.regs (rMsixPba + 4 * (k / 32))).toNat (k % 32) = false ∧ ∃ a x, u.out = e.out ++ [.msix k a x] := by
  rintro u rfl
  simp only [vectorUnmasked, h, if_true]
  set o := rMsixPba + 4 * (k / 32) with ho
  set w := (bankWord e.regs o).toNat with hw
  set m : Dev := { e with regs := bankSet e.regs o (BitVec.ofNat 32 (w - 2 ^ (k % 32))) } with hm
  have hpba : msixCtrlMask.base + k * msixCtrlMask.stride ≠ o := by simp [ho, msixCtrlMask, rMsixPba]; omega
  have hmask' : m.fld msixCtrlMask k = 0 := (Dev.fld_congr_word rfl (bankWord_set_ne _ _ hpba)).trans hmask
  have hlink' : linkUp m = true := by
    rw [linkUp, Dev.flag, Dev.fld_congr_word (d := e) rfl (bankWord_set_ne _ _ (by simp [ho, hostqStatusLinkUp, rMsixPba]; omega))]
    exact hlink
  rw [signalVector_of_unmasked (by rw [Dev.flag, hmask']; rfl) hlink']
  refine ⟨hmask', ?_, _, _, rfl⟩
  have hlt : w - 2 ^ (k % 32) < 2 ^ 32 := lt_of_le_of_lt (Nat.sub_le _ _) (bankWord e.regs o).isLt
  have hword : bankWord m.regs o = BitVec.ofNat 32 (w - 2 ^ (k % 32)) := bankWord_set_self _ _ _
  change bit (bankWord m.regs o).toNat (k % 32) = false
  rw [hword, BitVec.toNat_ofNat, Nat.mod_eq_of_lt hlt, bit_sub_two_pow h]

end

/-! ### The supervisor queue (R390) -/

/-- The host's accesses to the SUP block are faulty (R12, R13). -/
theorem cmdWrite_sup_of_host {s : State} {off : Nat} (v : Nat) (hlink : linkUp s.dev = true) (ho : off % 4 = 0) (hsup : inSup off = true) :
    cmdWrite .host off 4 v s = s.mapDev badAccess := by
  have hreach : reach s.dev .host off 4 true = .unassigned := reach_of_unassigned (.inl rfl) ho (.inr (.inl ⟨rfl, hsup⟩))
  simp [cmdWrite, portAlive, hlink, portWrite, portAsleep, hreach]

def supqTailReg : RDef := ⟨rSupqTail, 0, 1, false, false, .other, [⟨3, 0, .rw, 0⟩]⟩
def supcqHeadReg : RDef := ⟨rSupcqHead, 0, 1, false, false, .other, [⟨3, 0, .rw, 0⟩]⟩

theorem findReg_supqTail : findReg rSupqTail = some supqTailReg := by decide +kernel
theorem findReg_supcqHead : findReg rSupcqHead = some supcqHeadReg := by decide +kernel

section
variable {s : State} {r : RDef} {v : U32}

theorem exec_supqTail_of_reached (h : Reached s.dev .spadja rSupqTail 4 true r 0) :
    exec (.supqTail .spadja v) s = leaves s (supTailWrite v.toNat s.dev) := by
  cases Option.some.inj ((findReg_of_reached h).symm.trans findReg_supqTail)
  rw [exec_supqTail, execSupqTail, cmdWrite_of_reached _ h, Nat.mod_eq_of_lt v.isLt]
  rfl

theorem exec_supcqHead_of_reached (h : Reached s.dev .spadja rSupcqHead 4 true r 0) :
    exec (.supcqHead .spadja v) s = leaves s (supHeadWrite v.toNat s.dev) := by
  cases Option.some.inj ((findReg_of_reached h).symm.trans findReg_supcqHead)
  rw [exec_supcqHead, execSupcqHead, cmdWrite_of_reached _ h, Nat.mod_eq_of_lt v.isLt]
  rfl

end

/-- A head that releases no more entries than the ring holds. -/
theorem supHeadWrite_of_good {d : Dev} {v m : Nat} (hm : m = ringDist 16 (d.fld supcqHeadIndex) (v % 16)) (h : m ≤ (d.cq 64).used)
    (hreplays : d.replays = []) : ∀ u, u = supHeadWrite v d → u.fld supcqHeadIndex = v % 16 ∧ (u.cq 64).used = (d.cq 64).used - m ∧
      u.fld supStatusCplPending = b2n (decide ((d.cq 64).used ≠ m)) ∧ SameRegsBut d u [rSupcqHead, rSupStatus] := by
  rintro u rfl
  subst hm
  simp only [supHeadWrite, if_neg h.not_gt]
  rw [replayPump_of_none (by exact hreplays)]
  set m := ringDist 16 (d.fld supcqHeadIndex) (v % 16)
  refine ⟨?_, ?_, ?_, fun o ho => ?_⟩
  · rw [Dev.fld_setFld_ne _ _ _ _ _ _ (by decide), Dev.updCq_fld, Dev.fld_setFld _ _ _ _ (by decide) (by decide)]
    exact Nat.mod_eq_of_lt (Nat.mod_lt _ (by decide))
  · rw [setFld_cq, Dev.cq_updCq_self, setFld_cq]
  · rw [Dev.fld_setFld _ _ _ _ (by decide) (by decide)]
    generalize decide ((d.cq 64).used ≠ m) = b
    cases b <;> rfl
  · simp only [List.mem_cons, List.not_mem_nil, or_false, not_or] at ho
    exact (Dev.setFld_word_ne _ supStatusCplPending 0 _ ho.2 nofun).trans (Dev.setFld_word_ne d supcqHeadIndex 0 _ ho.1 nofun)

/-! ### The commands that write ENABLE -/

section
variable {s : State} {p : Port} {k : Nat} {v old : U32} {r : RDef} (x : Nat)

/-- A write of SQk_CFG that changes ENABLE alone. -/
theorem sqCfg_written (hk : k < 64) (h : Reached s.dev p (rSqCfg + 0x20 * k) 4 true r k)
    (hold : bankWord s.dev.regs (rSqCfg + 0x20 * k) = old) (hsame : ∀ hi lo, 0 < lo → bits old.toNat hi lo = bits v.toNat hi lo) :
    ∃ e, arrayWrite p rSqCfg 0x20 64 k (setBits v.toNat 0 0 x) s =
        { s with dev := sqEnableChange k old.toNat (setBits v.toNat 0 0 x % 2 ^ (8 * 4)) e } ∧
      e.fld sqCfgEnable k = x % 2 ∧ RegsWritten s.dev e := by
  refine ⟨writeByCodes p sqCfgReg k (setBits v.toNat 0 0 x % 2 ^ (8 * 4)) s.dev, ?_, ?_, sqCfgReg_wordByCodes.regsWritten _ _ _ _⟩
  · rw [arrayWrite_of_reached _ hk h (findReg_sqCfg k hk) rfl, writeReg_sqCfg p (Nat.mul_comm k 0x20 ▸ hold)]
    · rw [hsame _ _ Nat.one_pos, bits_setBit_ne _ _ (by decide) (by decide)]
    · rw [hsame 11 6 (by decide), bits_setBit_ne _ _ (by decide) (by decide)]
  · rw [sqCfgEnable_written, bits_setBit]

/-- A write of CQk_CFG that changes ENABLE alone. -/
theorem cqCfg_written (hk : k < 64) (h : Reached s.dev p (rCqCfg + 0x20 * k) 4 true r k)
    (hold : bankWord s.dev.regs (rCqCfg + 0x20 * k) = old) (hsame : ∀ hi lo, 0 < lo → bits old.toNat hi lo = bits v.toNat hi lo) :
    ∃ e, arrayWrite p rCqCfg 0x20 64 k (setBits v.toNat 0 0 x) s =
        { s with dev := cqEnableChange k old.toNat (setBits v.toNat 0 0 x % 2 ^ (8 * 4)) e } ∧
      e.fld cqCfgEnable k = x % 2 ∧ RegsWritten s.dev e := by
  refine ⟨writeByCodes p cqCfgReg k (setBits v.toNat 0 0 x % 2 ^ (8 * 4)) s.dev, ?_, ?_, cqCfgReg_wordByCodes.regsWritten _ _ _ _⟩
  · rw [arrayWrite_of_reached _ hk h (findReg_cqCfg k hk) rfl, writeReg_cqCfg p (Nat.mul_comm k 0x20 ▸ hold)]
    · rw [hsame _ _ Nat.one_pos, bits_setBit_ne _ _ (by decide) (by decide)]
  · rw [cqCfgEnable_written, bits_setBit]

/-- A write that clears the mask bit of a masked vector. -/
theorem msixCtrl_written (hk : k < 64) (h : Reached s.dev p (rMsixCtrl + 0x10 * k) 4 true r k)
    (hold : bit (bankWord s.dev.regs (rMsixCtrl + 0x10 * k)).toNat 0 = true) :
    ∃ e, arrayWrite p rMsixCtrl 0x10 64 k 0 s = { s with dev := vectorUnmasked k e } ∧
      e.fld msixCtrlMask k = 0 ∧ RegsWritten s.dev e ∧ linkUp e = linkUp s.dev ∧
      bankWord e.regs (rMsixPba + 4 * (k / 32)) = bankWord s.dev.regs (rMsixPba + 4 * (k / 32)) := by
  refine ⟨writeByCodes p msixCtrlReg k 0 s.dev, ?_, ?_, msixCtrlReg_wordByCodes.regsWritten _ _ _ _, ?_, ?_⟩
  · rw [arrayWrite_of_reached _ hk h (findReg_msixCtrl k hk) rfl]
    exact writeReg_msixCtrl p (by rw [Nat.mul_comm]; exact hold)
  · exact msixCtrlMask_written 0
  · rw [linkUp, Dev.flag, msixCtrlReg_wordByCodes.fld_ne _ _ _ _ rfl (by simp [RDef.at, msixCtrlReg, rMsixCtrl, hostqStatusLinkUp]; omega)
      (by decide)]
    rfl
  · exact msixCtrlReg_wordByCodes.word_ne _ _ _ _ (by simp [RDef.at, msixCtrlReg, rMsixCtrl, rMsixPba]; omega)
      (by simp [rMsixPba, rDevErrStatus]; omega)

end

/-- Settles O38: what a write of ENABLE or of a mask bit leaves in the register decides what follows it; the queue's positions are checked
against those in force. -/
theorem ringEnableResults : Obligations.RingEnableResults := by
  unfold Obligations.RingEnableResults
  refine ⟨fun s k v p off => ?ports, fun s v => ?supervisor⟩
  case ports =>
    dsimp only
    rintro hk ⟨r, hreach⟩
    refine ⟨?sq, ?cq, ?msix⟩
    case sq =>
      rintro rfl
      refine ⟨fun hold _ => ?_, fun hold hpass => ?_⟩
      · obtain ⟨e, hwrite, hen, he⟩ := sqCfg_written 1 hk hreach hold fun _ _ => bits_and_not_one v
        obtain ⟨hen, hhead, htail, hstopped, hcqs, hjobs⟩ :=
          sqEnableChange_starts hk (bit_setBit v.toNat 1) (bit_and_not_one v) hen _ rfl
        exact ⟨_, congrArg Host.Outcome.next hwrite, hen, hhead, htail, hstopped,
          fun c => congrArg (mapGet _ · c) (hcqs.trans he.cqs), hjobs.trans he.jobs⟩
      · obtain ⟨e, hwrite, -, he⟩ := sqCfg_written 0 hk hreach hold fun _ _ => bits_or_one v
        rw [sqEnableChange_stops _ (bit_setBit v.toNat 0) (bit_or_one v)] at hwrite
        have hsq : e.sq k = s.dev.sq k := congrArg (mapGet _ · k) he.sqs
        have hjobs : e.jobs = s.dev.jobs := he.jobs
        obtain ⟨hen, hkeep, hstopped⟩ := disableRing_of_quiet hk (hsq ▸ hpass)
        exact ⟨_, congrArg Host.Outcome.next hwrite, hen, hkeep.trans hjobs, hjobs ▸ hstopped⟩
    case cq =>
      rintro rfl hreplays
      refine ⟨fun hold _ => ?_, fun hold => ?_⟩
      · obtain ⟨e, hwrite, hen, he⟩ := cqCfg_written 1 hk hreach hold fun _ _ => bits_and_not_one v
        exact ⟨_, congrArg Host.Outcome.next hwrite,
          cqEnableChange_starts hk (bit_setBit v.toNat 1) (bit_and_not_one v) hen (he.replays.trans hreplays) _ rfl⟩
      · obtain ⟨e, hwrite, hen, he⟩ := cqCfg_written 0 hk hreach hold fun _ _ => bits_or_one v
        obtain ⟨hoff, hjobs⟩ := cqEnableChange_stops (old := (v ||| 1).toNat) hk (bit_setBit v.toNat 0) hen
          (he.replays.trans hreplays)
        exact ⟨_, congrArg Host.Outcome.next hwrite, hoff, hjobs.trans he.jobs⟩
    case msix =>
      rintro rfl hmasked
      obtain ⟨e, hwrite, hmask, he, hlink, hpba⟩ := msixCtrl_written hk hreach hmasked
      have hout : e.out = s.dev.out := he.out
      refine ⟨fun hquiet => ?_, fun hpending hup => ?_⟩
      · rw [vectorUnmasked_of_quiet (hpba ▸ hquiet)] at hwrite
        exact ⟨_, congrArg Host.Outcome.next hwrite, by rw [Dev.flag, hmask]; rfl, hout⟩
      · obtain ⟨hmask, hcleared, a, x, hsent⟩ := vectorUnmasked_of_pending (hpba ▸ hpending) hmask (hlink.trans hup) _ rfl
        exact ⟨_, a, x, congrArg Host.Outcome.next hwrite, by rw [Dev.flag, hmask]; rfl, hcleared, hout ▸ hsent⟩
  case supervisor =>
    dsimp only
    rintro ⟨r, htail⟩ ⟨r', hhead⟩
    refine ⟨fun h => ?_, fun h => ?_, ⟨fun h => ?_, fun h hreplays => ?_⟩, fun hlink => ⟨?_, ?_⟩⟩
    · rw [exec_supqTail_of_reached htail, supTailWrite, if_neg h.not_gt]
    · rw [exec_supqTail_of_reached htail, supTailWrite, if_pos h]
    · rw [exec_supcqHead_of_reached hhead, supHeadWrite, if_pos h]
    · exact ⟨_, exec_supcqHead_of_reached hhead, supHeadWrite_of_good rfl h hreplays _ rfl⟩
    · rw [exec_supqTail, execSupqTail, cmdWrite_sup_of_host _ hlink (by decide) (by decide)]; rfl
    · rw [exec_supcqHead, execSupcqHead, cmdWrite_sup_of_host _ hlink (by decide) (by decide)]; rfl

end Sys2Proof.Machine
end

section
/-! PROOFS. Entries of the stream FIFOs and plans (R374 to R376, R464): O46. -/

namespace Sys2Proof.Machine

section
variable {d : Dev} {n j i : Nat}

/-! ### What touches neither a FIFO nor a recording -/

/-- Where no push waits for the FIFO, none is written. -/
theorem fifoPump_of_none (h : ∀ x ∈ d.fifos.pushes, x.2.1 ≠ n) : fifoPump d n = d := by
  have hfind : (d.fifos.pushes.find? fun p => p.2.1 = n) = none := List.find?_eq_none.mpr (by simpa using h)
  rw [fifoPump, hfind]

theorem recordOf_of_none {type aux lt : Nat} {payload : List Byte} (h : recordedAs d j = none) :
    recordOf d j type aux lt payload = d := by
  rw [recordOf, h]

@[simp] theorem Dev.fifo_updFifo_self (d : Dev) (n : Nat) (f : Fifo → Fifo) : (d.updFifo n f).fifo n = f (d.fifo n) :=
  mapGet_set_self _ _ _ _

/-- A field that is written with its own value leaves the register as it was. -/
theorem setBits_bits_self (v hi lo : Nat) (h : lo ≤ hi) : setBits v hi lo (bits v hi lo) = v := by
  apply Nat.eq_of_testBit_eq
  intro i
  rw [testBit_setBits _ _ _ _ _ (by omega)]
  split
  · rw [testBit_bits, Nat.add_sub_cancel' (by omega)]
    simp only [Bool.and_eq_right_iff_imp, decide_eq_true_eq]
    omega
  · rfl

/-- A counter raised by nothing. -/
theorem Dev.incFld_zero_word (d : Dev) {f : Fld} (i o : Nat) (hw : f.wide = false) (hf : f.lo ≤ f.hi) :
    bankWord (d.incFld f i 0).regs o = bankWord d.regs o := by
  have hval : satInc (f.hi + 1 - f.lo) (d.fld f i) 0 = d.fld f i := min_eq_left (Nat.le_sub_one_of_lt (bits_lt _ f.hi f.lo))
  rw [Dev.incFld, hval]
  by_cases ho : o = f.base + i * f.stride
  · subst ho
    simp only [Dev.setFld, bankFldSet, Dev.fld, bankFld, setBits_bits_self _ _ _ hf, bankRegSet, bankReg, hw, Bool.false_eq_true, if_false,
      bankWord_set_self, BitVec.ofNat_toNat, BitVec.setWidth_eq]
  · exact Dev.setFld_word_ne _ _ _ _ ho (by simp [hw])

/-! ### A consumer takes an entry (R375) -/

/-- Entry `e` of the FIFO has begun to be read, and the entries of `old` are gone from it. -/
def beginEntry (old : List FifoEntry) (e : FifoEntry) (l : List FifoEntry) : List FifoEntry :=
  (l.filter fun x => !old.contains x).map fun x => if x = e then { x with begun := true } else x

/-- The problem holds entry `e`; the entries of `old` count as skipped. -/
def fifoTaken (d : Dev) (n j i : Nat) (e : FifoEntry) (old : List FifoEntry) : Dev :=
  ((d.updFifo n fun f => { f with waiters := f.waiters.erase (j, i), entries := beginEntry old e f.entries }).incFld
    streamCnt1Skipped n old.length).updProb j i fun q => { q with taken := some (e.payload, e.tIngress), cut := none, tMeas := e.tIngress }

theorem fifoTake_of_unrecorded {p : Problem} {e : FifoEntry} {old : List FifoEntry} (hfirst : (d.fifo n).waiters.head? = some (j, i))
    (hprob : d.prob j i = some p) (hpick : fifoPick d n = some (e, old)) (htime : p.deadline = none) (hphase : p.phase ≠ .ended)
    (hrec : recordedAs d j = none) (hpush : old = [] ∨ ∀ x ∈ d.fifos.pushes, x.2.1 ≠ n) :
    fifoTake n j i d = fifoTaken d n j i e old := by
  have hrec' (f : Fifo → Fifo) (m : Nat) : recordedAs ((d.updFifo n f).incFld streamCnt1Skipped n m) j = none := hrec
  have hpumped : old.foldl (fun d _ => fifoPump d n) (fifoTaken d n j i e old) = fifoTaken d n j i e old := by
    rcases hpush with rfl | hpush
    · rfl
    · exact List.foldl_fixed' (fun _ => fifoPump_of_none (n := n) (d := fifoTaken d n j i e old) hpush) old
  simp only [fifoTake, hfirst, hprob, hpick, htime, hphase, recordOf_of_none (hrec' _ _), ite_self, ne_eq, not_true_eq_false,
    decide_false, Bool.or_self, Bool.false_eq_true, if_false]
  exact hpumped

section
variable (d : Dev) (n j i : Nat) (e : FifoEntry) (old : List FifoEntry)

theorem fifo_fifoTaken : (fifoTaken d n j i e old).fifo n =
    { d.fifo n with waiters := (d.fifo n).waiters.erase (j, i), entries := beginEntry old e (d.fifo n).entries } :=
  Dev.fifo_updFifo_self d n fun f => { f with waiters := f.waiters.erase (j, i), entries := beginEntry old e f.entries }

theorem prob_fifoTaken : (fifoTaken d n j i e old).prob j i =
    (d.prob j i).map fun q => { q with taken := some (e.payload, e.tIngress), cut := none, tMeas := e.tIngress } :=
  Dev.prob_updProb_self _ j i _ fun _ hj hi => ⟨hj, hi⟩

theorem fld_fifoTaken (h : d.fld streamCnt1Skipped n + old.length < 65536) :
    (fifoTaken d n j i e old).fld streamCnt1Skipped n = d.fld streamCnt1Skipped n + old.length := by
  have hfld : (fifoTaken d n j i e old).fld streamCnt1Skipped n = (d.incFld streamCnt1Skipped n old.length).fld streamCnt1Skipped n := rfl
  have hsat : satInc 16 (d.fld streamCnt1Skipped n) old.length = d.fld streamCnt1Skipped n + old.length := min_eq_left (by omega)
  rw [hfld, Dev.incFld, Dev.fld_setFld _ _ _ _ (by decide) (by decide)]
  exact (congrArg (· % 65536) hsat).trans (Nat.mod_eq_of_lt h)

theorem words_fifoTaken (o : Nat) : bankWord (fifoTaken d n j i e []).regs o = bankWord d.regs o :=
  Dev.incFld_zero_word d (f := streamCnt1Skipped) n o rfl (by decide)

end

theorem beginEntry_nil (e : FifoEntry) (l : List FifoEntry) :
    beginEntry [] e l = l.map fun x => if x = e then { x with begun := true } else x := by
  simp [beginEntry]

theorem fifoPick_of_oldest (h : d.flag streamCfgTake n = false) {e : FifoEntry}
    (he : ((d.fifo n).entries.filter fun e => !e.begun).head? = some e) : fifoPick d n = some (e, []) := by
  simp [fifoPick, h, he]

theorem fifoPick_of_newest (h : d.flag streamCfgTake n = true) {e : FifoEntry}
    (he : ((d.fifo n).entries.filter fun e => !e.begun).getLast? = some e) :
    fifoPick d n = some (e, ((d.fifo n).entries.filter fun e => !e.begun).dropLast) := by
  simp [fifoPick, h, he]

/-! ### Cut-through and credits (R374, R376) -/

theorem fifoCut_of_first {p : Problem} (landed : Nat) (hfirst : (d.fifo n).waiters.head? = some (j, i)) (hprob : d.prob j i = some p)
    (hon : fifoOn d n = true) (hct : d.fld streamCfgCt n ≠ 0) (hphase : p.phase = .queued) : fifoCut n j i landed d =
      if landed < 64 * d.fld streamCfgCt n then d else d.updProb j i fun q => { q with cut := some (n, landed) } := by
  simp [fifoCut, hfirst, hprob, hon, hct, hphase]

theorem fifoCredit_of_begun {seq : Nat} {e : FifoEntry} (he : ((d.fifo n).entries.find? fun e => e.begun && e.seq = seq) = some e)
    (hpush : ∀ x ∈ d.fifos.pushes, x.2.1 ≠ n) : fifoCredit n seq d = d.updFifo n fun f => { f with entries := f.entries.erase e } := by
  rw [fifoCredit, he]
  exact fifoPump_of_none (by exact hpush)

/-! ### A plan entry begins (R464) -/

theorem releasePlans_seq (d : Dev) : (releasePlans d).fld loopPlanStatSeq = d.fld loopPlanStatSeq :=
  Dev.fld_setFld_of_beside _ loopPlanStatStep loopPlanStatSeq 0 _ (by decide)

theorem releasePlans_begun (d : Dev) : (releasePlans d).loop.begun = d.loop.begun.filter fun b => !entryOver d b := rfl

/-- Entry `e` of the plan FIFO has begun. -/
def planBegun (d : Dev) (e : PlanEntry) : Dev :=
  ({ d with
    fifos := { d.fifos with plan := d.fifos.plan.map fun x => if x.seq = e.seq && !x.begun then { x with begun := true } else x }
    loop := { d.loop with begun := d.loop.begun ++ [⟨d.loop.nextOrd, { e with begun := true }⟩], nextOrd := d.loop.nextOrd + 1 } } :
      Dev).setFld loopPlanStatSeq e.seq

theorem planBegin_of_some {e : PlanEntry} (he : (d.fifos.plan.find? fun e => !e.begun) = some e) :
    planBegin d = releasePlans (planBegun d e) := by
  rw [planBegin, he]; rfl

theorem takesPart_planBegun (d : Dev) (e x : PlanEntry) (k : Nat) : takesPart (planBegun d e) x k = takesPart d x k := by
  have hfld : (planBegun d e).fld loopkSrcSpsrc k = d.fld loopkSrcSpsrc k :=
    Dev.fld_setFld_ne _ loopPlanStatSeq loopkSrcSpsrc 0 k _ (.inr (by simp [loopPlanStatSeq, loopkSrcSpsrc, b2n]; omega))
  rw [takesPart, takesPart, hfld]

/-- An entry that a loop has still to see is not over. -/
theorem entryOver_of_unseen {b : Begun} (hpart : (upto 16).any (takesPart d b.entry) = true) (hseen : ∀ k, (d.lp k).seen ≤ b.ord) :
    entryOver d b = false := by
  obtain ⟨k, hk, hpart⟩ := List.any_eq_true.mp hpart
  rw [entryOver, List.all_eq_false]
  exact ⟨k, hk, by simp [hpart, (hseen k).not_gt]⟩

end

/-- Settles O46: the entry that the consumer picks is the one that R375 names, and nothing else moves with it. -/
theorem fifoResults : Obligations.FifoResults := by
  unfold Obligations.FifoResults
  intro s n j i
  refine ⟨fun ws p e hws hprob htime hphase hrec => ⟨fun htake he => ?oldest, fun htake he hpush => ?newest⟩,
    fun ws p landed hws hprob hon hct hphase => ⟨fun hland => ?cut, fun hland => ?waits⟩, fun seq e he hpush => ?credit, fun e he => ?plan⟩
  case oldest =>
    have hexec := fifoTake_of_unrecorded (by rw [hws]; rfl) hprob (fifoPick_of_oldest htake he) htime hphase hrec (.inl rfl)
    have hfifo := fifo_fifoTaken s.dev n j i e []
    rw [hws, List.erase_cons_head, beginEntry_nil] at hfifo
    exact ⟨_, _, congrArg (leaves s) hexec, congrArg Fifo.waiters hfifo, congrArg Fifo.entries hfifo,
      (prob_fifoTaken _ _ _ _ _ _).trans (congrArg _ hprob), rfl, rfl, fun o _ => words_fifoTaken _ _ _ _ _ o⟩
  case newest =>
    have hexec := fifoTake_of_unrecorded (by rw [hws]; rfl) hprob (fifoPick_of_newest htake he) htime hphase hrec (.inr hpush)
    set old := ((s.dev.fifo n).entries.filter fun e => !e.begun).dropLast with hold
    have hfifo := fifo_fifoTaken s.dev n j i e old
    rw [hws, List.erase_cons_head] at hfifo
    exact ⟨_, _, congrArg (leaves s) hexec, congrArg Fifo.waiters hfifo, congrArg Fifo.entries hfifo,
      (prob_fifoTaken _ _ _ _ _ _).trans (congrArg _ hprob), rfl, fun hsum => (List.length_dropLast ▸ fld_fifoTaken _ _ _ _ _ old) hsum⟩
  case cut =>
    exact congrArg (leaves s) ((fifoCut_of_first landed (by rw [hws]; rfl) hprob hon hct hphase).trans (if_neg hland.not_gt))
  case waits =>
    exact congrArg (leaves s) ((fifoCut_of_first landed (by rw [hws]; rfl) hprob hon hct hphase).trans (if_pos hland))
  case credit => exact congrArg (leaves s) (fifoCredit_of_begun he hpush)
  case plan =>
    refine ⟨_, congrArg (leaves s) (planBegin_of_some he), rfl, ?_, fun hpart hnone hseen => ?_⟩
    · rw [releasePlans_seq]
      exact Dev.fld_setFld _ loopPlanStatSeq 0 _ (by decide) (by decide)
    · have hbegun : (planBegun s.dev e).loop.begun = [⟨s.dev.loop.nextOrd, { e with begun := true }⟩] :=
        congrArg (· ++ _) hnone
      have hover : entryOver (planBegun s.dev e) ⟨s.dev.loop.nextOrd, { e with begun := true }⟩ = false :=
        entryOver_of_unseen (by rw [funext (takesPart_planBegun s.dev e _)]; exact hpart) hseen
      rw [releasePlans_begun, hbegun, List.filter_cons_of_pos (by rw [hover]; rfl), List.filter_nil]

end Sys2Proof.Machine
end

section
/-! PROOFS. The exit from the safe state over a register bank that is not in canonical form (R393): O40. -/

namespace Sys2Proof.Machine

/-- A powered module in the safe state whose bank lists DEV_CTRL twice: first with its reset value 0, which is what it reads, then with
SETUP_LOCK set. -/
def lockListedTwice : State :=
  { dev := {
      regs := [(rDevCtrl, 0), (rDevCtrl, 1), (rSupSafeStatus, 1)]
      clr := { on := true }
      boot := { powered := true, stage0Done := true } } }

theorem lockListedTwice_safe : safeState lockListedTwice.dev = true ∧ causeHolds lockListedTwice.dev = false := by
  decide +kernel

def supSafeReg : RDef := ⟨rSupSafe, 0, 1, false, false, .other, [⟨31, 0, .wo, 0⟩]⟩

theorem lockListedTwice_reached : Reached lockListedTwice.dev .spadja rSupSafe 4 true supSafeReg 0 :=
  ⟨by decide +kernel, by decide +kernel, by decide +kernel, .inl rfl⟩

/-- SUP_SAFE with the key of the exit from the Spadja port (R393). -/
theorem safeExitWrite_of_reached {s : State} (h : Reached s.dev .spadja rSupSafe 4 true supSafeReg 0) :
    exec (.safeExitWrite .spadja) s = .next (applyLibrary { s with dev := leaveSafe s.nv.fuses s.dev }) := by
  rw [exec_safeExitWrite, execSafeExitWrite, cmdWrite_of_reached _ h]
  simp [writeReg, safeWrite, supSafeReg, rSupSafe, rDevCtrl, rDevReset]

/-- The exit resets the host and compute domains, which drops the entry that equals the reset value and so uncovers the one behind it. -/
theorem lockListedTwice_exit : lockListedTwice.dev.flag devCtrlSetupLock = false ∧
    (applyLibrary { lockListedTwice with dev := leaveSafe lockListedTwice.nv.fuses lockListedTwice.dev }).dev.flag devCtrlSetupLock = true := by
  decide +kernel

/-- Refutes O40: its statement takes every state, also one whose register bank is not in canonical form. Where a bank lists DEV_CTRL twice,
first with its reset value, `bankReset` drops the first entry, and SETUP_LOCK reads as set after the exit from the safe state. -/
theorem not_safeStateResults : ¬ Obligations.SafeStateResults := by
  unfold Obligations.SafeStateResults
  rintro ⟨hsafe, -⟩
  obtain ⟨-, -, hspadja, -⟩ := hsafe lockListedTwice
  obtain ⟨-, hexit, -⟩ := hspadja ⟨_, lockListedTwice_reached⟩
  obtain ⟨u, hu, -, -, -, -, -, -, -, hlock, -⟩ := hexit lockListedTwice_safe.1 lockListedTwice_safe.2 rfl
  rw [safeExitWrite_of_reached lockListedTwice_reached] at hu
  injection hu with hu
  rw [← hu, lockListedTwice_exit.1, lockListedTwice_exit.2] at hlock
  exact absurd hlock (by decide)

end Sys2Proof.Machine
end

section
/-! PROOFS. The watchdog's reset over a register bank that is not in canonical form (R393, R541): O56. -/

namespace Sys2Proof.Machine

/-- A powered module with the firmware running and a valid image of kind 1, whose bank lists SUP_SAFE_STATUS twice: first with its reset
value 0, which is what it reads, then with SAFE set. -/
def safeListedTwice : State :=
  { dev := { regs := [(rSupSafeStatus, 0), (rSupSafeStatus, 1), (rMgmtStatus, 1)], boot := { powered := true } }
    nv := { slots := [(2, { img := some ⟨0, 0, 0, 0, 0, [], true⟩ })] } }

theorem safeListedTwice_ready : fwReady safeListedTwice.dev = true ∧
    safeListedTwice.goodImg 1 false = some ⟨0, 0, 0, 0, 0, [], true⟩ := by
  decide +kernel

/-- The reset of the management domain drops the entry that equals the reset value and so uncovers the one behind it. -/
theorem safeListedTwice_watchdog :
    safeState safeListedTwice.dev = false ∧ safeState (watchdogExpiry safeListedTwice).dev = true := by
  decide +kernel

/-- Refutes O56: its statement takes every state, also one whose register bank is not in canonical form. Where a bank lists
SUP_SAFE_STATUS twice, first with its reset value, `bankReset` drops the first entry, and the module reads as being in the safe state after
the first expiry of the watchdog. -/
theorem not_firmwareResults : ¬ Obligations.FirmwareResults := by
  unfold Obligations.FirmwareResults
  rintro ⟨hfirmware, -⟩
  obtain ⟨hexpiry, -⟩ := hfirmware safeListedTwice
  obtain ⟨hfirst, -⟩ := hexpiry rfl safeListedTwice_ready.1
  obtain ⟨u, hu, -, -, -, -, -, -, -, -, -, -, -, hsafe⟩ := hfirst false _ safeListedTwice_ready.2 (by decide)
  have hexec : exec .watchdogExpiry safeListedTwice = .next (watchdogExpiry safeListedTwice) := by
    rw [exec_watchdogExpiry, execWatchdogExpiry, safeListedTwice_ready.1]
    rfl
  rw [hexec] at hu
  injection hu with hu
  rw [← hu, safeListedTwice_watchdog.1, safeListedTwice_watchdog.2] at hsafe
  exact absurd hsafe (by decide)

end Sys2Proof.Machine
end

section
/-! PROOFS. What an abort leaves alone: the settings of the submission rings, and the boot state (R380). -/

namespace Sys2Proof.Machine

/-- The step leaves every SQk_CFG and the boot state as they are. -/
structure KeepsRingCfg (d e : Dev) : Prop where
  boot : e.boot = d.boot
  word : ∀ k < 64, bankWord e.regs (rSqCfg + 0x20 * k) = bankWord d.regs (rSqCfg + 0x20 * k)

/-- No register of the field is one of SQ0_CFG to SQ63_CFG: it lies above them all, or at another place in each ring's block. -/
def Fld.sparesRingCfg (f : Fld) : Bool :=
  decide (0x2800 ≤ f.base) || (!f.wide && decide (f.stride % 0x20 = 0 ∧ f.base % 0x20 ≠ 8))

theorem Fld.word_of_sparesRingCfg {f : Fld} (h : f.sparesRingCfg = true) (i : Nat) {k : Nat} (hk : k < 64) :
    rSqCfg + 0x20 * k ≠ f.base + i * f.stride ∧ (f.wide = true → rSqCfg + 0x20 * k ≠ f.base + i * f.stride + 4) := by
  simp only [Fld.sparesRingCfg, Bool.or_eq_true, Bool.and_eq_true, Bool.not_eq_true', decide_eq_true_eq] at h
  rcases h with h | ⟨hw, hs, hb⟩
  · simp only [rSqCfg]
    omega
  · refine ⟨fun heq => hb ?_, fun hw' => absurd (hw.symm.trans hw') nofun⟩
    obtain ⟨m, hm⟩ := Nat.dvd_of_mod_eq_zero hs
    have hmul : i * f.stride = 0x20 * (i * m) := by rw [hm]; ring
    rw [hmul] at heq
    simp only [rSqCfg] at heq
    omega

namespace KeepsRingCfg
variable {d e g : Dev}

theorem ofFields (hboot : e.boot = d.boot) (hregs : e.regs = d.regs) : KeepsRingCfg d e := ⟨hboot, fun _ _ => by rw [hregs]⟩

theorem refl (d : Dev) : KeepsRingCfg d d := ⟨rfl, fun _ _ => rfl⟩

theorem trans (h : KeepsRingCfg d e) (h' : KeepsRingCfg e g) : KeepsRingCfg d g :=
  ⟨h'.boot.trans h.boot, fun k hk => (h'.word k hk).trans (h.word k hk)⟩

/-- The last step first: the goal tells it, and with it the device between. -/
theorem after (h' : KeepsRingCfg e g) (h : KeepsRingCfg d e) : KeepsRingCfg d g := h.trans h'

theorem foldl {γ : Type} {f : Dev → γ → Dev} (hf : ∀ d c, KeepsRingCfg d (f d c)) (l : List γ) (d : Dev) :
    KeepsRingCfg d (l.foldl f d) :=
  List.foldlRecOn l f (motive := KeepsRingCfg d) (refl d) fun _ he _ _ => he.trans (hf _ _)

theorem ite {p : Prop} [Decidable p] (he : KeepsRingCfg d e) (hg : KeepsRingCfg d g) : KeepsRingCfg d (if p then e else g) := by
  split
  · exact he
  · exact hg

theorem fld (h : KeepsRingCfg d e) {k : Nat} (hk : k < 64) {f : Fld} (hb : f.base = rSqCfg) (hs : f.stride = 0x20) (hw : f.wide = false) :
    e.fld f k = d.fld f k :=
  Dev.fld_congr_word hw (by rw [hb, hs, Nat.mul_comm]; exact h.word k hk)

end KeepsRingCfg

open KeepsRingCfg (ofFields)

theorem setFld_keepsRingCfg {d : Dev} {f : Fld} {v i : Nat} (h : f.sparesRingCfg = true) : KeepsRingCfg d (d.setFld f v i) where
  boot := rfl
  word k hk := by
    obtain ⟨hlow, hhigh⟩ := f.word_of_sparesRingCfg h i hk
    exact Dev.setFld_word_ne _ _ _ _ hlow hhigh

theorem incFld_keepsRingCfg {d : Dev} {f : Fld} {i n : Nat} (h : f.sparesRingCfg = true) : KeepsRingCfg d (d.incFld f i n) :=
  setFld_keepsRingCfg h

theorem attnCount_keepsRingCfg (d : Dev) (n k : Nat) : KeepsRingCfg d (d.attnCount n k) := incFld_keepsRingCfg (by decide)

theorem forCount_keepsRingCfg (d : Dev) (n : Nat) : KeepsRingCfg d (d.forCount n) := incFld_keepsRingCfg (by decide)

theorem solvCount_keepsRingCfg (d : Dev) (n k : Nat) : KeepsRingCfg d (d.solvCount n k) := incFld_keepsRingCfg (by decide)

theorem jobFlag_keepsRingCfg (d : Dev) (j : Option Nat) (f : Nat) : KeepsRingCfg d (d.jobFlag j f) := by
  cases j
  · exact .refl d
  · exact ofFields rfl rfl

theorem logEvent_keepsRingCfg (d : Dev) (code : Nat) (data : List Byte) : KeepsRingCfg d (logEvent d code data) :=
  .ite (ofFields rfl rfl) ((incFld_keepsRingCfg (by decide)).after (ofFields rfl rfl))

/-! ### Memory and its codes -/

theorem poisonWrite_keepsRingCfg (d : Dev) (a : Nat) : KeepsRingCfg d (poisonWrite d a) :=
  (incFld_keepsRingCfg (by decide)).after (ofFields rfl rfl)

theorem loseInfo_keepsRingCfg (o : Nat) (d : Dev) : KeepsRingCfg d (loseInfo o d) := .ite (.refl d) (ofFields rfl rfl)

theorem canopyLost_keepsRingCfg (o : Nat) (d : Dev) : KeepsRingCfg d (canopyLost o d) :=
  (loseInfo_keepsRingCfg _ _).after (.ite (ofFields rfl rfl) (.refl d))

theorem ddrRowLost_keepsRingCfg (a : Nat) (d : Dev) : KeepsRingCfg d (ddrRowLost a d) := ofFields rfl rfl

theorem ddrRowError_keepsRingCfg (a : Nat) (d : Dev) : KeepsRingCfg d (ddrRowError a d) := ofFields rfl rfl

theorem foundUncorr_keepsRingCfg (d : Dev) (a kind : Nat) : KeepsRingCfg d (foundUncorr d a kind) := by
  have recorded (e : Dev) (x y z : Nat) : KeepsRingCfg e (((((e.setFld memErrAddrAddr x).setFld memErrInfoValid 1).setFld memErrInfoStore y).setFld
      memErrInfoChannel z).setFld memErrInfoKind kind) :=
    (setFld_keepsRingCfg (by decide)).after ((setFld_keepsRingCfg (by decide)).after ((setFld_keepsRingCfg (by decide)).after
      ((setFld_keepsRingCfg (by decide)).after (setFld_keepsRingCfg (by decide)))))
  unfold foundUncorr
  dsimp only
  refine .ite (.refl d) ((logEvent_keepsRingCfg _ _ _).after (.ite ((canopyLost_keepsRingCfg _ _).after ((incFld_keepsRingCfg (by decide)).after ?_))
    ((ddrRowLost_keepsRingCfg _ _).after ((incFld_keepsRingCfg (by decide)).after ?_))))
  all_goals exact (setFld_keepsRingCfg (by decide)).after ((poisonWrite_keepsRingCfg d _).trans (.ite (.refl _) (recorded _ _ _ _)))

theorem meetFlaw_keepsRingCfg (d : Dev) (j : Option Nat) (kind : Nat) (e : Nat × Ecc) : KeepsRingCfg d (meetFlaw d j kind e) := by
  refine .ite ((jobFlag_keepsRingCfg _ _ _).after ((setFld_keepsRingCfg (by decide)).after (.ite ?_ ?_)))
    ((foundUncorr_keepsRingCfg _ _ _).after (ofFields rfl rfl))
  · exact (incFld_keepsRingCfg (by decide)).after (ofFields rfl rfl)
  · exact (ddrRowError_keepsRingCfg _ _).after (incFld_keepsRingCfg (by decide))

theorem scanMem_keepsRingCfg (d : Dev) (j : Option Nat) (kind a n : Nat) : KeepsRingCfg d (scanMem d j kind a n) :=
  .foldl (fun _ _ => meetFlaw_keepsRingCfg _ _ _ _) _ _

theorem scanAddr_keepsRingCfg (d : Dev) (j : Option Nat) (a n kind : Nat) : KeepsRingCfg d (scanAddr d j a n kind) := by
  unfold scanAddr
  split
  · exact scanMem_keepsRingCfg _ _ _ _ _
  · exact .refl d

theorem scanAll_keepsRingCfg (d : Dev) (j : Nat) (l : List (Nat × Nat)) : KeepsRingCfg d (scanAll d j l) :=
  .foldl (fun d _ => .ite (.refl d) (scanAddr_keepsRingCfg _ _ _ _ _)) _ _

theorem mergeScan_keepsRingCfg (d : Dev) (a n : Nat) : KeepsRingCfg d (mergeScan d a n) :=
  .ite (.refl d) ((KeepsRingCfg.foldl (fun _ _ => meetFlaw_keepsRingCfg _ _ _ _) _ _).trans (ofFields rfl rfl))

theorem memStore_keepsRingCfg (d : Dev) (a : Nat) (l : List Byte) : KeepsRingCfg d (memStore d a l).1 := by
  unfold memStore
  refine (mergeScan_keepsRingCfg d a l.length).trans ?_
  dsimp only
  split <;> exact ofFields rfl rfl

theorem writeAddr_keepsRingCfg (d : Dev) (a : Nat) (l : List Byte) : KeepsRingCfg d (writeAddr d a l).1 := by
  unfold writeAddr
  split
  · split
    · exact ofFields rfl rfl
    · exact .refl d
  · exact memStore_keepsRingCfg _ _ _
  · exact .refl d

/-! ### Messages, recordings and the end of a job -/

theorem queueFlit_keepsRingCfg (d : Dev) (l : Nat) (f : Flit) : KeepsRingCfg d (queueFlit d l f) :=
  .ite (ofFields rfl rfl) (ofFields rfl rfl)

theorem sendRing_keepsRingCfg (d : Dev) (t cls what tag : Nat) (body : List Byte) : KeepsRingCfg d (sendRing d t cls what tag body) := by
  unfold sendRing
  split
  · exact .refl d
  · dsimp only
    refine .foldl (fun _ _ => ?_) _ _
    exact (queueFlit_keepsRingCfg _ _ _).after (ofFields rfl rfl)

theorem toRing_keepsRingCfg (d : Dev) (what tag : Nat) (bytes : List Byte) : KeepsRingCfg d (toRing d what tag bytes) :=
  .foldl (fun _ _ => sendRing_keepsRingCfg _ _ _ _ _ _) _ _

theorem recGap_keepsRingCfg (d : Dev) (r : Recording) : KeepsRingCfg d (recGap d r) :=
  (setFld_keepsRingCfg (by decide)).after (.trans (e := if _ then _ else _)
    (.ite ((forCount_keepsRingCfg _ _).after (writeAddr_keepsRingCfg _ _ _)) (writeAddr_keepsRingCfg _ _ _)) (ofFields rfl rfl))

theorem recPut_keepsRingCfg (d : Dev) (im type aux lt ord : Nat) (payload : List Byte) :
    KeepsRingCfg d (recPut d im type aux lt ord payload) := by
  unfold recPut
  split
  · exact .refl d
  · refine .ite (.refl d) (.ite (recGap_keepsRingCfg _ _) (.ite (recGap_keepsRingCfg _ _) ?_))
    exact (forCount_keepsRingCfg _ _).after ((writeAddr_keepsRingCfg _ _ _).trans (ofFields rfl rfl))

theorem recordOf_keepsRingCfg (d : Dev) (j type aux lt : Nat) (payload : List Byte) : KeepsRingCfg d (recordOf d j type aux lt payload) := by
  unfold recordOf
  split
  · exact .refl d
  · exact recPut_keepsRingCfg _ _ _ _ _ _ _

theorem recordOutputs_keepsRingCfg (d : Dev) (x : Job) (status : Nat) : KeepsRingCfg d (recordOutputs d x status) := by
  refine .ite (.refl d) (.foldl (fun d e => ?_) _ _)
  split
  · exact recordOf_keepsRingCfg _ _ _ _ _ _
  · exact .refl d

theorem endJob_keepsRingCfg (d : Dev) (j status cause : Nat) : KeepsRingCfg d (endJob d j status cause) := by
  unfold endJob
  refine .trans (e := match d.job j with | some x => _ | none => _) ?_ (ofFields rfl rfl)
  split
  · exact .trans (.ite (toRing_keepsRingCfg _ _ _ _) (.refl d)) (.ite (recordOutputs_keepsRingCfg _ _ _) (.refl _))
  · exact .refl d

theorem refuseJob_keepsRingCfg (d : Dev) (j cause : Nat) : KeepsRingCfg d (refuseJob d j cause) :=
  (forCount_keepsRingCfg _ _).after (endJob_keepsRingCfg _ _ _ _)

/-! ### Fields beside the registers -/

section
variable (d : Dev)

theorem setAttn_keepsRingCfg (a : Attn) : KeepsRingCfg d { d with attn := a } := ofFields rfl rfl
theorem setMem_keepsRingCfg (m : Memory) : KeepsRingCfg d { d with mem := m } := ofFields rfl rfl
theorem setSolv_keepsRingCfg (a : Solv) : KeepsRingCfg d { d with solv := a } := ofFields rfl rfl
theorem setFifos_keepsRingCfg (a : Fifos) : KeepsRingCfg d { d with fifos := a } := ofFields rfl rfl
theorem setNet_keepsRingCfg (a : Net) : KeepsRingCfg d { d with net := a } := ofFields rfl rfl
theorem setRefusals_keepsRingCfg (l : List (Nat × Nat × RefusalStatus)) : KeepsRingCfg d { d with refusals := l } := ofFields rfl rfl
theorem updTile_keepsRingCfg (t : Nat) (f : Tile → Tile) : KeepsRingCfg d (d.updTile t f) := ofFields rfl rfl
theorem updJob_keepsRingCfg (j : Nat) (f : Job → Job) : KeepsRingCfg d (d.updJob j f) := ofFields rfl rfl
theorem updProb_keepsRingCfg (j i : Nat) (f : Problem → Problem) : KeepsRingCfg d (d.updProb j i f) := ofFields rfl rfl
theorem clearTable_keepsRingCfg (s : Nat) : KeepsRingCfg d (clearTable d s) := ofFields rfl rfl
theorem labDropSeq_keepsRingCfg (s : Nat) : KeepsRingCfg d (d.labDropSeq s) := ofFields rfl rfl
theorem labDrop_keepsRingCfg (s i : Nat) : KeepsRingCfg d (d.labDrop s i) := ofFields rfl rfl

end

/-! ### Pages and sequences -/

theorem setSeq_keepsRingCfg (d : Dev) (s : Nat) (v : Seq) : KeepsRingCfg d (d.setSeq s v) :=
  (setFld_keepsRingCfg (by decide)).after (ofFields rfl rfl)

theorem updFree_keepsRingCfg (d : Dev) : KeepsRingCfg d d.updFree := setFld_keepsRingCfg (by decide)

theorem setPage_keepsRingCfg (d : Dev) (p : Nat) (v : PageInfo) : KeepsRingCfg d (d.setPage p v) := ofFields rfl rfl

theorem scanInfo_keepsRingCfg (d : Dev) (j : Option Nat) (p : Nat) : KeepsRingCfg d (scanInfo d j p) :=
  .ite (.refl d) (scanMem_keepsRingCfg _ _ _ _ _)

theorem memZero_keepsRingCfg (d : Dev) (a n : Nat) : KeepsRingCfg d (memZero d a n) := ofFields rfl rfl

theorem choose_keepsRingCfg {α : Type} (d : Dev) (l : List α) : KeepsRingCfg d (choose d l).2 := by
  unfold choose
  split
  · exact .refl d
  · exact .refl d
  · exact ofFields rfl rfl

theorem allocPage_keepsRingCfg (d : Dev) (s idx dd half : Nat) : KeepsRingCfg d (allocPage d s idx dd half).1 := by
  unfold allocPage
  split
  all_goals exact (updFree_keepsRingCfg _).after ((setMem_keepsRingCfg _ _).after ((memZero_keepsRingCfg _ _ _).after
    ((setPage_keepsRingCfg _ _ _).after ((setAttn_keepsRingCfg _ _).after (choose_keepsRingCfg _ _)))))

theorem reclaim_keepsRingCfg (d : Dev) (p : Nat) : KeepsRingCfg d (reclaim d p) :=
  .ite ((updFree_keepsRingCfg _).after ((attnCount_keepsRingCfg _ _ _).after ((setPage_keepsRingCfg _ _ _).after (ofFields rfl rfl)))) (.refl d)

theorem addRef_keepsRingCfg (d : Dev) (p : Nat) : KeepsRingCfg d (addRef d p) := .ite (.refl d) (setPage_keepsRingCfg _ _ _)

theorem dropRef_keepsRingCfg (d : Dev) (p : Nat) : KeepsRingCfg d (dropRef d p) :=
  .ite (.refl d) ((reclaim_keepsRingCfg _ _).after (setPage_keepsRingCfg _ _ _))

theorem pinPage_keepsRingCfg (d : Dev) (p : Nat) : KeepsRingCfg d (pinPage d p) := .ite (.refl d) (setPage_keepsRingCfg _ _ _)

theorem unpinPage_keepsRingCfg (d : Dev) (p : Nat) : KeepsRingCfg d (unpinPage d p) :=
  .ite (.refl d) ((reclaim_keepsRingCfg _ _).after (setPage_keepsRingCfg _ _ _))

theorem unpinOp_keepsRingCfg (d : Dev) (op : Nat) : KeepsRingCfg d (unpinOp d op) :=
  (KeepsRingCfg.foldl unpinPage_keepsRingCfg _ _).after (ofFields rfl rfl)

/-- Both pages of an entry are released. -/
theorem dropRefs_keepsRingCfg (d : Dev) (p q : Nat) : KeepsRingCfg d (dropRef (dropRef d p) q) :=
  (dropRef_keepsRingCfg _ _).after (dropRef_keepsRingCfg _ _)

theorem pinPages_keepsRingCfg (d : Dev) (p q : Nat) : KeepsRingCfg d (pinPage (pinPage d p) q) :=
  (pinPage_keepsRingCfg _ _).after (pinPage_keepsRingCfg _ _)

theorem seqFree_keepsRingCfg (d : Dev) (s : Nat) : KeepsRingCfg d (seqFree d s) := by
  have freed : KeepsRingCfg d ((d.seq s).entries.foldl (fun d e => if e.evicted then d else dropRef (dropRef d e.p0) e.p1) d) :=
    .foldl (fun d _ => .ite (.refl d) (dropRefs_keepsRingCfg _ _ _)) _ _
  exact .ite (.refl d) ((clearTable_keepsRingCfg _ _).after ((labDropSeq_keepsRingCfg _ _).after ((setSeq_keepsRingCfg _ _ _).after freed)))

theorem sendChange_keepsRingCfg (d : Dev) (q : Seq) (bytes : List Byte) : KeepsRingCfg d (sendChange d q bytes) :=
  .ite (.foldl (fun d _ => .ite (.refl d) (sendRing_keepsRingCfg _ _ _ _ _ _)) _ _) (.refl d)

theorem groupFree_keepsRingCfg (d : Dev) (s : Nat) : KeepsRingCfg d (groupFree d s) :=
  .foldl (fun _ _ => (sendChange_keepsRingCfg _ _ _).after (seqFree_keepsRingCfg _ _)) _ _

/-- An entry of a sequence is evicted: its pages are released. -/
theorem evicted_keepsRingCfg (d : Dev) (s i p0 p1 : Nat) (v : Seq) :
    KeepsRingCfg d (dropRef (dropRef ((d.setSeq s v).labDrop s i) p0) p1) :=
  (dropRefs_keepsRingCfg _ _ _).after ((labDrop_keepsRingCfg _ _ _).after (setSeq_keepsRingCfg _ _ _))

theorem seqEvict_keepsRingCfg (s target head tail n : Nat) (d : Dev) : KeepsRingCfg d (seqEvict s target head tail n d) := by
  induction n generalizing d with
  | zero => exact .refl d
  | succ n ih =>
    unfold seqEvict
    refine .ite (.refl d) ?_
    split
    · exact .refl d
    · exact (ih _).after (evicted_keepsRingCfg _ _ _ _ _ _)

theorem seqFork_keepsRingCfg {d e : Dev} {s t l : Nat} (h : seqFork d s t l = some e) : KeepsRingCfg d e := by
  unfold seqFork at h
  dsimp only at h
  split at h
  · cases h
  · cases h
    refine (labDropSeq_keepsRingCfg _ _).after ((setSeq_keepsRingCfg _ _ _).after ((setAttn_keepsRingCfg _ _).after ?_))
    exact .foldl (fun d _ => .ite (.refl d) ((addRef_keepsRingCfg _ _).after (addRef_keepsRingCfg _ _))) _ _

theorem labLookup_keepsRingCfg (d : Dev) (s i : Nat) : KeepsRingCfg d (labLookup d s i).1 :=
  (attnCount_keepsRingCfg _ _ _).after (ofFields rfl rfl)

/-! ### Plans and problems -/

theorem pushPlan_keepsRingCfg (d : Dev) (p : PlanEntry) : KeepsRingCfg d (pushPlan d p) :=
  (incFld_keepsRingCfg (by decide)).after ((setFifos_keepsRingCfg _ _).after (.ite (incFld_keepsRingCfg (by decide)) (.refl d)))

theorem enqueueFrame_keepsRingCfg (d : Dev) (n : Nat) (f : EFrame) : KeepsRingCfg d (enqueueFrame d n f) := by
  refine .ite (setFld_keepsRingCfg (by decide)) (.ite ((setFld_keepsRingCfg (by decide)).after (incFld_keepsRingCfg (by decide))) ?_)
  split <;> exact ofFields rfl rfl

theorem launchPlan_keepsRingCfg (d : Dev) (k : Nat) (p : PlanEntry) (us : List (List Nat)) (n : Nat) :
    KeepsRingCfg d (launchPlan d k p us n) :=
  .ite (.refl d) ((KeepsRingCfg.foldl (fun d _ => .ite (enqueueFrame_keepsRingCfg _ _ _) (.refl d)) _ _).after
    (.ite (setNet_keepsRingCfg _ _) (.refl d)))

theorem routePlan_keepsRingCfg (d : Dev) (x : Desc) (t : Template) (weights : Vec) (vals : List Nat) (status source tMeas : Nat) :
    KeepsRingCfg d (routePlan d x t weights vals status source tMeas) := by
  have pushed (p : Prop) [Decidable p] (e : PlanEntry) : KeepsRingCfg d (if p then pushPlan d e else d) :=
    .ite (pushPlan_keepsRingCfg _ _) (.refl d)
  exact .ite ((launchPlan_keepsRingCfg _ _ _ _ _).after (pushed _ _)) (pushed _ _)

theorem freeTiles_keepsRingCfg (d : Dev) (ts : List Nat) : KeepsRingCfg d (freeTiles d ts) :=
  .foldl (fun d _ => (updTile_keepsRingCfg _ _ _).after (.ite (setFld_keepsRingCfg (by decide)) (.refl d))) _ _

theorem storeWarm_keepsRingCfg (d : Dev) (w : WarmEntry) : KeepsRingCfg d (storeWarm d w) :=
  .ite (ofFields rfl rfl) (solvCount_keepsRingCfg _ _ _)

theorem slotUnused_keepsRingCfg (d : Dev) (p : Problem) : KeepsRingCfg d (slotUnused d p) := .ite (.refl d) (ofFields rfl rfl)

theorem slotAtEnd_keepsRingCfg (d : Dev) (p : Problem) (b : Option Best) (status : Nat) : KeepsRingCfg d (slotAtEnd d p b status) := by
  refine .ite (.refl d) ?_
  split
  · exact .ite (.refl d) (storeWarm_keepsRingCfg _ _)
  · split
    · exact .ite (storeWarm_keepsRingCfg _ _) (slotUnused_keepsRingCfg _ _)
    · exact slotUnused_keepsRingCfg _ _

theorem freeBranches_keepsRingCfg (d : Dev) (p : Problem) : KeepsRingCfg d (freeBranches d p) :=
  .ite (.foldl groupFree_keepsRingCfg _ _) (.refl d)

theorem jobFlagsOf_keepsRingCfg (p : Problem) (d : Dev) : KeepsRingCfg d (jobFlagsOf p d) := by
  have flagged (q : Prop) [Decidable q] (d : Dev) (f : Nat) : KeepsRingCfg d (if q then d.jobFlag (some p.job) f else d) :=
    .ite (jobFlag_keepsRingCfg _ _ _) (.refl d)
  exact (flagged _ _ _).after ((flagged _ _ _).after (flagged _ _ _))

theorem endSolveJob_keepsRingCfg (d : Dev) (j : Nat) : KeepsRingCfg d (endSolveJob d j) := by
  have passed (e : Dev) (p : Prop) [Decidable p] (h : KeepsRingCfg d e) : KeepsRingCfg d (if p then e.jobFlag (some j) cfCertPass else e) :=
    .ite ((jobFlag_keepsRingCfg _ _ _).after h) h
  have left := passed _ ((d.solv.problems.filter fun p => p.job = j).all (·.certified) = true)
    (setSolv_keepsRingCfg d { d.solv with problems := d.solv.problems.filter fun p => p.job ≠ j })
  refine .ite (.refl d) ?_
  split
  · exact (endJob_keepsRingCfg _ _ _ _).after left
  · have ended {c st idx : Nat} := (endJob_keepsRingCfg _ j st c).after ((updJob_keepsRingCfg _ j fun x => { x with detailIdx := idx }).after left)
    exact .ite ((forCount_keepsRingCfg _ _).after ended) ended

theorem releaseItem_keepsRingCfg (d : Dev) (j i : Nat) : KeepsRingCfg d (releaseItem d j i) := ofFields rfl rfl

theorem leaveFifos_keepsRingCfg (d : Dev) (j i : Nat) : KeepsRingCfg d (leaveFifos d j i) := setFifos_keepsRingCfg _ _

theorem updActive_keepsRingCfg (d : Dev) : KeepsRingCfg d d.updActive := setFld_keepsRingCfg (by decide)

theorem endProblem_keepsRingCfg (d : Dev) (j i status cause : Nat) (dl : Delivery) : KeepsRingCfg d (endProblem d j i status cause dl) := by
  unfold endProblem
  split
  · exact .refl d
  · refine .ite (.refl d) ?_
    have counted (p : Prop) [Decidable p] (d : Dev) (n : Nat) : KeepsRingCfg d (if p then d.solvCount n else d) :=
      .ite (solvCount_keepsRingCfg _ _ _) (.refl d)
    refine (endSolveJob_keepsRingCfg _ _).after ((updActive_keepsRingCfg _).after ((jobFlagsOf_keepsRingCfg _ _).after
      ((leaveFifos_keepsRingCfg _ _ _).after ((updProb_keepsRingCfg _ _ _ _).after ((releaseItem_keepsRingCfg _ _ _).after
      ((freeTiles_keepsRingCfg _ _).after ((counted _ _ _).after ((counted _ _ _).after ((counted _ _ _).after
      ((counted _ _ _).after ?_))))))))))
    refine KeepsRingCfg.after (.ite (recordOf_keepsRingCfg _ _ _ _ _ _) (.refl _))
      (KeepsRingCfg.after (.ite (freeBranches_keepsRingCfg _ _) (.refl _)) ?_)
    -- the result: a plan routed, the header, the token records, the estimator's output, the slot
    split
    on_goal 1 => refine .ite ?_ ((routePlan_keepsRingCfg _ _ _ _ _ _ _ _).after ?_)
    all_goals
      refine (writeAddr_keepsRingCfg _ _ _).after ?_
      split
    any_goals refine .ite ((writeAddr_keepsRingCfg _ _ _).after ?_) ?_
    all_goals split
    any_goals refine .ite ((writeAddr_keepsRingCfg _ _ _).after ?_) ?_
    all_goals exact (slotAtEnd_keepsRingCfg _ _ _ _).after (.ite (scanAll_keepsRingCfg _ _ _) (.refl _))

theorem endBestOrFallback_keepsRingCfg (d : Dev) (j i cause : Nat) : KeepsRingCfg d (endBestOrFallback d j i cause) := by
  unfold endBestOrFallback
  split
  · exact .refl d
  · split <;> exact endProblem_keepsRingCfg _ _ _ _ _ _

theorem refuseProblem_keepsRingCfg (d : Dev) (j i cause : Nat) : KeepsRingCfg d (refuseProblem d j i cause) := by
  unfold refuseProblem
  split
  · exact .refl d
  · refine (updProb_keepsRingCfg _ _ _ _).after ((leaveFifos_keepsRingCfg _ _ _).after ((solvCount_keepsRingCfg _ _ _).after
      ((slotUnused_keepsRingCfg _ _).after ((freeBranches_keepsRingCfg _ _).after ?_))))
    split
    on_goal 1 => refine .ite ?_ ((routePlan_keepsRingCfg _ _ _ _ _ _ _ _).after ?_)
    all_goals exact (scanAll_keepsRingCfg _ _ _).after (writeAddr_keepsRingCfg _ _ _)

theorem stopTile_keepsRingCfg (d : Dev) (t : Nat) : KeepsRingCfg d (stopTile d t) := .ite (setFld_keepsRingCfg (by decide)) (.refl d)

theorem stopTiles_keepsRingCfg (d : Dev) (l : List Nat) : KeepsRingCfg d (l.foldl stopTile d) := .foldl stopTile_keepsRingCfg _ _

theorem stopJobTiles_keepsRingCfg (d : Dev) (j : Nat) : KeepsRingCfg d (stopJobTiles d j) :=
  .foldl (fun d _ => .ite (stopTile_keepsRingCfg _ _) (.refl d)) _ _

theorem jobFault_keepsRingCfg (d : Dev) (j status : Nat) : KeepsRingCfg d (jobFault d j status) :=
  .ite ((updJob_keepsRingCfg _ _ _).after (stopJobTiles_keepsRingCfg _ _)) ((endJob_keepsRingCfg _ _ _ _).after (stopJobTiles_keepsRingCfg _ _))

theorem deadlineExpiry_keepsRingCfg (j i : Nat) (d : Dev) : KeepsRingCfg d (deadlineExpiry j i d) := by
  unfold deadlineExpiry
  split
  · exact .refl d
  · split
    · exact .refl d
    · exact .ite (.refl d) ((endBestOrFallback_keepsRingCfg _ _ _ _).after (stopTiles_keepsRingCfg _ _))

theorem probFault_keepsRingCfg (d : Dev) (p : Problem) (status : Nat) : KeepsRingCfg d (probFault d p status) :=
  .ite (deadlineExpiry_keepsRingCfg _ _ _) (.ite ((updProb_keepsRingCfg _ _ _ _).after (stopTiles_keepsRingCfg _ _))
    (endProblem_keepsRingCfg _ _ _ _ _ _))

theorem tileFault_keepsRingCfg (d : Dev) (t status : Nat) : KeepsRingCfg d (tileFault d t status) := by
  have hstop := stopTile_keepsRingCfg d t
  unfold tileFault
  dsimp only
  split
  · exact (probFault_keepsRingCfg _ _ _).after hstop
  · split
    · exact hstop
    · exact (jobFault_keepsRingCfg _ _ _).after hstop

/-- Words of the tiles' windows are cleared. -/
theorem bankWord_foldl_clear (os : List Nat) (t : Nat) (b : Bank) {o : Nat} (h : ∀ p ∈ os, o < p) :
    bankWord (os.foldl (fun b p => bankSet b (p + 0x400 * t) 0) b) o = bankWord b o := by
  refine List.foldlRecOn os _ (motive := fun c => bankWord c o = bankWord b o) rfl fun c hc p hp => ?_
  rw [bankWord_set_ne _ _ (by have := h p hp; omega), hc]

theorem clearMarks_keepsRingCfg (d : Dev) (t watch : Nat) : KeepsRingCfg d (clearMarks d t watch) := by
  refine (setFld_keepsRingCfg (by decide)).after ⟨rfl, fun k hk => bankWord_foldl_clear _ t d.regs ?_⟩
  have hlow : rSqCfg + 0x20 * k < 0x40000 := by simp only [rSqCfg]; omega
  have htiles : ∀ p ∈ [rTileFmtUflow, rTileFmtSat, rTileFmtStatus, rTileRunmax0, rTileRunmax0 + 4, rTileRunmax0 + 8, rTileRunmax0 + 12,
    rTileRunmax0 + 16, rTileRunmax0 + 20, rTileRunmax0 + 24, rTileRunmax0 + 28, rTileFpFlags, rTileFpTrap, rTileTrapCause,
    rTileTrapPc, rTileTrapOrd, rTileTrapOrd + 4, rTileTrapElem], 0x40000 ≤ p := by decide
  exact fun p hp => hlow.trans_le (htiles p hp)

theorem startTile_keepsRingCfg (d : Dev) (t : Nat) (j : Job) (pc : U32) (vendor : Bool) : KeepsRingCfg d (startTile d t j pc vendor) :=
  (setFld_keepsRingCfg (by decide)).after ((setFld_keepsRingCfg (by decide)).after
    ((updTile_keepsRingCfg _ _ _).after (clearMarks_keepsRingCfg _ _ _)))

theorem closeSolve_keepsRingCfg (j : Nat) (d : Dev) : KeepsRingCfg d (closeSolve j d) := by
  unfold closeSolve
  split
  · exact .refl d
  · refine .ite (.refl d) (KeepsRingCfg.after (.foldl (fun d p => ?_) _ _) (.ite (.refl d) (setSolv_keepsRingCfg _ _)))
    exact .ite ((refuseProblem_keepsRingCfg _ _ _ _).after (releaseItem_keepsRingCfg _ _ _)) (endProblem_keepsRingCfg _ _ _ _ _ _)

/-! ### Transfers that a tile holds -/

theorem refuseXfer_keepsRingCfg (d : Dev) (t : Nat) (q : TransferHdr) (st : RefusalStatus) : KeepsRingCfg d (refuseXfer d t q st) := by
  unfold refuseXfer
  dsimp only
  split
  on_goal 1 => refine (setRefusals_keepsRingCfg _ _).after ?_
  on_goal 2 => refine (jobFault_keepsRingCfg _ _ _).after (.ite ((incFld_keepsRingCfg (by decide)).after ?_) ?_)
  all_goals
    split
    · exact incFld_keepsRingCfg (by decide)
    · exact incFld_keepsRingCfg (by decide)
    · exact .refl d

theorem noteHold_keepsRingCfg (d : Dev) (t : Nat) (q : TransferHdr) : KeepsRingCfg d (noteHold d t q) :=
  .ite ((updTile_keepsRingCfg _ _ _).after (incFld_keepsRingCfg (by decide))) (.refl d)

theorem checkHeader_keepsRingCfg (d : Dev) (t : Nat) (q : TransferHdr) : KeepsRingCfg d (checkHeader d t q) := by
  unfold checkHeader
  split
  · exact refuseXfer_keepsRingCfg _ _ _ _
  · exact updTile_keepsRingCfg _ _ _
  · exact (noteHold_keepsRingCfg _ _ _).after (updTile_keepsRingCfg _ _ _)

theorem releaseHeld_keepsRingCfg (d : Dev) (t : Nat) : KeepsRingCfg d (releaseHeld d t) := by
  refine .foldl (fun d q => ?_) _ _
  dsimp only
  split
  · exact noteHold_keepsRingCfg _ _ _
  · exact (updTile_keepsRingCfg _ _ _).after (updTile_keepsRingCfg _ _ _)
  · exact (refuseXfer_keepsRingCfg _ _ _ _).after (updTile_keepsRingCfg _ _ _)

theorem releaseBacklog_keepsRingCfg (d : Dev) (t n : Nat) : KeepsRingCfg d (releaseBacklog d t n) := by
  induction n generalizing d with
  | zero => exact .refl d
  | succ n ih =>
    unfold releaseBacklog
    split
    · exact .ite ((ih _).after ((checkHeader_keepsRingCfg _ _ _).after (updTile_keepsRingCfg _ _ _))) (.refl d)
    · exact .refl d

theorem settle_keepsRingCfg (d : Dev) (t : Nat) : KeepsRingCfg d (settle d t) :=
  .ite (.refl d) ((releaseBacklog_keepsRingCfg _ _ _).after (releaseHeld_keepsRingCfg _ _))

/-! ### Lines written back -/

theorem storeMemRows_cons_keepsRingCfg (d : Dev) (a : Nat) (r : Row) (l : List Row) :
    ∃ e, storeMemRows d a (r :: l) = storeMemRows e (a + 512) l ∧ KeepsRingCfg d e := by
  delta storeMemRows storeMemRows._f
  generalize memSetRow = write
  exact ⟨_, rfl, ofFields rfl rfl⟩

theorem storeMemRows_keepsRingCfg (d : Dev) (a : Nat) (l : List Row) : KeepsRingCfg d (storeMemRows d a l) := by
  induction l generalizing d a with
  | nil => exact .refl d
  | cons r l ih =>
    obtain ⟨e, he, hkeeps⟩ := storeMemRows_cons_keepsRingCfg d a r l
    rw [he]
    exact hkeeps.trans (ih _ _)

theorem eccCorrected_keepsRingCfg (d : Dev) (t bank prow : Nat) : KeepsRingCfg d (eccCorrected d t bank prow) := by
  unfold eccCorrected
  dsimp only
  refine (jobFlag_keepsRingCfg _ _ _).after ((updTile_keepsRingCfg _ _ _).after ?_)
  exact (incFld_keepsRingCfg (by decide)).after (setFld_keepsRingCfg (by decide))

theorem eccRecord_keepsRingCfg (d : Dev) (t bank prow : Nat) (hn : Option Nat) : KeepsRingCfg d (eccRecord d t bank prow hn) := by
  unfold eccRecord
  dsimp only
  exact (updTile_keepsRingCfg _ _ _).after ((incFld_keepsRingCfg (by decide)).after ((setFld_keepsRingCfg (by decide)).after (.ite (.refl d)
    ((setFld_keepsRingCfg (by decide)).after ((setFld_keepsRingCfg (by decide)).after
      ((setFld_keepsRingCfg (by decide)).after (setFld_keepsRingCfg (by decide))))))))

theorem eccRead_keepsRingCfg (d : Dev) (t bank prow : Nat) (hn : Option Nat) : KeepsRingCfg d (eccRead d t bank prow hn).1 := by
  unfold eccRead
  split
  · exact .refl d
  · exact eccCorrected_keepsRingCfg _ _ _ _
  · exact eccRecord_keepsRingCfg _ _ _ _ _

theorem setTile_keepsRingCfg (d : Dev) (t : Nat) (x : Tile) : KeepsRingCfg d (d.setTile t x) := ofFields rfl rfl

theorem writeBackLine_keepsRingCfg (d : Dev) (t g set : Nat) (l : CLine) : KeepsRingCfg d (writeBackLine d t g set l) :=
  .ite (.ite ((tileFault_keepsRingCfg _ _ _).after ((setTile_keepsRingCfg _ _ _).after (eccRead_keepsRingCfg _ _ _ _ _)))
    ((setTile_keepsRingCfg _ _ _).after ((storeMemRows_keepsRingCfg _ _ _).after (eccRead_keepsRingCfg _ _ _ _ _)))) (.refl d)

theorem writeBackAll_keepsRingCfg (d : Dev) (t : Nat) : KeepsRingCfg d (writeBackAll d t) := by
  unfold writeBackAll
  dsimp only
  refine (updTile_keepsRingCfg _ _ _).after (.foldl (fun _ e => ?_) _ _)
  exact .foldl (fun _ _ => writeBackLine_keepsRingCfg _ _ _ _ _) _ _

/-! ### Appends -/

theorem dropAppend_keepsRingCfg (d : Dev) (s : Nat) : KeepsRingCfg d (d.dropAppend s) := ofFields rfl rfl

theorem failAppend_keepsRingCfg (d : Dev) (who : AppendBy) (status cause : Nat) : KeepsRingCfg d (failAppend d who status cause) := by
  cases who with
  | job j => exact endJob_keepsRingCfg _ _ _ _
  | tile t op => exact setRefusals_keepsRingCfg _ _
  | ring => exact .refl d

theorem freshEntry_keepsRingCfg (d : Dev) (q : Seq) (s dd i : Nat) : KeepsRingCfg d (freshEntry d q s dd i).1 := by
  unfold freshEntry
  split
  · dsimp only
    split
    · exact (allocPage_keepsRingCfg _ _ _ _ _).after (allocPage_keepsRingCfg _ _ _ _ _)
    · exact allocPage_keepsRingCfg _ _ _ _ _
  · exact .refl d

theorem freshEntries_keepsRingCfg (q : Seq) (s dd i n : Nat) (d : Dev) : KeepsRingCfg d (freshEntries q s dd i n d).1 := by
  induction n generalizing i d with
  | zero => exact .refl d
  | succ n ih => exact (ih _ _).after (freshEntry_keepsRingCfg _ _ _ _ _)

/-- An append sets its pages aside. -/
theorem beginAppend_keepsRingCfg (d : Dev) (who : AppendBy) (s dd : Nat) (split : Bool) (rows : List Row) :
    KeepsRingCfg d (beginAppend d who s dd split rows) := by
  have fails {status cause : Nat} : KeepsRingCfg d (failAppend d who status cause) := failAppend_keepsRingCfg _ _ _ _
  unfold beginAppend
  refine .ite fails (.ite fails (.ite fails (.ite fails (.ite ((failAppend_keepsRingCfg _ _ _ _).after (attnCount_keepsRingCfg _ _ _))
    (.ite ((failAppend_keepsRingCfg _ _ _ _).after ((attnCount_keepsRingCfg _ _ _).after (setFld_keepsRingCfg (by decide)))) ?_)))))
  refine (setAttn_keepsRingCfg _ _).after ((incFld_keepsRingCfg (by decide)).after ((freshEntries_keepsRingCfg _ _ _ _ _ _).after ?_))
  dsimp only
  split
  · split
    · exact (pinPages_keepsRingCfg _ _ _).after (freshEntry_keepsRingCfg _ _ _ _ _)
    · exact .refl d
  · exact .refl d

theorem undoAppend_keepsRingCfg (d : Dev) (a : Append) : KeepsRingCfg d (undoAppend d a) := by
  have released : KeepsRingCfg d (a.fresh.foldl (fun d e => dropRef (dropRef d e.1) e.2) (d.dropAppend a.seq)) :=
    (KeepsRingCfg.foldl (fun _ _ => dropRefs_keepsRingCfg _ _ _) _ _).after (dropAppend_keepsRingCfg _ _)
  unfold undoAppend
  dsimp only
  split
  · exact (unpinPage_keepsRingCfg _ _).after ((unpinPage_keepsRingCfg _ _).after ((dropRefs_keepsRingCfg _ _ _).after released))
  · exact released

/-! ### Lookups and attention -/

theorem startItem_keepsRingCfg (d : Dev) (t : Nat) (x : Job) : KeepsRingCfg d (startItem d t x) := startTile_keepsRingCfg _ _ _ _ _

theorem addItem_keepsRingCfg (d : Dev) (t : Nat) (x : Job) (bound : Nat) : KeepsRingCfg d (addItem d t x bound) := by
  unfold addItem
  exact updTile_keepsRingCfg _ _ _

theorem dispatchTile_keepsRingCfg (t : Nat) (d : Dev) : KeepsRingCfg d (dispatchTile t d) := by
  refine .ite (.refl d) ?_
  split
  · exact .refl d
  · refine .ite (.refl d) ?_
    split
    · exact updTile_keepsRingCfg _ _ _
    · exact (startItem_keepsRingCfg _ _ _).after (updTile_keepsRingCfg _ _ _)

theorem missLookup_keepsRingCfg (d : Dev) (l : Lookup) : KeepsRingCfg d (missLookup d l) := by
  unfold missLookup
  split
  · exact setAttn_keepsRingCfg _ _
  · exact (attnCount_keepsRingCfg _ _ _).after (setAttn_keepsRingCfg _ _)

theorem grantSlots_keepsRingCfg (d : Dev) : KeepsRingCfg d (grantSlots d) := by
  refine .foldl (fun d l => .ite (.refl d) ?_) _ _
  split
  · exact .refl d
  · exact setAttn_keepsRingCfg _ _

theorem lookEntries_keepsRingCfg (w : Nat) (deadline : Bool) (ks : List (Nat × Nat)) (d : Dev) : KeepsRingCfg d (lookEntries w deadline ks d) :=
  .foldl (fun _ _ => .ite (labLookup_keepsRingCfg _ _ _) ((missLookup_keepsRingCfg _ _).after (attnCount_keepsRingCfg _ _ _))) _ _

theorem dropWalks_keepsRingCfg (p : Change → Bool) (d : Dev) : KeepsRingCfg d (dropWalks p d) :=
  .ite (.refl d) ((grantSlots_keepsRingCfg _).after (setAttn_keepsRingCfg _ _))

theorem serveLookup_keepsRingCfg (d : Dev) (l : Lookup) : KeepsRingCfg d (serveLookup d l) := by
  have scanned {j : Option Nat} {p q : Nat} : KeepsRingCfg d (scanInfo (scanInfo d j p) j q) :=
    (scanInfo_keepsRingCfg _ _ _).after (scanInfo_keepsRingCfg _ _ _)
  refine .ite ((setRefusals_keepsRingCfg _ _).after scanned) (.ite ((setRefusals_keepsRingCfg _ _).after scanned)
    (.ite ((setAttn_keepsRingCfg _ _).after scanned)
      (.ite ((setRefusals_keepsRingCfg _ _).after ((scanMem_keepsRingCfg _ _ _ _ _).after scanned)) ?_)))
  have sent (e : Dev) (a : Attn) (f : List (Nat × TransferHdr)) : KeepsRingCfg e { e with attn := a, fabric := f } := ofFields rfl rfl
  exact (sent _ _ _).after ((pinPages_keepsRingCfg _ _ _).after ((scanMem_keepsRingCfg _ _ _ _ _).after scanned))

theorem wakePins_keepsRingCfg (d : Dev) : KeepsRingCfg d (wakePins d) :=
  .ite (.refl d) ((KeepsRingCfg.foldl serveLookup_keepsRingCfg _ _).after (setAttn_keepsRingCfg _ _))

theorem dropAttend_keepsRingCfg (d : Dev) (a : AttendJob) : KeepsRingCfg d (dropAttend d a) :=
  (KeepsRingCfg.foldl unpinPage_keepsRingCfg _ _).after (setAttn_keepsRingCfg _ _)

theorem startAttend_keepsRingCfg (d : Dev) (x : Job) (raw : List Byte) (table : List (List Byte)) :
    KeepsRingCfg d (startAttend d x raw table) :=
  (setAttn_keepsRingCfg _ _).after (.foldl pinPage_keepsRingCfg _ _)

theorem updAttend_keepsRingCfg (d : Dev) (j : Nat) (f : AttendJob → AttendJob) : KeepsRingCfg d (d.updAttend j f) := setAttn_keepsRingCfg _ _

theorem launchAttend_keepsRingCfg (d : Dev) (x : Job) : KeepsRingCfg d (launchAttend d x) := by
  unfold launchAttend
  split
  · exact .refl d
  · rename_i a ha
    have scanned : KeepsRingCfg d ((pagesRead a.entries).foldl (fun d p => scanInfo d (some x.id) p) d) :=
      .foldl (fun _ _ => scanInfo_keepsRingCfg _ _ _) _ _
    have dropped := (dropAttend_keepsRingCfg _ a).after scanned
    have dealt (e : Dev) (t bound : Nat) : KeepsRingCfg e (dispatchTile t (addItem e t x bound)) :=
      (dispatchTile_keepsRingCfg _ _).after (addItem_keepsRingCfg _ _ _ _)
    refine .ite ((endJob_keepsRingCfg _ _ _ _).after dropped) (.ite ((refuseJob_keepsRingCfg _ _ _).after dropped) ?_)
    dsimp only
    split
    · refine KeepsRingCfg.after (.foldl (fun _ _ => ?_) _ _) ((updJob_keepsRingCfg _ _ _).after ((updAttend_keepsRingCfg _ _ _).after scanned))
      exact dealt _ _ _
    · refine KeepsRingCfg.after (.foldl (fun _ _ => ?_) _ _) ((updJob_keepsRingCfg _ _ _).after ((updAttend_keepsRingCfg _ _ _).after
        ((choose_keepsRingCfg _ _).after scanned)))
      exact dealt _ _ _

/-! ### Changes of the sequences -/

theorem forkPairs_keepsRingCfg (a b n : Nat) (l : List Nat) (d : Dev) : KeepsRingCfg d (forkPairs a b n l d).1 := by
  induction l generalizing d with
  | nil => exact .refl d
  | cons i l ih =>
    unfold forkPairs
    dsimp only
    split
    · exact .refl d
    · next e hfork => exact (ih _).after ((sendChange_keepsRingCfg _ _ _).after (seqFork_keepsRingCfg hfork))

theorem groupFork_keepsRingCfg (d : Dev) (a b n : Nat) : KeepsRingCfg d (groupFork d a b n).1 := forkPairs_keepsRingCfg _ _ _ _ _

theorem groupEvict_keepsRingCfg (d : Dev) (s target head tail : Nat) : KeepsRingCfg d (groupEvict d s target head tail) :=
  .foldl (fun d _ => .ite ((sendChange_keepsRingCfg _ _ _).after (seqEvict_keepsRingCfg _ _ _ _ _ _)) (.refl d)) _ _

theorem runChange_keepsRingCfg (d : Dev) (x : Job) (raw : List Byte) : KeepsRingCfg d (runChange d x raw) := by
  have ends {j status : Nat} : KeepsRingCfg d (endJob d j status) := endJob_keepsRingCfg _ _ _ _
  unfold runChange
  refine .ite ends (.ite ends (.ite (.ite ends ?_) (.ite (.ite ends ((endJob_keepsRingCfg _ _ _ _).after (groupFork_keepsRingCfg _ _ _ _)))
    (.ite ((endJob_keepsRingCfg _ _ _ _).after (groupFree_keepsRingCfg _ _)) (.ite ends
      ((endJob_keepsRingCfg _ _ _ _).after (groupEvict_keepsRingCfg _ _ _ _ _)))))))
  dsimp only
  split
  · exact (endJob_keepsRingCfg _ _ _ _).after (scanAddr_keepsRingCfg _ _ _ _ _)
  · exact (beginAppend_keepsRingCfg _ _ _ _ _ _).after (scanAddr_keepsRingCfg _ _ _ _ _)

theorem turnAttend_keepsRingCfg (d : Dev) (x : Job) (raw : List Byte) : KeepsRingCfg d (turnAttend d x raw) := by
  have scanned := scanAddr_keepsRingCfg d (some x.id) (recLe raw 8 8) (16 * recLe raw 0 2) ekJob
  unfold turnAttend
  refine .ite (endJob_keepsRingCfg _ _ _ _) ?_
  dsimp only
  split
  · exact (endJob_keepsRingCfg _ _ _ _).after scanned
  · exact .ite ((endJob_keepsRingCfg _ _ _ _).after scanned) (.ite ((endJob_keepsRingCfg _ _ _ _).after scanned)
      ((startAttend_keepsRingCfg _ _ _ _).after scanned))

theorem runAppend_keepsRingCfg (d : Dev) (who : AppendBy) (s dd : Nat) (rows : List Row) : KeepsRingCfg d (runAppend d who s dd rows) := by
  unfold runAppend
  split
  · exact beginAppend_keepsRingCfg _ _ _ _ _ _
  · exact .ite (failAppend_keepsRingCfg _ _ _ _) (beginAppend_keepsRingCfg _ _ _ _ _ _)

theorem evictPage_keepsRingCfg (s : Nat) (d : Dev) (i : Nat) : KeepsRingCfg d (evictPage s d i) := by
  unfold evictPage
  dsimp only
  split
  · exact .refl d
  · exact .ite (.refl d) (evicted_keepsRingCfg _ _ _ _ _ _)

theorem runRing_keepsRingCfg (d : Dev) (c : SplitChange) : KeepsRingCfg d (runRing d c) := by
  unfold runRing
  cases c with
  | append s dd rows => exact runAppend_keepsRingCfg _ _ _ _ _
  | fork a b n => exact forkPairs_keepsRingCfg _ _ _ _ _
  | free s => exact seqFree_keepsRingCfg _ _
  | evict s ps => exact .foldl (evictPage_keepsRingCfg s) _ _

theorem takeTurn_keepsRingCfg (d : Dev) (c : Change) : KeepsRingCfg d (takeTurn d c) := by
  have turned : KeepsRingCfg d (match c with
      | .job j raw => match d.job j with
        | some x => if x.phase = .running && x.desc.opcode = opAttend then turnAttend d x raw else d
        | none => d
      | _ => d) := by
    split
    · split
      · exact .ite (turnAttend_keepsRingCfg _ _ _) (.refl d)
      · exact .refl d
    · exact .refl d
  exact turned.trans (.ite (.refl _) ((lookEntries_keepsRingCfg _ _ _ _).after (setAttn_keepsRingCfg _ _)))

theorem finishWalk_keepsRingCfg (d : Dev) (c : Change) : KeepsRingCfg d (finishWalk d c) := by
  cases c with
  | job j raw =>
    unfold finishWalk
    dsimp only
    split
    · exact .ite (.refl d) (.ite (launchAttend_keepsRingCfg _ _) (runChange_keepsRingCfg _ _ _))
    · exact .refl d
  | app who s dd rows => exact runAppend_keepsRingCfg _ _ _ _ _
  | ring r => exact runRing_keepsRingCfg _ _

theorem pumpChanges_keepsRingCfg (n : Nat) (d : Dev) : KeepsRingCfg d (pumpChanges n d) := by
  induction n generalizing d with
  | zero => exact .refl d
  | succ n ih =>
    unfold pumpChanges
    split
    · exact (ih _).after ((finishWalk_keepsRingCfg _ _).after (setAttn_keepsRingCfg _ _))
    · split
      · exact .refl d
      · exact (ih _).after ((takeTurn_keepsRingCfg _ _).after (setAttn_keepsRingCfg _ _))

theorem pump_keepsRingCfg (d : Dev) : KeepsRingCfg d (pump d) := (pumpChanges_keepsRingCfg _ _).after (wakePins_keepsRingCfg _)

/-! ### What a job leaves behind is withdrawn -/

theorem roleChangeStart_keepsRingCfg (d : Dev) (t role : Nat) (loadFor : Option (Nat × Nat)) :
    KeepsRingCfg d (roleChangeStart d t role loadFor) :=
  KeepsRingCfg.after (.foldl (fun _ _ => refuseXfer_keepsRingCfg _ _ _ _) _ _) ((setFld_keepsRingCfg (by decide)).after
    ((setFld_keepsRingCfg (by decide)).after ((updTile_keepsRingCfg _ _ _).after (writeBackAll_keepsRingCfg _ _))))

theorem takeBack_keepsRingCfg (p : TransferHdr → Bool) (d : Dev) : KeepsRingCfg d (takeBack p d) :=
  .foldl (fun d _ => .ite ((settle_keepsRingCfg _ _).after (updTile_keepsRingCfg _ _ _)) (.refl d)) _ _

theorem withdrawTile_keepsRingCfg (d : Dev) (t : Nat) : KeepsRingCfg d (withdrawTile d t) := by
  have cleared (e : Dev) (a : Attn) (f : List (Nat × TransferHdr)) (k : List (Nat × Nat)) (r : List (Nat × Nat × RefusalStatus)) :
      KeepsRingCfg e { e with attn := a, fabric := f, acks := k, refusals := r } := ofFields rfl rfl
  unfold withdrawTile
  exact (updTile_keepsRingCfg _ _ _).after (.after (.foldl unpinOp_keepsRingCfg _ _) ((dropWalks_keepsRingCfg _ _).after
    ((grantSlots_keepsRingCfg _).after ((takeBack_keepsRingCfg _ _).after ((cleared _ _ _ _ _).after (.foldl undoAppend_keepsRingCfg _ _))))))

theorem withdrawCopies_keepsRingCfg (d : Dev) (j : Nat) : KeepsRingCfg d (withdrawCopies d j) :=
  (takeBack_keepsRingCfg _ _).after (ofFields rfl rfl)

theorem withdrawAttn_keepsRingCfg (d : Dev) (j : Nat) : KeepsRingCfg d (withdrawAttn d j) :=
  (pump_keepsRingCfg _).after ((dropWalks_keepsRingCfg _ _).after ((setAttn_keepsRingCfg _ _).after
    (.after (.foldl dropAttend_keepsRingCfg _ _) (.foldl undoAppend_keepsRingCfg _ _))))

theorem dropImage_keepsRingCfg (d : Dev) (n : Nat) : KeepsRingCfg d (dropImage d n) := ofFields rfl rfl

theorem withdrawLoad_keepsRingCfg (d : Dev) (j : Nat) : KeepsRingCfg d (withdrawLoad d j) := by
  unfold withdrawLoad
  split
  · exact .refl d
  · exact .after (.foldl (fun _ _ => (roleChangeStart_keepsRingCfg _ _ _ _).after (updTile_keepsRingCfg _ _ _)) _ _) (dropImage_keepsRingCfg _ _)

theorem mixOutputs_keepsRingCfg (d : Dev) (x : Job) : KeepsRingCfg d (mixOutputs d x) := by
  have counted (e : Dev) (n : Nat) : KeepsRingCfg e { e with freeCtr := n } := ofFields rfl rfl
  refine .foldl (fun d e => ?_) _ _
  dsimp only
  split
  · exact .refl d
  · exact (counted _ _).after (writeAddr_keepsRingCfg _ _ _)

/-! ### Aborts -/

theorem abortJob_keepsRingCfg (cause : Nat) (silent : Bool) (d : Dev) (j : Nat) : KeepsRingCfg d (abortJob cause silent d j) := by
  have freed (e : Dev) (f : Fifos) (r : List Replay) : KeepsRingCfg e { e with fifos := f, replays := r } := ofFields rfl rfl
  have timed (d : Dev) (l : List Problem) : KeepsRingCfg d (l.foldl (fun d p => deadlineExpiry j p.idx d) d) :=
    .foldl (fun _ _ => deadlineExpiry_keepsRingCfg _ _ _) _ _
  unfold abortJob
  split
  · exact .refl d
  · refine .ite ((updJob_keepsRingCfg _ _ _).after (timed _ _)) ?_
    refine (closeSolve_keepsRingCfg _ _).after ((endJob_keepsRingCfg _ _ _ _).after ((freed _ _ _).after ((withdrawLoad_keepsRingCfg _ _).after
      ((withdrawAttn_keepsRingCfg _ _).after ((withdrawCopies_keepsRingCfg _ _).after (.after (.foldl withdrawTile_keepsRingCfg _ _)
        ((stopJobTiles_keepsRingCfg _ _).after ?_)))))))
    split
    · exact (mixOutputs_keepsRingCfg _ _).after ((updJob_keepsRingCfg _ _ _).after (timed _ _))
    · exact (updJob_keepsRingCfg _ _ _).after (timed _ _)

theorem endPass_keepsRingCfg (d : Dev) (k : Nat) : KeepsRingCfg d (endPass d k) := by
  unfold endPass
  split
  · exact .ite (ofFields rfl rfl) (.refl d)
  · exact .refl d

theorem discardRing_keepsRingCfg (d : Dev) (k : Nat) : KeepsRingCfg d (discardRing d k) := by
  unfold discardRing
  split
  · exact (endPass_keepsRingCfg _ _).after (ofFields rfl rfl)
  · exact .ite (.refl d) (setFld_keepsRingCfg (by decide))

theorem finishAborts_keepsRingCfg (d : Dev) : KeepsRingCfg d (finishAborts d) := by
  have dropped (l : List AbortRun) : KeepsRingCfg d { d with aborts := l } := ofFields rfl rfl
  have flagged (d : Dev) (a : AbortRun) : KeepsRingCfg d (if a.silent then d else a.rings.foldl (fun d k => d.setFld sqStatusAbortDone 1 k) d) :=
    .ite (.refl d) (.foldl (fun _ _ => setFld_keepsRingCfg (by decide)) _ _)
  refine KeepsRingCfg.after (.foldl (fun d a => ?_) _ _) (dropped _)
  dsimp only
  split
  · exact (endJob_keepsRingCfg _ _ _ _).after (flagged d a)
  · exact flagged d a

/-- An abort leaves the settings of every submission ring, and the boot state, as they are (R380). -/
theorem startAbort_keepsRingCfg (a : AbortRun) (d : Dev) : KeepsRingCfg d (startAbort a d) := by
  have noted (e : Dev) (l : List AbortRun) : KeepsRingCfg e { e with aborts := l } := ofFields rfl rfl
  exact (finishAborts_keepsRingCfg _).after ((noted _ _).after (.after (.foldl (abortJob_keepsRingCfg _ _) _ _)
    (.foldl discardRing_keepsRingCfg _ _)))

end Sys2Proof.Machine
end

section
/-! PROOFS. Link loss, a new link, FLR and PERST_N (R384, R385, R541, R547): O45. -/

namespace Sys2Proof.Machine

/-! ### Words that return to their reset values -/

/-- A field beside the fields reset stays. -/
theorem bits_resetFields_beside (fs : List FDef) (q : FDef → Bool) (a : Nat) (f : FDef) (hr : ∀ e ∈ fs, e.lo ≤ e.hi)
    (h : ∀ e ∈ fs, f.apart e) :
    bits (fs.foldl (fun a e => if q e then setBits a e.hi e.lo e.rst else a) a) f.hi f.lo = bits a f.hi f.lo := by
  induction fs generalizing a with
  | nil => rfl
  | cons e fs ih =>
    simp only [List.forall_mem_cons] at hr h
    rw [List.foldl_cons, ih _ hr.2 h.2]
    split
    · exact bits_setBits_ne _ _ _ _ _ _ (by omega) h.1
    · rfl

/-- Each field reset holds its reset value. -/
theorem bits_resetFields (fs : List FDef) (q : FDef → Bool) (a : Nat) (hr : ∀ e ∈ fs, e.lo ≤ e.hi) (hd : fs.Pairwise FDef.apart)
    (f : FDef) (hf : f ∈ fs) (hq : q f = true) :
    bits (fs.foldl (fun a e => if q e then setBits a e.hi e.lo e.rst else a) a) f.hi f.lo = f.rst % 2 ^ (f.hi + 1 - f.lo) := by
  induction fs generalizing a with
  | nil => cases hf
  | cons e fs ih =>
    simp only [List.forall_mem_cons] at hr
    rw [List.pairwise_cons] at hd
    rw [List.foldl_cons]
    rcases List.mem_cons.mp hf with rfl | hf
    · rw [bits_resetFields_beside fs q _ f hr.2 hd.1, hq, if_pos rfl, bits_setBits _ _ _ _ (by omega)]
    · exact ih _ hr.2 hd.2 hf

/-- A field of a word after a reset of its domain. -/
theorem bits_wordAfterReset {r : RDef} {off : Nat} (hr : r.WordByCodes) (hfind : findReg off = some r) (hat : off = r.at (r.index off))
    (p : Dom → Bool) (v : U32) {f : FDef} (hf : f ∈ r.fields) (hp : p (fieldDom r f) = true) :
    bits (wordAfterReset p off v).toNat f.hi f.lo = f.rst % 2 ^ (f.hi + 1 - f.lo) := by
  rw [wordAfterReset, hfind]
  dsimp only
  rw [if_pos hat, BitVec.toNat_ofNat, bits_mod_two_pow _ _ _ _ (hr.fields f hf).2.1]
  exact bits_resetFields r.fields (fun e => p (fieldDom r e)) _ (fun e he => (hr.fields e he).1) hr.apart f hf hp

section
variable (d : Dev) (o n p : Nat)

theorem resetWords_succ : resetWords d o (n + 1) = { d with
    regs := bankSet (resetWords d o n).regs (o + 4 * n)
      (wordAfterReset (fun x => x = .host) (o + 4 * n) (bankWord (resetWords d o n).regs (o + 4 * n))) } := by
  simp [resetWords, upto, List.range_succ]

/-- Words beside those that are reset. -/
theorem resetWords_word_ne (h : ∀ i < n, p ≠ o + 4 * i) : bankWord (resetWords d o n).regs p = bankWord d.regs p := by
  induction n with
  | zero => rfl
  | succ n ih =>
    rw [resetWords_succ]
    exact (bankWord_set_ne _ _ (h n (Nat.lt_succ_self n))).trans (ih fun i hi => h i (Nat.lt_succ_of_lt hi))

theorem resetWords_word (i : Nat) (hi : i < n) : bankWord (resetWords d o n).regs (o + 4 * i) =
    wordAfterReset (fun x => x = .host) (o + 4 * i) (bankWord d.regs (o + 4 * i)) := by
  induction n with
  | zero => cases hi
  | succ n ih =>
    rw [resetWords_succ]
    rcases Nat.lt_succ_iff_lt_or_eq.mp hi with hi | rfl
    · exact (bankWord_set_ne _ _ (by omega)).trans (ih hi)
    · exact (bankWord_set_self _ _ _).trans (by rw [resetWords_word_ne d o i _ fun j hj => by omega])

theorem resetWords_boot : (resetWords d o n).boot = d.boot := rfl
theorem resetWords_sq (k : Nat) : (resetWords d o n).sq k = d.sq k := rfl

end

/-! ### FLR in its stages (R385) -/

/-- A submission ring in host memory starts again. -/
def flrRing (d : Dev) (k : Nat) : Dev :=
  updStopped ((resetWords d (rSqBase + 0x20 * k) 6).updSq k fun s =>
    { s with tail := 0, halted := false, armed := none, pass := none, lastTick := 0 }) k

/-- A completion ring in host memory starts again. -/
def flrCq (d : Dev) (k : Nat) : Dev :=
  updCqStopped ((resetWords d (rCqBase + 0x20 * k) 7).updCq k fun c => { c with head := 0, used := 0, unsignalled := 0 }) k

def hostRings (d : Dev) : List Nat := (upto 64).filter (hostRing d)
def hostCqs (d : Dev) : List Nat := (upto 64).filter (hostCq d)

/-- The abort of the jobs of host memory's rings. -/
def flrAbort (d : Dev) : AbortRun := { scope := 1, mask := (hostRings d).foldl (fun m k => m + 2 ^ k) 0, silent := true }

/-- The submission rings of host memory are disabled and start again. -/
def flrRings (d : Dev) : Dev := (hostRings d).foldl flrRing ((hostRings d).foldl disableRing (startAbort (flrAbort d) d))

/-- The completion rings of host memory, the vectors and HOSTQ_CTRL start again. -/
def flrRest (l : List Nat) (e : Dev) : Dev :=
  (resetWords (resetWords (resetWords (l.foldl flrCq e) rMsixAddrLo 256) rMsixPba 2) rHostqCtrl 1).setFld hostqStatusFlrSeen 1

theorem flrReset_eq (d : Dev) : flrReset d = flrRest (hostCqs d) (flrRings d) := rfl

theorem mem_hostRings {d : Dev} {k : Nat} : k ∈ hostRings d ↔ k < 64 ∧ hostRing d k = true := by
  simp [hostRings, upto]

/-! ### What stays -/

/-- A fold keeps what each of its steps keeps. -/
theorem foldl_keeps_of_mem {γ : Type} {P : Dev → Prop} {f : Dev → γ → Dev} (l : List γ) {d : Dev} (hd : P d)
    (hf : ∀ e, ∀ c ∈ l, P e → P (f e c)) : P (l.foldl f d) :=
  List.foldlRecOn l f (motive := P) hd fun e he c hc => hf e c hc he

/-- A fold reaches what one of its steps reaches and the others keep. -/
theorem foldl_reaches {γ : Type} {P : Dev → Prop} {f : Dev → γ → Dev} {c : γ} {l : List γ} (hc : c ∈ l) (hset : ∀ e, P (f e c))
    (hkeep : ∀ e, ∀ b ∈ l, P e → P (f e b)) (d : Dev) : P (l.foldl f d) := by
  induction l generalizing d with
  | nil => cases hc
  | cons b l ih =>
    rw [List.foldl_cons]
    rcases List.mem_cons.mp hc with rfl | hc
    · exact foldl_keeps_of_mem l (hset d) fun e b hb => hkeep e b (List.mem_cons_of_mem _ hb)
    · exact ih hc (fun e b hb => hkeep e b (List.mem_cons_of_mem _ hb)) _

@[simp] theorem updStopped_boot (d : Dev) (k : Nat) : (updStopped d k).boot = d.boot := by unfold updStopped; split <;> rfl
@[simp] theorem updCqStopped_boot (d : Dev) (c : Nat) : (updCqStopped d c).boot = d.boot := by unfold updCqStopped; split <;> rfl
@[simp] theorem updCqStopped_sqs (d : Dev) (c : Nat) : (updCqStopped d c).sqs = d.sqs := by unfold updCqStopped; split <;> rfl

theorem endPass_aborts (d : Dev) (k : Nat) : (endPass d k).aborts = d.aborts := by
  unfold endPass
  split
  · split <;> rfl
  · rfl

theorem discardRing_aborts (d : Dev) (k : Nat) : (discardRing d k).aborts = d.aborts := by
  unfold discardRing
  split
  · exact endPass_aborts _ _
  · split <;> rfl

theorem disableRing_boot (d : Dev) (k : Nat) : (disableRing d k).boot = d.boot := by
  unfold disableRing
  dsimp only
  rw [updStopped_boot]
  split
  · exact (discardRing_keepsRingCfg d k).boot
  · rfl

theorem flrReset_boot (d : Dev) : (flrReset d).boot = d.boot := by
  have hrest (l : List Nat) (e : Dev) : (flrRest l e).boot = e.boot := foldl_keeps Dev.boot flrCq (fun e k => updCqStopped_boot _ k) l e
  rw [flrReset_eq, hrest, flrRings, foldl_keeps Dev.boot flrRing fun e k => updStopped_boot _ k,
    foldl_keeps Dev.boot disableRing disableRing_boot, (startAbort_keepsRingCfg _ _).boot]

/-! ### The completion rings and the vectors -/

/-- The submission rings, the boot state and HOSTQ_STATUS stay. -/
structure KeepsSqBlock (d e : Dev) : Prop where
  sqs : e.sqs = d.sqs
  word : ∀ o, o < 0x2800 ∨ o = 0x3004 → bankWord e.regs o = bankWord d.regs o

namespace KeepsSqBlock
variable {d e g : Dev}

theorem refl (d : Dev) : KeepsSqBlock d d := ⟨rfl, fun _ _ => rfl⟩

theorem trans (h : KeepsSqBlock d e) (h' : KeepsSqBlock e g) : KeepsSqBlock d g :=
  ⟨h'.sqs.trans h.sqs, fun o ho => (h'.word o ho).trans (h.word o ho)⟩

theorem sq (h : KeepsSqBlock d e) (k : Nat) : e.sq k = d.sq k := congrArg (mapGet _ · k) h.sqs

end KeepsSqBlock

theorem resetWords_keepsSqBlock (d : Dev) {o n : Nat} (hlow : 0x2800 ≤ o) (hstatus : ∀ i < n, 0x3004 ≠ o + 4 * i) :
    KeepsSqBlock d (resetWords d o n) where
  sqs := rfl
  word p hp := resetWords_word_ne d o n p fun i hi => by
    have := hstatus i hi
    omega

theorem flrCq_keepsSqBlock (d : Dev) {k : Nat} (hk : k < 64) : KeepsSqBlock d (flrCq d k) where
  sqs := updCqStopped_sqs _ _
  word p hp := by
    have hreset := (resetWords_keepsSqBlock d (o := rCqBase + 0x20 * k) (n := 7) (by simp [rCqBase]) (by simp [rCqBase]; omega)).word p hp
    rw [flrCq, updCqStopped, if_neg (by omega)]
    exact (Dev.setFld_word_ne _ cqStatusStopped k _ (by simp [cqStatusStopped]; omega) nofun).trans hreset

/-- FLR's last stage: the submission rings stay, FLR_SEEN sets. -/
theorem flrRest_keepsSqBlock {l : List Nat} (hl : ∀ k ∈ l, k < 64) (e : Dev) :
    ∃ g, KeepsSqBlock e g ∧ flrRest l e = g.setFld hostqStatusFlrSeen 1 := by
  have hcqs : KeepsSqBlock e (l.foldl flrCq e) :=
    foldl_keeps_of_mem (P := KeepsSqBlock e) l (.refl e) fun _ k hk h => h.trans (flrCq_keepsSqBlock _ (hl k hk))
  refine ⟨_, .trans (.trans (.trans hcqs (resetWords_keepsSqBlock _ ?_ ?_)) (resetWords_keepsSqBlock _ ?_ ?_))
    (resetWords_keepsSqBlock _ ?_ ?_), rfl⟩
  all_goals simp only [rMsixAddrLo, rMsixPba, rHostqCtrl]; omega

theorem mem_hostCqs {d : Dev} {k : Nat} (h : k ∈ hostCqs d) : k < 64 := by
  simpa [upto] using (List.mem_filter.mp h).1

/-- FLR_SEEN, and what FLR's last stage leaves of the submission rings. -/
theorem flrReset_frame (d : Dev) : ∃ g, KeepsSqBlock (flrRings d) g ∧ flrReset d = g.setFld hostqStatusFlrSeen 1 := by
  rw [flrReset_eq]
  exact flrRest_keepsSqBlock (fun k hk => mem_hostCqs hk) _

theorem flrReset_seen (d : Dev) : (flrReset d).flag hostqStatusFlrSeen = true := by
  obtain ⟨g, -, hg⟩ := flrReset_frame d
  rw [hg, Dev.flag, Dev.fld_setFld _ _ _ _ (by decide) (by decide)]
  rfl

/-- A vector's mask bit is set after FLR (R369). -/
theorem flrReset_masked (d : Dev) {v : Nat} (hv : v < 64) : (flrReset d).flag msixCtrlMask v = true := by
  have hat : msixCtrlMask.base + v * msixCtrlMask.stride = rMsixAddrLo + 4 * (3 + 4 * v) := by simp [msixCtrlMask, rMsixAddrLo]; omega
  have hword (e : Dev) : bits (bankWord (resetWords e rMsixAddrLo 256).regs (rMsixAddrLo + 4 * (3 + 4 * v))).toNat 0 0 = 1 := by
    rw [resetWords_word _ _ _ _ (by omega), show rMsixAddrLo + 4 * (3 + 4 * v) = rMsixCtrl + 0x10 * v by simp [rMsixAddrLo, rMsixCtrl]; omega]
    exact bits_wordAfterReset (f := ⟨0, 0, .rw, 1⟩) msixCtrlReg_wordByCodes (findReg_msixCtrl v hv)
      (by simp [RDef.at, RDef.index, msixCtrlReg, Nat.mul_comm]) _ _ List.mem_cons_self rfl
  have hfld (e : Dev) : (resetWords (resetWords (resetWords e rMsixAddrLo 256) rMsixPba 2) rHostqCtrl 1).fld msixCtrlMask v = 1 := by
    rw [Dev.fld, bankFld, hat]
    simp only [bankReg, msixCtrlMask, Bool.false_eq_true, if_false]
    rw [resetWords_word_ne _ _ _ _ (by simp [rMsixAddrLo, rHostqCtrl]; omega), resetWords_word_ne _ _ _ _ (by simp [rMsixAddrLo, rMsixPba]; omega)]
    exact hword e
  rw [flrReset_eq, flrRest, Dev.flag, Dev.fld_setFld_ne _ _ _ _ _ _ (by simp [msixCtrlMask, hostqStatusFlrSeen, b2n]; omega), hfld]
  rfl

/-! ### The submission rings -/

/-- Ring `k` is as FLR leaves a ring of host memory. -/
def RingCleared (k : Nat) (u : Dev) : Prop := u.flag sqCfgEnable k = false ∧ (u.sq k).tail = 0 ∧ (u.sq k).armed = none

theorem flrRing_cleared {k : Nat} (hk : k < 64) (e : Dev) : RingCleared k (flrRing e k) := by
  have hcfg : bits (bankWord (resetWords e (rSqBase + 0x20 * k) 6).regs (rSqBase + 0x20 * k + 4 * 2)).toNat 0 0 = 0 := by
    rw [resetWords_word _ _ _ _ (by omega)]
    exact bits_wordAfterReset (f := ⟨0, 0, .rw, 0⟩) sqCfgReg_wordByCodes
      ((congrArg findReg (by simp [rSqBase, rSqCfg]; omega)).trans (findReg_sqCfg k hk))
      (by simp [RDef.at, RDef.index, sqCfgReg, rSqBase, rSqCfg]; omega) _ _ List.mem_cons_self rfl
  have hen : (resetWords e (rSqBase + 0x20 * k) 6).fld sqCfgEnable k = 0 := by
    rw [Dev.fld, bankFld, show sqCfgEnable.base + k * sqCfgEnable.stride = rSqBase + 0x20 * k + 4 * 2 by simp [sqCfgEnable, rSqBase]; omega]
    exact hcfg
  have hsq : (flrRing e k).sq k = { e.sq k with tail := 0, halted := false, armed := none, pass := none, lastTick := 0 } := by
    rw [Dev.sq, flrRing, updStopped_sqs]
    exact Dev.sq_updSq_self (resetWords e (rSqBase + 0x20 * k) 6) k fun s =>
      { s with tail := 0, halted := false, armed := none, pass := none, lastTick := 0 }
  refine ⟨?_, by rw [hsq], by rw [hsq]⟩
  rw [flrRing, Dev.flag, updStopped_fld _ _ (by decide), Dev.updSq_fld, hen]
  rfl

/-- Ring `k`, DEV_CTRL and HOSTQ_STATUS stay. -/
structure KeepsRing (k : Nat) (d e : Dev) : Prop where
  sq : e.sq k = d.sq k
  word : ∀ o, o = rDevCtrl ∨ o = 0x3004 ∨ (rSqBase + 0x20 * k ≤ o ∧ o < rSqBase + 0x20 * k + 0x18) →
    bankWord e.regs o = bankWord d.regs o

namespace KeepsRing
variable {k : Nat} {d e g : Dev}

theorem refl (d : Dev) : KeepsRing k d d := ⟨rfl, fun _ _ => rfl⟩

theorem trans (h : KeepsRing k d e) (h' : KeepsRing k e g) : KeepsRing k d g :=
  ⟨h'.sq.trans h.sq, fun o ho => (h'.word o ho).trans (h.word o ho)⟩

theorem after (h' : KeepsRing k e g) (h : KeepsRing k d e) : KeepsRing k d g := h.trans h'

theorem ite {p : Prop} [Decidable p] (he : KeepsRing k d e) (hg : KeepsRing k d g) : KeepsRing k d (if p then e else g) := by
  split
  · exact he
  · exact hg

theorem cleared (h : KeepsRing k d e) (hd : RingCleared k d) : RingCleared k e := by
  obtain ⟨hen, htail, harmed⟩ := hd
  refine ⟨?_, by rw [h.sq, htail], by rw [h.sq, harmed]⟩
  rw [Dev.flag, Dev.fld_congr_word rfl (h.word _ (by simp [sqCfgEnable, rSqBase]; omega))]
  exact hen

end KeepsRing

/-- A field of ring registers. -/
def Fld.ofSqBlock (f : Fld) : Bool := !f.wide && decide (f.stride = 0x20 ∧ 0x2000 ≤ f.base ∧ f.base < 0x2018)

section
variable {k j : Nat} (hj : j < 64) (hne : j ≠ k) (d : Dev)
include hj hne

theorem setFld_keepsRing (f : Fld) (v : Nat) (hf : f.ofSqBlock = true) : KeepsRing k d (d.setFld f v j) where
  sq := rfl
  word o ho := by
    simp only [Fld.ofSqBlock, Bool.and_eq_true, Bool.not_eq_true', decide_eq_true_eq] at hf
    obtain ⟨hw, hs, hlow, hhigh⟩ := hf
    refine Dev.setFld_word_ne _ _ _ _ ?_ (by simp [hw])
    simp only [rDevCtrl, rSqBase] at ho
    rw [hs]
    omega

omit hj in
theorem updSq_keepsRing (f : SqState → SqState) : KeepsRing k d (d.updSq j f) := ⟨Dev.sq_updSq_ne d f hne.symm, fun _ _ => rfl⟩

omit hj hne in
theorem updCq_keepsRing (f : CqState → CqState) : KeepsRing k d (d.updCq j f) := ⟨rfl, fun _ _ => rfl⟩

theorem updStopped_keepsRing : KeepsRing k d (updStopped d j) := .ite (.refl d) (setFld_keepsRing hj hne d _ _ (by decide))

omit hj in
theorem endPass_keepsRing : KeepsRing k d (endPass d j) := by
  unfold endPass
  split
  · exact .ite (updSq_keepsRing hne d _) (.refl d)
  · exact .refl d

theorem discardRing_keepsRing : KeepsRing k d (discardRing d j) := by
  unfold discardRing
  split
  · exact (endPass_keepsRing hne _).after ((updCq_keepsRing _ _).after (updSq_keepsRing hne _ _))
  · exact .ite (.refl d) (setFld_keepsRing hj hne d _ _ (by decide))

theorem disableRing_keepsRing : KeepsRing k d (disableRing d j) :=
  (updStopped_keepsRing hj hne _).after ((updSq_keepsRing hne _ _).after ((setFld_keepsRing hj hne _ sqCfgEnable 0 (by decide)).after
    (.ite (discardRing_keepsRing hj hne d) (.refl d))))

theorem resetRing_keepsRing : KeepsRing k d (resetWords d (rSqBase + 0x20 * j) 6) where
  sq := rfl
  word o ho := resetWords_word_ne _ _ _ _ fun i hi => by
    simp only [rDevCtrl, rSqBase] at ho ⊢
    omega

theorem flrRing_keepsRing : KeepsRing k d (flrRing d j) :=
  (updStopped_keepsRing hj hne _).after ((updSq_keepsRing hne _ _).after (resetRing_keepsRing hj hne d))

end

/-- Each ring of host memory is as FLR leaves it. -/
theorem flrReset_cleared (d : Dev) {k : Nat} (hk : k < 64) (hhost : hostRing d k = true) : RingCleared k (flrReset d) := by
  have hrings : RingCleared k (flrRings d) := by
    refine foldl_reaches (mem_hostRings.mpr ⟨hk, hhost⟩) (flrRing_cleared hk) (fun e j hj he => ?_) _
    obtain ⟨hj, -⟩ := mem_hostRings.mp hj
    rcases eq_or_ne j k with rfl | hne
    · exact flrRing_cleared hk e
    · exact (flrRing_keepsRing hj hne e).cleared he
  obtain ⟨g, hkeep, hg⟩ := flrReset_frame d
  obtain ⟨hen, htail, harmed⟩ := hrings
  rw [hg]
  refine ⟨?_, by rw [Dev.sq_setFld, hkeep.sq, htail], by rw [Dev.sq_setFld, hkeep.sq, harmed]⟩
  rw [Dev.flag, Dev.fld_setFld_ne _ _ _ _ _ _ (by simp [sqCfgEnable, hostqStatusFlrSeen, b2n]; omega),
    Dev.fld_congr_word (d := flrRings d) rfl (hkeep.word _ (by simp [sqCfgEnable]; omega))]
  exact hen

/-! ### Rings in device memory (R385) -/

/-- The mask of a set of rings names those rings alone. -/
theorem bit_ringMask (p : Nat → Bool) (n : Nat) : ((List.range n).filter p).foldl (fun m k => m + 2 ^ k) 0 < 2 ^ n ∧
    ∀ j, bit (((List.range n).filter p).foldl (fun m k => m + 2 ^ k) 0) j = (decide (j < n) && p j) := by
  induction n with
  | zero => exact ⟨Nat.one_pos, fun j => by simp [bit]⟩
  | succ n ih =>
    obtain ⟨hlt, hbits⟩ := ih
    rw [List.range_succ, List.filter_append, List.foldl_append]
    generalize ((List.range n).filter p).foldl (fun m k => m + 2 ^ k) 0 = m at hlt hbits
    have hbelow {j : Nat} (hj : j ≠ n) : (j < n + 1) ↔ j < n := by omega
    cases hp : p n
    case false =>
      rw [List.filter_cons_of_neg (by simp [hp]), List.filter_nil, List.foldl_nil]
      refine ⟨hlt.trans (Nat.pow_lt_pow_right one_lt_two (Nat.lt_succ_self n)), fun j => ?_⟩
      rw [hbits]
      by_cases hj : j = n
      · subst hj; simp [hp]
      · simp only [hbelow hj]
    case true =>
      rw [List.filter_cons_of_pos hp, List.filter_nil, List.foldl_cons, List.foldl_nil]
      refine ⟨by rw [pow_succ]; omega, fun j => ?_⟩
      have hor : m + 2 ^ n = 2 ^ n ||| m := by
        have h := Nat.two_pow_add_eq_or_of_lt hlt 1
        rw [mul_one] at h
        rw [← h, add_comm]
      rw [hor, bit_eq_testBit, Nat.testBit_or, ← bit_eq_testBit m, hbits, Nat.testBit_two_pow]
      by_cases hj : j = n
      · subst hj; simp [hp]
      · simp [hbelow hj, Ne.symm hj]

/-- Where nothing runs and no abort is under way, an abort without a job of its own discards the rings' descriptors and is over. -/
theorem startAbort_of_idle {a : AbortRun} {d : Dev} (hjobs : d.jobs = []) (haborts : d.aborts = []) (hsilent : a.silent = true)
    (hjob : a.job = none) : startAbort a d = { a.rings.foldl discardRing d with aborts := [] } := by
  have hkept : (a.rings.foldl discardRing d).aborts = [] := (foldl_keeps Dev.aborts discardRing discardRing_aborts _ _).trans haborts
  simp [startAbort, hjobs, finishAborts, hkept, hsilent, hjob]

theorem flrRings_keepsRing {d : Dev} (hjobs : d.jobs = []) (haborts : d.aborts = []) {k : Nat} (hdev : k ∉ hostRings d) :
    KeepsRing k d (flrRings d) := by
  have hother {j : Nat} (hj : j ∈ hostRings d) : j < 64 ∧ j ≠ k :=
    ⟨(mem_hostRings.mp hj).1, fun heq => hdev (heq ▸ hj)⟩
  have habort : KeepsRing k d ((flrAbort d).rings.foldl discardRing d) := by
    refine foldl_keeps_of_mem (P := KeepsRing k d) _ (.refl d) fun e j hj he => ?_
    have hmask := (bit_ringMask (hostRing d) 64).2 j
    obtain ⟨hj, hbit⟩ := List.mem_filter.mp hj
    obtain ⟨hj, hne⟩ := hother (j := j) (mem_hostRings.mpr (by simpa using hmask.symm.trans hbit))
    exact he.trans (discardRing_keepsRing hj hne e)
  rw [flrRings, startAbort_of_idle hjobs haborts rfl rfl]
  refine foldl_keeps_of_mem (P := KeepsRing k d) _ (foldl_keeps_of_mem (P := KeepsRing k d) _ (habort.trans ⟨rfl, fun _ _ => rfl⟩) ?_) ?_
  · exact fun e j hj he => he.trans (disableRing_keepsRing (hother hj).1 (hother hj).2 e)
  · exact fun e j hj he => he.trans (flrRing_keepsRing (hother hj).1 (hother hj).2 e)

/-- FLR where nothing runs leaves the rings in device memory, DEV_CTRL and the link as they are. -/
theorem flrReset_word {d : Dev} (hjobs : d.jobs = []) (haborts : d.aborts = []) {k : Nat} (hdev : k ∉ hostRings d) {o : Nat}
    (ho : o = rDevCtrl ∨ (rSqBase + 0x20 * k ≤ o ∧ o < rSqBase + 0x20 * k + 0x18)) (hlow : o < 0x2800) :
    bankWord (flrReset d).regs o = bankWord d.regs o := by
  obtain ⟨g, hkeep, hg⟩ := flrReset_frame d
  rw [hg, Dev.setFld_word_ne g hostqStatusFlrSeen 0 1 (by simp [hostqStatusFlrSeen]; omega) nofun, hkeep.word o (.inl hlow)]
  exact (flrRings_keepsRing hjobs haborts hdev).word o (by omega)

theorem flrReset_sq {d : Dev} (hjobs : d.jobs = []) (haborts : d.aborts = []) {k : Nat} (hdev : k ∉ hostRings d) :
    (flrReset d).sq k = d.sq k := by
  obtain ⟨g, hkeep, hg⟩ := flrReset_frame d
  rw [hg, Dev.sq_setFld, hkeep.sq, (flrRings_keepsRing hjobs haborts hdev).sq]

/-- No ring has the number 64. -/
theorem not_mem_hostRings (d : Dev) : 64 ∉ hostRings d := fun h => absurd (mem_hostRings.mp h).1 (Nat.lt_irrefl 64)

theorem flrReset_linkUp {d : Dev} (hjobs : d.jobs = []) (haborts : d.aborts = []) : linkUp (flrReset d) = linkUp d := by
  obtain ⟨g, hkeep, hg⟩ := flrReset_frame d
  have hword : bankWord g.regs 0x3004 = bankWord d.regs 0x3004 :=
    (hkeep.word _ (.inr rfl)).trans ((flrRings_keepsRing hjobs haborts (not_mem_hostRings d)).word _ (.inr (.inl rfl)))
  rw [hg, linkUp, linkUp, Dev.flag, Dev.flag, Dev.fld_setFld_of_beside _ _ _ _ _ (by decide), Dev.fld_congr_word rfl hword]

theorem flrReset_setupLock {d : Dev} (hjobs : d.jobs = []) (haborts : d.aborts = []) :
    (flrReset d).flag devCtrlSetupLock = d.flag devCtrlSetupLock := by
  rw [Dev.flag, Dev.flag, Dev.fld_congr_word rfl (flrReset_word hjobs haborts (not_mem_hostRings d) (.inl rfl) (by decide))]

/-! ### The link goes down (R384) -/

/-- A vector of a module without a link sends nothing. -/
theorem hostEvent_of_down {e : Dev} (hlink : linkUp e = false) :
    RegsWritten e (hostEvent e) ∧ ∀ o < 0x3C00, bankWord (hostEvent e).regs o = bankWord e.regs o := by
  unfold hostEvent signalVector
  rw [hlink]
  split
  · split
    · exact ⟨⟨_, rfl⟩, fun o ho => bankWord_set_ne _ _ (by simp [rMsixPba]; omega)⟩
    · exact ⟨⟨e.regs, rfl⟩, fun _ _ => rfl⟩
  · exact ⟨⟨e.regs, rfl⟩, fun _ _ => rfl⟩

theorem RegsWritten.boot {d e : Dev} (h : RegsWritten d e) : e.boot = d.boot := by obtain ⟨b, rfl⟩ := h; rfl
theorem RegsWritten.fifos {d e : Dev} (h : RegsWritten d e) : e.fifos = d.fifos := by obtain ⟨b, rfl⟩ := h; rfl
theorem RegsWritten.net {d e : Dev} (h : RegsWritten d e) : e.net = d.net := by obtain ⟨b, rfl⟩ := h; rfl
theorem RegsWritten.trans {d e g : Dev} (h : RegsWritten d e) (h' : RegsWritten e g) : RegsWritten d g := by
  obtain ⟨b, rfl⟩ := h; obtain ⟨c, rfl⟩ := h'; exact ⟨c, rfl⟩

theorem pcieDown_frame (d : Dev) : RegsWritten d (pcieDown d) ∧ linkUp (pcieDown d) = false ∧
    (pcieDown d).flag hostqStatusLinkLost = true ∧ ∀ o < 0x3000, bankWord (pcieDown d).regs o = bankWord d.regs o := by
  set e := (d.setFld hostqStatusLinkUp 0).setFld hostqStatusLinkLost 1 with he
  have hup : e.fld hostqStatusLinkUp = 0 := by
    rw [he, Dev.fld_setFld_of_beside _ _ _ _ _ (by decide), Dev.fld_setFld _ _ _ _ (by decide) (by decide)]; rfl
  have hlost : e.fld hostqStatusLinkLost = 1 := by rw [he, Dev.fld_setFld _ _ _ _ (by decide) (by decide)]; rfl
  obtain ⟨hregs, hword⟩ := hostEvent_of_down (e := e) (by rw [linkUp, Dev.flag, hup]; rfl)
  refine ⟨.trans ⟨_, rfl⟩ hregs, ?_, ?_, fun o ho => (hword o (by omega)).trans ?_⟩
  · rw [linkUp, Dev.flag, pcieDown, Dev.fld_congr_word rfl (hword _ (by decide)), hup]; rfl
  · rw [Dev.flag, pcieDown, Dev.fld_congr_word rfl (hword _ (by decide)), hlost]; rfl
  · exact (Dev.setFld_word_ne _ hostqStatusLinkLost 0 _ (by simp [hostqStatusLinkLost]; omega) nofun).trans
      (Dev.setFld_word_ne d hostqStatusLinkUp 0 _ (by simp [hostqStatusLinkUp]; omega) nofun)

theorem hostRing_pcieDown (d : Dev) {k : Nat} (hk : k < 64) : hostRing (pcieDown d) k = hostRing d k := by
  obtain ⟨-, -, -, hword⟩ := pcieDown_frame d
  simp only [hostRing, Dev.fld, bankFld, bankReg, sqBaseAddr, if_true]
  rw [hword _ (by omega), hword _ (by omega)]

/-- Settles O45: the words that FLR resets decide what it leaves of the rings; nothing that it does reaches the boot state. -/
theorem linkEventResults : Obligations.LinkEventResults := by
  unfold Obligations.LinkEventResults
  intro s
  refine ⟨fun hlink => ⟨?down, ?flr⟩, fun hlink => ⟨?_, ?_⟩, fun hlink hpower hstage hperst => ?up, ?assert, rfl⟩
  case down =>
    obtain ⟨hregs, hdown, hlost, -⟩ := pcieDown_frame s.dev
    refine ⟨{ s with dev := pcieDown s.dev }, ?_, hdown, hlost, hregs.jobs, hregs.sqs, hregs.cqs, hregs.fifos, hregs.net, hregs.out⟩
    rw [exec_pcieLinkDown, execPcieLinkDown, onDev_next, if_pos hlink]
  case flr =>
    refine ⟨{ s with dev := flrReset s.dev }, ?_, flrReset_seen _, fun k hk hhost => flrReset_cleared _ hk hhost,
      fun v hv => flrReset_masked _ hv, fun hjobs haborts => ⟨(flrReset_linkUp hjobs haborts).trans hlink, flrReset_setupLock hjobs haborts,
        fun k hk hdev => ?_⟩⟩
    · rw [exec_flr, execFlr, onDev_next, if_pos hlink]
    · have hring : k ∉ hostRings s.dev := fun h => by rw [(mem_hostRings.mp h).2] at hdev; cases hdev
      exact ⟨flrReset_sq hjobs haborts hring, fun i hi => flrReset_word hjobs haborts hring (.inr (by omega)) (by simp [rSqBase]; omega)⟩
  case up =>
    refine ⟨{ s with dev := (flrReset s.dev).setFld hostqStatusLinkUp 1 }, ?_, ?_, ?_⟩
    · simp [execPcieLinkUp, hpower, hstage, hperst, hlink]
    · rw [linkUp, Dev.flag, Dev.fld_setFld _ _ _ _ (by decide) (by decide)]; rfl
    · rw [Dev.flag, Dev.fld_setFld_of_beside _ _ _ _ _ (by decide)]
      exact flrReset_seen _
  case assert =>
    rw [exec_perstAssert, execPerstAssert, onDev_next]
    refine ⟨_, rfl, ?_, fun hpower => ?_⟩
    · dsimp only
      split
      · rfl
      · rw [flrReset_boot]
        split
        · rw [(pcieDown_frame _).1.boot]
        · rfl
    · dsimp only
      rw [hpower, Bool.not_true, if_neg Bool.false_ne_true]
      refine ⟨flrReset_seen _, fun k hk hhost => (flrReset_cleared _ hk ?_).1⟩
      split
      · rw [hostRing_pcieDown _ hk]; exact hhost
      · exact hhost
  · rw [exec_pcieLinkDown, execPcieLinkDown, onDev_next, if_neg (by simp [hlink])]
  · rw [exec_flr, execFlr, onDev_next, if_neg (by simp [hlink])]

end Sys2Proof.Machine
end

section
/-! PROOFS. Transactions of the Spadja port (R387 to R389, R509, R541): O42. -/

namespace Sys2Proof.Machine

/-! ### The CRC (R388) -/

/-- One step of the bit-serial division. -/
def crcShift (r : Nat) : Nat := if bit r 15 then (2 * r) % 65536 ^^^ 0x1021 else 2 * r

/-- `n` steps of the division. -/
def crcShifts (n r : Nat) : Nat := (upto n).foldl (fun r _ => crcShift r) r

theorem crcByte_eq (c : Nat) (b : Byte) : crcByte c b = crcShifts 8 (c ^^^ (256 * b.toNat)) := rfl

theorem crcShifts_succ (n r : Nat) : crcShifts (n + 1) r = crcShift (crcShifts n r) := by
  rw [crcShifts, upto, List.range_succ, List.foldl_append]
  rfl

/-- The top bit of a 16-bit register is clear in its lower half. -/
theorem bit_fifteen_of_lt {r : Nat} (h : r < 65536) : bit r 15 = false ↔ r < 32768 := by
  simp only [bit, decide_eq_false_iff_not]
  omega

theorem crcShift_lt {r : Nat} (h : r < 65536) : crcShift r < 65536 := by
  unfold crcShift
  split
  · exact Nat.xor_lt_two_pow (n := 16) (Nat.mod_lt _ (by decide)) (by decide)
  next hbit =>
    have := (bit_fifteen_of_lt h).mp (Bool.eq_false_iff.mpr hbit)
    omega

theorem crcShifts_lt (n : Nat) {r : Nat} (h : r < 65536) : crcShifts n r < 65536 := by
  induction n with
  | zero => exact h
  | succ n ih => rw [crcShifts_succ]; exact crcShift_lt ih

/-- What does not reach the top bit is only shifted. -/
theorem crcShifts_eq_mul (n : Nat) {r : Nat} (h : 2 ^ n * r < 65536) : crcShifts n r = 2 ^ n * r := by
  induction n with
  | zero => exact (Nat.one_mul r).symm
  | succ n ih =>
    rw [Nat.pow_succ, Nat.mul_right_comm] at h ⊢
    rw [crcShifts_succ, ih (by omega), crcShift, (bit_fifteen_of_lt (by omega)).mpr (by omega), if_neg Bool.false_ne_true, Nat.mul_comm]

theorem crcByte_lt {c : Nat} (h : c < 65536) (b : Byte) : crcByte c b < 65536 :=
  crcShifts_lt 8 (Nat.xor_lt_two_pow (n := 16) h (by have := b.isLt; omega))

theorem crc16_concat (l : List Byte) (b : Byte) : crc16 (l ++ [b]) = crcByte (crc16 l) b := List.foldl_append

theorem crc16_lt (l : List Byte) : crc16 l < 65536 := by
  induction l using List.reverseRecOn with
  | nil => decide
  | append_singleton l b ih => rw [crc16_concat]; exact crcByte_lt ih b

/-- A register's own upper byte leaves the lower one. -/
theorem xor_upperByte (c : Nat) : c ^^^ (256 * (c / 256)) = c % 256 := by
  refine Nat.eq_of_testBit_eq fun i => ?_
  rw [Nat.testBit_xor, show 256 = 2 ^ 8 from rfl, Nat.testBit_two_pow_mul, Nat.testBit_div_two_pow, Nat.testBit_mod_two_pow]
  by_cases hi : i < 8
  · simp [hi, Nat.not_le.mpr hi]
  · simp [hi, Nat.not_lt.mp hi, Nat.sub_add_cancel (Nat.not_lt.mp hi)]

/-- The CRC divides what it is appended to. -/
theorem crc16_append_own (l : List Byte) : crc16 (l ++ beBytes 2 (crc16 l)) = 0 := by
  have hlt := crc16_lt l
  generalize hc : crc16 l = c at hlt
  have hbytes : beBytes 2 c = [BitVec.ofNat 8 (c / 256)] ++ [BitVec.ofNat 8 c] := rfl
  have hupper : (BitVec.ofNat 8 (c / 256)).toNat = c / 256 := by rw [BitVec.toNat_ofNat]; omega
  have hlower : (BitVec.ofNat 8 c).toNat = c % 256 := BitVec.toNat_ofNat ..
  have hshift : crcShifts 8 (c % 256) = 256 * (c % 256) := crcShifts_eq_mul 8 (by omega)
  rw [hbytes, ← List.append_assoc, crc16_concat, crc16_concat, hc, crcByte_eq, crcByte_eq, hupper, hlower, xor_upperByte, hshift,
    Nat.xor_self, crcShifts_eq_mul 8 (by decide), Nat.mul_zero]

/-- The bytes that follow data are the CRC's, most significant byte first. -/
theorem spadjaAnswer_out (sent data : List Byte) (d : Dev) :
    (spadjaAnswer sent data d).out = d.out ++ [.spadja (data ++ beBytes 2 (crc16 (sent ++ data)))] := rfl

/-! ### Reads (R387, R389, R509) -/

theorem setPortBank_out (d : Dev) (p : Port) (b : Bank) : (setPortBank d p b).out = d.out := by cases p <;> rfl

theorem readTsqInfo_out (d : Dev) (p : Port) (n : Nat) : (readTsqInfo d p n).1.out = d.out := by
  have hstamp : (tsqRead n d).1.out = d.out := by unfold tsqRead; split <;> rfl
  unfold readTsqInfo
  dsimp only
  split
  · exact (setPortBank_out _ _ _).trans hstamp
  · exact hstamp

/-- Reading a register sends nothing by itself. -/
theorem readReg_out (p : Port) (r : RDef) (i : Nat) (d : Dev) : (readReg p r i d).1.out = d.out := by
  unfold readReg
  generalize Option.getD _ _ = v
  repeat' split
  · exact setPortBank_out _ _ _
  · exact readTsqInfo_out _ _ _
  · exact setPortBank_out _ _ _
  · rfl

theorem readWord_out (p : Port) (r : RDef) (i off : Nat) (d : Dev) : (readWord p r i off d).1.out = d.out := by
  unfold readWord
  dsimp only
  split
  · rw [setPortState_out, readReg_out]
  · split
    · rw [setPortState_out]
    · rfl

theorem portRead_out (p : Port) (off size : Nat) (d : Dev) : (portRead p off size d).1.out = d.out := by
  have hreader (e : Dev) : (readerDev p off e).out = e.out := readerDev_out p off e
  unfold portRead
  split
  · rfl
  split
  · rfl
  split
  · rfl
  · rfl
  · rfl
  · dsimp only
    split
    · exact (readWord_out _ _ _ _ _).trans (hreader d)
    · exact (readReg_out _ _ _ _).trans (hreader d)

/-- A read that the port answers with a register of 32 bits, or too late (R389). -/
theorem portRead_of_reach {d : Dev} {off i : Nat} {r : RDef} (hawake : d.clr.asleep = false) (hr : reach d .spadja off 4 false = .reg r i)
    (hw : r.wide = false) : portRead .spadja off 4 d = if lateRead d .spadja off then (d.bump.setFld supStatusRdTimeout 1, 0xFFFFFFFF)
      else readReg .spadja r i (if slowBlock off then d.bump else d) := by
  simp [portRead, portAsleep, hawake, hr, hw]

/-- What a read sends: the value, by the port (R10). -/
theorem cmdRead_of_on {s : State} (off size : Nat) (hon : s.dev.clr.on = true) : cmdRead .spadja off size s =
    { s with dev := (portRead .spadja off size s.dev).1.emit (.readData .spadja size (BitVec.ofNat 64 (portRead .spadja off size s.dev).2)) } :=
  if_pos hon

theorem readWords_out (a n : Nat) (d : Dev) : (readWords a n d).1.out = d.out := by
  induction n generalizing a d with
  | zero => rfl
  | succ n ih => exact (ih _ _).trans (portRead_out _ _ _ _)

theorem readWords_length (a n : Nat) (d : Dev) : (readWords a n d).2.length = 4 * n := by
  induction n generalizing a d with
  | zero => rfl
  | succ n ih => rw [readWords, List.length_append, leBytes_length, ih]; omega

theorem readWords_one (a : Nat) (d : Dev) : readWords a 1 d = ((portRead .spadja a 4 d).1, leBytes 4 (portRead .spadja a 4 d).2) := by
  simp [readWords]

/-- Asleep, a read of another block than CLR is not answered (R509). -/
theorem lowWordRead_asleep {s : State} {off : Nat} (size : Nat) (hon : s.dev.clr.on = true) (hasleep : s.dev.clr.asleep = true)
    (hclr : inClr off = false) : exec (.lowWordReadLatch .spadja off size) s =
      leaves s ((s.dev.setFld supStatusRdTimeout 1).emit (.readData .spadja size 0xFFFFFFFF)) := by
  have hread : portRead .spadja off size s.dev = (s.dev.setFld supStatusRdTimeout 1, 0xFFFFFFFF) := by
    simp [portRead, portAsleep, hasleep, hclr]
  rw [exec_lowWordReadLatch, execLowWordReadLatch, cmdRead_of_on _ _ hon, hread]
  rfl

/-- Awake, a read returns the register, or comes too late where the block is slow (R389). -/
theorem lowWordRead_awake {s : State} {off i : Nat} {r : RDef} (hon : s.dev.clr.on = true) (hawake : s.dev.clr.asleep = false)
    (hr : reach s.dev .spadja off 4 false = .reg r i) (hw : r.wide = false) :
    ∃ u v, exec (.lowWordReadLatch .spadja off 4) s = .next u ∧ u.dev.out = s.dev.out ++ [.readData .spadja 4 (BitVec.ofNat 64 v)] ∧
      (v = (readReg .spadja r i (if slowBlock off then s.dev.bump else s.dev)).2 ∨
        (slowBlock off = true ∧ v = 0xFFFFFFFF ∧ u.dev.fld supStatusRdTimeout = 1)) := by
  refine ⟨_, _, congrArg Host.Outcome.next (cmdRead_of_on off 4 hon), congrArg (· ++ _) (portRead_out _ _ _ _), ?_⟩
  rw [portRead_of_reach hawake hr hw]
  split
  next hlate =>
    have hslow : slowBlock off = true := by
      simp only [lateRead, Bool.and_eq_true] at hlate
      exact hlate.1.2
    exact .inr ⟨hslow, rfl, Dev.fld_setFld _ _ _ _ (by decide) (by decide)⟩
  · exact .inl rfl

/-! ### Transactions by their command bytes (R387, R388) -/

section
variable {s : State} {w : List Byte}

/-- One word of a transaction takes 32 bits. -/
theorem recLe_four_lt (l : List Byte) (o : Nat) : recLe l o 4 < 2 ^ 32 := by
  have hlt (l : List Byte) : leNat l < 256 ^ l.length := by
    induction l with
    | nil => decide
    | cons b l ih => rw [leNat, List.length_cons, Nat.pow_succ]; have := b.isLt; omega
  calc recLe l o 4 < 256 ^ ((l.drop o).take 4).length := hlt _
    _ ≤ 256 ^ 4 := Nat.pow_le_pow_right (by decide) (List.length_take_le _ _)

/-- Consecutive words are written one after the other. -/
theorem writeWords_map (a : Nat) (g : Nat → Nat) (n : Nat) (s : State) :
    writeWords a ((upto n).map g) s = (upto n).foldl (fun v i => portWrite .spadja (a + 4 * i) 4 (g i) v) s := by
  unfold upto
  induction n generalizing a g s with
  | zero => rfl
  | succ n ih =>
    rw [List.range_succ_eq_map, List.map_cons, List.map_map, writeWords, ih, List.foldl_cons, List.foldl_map]
    simp only [Function.comp_apply, Nat.mul_succ, Nat.add_assoc, Nat.mul_zero, Nat.add_zero, Nat.add_comm 4]

/-- A write with the right length and CRC writes its words. -/
theorem wireWrite_of_good (hlen : w.length = 8 + 4 * wireCount w) (hcrc : crcGood w = true) : wireWrite w s =
    (upto (wireCount w)).foldl (fun v i => portWrite .spadja (wireAddr w + 4 * i) 4 (recLe w (6 + 4 * i) 4) v) s := by
  rw [wireWrite, if_pos ⟨hlen, hcrc⟩, writeWords_map]

/-- A write of one word. -/
theorem wireWrite_one (hone : wireCount w = 1) (hlen : w.length = 12) (hcrc : crcGood w = true) :
    wireWrite w s = portWrite .spadja (wireAddr w) 4 (recLe w 6 4) s := by
  rw [wireWrite_of_good (by rw [hone, hlen]) hcrc, hone]
  rfl

theorem wireWrite_of_bad (h : w.length ≠ 8 + 4 * wireCount w ∨ crcGood w = false) : wireWrite w s = s.mapDev crcError :=
  if_neg fun hgood => h.elim (fun hlen => hlen hgood.1) fun hcrc => Bool.false_ne_true (hcrc.symm.trans hgood.2)

/-- The address phase has ended: the words are read. -/
theorem wireRead_of_length {d : Dev} (hlen : 6 ≤ w.length) : wireRead w d =
    spadjaAnswer (w.take 6) (readWords (wireAddr w) (wireCount w) d).2 (readWords (wireAddr w) (wireCount w) d).1 :=
  if_neg (Nat.not_lt.mpr hlen)

section
variable (h : WireAwake s.dev)
include h

theorem transaction_readId (hc : w.take 2 = [0x9F, 0x60]) : spadjaTransaction w s = s.mapDev (spadjaAnswer (w.take 2) idBytes) := by
  have hid : wireReadId w s.dev = spadjaAnswer (w.take 2) idBytes s.dev := by simp [wireReadId, h.2]
  simp [spadjaTransaction, h.1, hc, State.mapDev, hid]

theorem transaction_read (hc : w.take 2 = [0xA5, 0x5A]) : spadjaTransaction w s = s.mapDev (wireRead w) := by
  simp [spadjaTransaction, h.1, hc]

theorem transaction_status (hc : w.take 2 = [0x05, 0xFA]) : spadjaTransaction w s = s.mapDev (wireStatus w) := by
  simp [spadjaTransaction, h.1, hc]

theorem transaction_write (hc : w.take 2 = [0x5A, 0xA5]) : spadjaTransaction w s = wireWrite w s := by
  simp [spadjaTransaction, h.1, h.2, hc]

theorem transaction_abort (hc : w.take 2 = [0xC3, 0x3C]) :
    spadjaTransaction w s = s.mapDev (if keyGood w 0xAB0B then spadjaAbort else crcError) := by
  cases hkey : keyGood w 0xAB0B <;> simp [spadjaTransaction, h.1, h.2, hc, hkey]

theorem transaction_safe (hc : w.take 2 = [0x3C, 0xC3]) :
    spadjaTransaction w s = s.mapDev (if keyGood w 0x5AFE then spadjaSafe else crcError) := by
  cases hkey : keyGood w 0x5AFE <;> simp [spadjaTransaction, h.1, h.2, hc, hkey]

theorem transaction_unknown
    (hc : w.take 2 ∉ ([[0x9F, 0x60], [0x05, 0xFA], [0xA5, 0x5A], [0x5A, 0xA5], [0xC3, 0x3C], [0x3C, 0xC3]] : List (List Byte))) :
    spadjaTransaction w s = s.mapDev crcError := by
  simp only [List.mem_cons, List.not_mem_nil, or_false, not_or] at hc
  obtain ⟨hid, hstatus, hread, hwrite, habort, hsafe⟩ := hc
  have keyed {c : List Byte} (key : Nat) (hc : w.take 2 ≠ c) : ¬ (decide (w.take 2 = c) && keyGood w key) = true :=
    fun hk => hc (of_decide_eq_true (Bool.and_eq_true _ _ ▸ hk).1)
  rw [spadjaTransaction, h.1, if_neg (by decide)]
  dsimp only
  rw [if_neg hid, if_neg hread, if_neg hstatus, h.2, if_neg Bool.false_ne_true, if_neg hwrite, if_neg (keyed _ habort), if_neg (keyed _ hsafe)]

/-- A read of one register (R387). -/
theorem spadjaRead_one {r : RDef} (hc : w.take 2 = [0xA5, 0x5A]) (hlen : 6 ≤ w.length) (hone : wireCount w = 1)
    (hr : Reached s.dev .spadja (wireAddr w) 4 false r (r.index (wireAddr w))) (hw : r.wide = false) :
    ∀ v, v = readReg .spadja r (r.index (wireAddr w)) (if slowBlock (wireAddr w) then s.dev.bump else s.dev) →
      exec (.spadjaRead w) s = leaves s (v.1.emit (.spadja (leBytes 4 v.2 ++ beBytes 2 (crc16 (w.take 6 ++ leBytes 4 v.2))))) := by
  rintro v rfl
  obtain ⟨-, -, hreach, hlate⟩ := hr
  have hlate : lateRead s.dev .spadja (wireAddr w) = false := hlate.resolve_left (by decide)
  rw [exec_spadjaRead, execSpadjaRead, transaction_read h hc, State.mapDev, wireRead_of_length hlen, hone, readWords_one,
    portRead_of_reach h.2 hreach hw, hlate, if_neg Bool.false_ne_true]
  rfl

/-- A read answers with four bytes for each word asked for, and their CRC (R387). -/
theorem spadjaRead_bytes (hc : w.take 2 = [0xA5, 0x5A]) (hlen : 6 ≤ w.length) :
    ∃ u bytes, exec (.spadjaRead w) s = .next u ∧ bytes.length = 4 * wireCount w ∧
      u.dev.out = s.dev.out ++ [.spadja (bytes ++ beBytes 2 (crc16 (w.take 6 ++ bytes)))] := by
  refine ⟨_, (readWords (wireAddr w) (wireCount w) s.dev).2, congrArg Host.Outcome.next (transaction_read h hc), readWords_length _ _ _, ?_⟩
  rw [State.mapDev, wireRead_of_length hlen, spadjaAnswer_out, readWords_out]

/-- A write of one word is a write of its register (R387). -/
theorem spadjaWrite_one (hc : w.take 2 = [0x5A, 0xA5]) (hone : wireCount w = 1) (hlen : w.length = 12) (hcrc : crcGood w = true) :
    exec (.spadjaWrite w) s = exec (.registerWrite .spadja (wireAddr w) 4 (BitVec.ofNat 64 (recLe w 6 4))) s := by
  have hval : (BitVec.ofNat 64 (recLe w 6 4)).toNat = recLe w 6 4 := by
    rw [BitVec.toNat_ofNat]
    exact Nat.mod_eq_of_lt ((recLe_four_lt w 6).trans (by decide))
  rw [exec_spadjaWrite, execSpadjaWrite, transaction_write h hc, wireWrite_one hone hlen hcrc, exec_registerWrite, execRegisterWrite, hval,
    cmdWrite, if_pos (show portAlive s.dev .spadja = true from h.1)]

end
end

/-! ### A write of a register without side effects -/

theorem regTable_aligned : regTable.all (fun r => decide (r.base % 4 = 0 ∧ r.stride % 4 = 0)) = true := by decide +kernel

/-- A word access that reaches a 32-bit register is at the register's own offset. -/
theorem at_index_of_reached {d : Dev} {p : Port} {off i : Nat} {wr : Bool} {r : RDef} (h : Reached d p off 4 wr r i) (hw : r.wide = false) :
    r.at (r.index off) = off := by
  have halign := List.all_eq_true.mp regTable_aligned r (mem_regTable_of_reached h)
  obtain ⟨-, -, h, -⟩ := h
  unfold reach at h
  repeat' split at h
  all_goals cases h
  next hsize _ _ _ hfind _ =>
    have hcov := List.find?_some hfind
    simp only [RDef.covers, Bool.and_eq_true] at hcov
    simp only [not_or, Bool.or_eq_true, Bool.not_eq_true', decide_eq_true_eq, ne_eq, not_not,
      hw, Bool.false_eq_true, if_false] at hsize halign hcov
    obtain ⟨⟨hlow, hhigh⟩, hin⟩ := hcov
    have hoff : (off - r.base) % 4 = 0 := by omega
    rw [RDef.at, RDef.index]
    split
    next hcount =>
      rw [hcount, Nat.sub_self, Nat.zero_mul] at hhigh
      omega
    next hcount =>
      have hlt : (off - r.base) % r.stride < 4 := hin.resolve_left hcount
      have hmod : (off - r.base) % r.stride % 4 = 0 := (Nat.mod_mod_of_dvd _ (Nat.dvd_of_mod_eq_zero halign.2)).trans hoff
      rw [Nat.div_mul_cancel (Nat.dvd_of_mod_eq_zero (by omega))]
      omega

/-- Unlocked, a write of a read-write register takes the fields of the value, and leaves the bits of no field (R15, R16). -/
theorem portWrite_plain {s : State} {off : Nat} {r : RDef} (v : Nat) (hr : Reached s.dev .spadja off 4 true r (r.index off))
    (hp : plainRegister r = true) (hw : r.wide = false) (hlock : s.dev.flag devCtrlSetupLock = false)
    (hacc : ∀ f ∈ r.fields, f.acc = .rw ∨ f.acc = .rwl) :
    ∃ x : U32, portWrite .spadja off 4 v s = { s with dev := { s.dev with regs := bankSet s.dev.regs off x } } ∧
      (∀ f ∈ r.fields, bits x.toNat f.hi f.lo = bits v f.hi f.lo) ∧
      ∀ k < 32, (∀ f ∈ r.fields, ¬ (f.lo ≤ k ∧ k ≤ f.hi)) → x.getLsbD k = (bankWord s.dev.regs off).getLsbD k := by
  have hm := mem_regTable_of_reached hr
  have hat := at_index_of_reached hr hw
  obtain ⟨hfields, -⟩ := fieldsOk_of_plain hm hp
  have hwidth (f : FDef) (hf : f ∈ r.fields) : f.hi < 32 := by simpa [hw] using (hfields f hf).2.1
  refine ⟨BitVec.ofNat 32 (writtenValue s.dev r (r.index off) (v % 2 ^ (8 * 4))), ?_, fun f hf => ?_, fun k hk hbeside => ?_⟩
  · have hcmd : portWrite .spadja off 4 v s = cmdWrite .spadja off 4 v s := (if_pos hr.1).symm
    rw [hcmd, cmdWrite_of_reached _ hr, hw, Bool.false_and, if_neg Bool.false_ne_true, writeReg_plain hp, State.mapDev,
      writeByCodes_plain hp (fun f hf => (hfields f hf).2.2), hlock, Bool.false_and, hw, hat]
    rfl
  · rw [BitVec.toNat_ofNat, bits_mod_two_pow _ _ _ _ (hwidth f hf), bits_writtenValue hm hp _ _ _ f hf, hlock, writeField,
      bits_mod_two_pow v 32 _ _ (hwidth f hf)]
    rcases hacc f hf with ha | ha <;> rw [ha]
    rfl
  · rw [BitVec.getLsbD_ofNat, decide_eq_true hk, Bool.true_and, writtenValue, writeFields,
      testBit_foldl_setBits _ _ _ _ (fun f hf => (hfields f hf).1) hbeside, hw, hat]
    rfl

/-! ### ABORT (R380) -/

theorem disableRing_disabled (d : Dev) (k : Nat) : (disableRing d k).flag sqCfgEnable k = false := by
  rw [disableRing, Dev.flag, updStopped_fld _ _ (by decide), Dev.updSq_fld, Dev.fld_setFld _ _ _ _ (by decide) (by decide)]
  rfl

/-- Every ring that has been triggered is disabled (R380). -/
theorem spadjaAbort_disables {d : Dev} (hpow : d.boot.powered = true) {k : Nat} (hk : k < 64)
    (htrig : (startAbort { scope := 3 } d).flag sqCfgTriggered k = true) : (spadjaAbort d).flag sqCfgEnable k = false := by
  have hkept : (startAbort { scope := 3 } d).flag sqCfgTriggered k = d.flag sqCfgTriggered k := by
    rw [Dev.flag, Dev.flag, (startAbort_keepsRingCfg _ d).fld (f := sqCfgTriggered) hk rfl rfl rfl]
  have hmem : k ∈ (upto 64).filter fun j => d.flag sqCfgTriggered j :=
    List.mem_filter.mpr ⟨List.mem_range.mpr hk, hkept.symm.trans htrig⟩
  rw [spadjaAbort, hpow]
  refine foldl_reaches (P := fun u => u.flag sqCfgEnable k = false) hmem (disableRing_disabled · k) (fun e j hj he => ?_) _
  obtain ⟨hj, -⟩ := List.mem_filter.mp hj
  rcases eq_or_ne j k with rfl | hne
  · exact disableRing_disabled e j
  · have hword := (disableRing_keepsRing (List.mem_range.mp hj) hne e).word (rSqCfg + k * 0x20) (by simp only [rSqCfg, rSqBase]; omega)
    rw [Dev.flag, Dev.fld_congr_word (f := sqCfgEnable) rfl hword]
    exact he

/-! ### The reset of the port (R541) -/

def supCtrlReg : RDef := ⟨0xF000, 0x0, 1, false, false, .spadja, [⟨0, 0, .rw, 0⟩]⟩

theorem regTable_spadja : regTable.all (fun r => decide (r.dom = .spadja → r = supCtrlReg)) = true := by decide +kernel

theorem findReg_supCtrl : findReg 0xF000 = some supCtrlReg := by decide +kernel

/-- A word of a bank after a reset: one that was listed, reset, or the reset value. -/
theorem bankWord_bankReset (p : Dom → Bool) (b : Bank) (o : Nat) :
    bankWord (bankReset p b) o = resetWord o ∨ ∃ v, bankWord (bankReset p b) o = wordAfterReset p o v := by
  induction b with
  | nil => exact .inl rfl
  | cons e b ih =>
    rw [bankReset, List.map_cons, List.filter_cons]
    split
    · rw [bankWord, mapGet]
      split
      next heq => exact .inr ⟨e.2, by rw [← heq]⟩
      · exact ih
    · exact ih

/-- The port's register is at its reset value after the port's reset. -/
theorem resetSpadja_supCtrl (d : Dev) : bits (bankWord (resetSpadja d).regs 0xF000).toNat 0 0 = 0 := by
  have hword := bankWord_bankReset (fun x => x = .spadja) d.regs 0xF000
  rw [show (resetSpadja d).regs = bankReset (fun x => x = .spadja) d.regs from rfl]
  rcases hword with hword | ⟨v, hword⟩
  · rw [hword, resetWord, findReg_supCtrl]
    rfl
  · rw [hword]
    exact bits_wordAfterReset (f := ⟨0, 0, .rw, 0⟩) ⟨rfl, rfl, by decide, by decide, by simp [supCtrlReg]⟩ findReg_supCtrl rfl _ _
      List.mem_cons_self rfl

/-- The reset of the port returns its own state and registers alone. -/
theorem spadjaReset_resets {s : State} (hon : s.dev.clr.on = true) :
    ∃ u, exec .spadjaReset s = .next u ∧ u.dev.sup = {} ∧ SameBesideDev s u ∧ u.dev.jobs = s.dev.jobs ∧
      ∀ r ∈ regTable, r.dom = .spadja → r.perPort = false → ∀ i < r.count, ∀ f ∈ r.fields, f.acc ≠ .rwl →
        bits (bankReg u.dev.regs r.wide (r.at i)) f.hi f.lo = f.rst := by
  have hexec : exec .spadjaReset s = .next { s with dev := resetSpadja s.dev } := by
    rw [exec_spadjaReset, execSpadjaReset, onDev, if_pos hon]
  refine ⟨_, hexec, rfl, ⟨rfl, rfl⟩, rfl, fun r hr hdom _ i hi f hf _ => ?_⟩
  obtain rfl : r = supCtrlReg := of_decide_eq_true (List.all_eq_true.mp regTable_spadja r hr) hdom
  obtain rfl : i = 0 := Nat.lt_one_iff.mp hi
  obtain rfl : f = ⟨0, 0, .rw, 0⟩ := List.mem_singleton.mp hf
  exact resetSpadja_supCtrl s.dev

/-- Settles O42: each transaction is told by its two command bytes; the CRC is the register of the division after the last byte. -/
theorem spadjaTransactionResults : Obligations.SpadjaTransactionResults := by
  unfold Obligations.SpadjaTransactionResults
  refine ⟨fun s off size hon => ⟨lowWordRead_asleep size hon, fun r i => lowWordRead_awake hon⟩, fun s w => ?_,
    rfl, crc16_concat, crc16_lt, crc16_append_own, by decide +kernel⟩
  dsimp only
  intro h
  refine ⟨fun hc => congrArg Host.Outcome.next (transaction_readId h hc), fun hc => congrArg Host.Outcome.next (transaction_status h hc),
    fun hc hlen => ⟨fun r hone hr hw => spadjaRead_one h hc hlen hone hr hw _ rfl, spadjaRead_bytes h hc hlen⟩,
    fun hc => ⟨spadjaWrite_one h hc, fun r hlen hcrc hone hr hp hw hlock hacc => ?_, fun hlen hcrc => ?_, fun hbad => ?_⟩,
    fun hc => ⟨fun hkey => ?_, fun hkey hpow => ?_⟩, fun hc => ⟨fun hkey => ?_, fun hkey hpow => ?_⟩, fun hc c hmem => ?_,
    spadjaReset_resets h.1⟩
  · obtain ⟨x, hx, hfields, hbeside⟩ := portWrite_plain (recLe w 6 4) hr hp hw hlock hacc
    refine ⟨x, ?_, hfields, hbeside⟩
    rw [exec_spadjaWrite, execSpadjaWrite, transaction_write h hc, wireWrite_one hone (by omega) hcrc, hx]
  · exact ⟨_, congrArg Host.Outcome.next (transaction_write h hc), wireWrite_of_good hlen hcrc⟩
  · exact congrArg Host.Outcome.next ((transaction_write h hc).trans (wireWrite_of_bad hbad))
  · rw [exec_spadjaAbort, execSpadjaAbort, transaction_abort h hc, hkey]
    rfl
  · refine ⟨_, congrArg Host.Outcome.next (transaction_abort h hc), fun k hk htrig => ?_⟩
    rw [hkey]
    exact spadjaAbort_disables hpow hk htrig
  · rw [exec_spadjaSafe, execSpadjaSafe, transaction_safe h hc, hkey]
    rfl
  · have hsafe : spadjaSafe s.dev = enterSafe 1 s.dev := if_pos hpow
    rw [exec_spadjaSafe, execSpadjaSafe, transaction_safe h hc, hkey, if_pos rfl, State.mapDev, hsafe]
    rfl
  · have hnext : (.next (spadjaTransaction w s) : Out) = leaves s (crcError s.dev) :=
      congrArg Host.Outcome.next (transaction_unknown h hc)
    simp only [List.mem_cons, List.not_mem_nil, or_false] at hmem
    rcases hmem with rfl | rfl | rfl | rfl | rfl | rfl <;> exact hnext

end Sys2Proof.Machine
end

section
/-! PROOFS. The state after Clearing's power-on reset (R398, R419, R491, R515, R531, R541): O3. -/

namespace Sys2Proof.Machine

/-- Settles O3: the reset lists no register word, so each reads as its reset value, which the tables give. -/
theorem resetState : Obligations.ResetState := by
  unfold Obligations.ResetState
  refine ⟨rfl, rfl, rfl, rfl, rfl, rfl, rfl, rfl, rfl, rfl, fun _ => rfl, ?_⟩
  decide +kernel

end Sys2Proof.Machine
end

section
/-! PROOFS. Device time, its reference, stamps and the pulse per second (R398 to R400, R408, R421, R521, R538, R539): O41. -/

namespace Sys2Proof.Machine

/-! ### What goes on by itself during a tick (R294, R310, R328, R370) -/

section
variable {d : Dev}

theorem paceTick_of_stopped {t : Nat} (h : d.fld tileStateState t ≠ tsRunning) : paceTick d t = d := if_neg h

theorem testsEnd_of_tested (h : ∀ x ∈ d.tiles, (d.tile x.1).untested = false) : testsEnd d = d := by
  have hnone : (d.tiles.map (·.1)).foldl tileTested d = d := by
    refine foldl_keeps_of_mem (P := (· = d)) _ rfl fun e t ht he => ?_
    obtain ⟨x, hx, rfl⟩ := List.mem_map.mp ht
    rw [he, tileTested, h x hx, if_neg Bool.false_ne_true]
  rw [testsEnd, hnone, ite_self]

theorem pump_of_idle (hpins : d.attn.pinWait = []) (hwaiting : d.attn.waiting = []) (hwalks : d.attn.walks = []) : pump d = d := by
  have hwake : wakePins d = d := if_pos hpins
  simp only [pump, hwake, hwaiting, hwalks]
  rfl

theorem countEvents_of_deaf (h : ∀ k < 64, takesEvents d k 9 = false) : countEvents d = d :=
  foldl_keeps_of_mem (P := (· = d)) (upto 64) rfl fun _ k hk he => by
    rw [he, countEvent_of_deaf (h k (List.mem_range.mp hk))]

/-- What a tick sets going where no program runs, no test ends, and nothing waits: nothing. -/
theorem tilesTick_of_quiet (hstopped : ∀ x ∈ d.tiles, d.fld tileStateState x.1 ≠ tsRunning)
    (htested : ∀ x ∈ d.tiles, (d.tile x.1).untested = false) (hpins : d.attn.pinWait = []) (hwaiting : d.attn.waiting = [])
    (hwalks : d.attn.walks = []) (hdeaf : ∀ k < 64, takesEvents d k 9 = false) : tilesTick d = d := by
  have hpaced : (d.tiles.map (·.1)).foldl paceTick d = d := by
    refine foldl_keeps_of_mem (P := (· = d)) _ rfl fun e t ht he => ?_
    obtain ⟨x, hx, rfl⟩ := List.mem_map.mp ht
    rw [he, paceTick_of_stopped (hstopped x hx)]
  rw [tilesTick, hpaced, testsEnd_of_tested htested, pump_of_idle hpins hwaiting hwalks, countEvents_of_deaf hdeaf]

/-- Three cycles pass at tile `t`. -/
def paced (d : Dev) (t : Nat) : Dev := d.updTile t fun y => { y with pace := { y.pace with cycle := y.pace.cycle + 3 } }

/-- What a tick sets going where the module's one tile runs a program: its cycles pass. -/
theorem tilesTick_of_running {t : Nat} {x : Tile} (htiles : d.tiles = [(t, x)]) (hrun : d.fld tileStateState t = tsRunning)
    (htested : x.untested = false) (hpins : d.attn.pinWait = []) (hwaiting : d.attn.waiting = []) (hwalks : d.attn.walks = [])
    (hdeaf : ∀ k < 64, takesEvents d k 9 = false) : tilesTick d = paced d t := by
  have hpaced : (d.tiles.map (·.1)).foldl paceTick d = paced d t := by
    rw [htiles]
    exact if_pos hrun
  have huntested (k : Nat) : (d.tile k).untested = false := by
    rw [Dev.tile, htiles, mapGet]
    split
    · exact htested
    · rfl
  have hpacedTested (k : Nat) : ((paced d t).tile k).untested = false := by
    rw [Dev.tile, paced, Dev.updTile, Dev.setTile, mapGet_set]
    split
    · exact huntested t
    · exact huntested k
  rw [tilesTick, hpaced, testsEnd_of_tested fun y _ => hpacedTested y.1]
  rw [pump_of_idle (by exact hpins) (by exact hwaiting) (by exact hwalks), countEvents_of_deaf (by exact hdeaf)]

theorem step_of_idle {s : State} (h : s.pending = []) : step s = leaves s (tilesTick (tick s.dev)) := by
  rw [step, h]
  rfl

end

/-! ### Commands that write a register, and what the write sets off -/

/-- The settings that a ring freezes while it is enabled (R358). -/
def ringSettings : List Nat := [rSqBase, rCqBase, rSqCfg, rCqCfg]

theorem ringFrozen_of_other {d : Dev} {base i old v : Nat} (h : base ∉ ringSettings) : ringFrozen d base i old v = false := by
  simp only [ringSettings, List.mem_cons, List.not_mem_nil, or_false, not_or] at h
  simp [ringFrozen, h]

/-- A command's write of a 32-bit register goes by the field codes; what the write sets off follows. -/
theorem cmdWrite_command {s : State} {p : Port} {off i : Nat} {r r' : RDef} (v : Nat) (h : Reached s.dev p off 4 true r i)
    (hfind : findReg off = some r') (hr : r'.WordByCodes) (hown : r'.base ∉ ownWriteRegs ++ ringSettings) :
    cmdWrite p off 4 v s = s.mapDev fun d =>
      afterWrite r'.base i (bankWord d.regs (r'.at i)).toNat (v % 2 ^ 32) (writeByCodes p r' i (v % 2 ^ 32) d) := by
  cases Option.some.inj ((findReg_of_reached h).symm.trans hfind)
  rw [List.mem_append, not_or] at hown
  rw [cmdWrite_of_reached v h, hr.word, Bool.false_and, if_neg Bool.false_ne_true,
    writeReg_of_unfrozen p hown.1 hr (ringFrozen_of_other hown.2)]
  rfl

/-- A field holds what its access code makes of the write. -/
theorem RDef.WordByCodes.fld_written {r : RDef} (hr : r.WordByCodes) (p : Port) (i v : Nat) (d : Dev) {f : Fld} (hw : f.wide = false)
    (hat : f.base + i * f.stride = r.at i) (he : r.at i ≠ rDevErrStatus) {g : FDef} (hg : g ∈ r.fields)
    (hbits : g.hi = f.hi ∧ g.lo = f.lo) : (writeByCodes p r i v d).fld f i =
      writeField (d.flag devCtrlSetupLock) false (bankWord d.regs (r.at i)).toNat v g := by
  have hlt : writtenValue d r i v < 2 ^ 32 := by
    refine List.foldlRecOn (motive := (· < 2 ^ 32)) r.fields _ ?_ fun a ha e he => ?_
    · rw [hr.word]; exact (bankWord _ _).isLt
    · exact setBits_lt _ _ _ _ _ (by have := hr.fields e he; omega) (hr.fields e he).2.1 ha
  rw [Dev.fld, bankFld, hw, hat, bankReg, if_neg Bool.false_ne_true, hr.write, setIf_word _ _ he]
  rw [bankWord_set_self, BitVec.toNat_ofNat, Nat.mod_eq_of_lt hlt, ← hbits.1, ← hbits.2, writtenValue, writeFields,
    bits_foldl_setBits _ _ _ (fun e he => (hr.fields e he).1) hr.apart g hg, Nat.mod_eq_of_lt (writeField_lt _ _ _ _ _), hr.word]
  rfl

theorem RegsWritten.time {d e : Dev} (h : RegsWritten d e) : e.time = d.time := by obtain ⟨b, rfl⟩ := h; rfl

/-! ### TIME_INC and TIME_STEP (R398, R399) -/

def timeIncReg : RDef := ⟨rTimeInc, 0x0, 1, true, false, .network, [⟨63, 0, .rw, 0x280000000⟩]⟩
def timeStepReg : RDef := ⟨rTimeStep, 0x0, 1, true, false, .network, [⟨63, 0, .rwl, 0⟩]⟩

theorem findReg_timeInc : findReg rTimeInc = some timeIncReg := by decide +kernel
theorem findReg_timeStep : findReg rTimeStep = some timeStepReg := by decide +kernel

theorem writeByCodes_timeInc (p : Port) (v : Nat) (d : Dev) :
    writeByCodes p timeIncReg 0 v d = d.setFld timeIncInc (bits v 63 0) := by
  have hchanges (old : Nat) : changes timeIncReg.fields .rwl old v = false := rfl
  simp only [writeByCodes, hchanges, Bool.and_false]
  rfl

theorem writeReg_timeInc (p : Port) (v : Nat) (s : State) : writeReg p timeIncReg 0 v s = s.mapDev fun d =>
    (writeByCodes p timeIncReg 0 v d).setFld timeIncInc (clampInc ((writeByCodes p timeIncReg 0 v d).fld timeIncInc)) := rfl

section
variable {s : State} {p : Port} {r : RDef} {v : U64}

/-- TIME_INC takes the value written, and then its own range (R398). -/
theorem exec_timeIncWrite_of_reached (h : Reached s.dev p rTimeInc 8 true r 0) :
    exec (.timeIncWrite p v) s = leaves s ((s.dev.setFld timeIncInc v.toNat).setFld timeIncInc (clampInc v.toNat)) := by
  cases Option.some.inj ((findReg_of_reached h).symm.trans findReg_timeInc)
  have hbits : bits v.toNat 63 0 = v.toNat := by
    rw [bits, Nat.pow_zero, Nat.div_one]
    exact Nat.mod_eq_of_lt v.isLt
  have hinc : (s.dev.setFld timeIncInc v.toNat).fld timeIncInc = v.toNat :=
    (Dev.fld_setFld _ _ _ _ (by decide) (by decide)).trans (Nat.mod_eq_of_lt v.isLt)
  rw [exec_timeIncWrite, execTimeIncWrite, cmdWrite_of_reached _ h, Nat.mod_eq_of_lt v.isLt, if_neg (by decide), writeReg_timeInc,
    State.mapDev, writeByCodes_timeInc, hbits, hinc]
  rfl

theorem exec_timeStepWrite_of_reached (h : Reached s.dev p rTimeStep 8 true r 0) :
    exec (.timeStepWrite p v) s = leaves s (timeStepWrite v.toNat s.dev) := by
  cases Option.some.inj ((findReg_of_reached h).symm.trans findReg_timeStep)
  rw [exec_timeStepWrite, execTimeStepWrite, cmdWrite_of_reached _ h, Nat.mod_eq_of_lt v.isLt]
  rfl

end

theorem clampInc_lt (v : Nat) : clampInc v < 2 ^ 64 := by
  simp only [clampInc, incLow, incHigh]
  omega

/-- The two's complement value of a word (R18). -/
theorem sx_toNat (v : U64) : sx 64 v.toNat = v.toInt := by
  have := v.isLt
  rw [sx, BitVec.toInt_eq_toNat_cond, Nat.mod_eq_of_lt this]
  split <;> split <;> omega

theorem timeStepWrite_of_unlocked {d : Dev} (v : U64) (h : d.flag devCtrlSetupLock = false) :
    timeStepWrite v.toNat d = { d with timeStep := d.timeStep + v.toInt } := by
  rw [timeStepWrite, h, if_neg Bool.false_ne_true, sx_toNat]

theorem timeStepWrite_of_locked {d : Dev} (v : Nat) (h : d.flag devCtrlSetupLock = true) :
    timeStepWrite v d = d.setIf (decide (v ≠ 0)) devErrStatusLockedWrite 1 := if_pos h

/-! ### The reference (R538, R539) -/

def clkCtrlReg : RDef := ⟨rClkCtrl, 0x0, 1, false, false, .setup, [⟨0, 0, .rwl, 0⟩]⟩

theorem findReg_clkCtrl : findReg rClkCtrl = some clkCtrlReg := by decide +kernel

theorem clkCtrlReg_wordByCodes : clkCtrlReg.WordByCodes := ⟨rfl, rfl, by decide, by decide, by simp [clkCtrlReg]⟩

theorem switchRef_refSel (ext : Bool) (d : Dev) : (switchRef ext d).fld clkCtrlRefSel = d.fld clkCtrlRefSel :=
  (Dev.fld_setFld_of_beside _ _ _ _ _ (by decide)).trans (Dev.fld_setFld_of_beside _ _ _ _ _ (by decide))

theorem switchRef_switching (ext : Bool) (d : Dev) : (switchRef ext d).fld clkStatusSwitching = 1 :=
  Dev.fld_setFld _ _ _ _ (by decide) (by decide)

/-- REF_SEL is written while nothing locks it: the PLL moves where the selection changes. -/
theorem refSelWrite_of_unlocked {s : State} {p : Port} {r : RDef} (sel : Bool) (h : Reached s.dev p rClkCtrl 4 true r 0)
    (hlock : s.dev.flag devCtrlSetupLock = false) : ∃ e, exec (.refSelWrite p sel) s =
      leaves s (refSelect (s.dev.fld clkCtrlRefSel) (b2n sel) e) ∧ RegsWritten s.dev e ∧ e.fld clkCtrlRefSel = b2n sel ∧
        e.fld clkStatusSwitching = s.dev.fld clkStatusSwitching := by
  have hmod : b2n sel % 2 ^ 32 = b2n sel := by cases sel <;> rfl
  have hsel : (writeByCodes p clkCtrlReg 0 (b2n sel) s.dev).fld clkCtrlRefSel = b2n sel := by
    rw [clkCtrlReg_wordByCodes.fld_written p 0 _ _ (f := clkCtrlRefSel) rfl rfl (by decide) List.mem_cons_self ⟨rfl, rfl⟩, hlock]
    cases sel <;> rfl
  refine ⟨writeByCodes p clkCtrlReg 0 (b2n sel) s.dev, ?_, clkCtrlReg_wordByCodes.regsWritten _ _ _ _, hsel, ?_⟩
  · rw [exec_refSelWrite, execRefSelWrite, cmdWrite_command _ h findReg_clkCtrl clkCtrlReg_wordByCodes (by decide), hmod]
    have hold : (bankWord s.dev.regs (clkCtrlReg.at 0)).toNat % 2 = s.dev.fld clkCtrlRefSel := by
      change _ = bits (bankWord s.dev.regs rClkCtrl).toNat 0 0
      rw [bits, Nat.pow_zero, Nat.div_one]
      rfl
    change leaves s (refSelect ((bankWord s.dev.regs (clkCtrlReg.at 0)).toNat % 2) _ _) = _
    rw [hold, hsel]
  · exact clkCtrlReg_wordByCodes.fld_ne p 0 _ _ rfl (by decide) (by decide)

/-- What a written selection changes. -/
theorem refSelect_fields (old new : Nat) (d : Dev) : (refSelect old new d).time = d.time ∧
    (refSelect old new d).fld clkCtrlRefSel = d.fld clkCtrlRefSel ∧
    (old ≠ new → (refSelect old new d).fld clkStatusSwitching = 1) ∧
    (old = new → (refSelect old new d).fld clkStatusSwitching = d.fld clkStatusSwitching) := by
  unfold refSelect
  split
  next heq => exact ⟨rfl, rfl, fun hne => absurd heq hne, fun _ => rfl⟩
  next hne => exact ⟨rfl, switchRef_refSel _ _, fun _ => switchRef_switching _ _, fun heq => absurd heq hne⟩

/-! ### Events in the log (R489, R490) -/

section
variable (d : Dev) (code : Nat) (data : List Byte)

/-- An event waits for the log: nothing but the management processor's state and the count of lost records changes. -/
theorem logEvent_beside : ∃ m b, logEvent d code data = { d with mgmt := m, regs := b } ∧
    ∀ o, o ≠ mgmtCntLogLost.base → bankWord b o = bankWord d.regs o := by
  unfold logEvent
  dsimp only
  split
  · exact ⟨_, d.regs, rfl, fun _ _ => rfl⟩
  · exact ⟨_, _, rfl, fun o ho => Dev.setFld_word_ne d mgmtCntLogLost 0 _ ho nofun⟩

theorem logEvent_word {o : Nat} (h : o ≠ mgmtCntLogLost.base) : bankWord (logEvent d code data).regs o = bankWord d.regs o := by
  obtain ⟨m, b, hlog, hword⟩ := logEvent_beside d code data
  rw [hlog]
  exact hword o h

/-- A field of a 32-bit register other than MGMT_CNT. -/
theorem logEvent_fld {f : Fld} {i : Nat} (hw : f.wide = false) (h : f.base + i * f.stride ≠ mgmtCntLogLost.base) :
    (logEvent d code data).fld f i = d.fld f i :=
  Dev.fld_congr_word hw (logEvent_word d code data h)

theorem logEvent_time : (logEvent d code data).time = d.time := by
  obtain ⟨m, b, hlog, -⟩ := logEvent_beside d code data
  rw [hlog]

theorem logEvent_boot : (logEvent d code data).boot = d.boot := by
  obtain ⟨m, b, hlog, -⟩ := logEvent_beside d code data
  rw [hlog]

end

/-- The loss of the reference, while it is the one in use (R539). -/
def refLost (d : Dev) : Dev := (switchRef false { d with boot := { d.boot with extLost := true } }).setFld clkStatusRefLost 1

theorem extrefLoss_of_selected {s : State} (hpow : s.dev.boot.powered = true) (hsel : s.dev.fld clkCtrlRefSel = 1)
    (hext : s.dev.boot.extLost = false) : exec .extrefLoss s =
      leaves s (logEvent (refLost s.dev) ((Config.freeU64 s.dev.freeCtr).toNat % 65536) []).bump := by
  have hflag : s.dev.flag clkCtrlRefSel = true := by rw [Dev.flag, hsel]; rfl
  exact congrArg (leaves s) (if_pos (by rw [hpow, hflag, hext]; rfl))

theorem extrefRestore_of_selected {s : State} (hpow : s.dev.boot.powered = true) (hsel : s.dev.fld clkCtrlRefSel = 1)
    (hext : s.dev.boot.extLost = true) : exec .extrefRestore s =
      leaves s (switchRef true { s.dev with boot := { s.dev.boot with extLost := false } }) := by
  have hflag : s.dev.flag clkCtrlRefSel = true := by rw [Dev.flag, hsel]; rfl
  exact congrArg (leaves s) (if_pos (by rw [hpow, hflag, hext]; rfl))

theorem refLost_refLost (d : Dev) : (refLost d).fld clkStatusRefLost = 1 := Dev.fld_setFld _ _ _ _ (by decide) (by decide)

theorem refLost_switching (d : Dev) : (refLost d).fld clkStatusSwitching = 1 :=
  (Dev.fld_setFld_of_beside _ _ _ _ _ (by decide)).trans (switchRef_switching _ _)

/-! ### Stamps (R408) -/

@[simp] theorem Dev.port_updPort_self (d : Dev) (n : Nat) (f : NetPort → NetPort) : (d.updPort n f).port n = f (d.port n) :=
  mapGet_set_self _ _ _ _

def tsqInfoReg : RDef :=
  ⟨rTimeTsqInfo, 0x10, 5, false, false, .network, [⟨15, 0, .rc, 0⟩, ⟨16, 16, .rc, 0⟩, ⟨31, 24, .rc, 0⟩]⟩

theorem findReg_tsqInfo : ∀ n < 5, findReg (rTimeTsqInfo + 0x10 * n) = some tsqInfoReg := by decide +kernel

/-- The stamps' registers answer the Spadja port in time (R389). -/
theorem tsqInfo_prompt : ∀ n < 5, slowBlock (rTimeTsqInfo + 0x10 * n) = false := by decide

theorem tsqRead_of_cons {d : Dev} {n t id : Nat} {l : List (Nat × Nat)} (h : (d.port n).stamps = (t, id) :: l) :
    tsqRead n d = (d.updPort n fun p => { p with stamps := l }, id % 65536 + 2 ^ 16 + 2 ^ 24 * (t / 2 ^ 24 % 256), some (t / 2 ^ 32)) := by
  rw [tsqRead, h]

theorem setPfld_net (d : Dev) (p : Port) (f : Fld) (v i : Nat) : (d.setPfld p f v i).net = d.net := by cases p <;> rfl
theorem setPfld_out (d : Dev) (p : Port) (f : Fld) (v i : Nat) : (d.setPfld p f v i).out = d.out := setPortBank_out _ _ _

theorem Dev.emit_pfld (d : Dev) (o : OutItem) (p : Port) (f : Fld) (i : Nat) : (d.emit o).pfld p f i = d.pfld p f i := by cases p <;> rfl

theorem pfld_setPfld_self (d : Dev) (p : Port) (f : Fld) (v i : Nat) (h : f.lo ≤ f.hi) (hw : f.hi < if f.wide then 64 else 32) :
    (d.setPfld p f v i).pfld p f i = v % 2 ^ (f.hi + 1 - f.lo) := by
  cases p <;> exact bankFld_set_self _ _ _ _ h hw

/-- The oldest stamp leaves the queue, and is latched for the port. -/
theorem exec_tsqInfoRead_of_reached {s : State} {p : Port} {n t id : Nat} {r : RDef} {l : List (Nat × Nat)} (hn : n < 5)
    (h : Reached s.dev p (rTimeTsqInfo + 0x10 * n) 4 false r n) (hstamps : (s.dev.port n).stamps = (t, id) :: l) :
    exec (.tsqInfoRead p n) s = leaves s (((s.dev.updPort n fun q => { q with stamps := l }).setPfld p timeTsqStampNs (t / 2 ^ 32) n).emit
      (.readData p 4 (BitVec.ofNat 64 (id % 65536 + 2 ^ 16 + 2 ^ 24 * (t / 2 ^ 24 % 256))))) := by
  have hlive : portAlive s.dev p = true := h.1
  cases Option.some.inj ((findReg_of_reached h).symm.trans (findReg_tsqInfo n hn))
  have hread : portRead p (rTimeTsqInfo + 0x10 * n) 4 s.dev = readTsqInfo s.dev p n := by
    rw [portRead_of_reached h, readerDev, tsqInfo_prompt n hn, Bool.and_false]
    rfl
  rw [exec_tsqInfoRead, execTsqInfoRead, if_pos hn, cmdRead, if_pos hlive, State.mapDev]
  dsimp only
  rw [hread, readTsqInfo, tsqRead_of_cons hstamps]
  rfl

/-! ### Synchronisation (R400, R421) -/

section
variable {d : Dev}

theorem timeSyncStep_of_due {gm : Nat} (hservo : servoOn d = true) (hwait : d.flag timeCtrlDlWaitSync = true) (hsync : d.synced = false)
    (hstepped : d.flag timeStatusStepped = false) (hmeasured : 16 ≤ d.net.measured) : timeSyncStep gm d =
      if d.now < gm then ({ d with time := gm * 2 ^ 32 } : Dev).setFld timeStatusStepped 1 else d := by
  simp [timeSyncStep, hservo, hwait, hsync, hstepped, hmeasured]

theorem timeAlign_of_due {n : Nat} (hdue : d.net.stepDue = true) (hfree : noTimedWork d = true) (hlate : d.now < n) : timeAlign n d =
    ({ d with time := n * 2 ^ 32, net := { d.net with stepDue := false } } : Dev).setFld timeStatusStepped 1 := by
  simp [timeAlign, hdue, hfree, hlate]

end

/-- The grandmaster's messages have stopped: HOLDOVER, and the measurements start again. -/
def heldOver (d : Dev) : Dev :=
  let d := (d.setFld timeStatusSynced 0).setFld timeStatusHoldover 1
  { d with net := { d.net with inRange := 0, measured := 0 } }

theorem syncTimeout_of_servoOn {s : State} (h : servoOn s.dev = true) : exec .syncTimeout s = leaves s (heldOver s.dev) := by
  simp only [exec_syncTimeout, execSyncTimeout, onDev_next, h, Bool.not_true, Bool.false_eq_true, if_false]
  rfl

theorem heldOver_fields (d : Dev) : (heldOver d).fld timeStatusSynced = 0 ∧ (heldOver d).fld timeStatusHoldover = 1 ∧
    (heldOver d).fld timeIncInc = d.fld timeIncInc ∧ (heldOver d).time = d.time := by
  refine ⟨?_, Dev.fld_setFld (d.setFld timeStatusSynced 0) timeStatusHoldover 0 1 (by decide) (by decide), ?_, rfl⟩
  · exact (Dev.fld_setFld_of_beside (d.setFld timeStatusSynced 0) timeStatusHoldover timeStatusSynced 0 1 (by decide)).trans
      (Dev.fld_setFld _ _ _ _ (by decide) (by decide))
  · exact (Dev.fld_setFld_of_beside (d.setFld timeStatusSynced 0) timeStatusHoldover timeIncInc 0 1 (by decide)).trans
      (Dev.fld_setFld_of_beside _ _ _ _ _ (by decide))

/-- Settles O41: a tick is its own parts one after the other; each command's effect is said by an equation of its function. -/
theorem timeResults : Obligations.TimeResults := by
  unfold Obligations.TimeResults
  intro s
  dsimp only
  refine ⟨fun hidle => ?tick, fun p v ⟨r, hr⟩ => ?increment, fun p v ⟨r, hr⟩ => ?adjustment, fun p sel ⟨r, hr⟩ hlock => ?select, rfl,
    fun hpow hsel => ⟨fun hext => ?lost, fun hext => ?restored⟩, fun gm hservo hwait hsync hstepped hmeasured => ?syncStep,
    fun hservo => ⟨_, syncTimeout_of_servoOn hservo, heldOver_fields _⟩, fun n hdue hfree hlate => ?align, fun stamp hpow => ?edge,
    fun hpow hlow hsec => ?rise, rfl, fun p n hn ⟨r, hr⟩ t id l hstamps => ?stamp⟩
  case tick =>
    have hstep := step_of_idle hidle
    refine ⟨hstep, fun htiles hpins hwaiting hwalks hdeaf => ?_, fun t x htiles hrun htested hpins hwaiting hwalks hdeaf => ?_⟩
    · exact hstep.trans (congrArg (leaves s) (tilesTick_of_quiet (d := tick s.dev) (fun x hx => (htiles x hx).1)
        (fun x hx => (htiles x hx).2) hpins hwaiting hwalks hdeaf))
    · exact hstep.trans (congrArg (leaves s) (tilesTick_of_running (d := tick s.dev) htiles hrun htested hpins hwaiting hwalks hdeaf))
  case increment =>
    refine ⟨_, exec_timeIncWrite_of_reached hr, ?_, rfl⟩
    exact (Dev.fld_setFld _ timeIncInc 0 _ (by decide) (by decide)).trans (Nat.mod_eq_of_lt (clampInc_lt _))
  case adjustment =>
    rw [exec_timeStepWrite_of_reached hr]
    refine ⟨fun hlock => by rw [timeStepWrite_of_unlocked v hlock], fun hlock => ⟨_, rfl, ?_, ?_⟩⟩
    all_goals
      rw [timeStepWrite_of_locked _ hlock, Dev.setIf]
      split <;> rfl
  case select =>
    obtain ⟨e, hexec, he, hsel, hswitching⟩ := refSelWrite_of_unlocked sel hr hlock
    obtain ⟨htime, hkept, hmoves, hstays⟩ := refSelect_fields (s.dev.fld clkCtrlRefSel) (b2n sel) e
    exact ⟨_, hexec, hkept.trans hsel, htime.trans he.time, hmoves, fun heq => (hstays heq).trans hswitching⟩
  case lost =>
    refine ⟨_, extrefLoss_of_selected hpow hsel hext, ?_, ?_, ?_, ?_⟩
    · exact (logEvent_fld _ _ _ rfl (by decide)).trans (refLost_refLost _)
    · exact (logEvent_fld _ _ _ rfl (by decide)).trans (refLost_switching _)
    · exact congrArg Boot.extLost (logEvent_boot _ _ _)
    · exact logEvent_time _ _ _
  case restored => exact ⟨_, extrefRestore_of_selected hpow hsel hext, switchRef_switching _ _, rfl, rfl⟩
  case syncStep =>
    have hdue := timeSyncStep_of_due (gm := gm.toNat) hservo hwait hsync hstepped hmeasured
    exact ⟨fun hlate => congrArg (leaves s) (hdue.trans (if_pos hlate)), fun hearly => congrArg (leaves s) (hdue.trans (if_neg hearly.not_gt))⟩
  case align =>
    exact ⟨_, congrArg (leaves s) (timeAlign_of_due hdue hfree hlate), rfl, Dev.fld_setFld _ _ _ _ (by decide) (by decide), rfl⟩
  case edge => exact congrArg (leaves s) (if_pos hpow)
  case rise =>
    have hdue : (decide (s.dev.ppsSecond < s.dev.now / 10 ^ 9) && !s.dev.ppsHigh && s.dev.boot.powered) = true := by
      rw [decide_eq_true hsec, hlow, hpow]
      rfl
    exact congrArg (leaves s) (if_pos hdue)
  case stamp =>
    refine ⟨_, exec_tsqInfoRead_of_reached hn hr hstamps, ?_, ?_, ?_⟩
    · have hport : ((s.dev.updPort n fun q => { q with stamps := l }).setPfld p timeTsqStampNs (t / 2 ^ 32) n).port n =
          (s.dev.updPort n fun q => { q with stamps := l }).port n :=
        congrArg (fun x : Net => mapGet ({} : NetPort) x.ports n) (setPfld_net _ _ _ _ _)
      exact congrArg NetPort.stamps (hport.trans (Dev.port_updPort_self _ _ _))
    · exact congrArg (· ++ _) (setPfld_out _ _ _ _ _)
    · rw [Dev.emit_pfld]
      exact pfld_setPfld_self _ _ _ _ _ (by decide) (by decide)

end Sys2Proof.Machine
end

section
/-! PROOFS. The transmit buffers of the CAN controllers (R414). -/

namespace Sys2Proof.Machine

/-! ### Words of bytes (R18) -/

/-- The little-endian bytes of a number that bytes make are those bytes. -/
theorem leBytes_leNat (l : List Byte) : leBytes l.length (leNat l) = l := by
  induction l with
  | nil => rfl
  | cons b l ih =>
    have hb := b.isLt
    have hhead : BitVec.ofNat 8 (b.toNat + 256 * leNat l) = b := by
      rw [BitVec.toNat_eq, BitVec.toNat_ofNat]
      omega
    have htail : (b.toNat + 256 * leNat l) / 256 = leNat l := by omega
    rw [List.length_cons, leNat, leBytes, hhead, htail, ih]

/-- Bytes cut into words of four and put together again. -/
theorem flatMap_words (n : Nat) (l : List Byte) (h : l.length = 4 * n) :
    (upto n).flatMap (fun i => leBytes 4 (recLe l (4 * i) 4)) = l := by
  induction n generalizing l with
  | zero => exact (List.length_eq_zero_iff.mp h).symm
  | succ n ih =>
    have hfirst : leBytes 4 (recLe l 0 4) = l.take 4 := by
      have hlen : (l.take 4).length = 4 := by rw [List.length_take]; omega
      have hword := leBytes_leNat (l.take 4)
      rw [hlen] at hword
      exact hword
    have hshift (i : Nat) : recLe l (4 * (i + 1)) 4 = recLe (l.drop 4) (4 * i) 4 := by
      rw [recLe, recLe, List.drop_drop]
      congr 3
      omega
    rw [upto, List.range_succ_eq_map, List.flatMap_cons, List.flatMap_map]
    simp only [hshift]
    have hrest := ih (l.drop 4) (by rw [List.length_drop]; omega)
    rw [upto] at hrest
    rw [hrest, Nat.mul_zero, hfirst, List.take_append_drop]

/-- One byte of a record. -/
theorem recLe_byte (l : List Byte) (o : Nat) : recLe l o 1 = (l.getD o 0).toNat := by
  rw [recLe, List.getD_eq_getElem?_getD, ← List.head?_drop]
  cases l.drop o with
  | nil => rfl
  | cons b r => rfl

/-! ### The words of a buffer -/

section
variable {d e : Dev} {c b : Nat}

/-- The buffers stand in their own block. -/
theorem canBufBytes_congr (h : ∀ o, rCanTxbuf0 ≤ o → bankWord e.regs o = bankWord d.regs o) : canBufBytes e c b = canBufBytes d c b := by
  have hword (i : Nat) : bankWord e.regs (canBuf c b + 4 * i) = bankWord d.regs (canBuf c b + 4 * i) :=
    h _ (by simp only [canBuf]; omega)
  simp only [canBufBytes, hword]

theorem canPending_congr (h : canBufBytes e c b = canBufBytes d c b) : canPending e c b = canPending d c b := by
  rw [canPending, canPending, h]

theorem flatMap_leBytes_length (g : Nat → Nat) (n : Nat) : ((upto n).flatMap fun i => leBytes 4 (g i)).length = 4 * n := by
  rw [upto, List.length_flatMap]
  simp [leBytes_length]
  omega

theorem canBufBytes_length : (canBufBytes d c b).length = 80 := flatMap_leBytes_length _ 20

/-- A row of words written one after the other. -/
theorem bankWord_foldl_words (r : Bank) (o n : Nat) (g : Nat → U32) (p : Nat) :
    bankWord ((upto n).foldl (fun r i => bankSet r (o + 4 * i) (g i)) r) p =
      if o ≤ p ∧ p < o + 4 * n ∧ (p - o) % 4 = 0 then g ((p - o) / 4) else bankWord r p := by
  rw [upto]
  induction n with
  | zero =>
    rw [if_neg (by omega)]
    rfl
  | succ n ih =>
    rw [List.range_succ, List.foldl_append, List.foldl_cons, List.foldl_nil]
    by_cases hp : p = o + 4 * n
    · subst hp
      rw [bankWord_set_self, if_pos (by omega), show (o + 4 * n - o) / 4 = n by omega]
    · rw [bankWord_set_ne _ _ hp, ih]
      refine if_congr ?_ rfl rfl
      omega

theorem setCanBuf_word (l : List Byte) (o : Nat) : bankWord (setCanBuf d c b l).regs o =
    if canBuf c b ≤ o ∧ o < canBuf c b + 80 ∧ (o - canBuf c b) % 4 = 0 then BitVec.ofNat 32 (recLe l (4 * ((o - canBuf c b) / 4)) 4)
    else bankWord d.regs o :=
  bankWord_foldl_words d.regs (canBuf c b) 20 (fun i => BitVec.ofNat 32 (recLe l (4 * i) 4)) o

theorem setCanBuf_word_ne (l : List Byte) {o : Nat} (h : o < rCanTxbuf0) : bankWord (setCanBuf d c b l).regs o = bankWord d.regs o := by
  rw [setCanBuf_word, if_neg]
  simp only [canBuf]
  omega

/-- A buffer written is read back. -/
theorem canBufBytes_setCanBuf {l : List Byte} (h : l.length = 80) : canBufBytes (setCanBuf d c b l) c b = l := by
  have hword : ∀ i ∈ upto 20, leBytes 4 (bankWord (setCanBuf d c b l).regs (canBuf c b + 4 * i)).toNat = leBytes 4 (recLe l (4 * i) 4) := by
    intro i hi
    have hi := List.mem_range.mp hi
    rw [setCanBuf_word, if_pos (by omega), Nat.add_sub_cancel_left, Nat.mul_div_cancel_left _ (by decide), BitVec.toNat_ofNat,
      Nat.mod_eq_of_lt (recLe_four_lt _ _)]
  exact (List.flatMap_congr hword).trans (flatMap_words 20 l h)

/-- No other buffer changes. -/
theorem canBufBytes_setCanBuf_ne (l : List Byte) {k : Nat} (hne : k ≠ b) :
    canBufBytes (setCanBuf d c b l) c k = canBufBytes d c k := by
  have hword : ∀ i ∈ upto 20, leBytes 4 (bankWord (setCanBuf d c b l).regs (canBuf c k + 4 * i)).toNat =
      leBytes 4 (bankWord d.regs (canBuf c k + 4 * i)).toNat := by
    intro i hi
    have hi := List.mem_range.mp hi
    rw [setCanBuf_word, if_neg (by simp only [canBuf]; omega)]
  exact List.flatMap_congr hword

/-! ### PENDING -/

/-- The bytes of a buffer with PENDING written. -/
def withPending (l : List Byte) (v : Bool) : List Byte := listSet l 5 (BitVec.ofNat 8 (recLe l 5 1 / 2 * 2 + b2n v))

theorem withPending_length (l : List Byte) (v : Bool) : (withPending l v).length = l.length := by
  rw [withPending, listSet_eq_set, List.length_set]

/-- Every byte but the one that holds PENDING. -/
theorem withPending_getElem? (l : List Byte) (v : Bool) {i : Nat} (h : i ≠ 5) : (withPending l v)[i]? = l[i]? := by
  rw [withPending, listSet_eq_set, List.getElem?_set_ne (Ne.symm h)]

theorem bit_withPending {l : List Byte} (h : 5 < l.length) (v : Bool) : bit (recLe (withPending l v) 5 1) 0 = v := by
  rw [withPending, listSet_eq_set, recLe_byte, recLe_byte]
  have hset : (l.set 5 (BitVec.ofNat 8 ((l.getD 5 0).toNat / 2 * 2 + b2n v))).getD 5 0 =
      BitVec.ofNat 8 ((l.getD 5 0).toNat / 2 * 2 + b2n v) := by
    rw [List.getD_eq_getElem?_getD, List.getElem?_set_self h]
    rfl
  rw [hset, BitVec.toNat_ofNat]
  have hbyte := (l.getD 5 0).isLt
  cases v <;> simp only [bit, b2n, decide_eq_true_eq, decide_eq_false_iff_not, Bool.false_eq_true, if_true, if_false] <;> omega

theorem canBufBytes_setCanPending (v : Bool) : canBufBytes (setCanPending d c b v) c b = withPending (canBufBytes d c b) v :=
  canBufBytes_setCanBuf ((withPending_length _ _).trans canBufBytes_length)

theorem canPending_setCanPending (v : Bool) : canPending (setCanPending d c b v) c b = v := by
  rw [canPending, canBufBytes_setCanPending]
  exact bit_withPending (by rw [canBufBytes_length]; decide) v

end

end Sys2Proof.Machine
end

section
/-! PROOFS. The mailbox (R513, R514), and the slots that updates write (R491, R499). -/

namespace Sys2Proof.Machine

/-! ### A port's registers (R152) -/

theorem pfld_setPfld_of_beside (d : Dev) (p : Port) (f g : Fld) (v : Nat) (h : f.beside g = true) :
    (d.setPfld p f v).pfld p g = d.pfld p g := by
  cases p <;> exact Dev.fld_setFld_of_beside { d with regs := _ } f g 0 v h

/-- A field of a port's 32-bit register changes its own word of the port's registers. -/
theorem setPfld_word_ne (d : Dev) (p : Port) (f : Fld) (v : Nat) {o : Nat} (hw : f.wide = false) (hs : f.stride = 0) (h : o ≠ f.base) :
    bankWord (portBank (d.setPfld p f v) p) o = bankWord (portBank d p) o ∧ bankWord (d.setPfld p f v).regs o = bankWord d.regs o := by
  have hne : o ≠ f.base + 0 * f.stride := by rwa [hs]
  have hbank (b : Bank) : bankWord (bankFldSet b f 0 v) o = bankWord b o :=
    Dev.setFld_word_ne { d with regs := b } f 0 v hne fun hwide => absurd (hw.symm.trans hwide) nofun
  cases p
  · exact ⟨hbank _, hbank _⟩
  · exact ⟨hbank _, rfl⟩

/-- Nothing but a port's registers is written. -/
def PortWritten (p : Port) (d e : Dev) : Prop := ∃ b, e = setPortBank d p b

section
variable {p : Port} {d e g : Dev}

theorem PortWritten.trans (h : PortWritten p d e) (h' : PortWritten p e g) : PortWritten p d g := by
  obtain ⟨b, rfl⟩ := h
  obtain ⟨c, rfl⟩ := h'
  exact ⟨c, by cases p <;> rfl⟩

theorem setPfld_portWritten (d : Dev) (p : Port) (f : Fld) (v : Nat) : PortWritten p d (d.setPfld p f v) := ⟨_, rfl⟩

theorem PortWritten.mgmt (h : PortWritten p d e) : e.mgmt = d.mgmt := by obtain ⟨b, rfl⟩ := h; cases p <;> rfl
theorem PortWritten.boot (h : PortWritten p d e) : e.boot = d.boot := by obtain ⟨b, rfl⟩ := h; cases p <;> rfl
theorem PortWritten.net (h : PortWritten p d e) : e.net = d.net := by obtain ⟨b, rfl⟩ := h; cases p <;> rfl
theorem PortWritten.images (h : PortWritten p d e) : e.images = d.images := by obtain ⟨b, rfl⟩ := h; cases p <;> rfl

end

/-! ### A command is taken (R513) -/

/-- The device once the command of port `p` has been taken: GO has gone, BUSY is set. -/
def mboxTaken (d : Dev) (p : Port) : Dev := ((d.setPfld p mboxCtrlGo 1).setPfld p mboxCtrlGo 0).setPfld p mboxStatusBusy 1

section
variable (d : Dev) (p : Port)

theorem mboxTaken_portWritten : PortWritten p d (mboxTaken d p) :=
  (setPfld_portWritten _ _ _ _).trans ((setPfld_portWritten _ _ _ _).trans (setPfld_portWritten _ _ _ _))

/-- Every word but those of MBOX_CTRL and MBOX_STATUS is as before. -/
theorem mboxTaken_word {o : Nat} (hctrl : o ≠ rMboxCtrl) (hstatus : o ≠ rMboxStatus) :
    bankWord (portBank (mboxTaken d p) p) o = bankWord (portBank d p) o ∧ bankWord (mboxTaken d p).regs o = bankWord d.regs o := by
  obtain ⟨ha, ha'⟩ := setPfld_word_ne d p mboxCtrlGo 1 rfl rfl hctrl
  obtain ⟨hb, hb'⟩ := setPfld_word_ne (d.setPfld p mboxCtrlGo 1) p mboxCtrlGo 0 rfl rfl hctrl
  obtain ⟨hc, hc'⟩ := setPfld_word_ne ((d.setPfld p mboxCtrlGo 1).setPfld p mboxCtrlGo 0) p mboxStatusBusy 1 rfl rfl hstatus
  exact ⟨hc.trans (hb.trans ha), hc'.trans (hb'.trans ha')⟩

theorem mboxTaken_fld {f : Fld} {i : Nat} (hw : f.wide = false) (hctrl : f.base + i * f.stride ≠ rMboxCtrl)
    (hstatus : f.base + i * f.stride ≠ rMboxStatus) : (mboxTaken d p).fld f i = d.fld f i :=
  Dev.fld_congr_word hw (mboxTaken_word d p hctrl hstatus).2

theorem mboxTaken_pfld {f : Fld} (hw : f.wide = false) (hctrl : f.base + 0 * f.stride ≠ rMboxCtrl)
    (hstatus : f.base + 0 * f.stride ≠ rMboxStatus) : (mboxTaken d p).pfld p f = d.pfld p f :=
  Dev.fld_congr_word (d := { d with regs := portBank d p }) (e := { d with regs := portBank (mboxTaken d p) p }) hw
    (mboxTaken_word d p hctrl hstatus).1

theorem mboxTaken_go : (mboxTaken d p).pfld p mboxCtrlGo = 0 :=
  (pfld_setPfld_of_beside _ p mboxStatusBusy mboxCtrlGo 1 (by decide)).trans (pfld_setPfld_self _ p mboxCtrlGo 0 0 (by decide) (by decide))

theorem mboxTaken_request : mboxRequest (mboxTaken d p) p = mboxRequest d p := by
  have hword (i : Nat) : bankWord (portBank (mboxTaken d p) p) (rMboxReq + 4 * i) = bankWord (portBank d p) (rMboxReq + 4 * i) :=
    (mboxTaken_word d p (by simp only [rMboxReq, rMboxCtrl]; omega) (by simp only [rMboxReq, rMboxStatus]; omega)).1
  rw [mboxRequest, mboxRequest, mboxTaken_pfld d p rfl (by decide) (by decide), requestBytes, requestBytes]
  simp only [hword]

end

/-! ### A command finishes (R513) -/

/-- What a status event may change is the vectors' pending bits. -/
theorem hostEvent_word (d : Dev) {o : Nat} (h : rMsixPba + 8 ≤ o) : bankWord (hostEvent d).regs o = bankWord d.regs o := by
  have hvector := bits_lt (bankWord d.regs rHostqCtrl).toNat 5 0
  unfold hostEvent signalVector
  split
  · split
    · refine bankWord_set_ne _ _ ?_
      have hv : d.fld hostqCtrlDevVector < 2 ^ 6 := hvector
      omega
    · split <;> rfl
  · rfl

/-- Nothing but registers and what the module sends is written. -/
def RegsAndOut (d e : Dev) : Prop := ∃ b o, e = { d with regs := b, out := o }

theorem hostEvent_regsAndOut (d : Dev) : RegsAndOut d (hostEvent d) := by
  unfold hostEvent signalVector
  split
  · split
    · exact ⟨_, _, rfl⟩
    · split
      · exact ⟨d.regs, _, rfl⟩
      · exact ⟨d.regs, d.out, rfl⟩
  · exact ⟨d.regs, d.out, rfl⟩

/-- The status of port `p` with a result code and no response. -/
def mboxDone (d : Dev) (p : Port) (code : Nat) : Dev :=
  (((d.setPfld p mboxStatusBusy 0).setPfld p mboxStatusDone 1).setPfld p mboxStatusResult code).setPfld p mboxStatusRespLen 0

section
variable (d : Dev) (p : Port) (code : Nat)

theorem mboxDone_portWritten : PortWritten p d (mboxDone d p code) :=
  (setPfld_portWritten _ _ _ _).trans ((setPfld_portWritten _ _ _ _).trans ((setPfld_portWritten _ _ _ _).trans (setPfld_portWritten _ _ _ _)))

theorem mboxDone_word {o : Nat} (h : o ≠ rMboxStatus) :
    bankWord (portBank (mboxDone d p code) p) o = bankWord (portBank d p) o ∧ bankWord (mboxDone d p code).regs o = bankWord d.regs o := by
  have hstep (e : Dev) (f : Fld) (v : Nat) (hw : f.wide = false) (hs : f.stride = 0) (hb : f.base = rMboxStatus) :=
    setPfld_word_ne e p f v hw hs (fun heq => h (heq.trans hb))
  obtain ⟨ha, ha'⟩ := hstep d mboxStatusBusy 0 rfl rfl rfl
  obtain ⟨hb, hb'⟩ := hstep (d.setPfld p mboxStatusBusy 0) mboxStatusDone 1 rfl rfl rfl
  obtain ⟨hc, hc'⟩ := hstep ((d.setPfld p mboxStatusBusy 0).setPfld p mboxStatusDone 1) mboxStatusResult code rfl rfl rfl
  obtain ⟨he, he'⟩ := hstep (((d.setPfld p mboxStatusBusy 0).setPfld p mboxStatusDone 1).setPfld p mboxStatusResult code)
    mboxStatusRespLen 0 rfl rfl rfl
  exact ⟨he.trans (hc.trans (hb.trans ha)), he'.trans (hc'.trans (hb'.trans ha'))⟩

theorem mboxDone_status (hcode : code < 256) : (mboxDone d p code).pfld p mboxStatusBusy = 0 ∧ (mboxDone d p code).pfld p mboxStatusDone = 1 ∧
    (mboxDone d p code).pfld p mboxStatusResult = code ∧ (mboxDone d p code).pfld p mboxStatusRespLen = 0 := by
  refine ⟨?_, ?_, ?_, pfld_setPfld_self _ _ mboxStatusRespLen 0 0 (by decide) (by decide)⟩
  · exact (pfld_setPfld_of_beside _ _ mboxStatusRespLen mboxStatusBusy _ (by decide)).trans
      ((pfld_setPfld_of_beside _ _ mboxStatusResult mboxStatusBusy _ (by decide)).trans
        ((pfld_setPfld_of_beside _ _ mboxStatusDone mboxStatusBusy _ (by decide)).trans
          (pfld_setPfld_self _ _ mboxStatusBusy 0 0 (by decide) (by decide))))
  · exact (pfld_setPfld_of_beside _ _ mboxStatusRespLen mboxStatusDone _ (by decide)).trans
      ((pfld_setPfld_of_beside _ _ mboxStatusResult mboxStatusDone _ (by decide)).trans
        (pfld_setPfld_self _ _ mboxStatusDone 1 0 (by decide) (by decide)))
  · exact (pfld_setPfld_of_beside _ _ mboxStatusRespLen mboxStatusResult _ (by decide)).trans
      ((pfld_setPfld_self _ _ mboxStatusResult code 0 (by decide) (by decide)).trans (Nat.mod_eq_of_lt hcode))

theorem mboxDone_go : (mboxDone d p code).pfld p mboxCtrlGo = d.pfld p mboxCtrlGo :=
  Dev.fld_congr_word (d := { d with regs := portBank d p }) (e := { d with regs := portBank (mboxDone d p code) p }) rfl
    (mboxDone_word d p code (o := rMboxCtrl) (by decide)).1

end

/-- What a command's end leaves as the command left it. -/
structure MboxFinished (p : Port) (code : Nat) (u w : State) : Prop where
  answered : Answered w.dev p code []
  nv : w.nv = u.nv
  mgmt : w.dev.mgmt = u.dev.mgmt
  boot : w.dev.boot = u.dev.boot
  net : w.dev.net = u.dev.net
  word : ∀ o, rMsixPba + 8 ≤ o → o ≠ rMboxStatus → bankWord w.dev.regs o = bankWord u.dev.regs o

theorem finishMbox_of_empty (p : Port) (code : Nat) (u : State) : finishMbox p (code, []) u =
    { u with dev := match p with
      | .host => hostEvent (mboxDone u.dev p code)
      | .spadja => mboxDone u.dev p code } := by
  have hnone : setResponse u.dev p [] = u.dev := by cases p <;> rfl
  cases p <;> simp only [finishMbox, hnone] <;> rfl

/-- A command without a response finishes. -/
theorem finishMbox_finished {p : Port} {code : Nat} {u : State} (hcode : code < 256) (hgo : u.dev.pfld p mboxCtrlGo = 0)
    (hmbox : u.dev.mgmt.mbox = []) : MboxFinished p code u (finishMbox p (code, []) u) := by
  obtain ⟨hbusy, hdone, hresult, hlen⟩ := mboxDone_status u.dev p code hcode
  have hgo := (mboxDone_go u.dev p code).trans hgo
  have hwritten := mboxDone_portWritten u.dev p code
  have hmbox : (mboxDone u.dev p code).mgmt.mbox = [] := (congrArg Mgmt.mbox hwritten.mgmt).trans hmbox
  have hword (o : Nat) (ho : o ≠ rMboxStatus) := (mboxDone_word u.dev p code ho).2
  rw [finishMbox_of_empty]
  cases p with
  | spadja => exact ⟨⟨hgo, hbusy, hdone, hresult, hlen, rfl, hmbox⟩, rfl, hwritten.mgmt, hwritten.boot, hwritten.net, fun o _ => hword o⟩
  | host =>
    have hsame {f : Fld} (hw : f.wide = false) (hb : rMsixPba + 8 ≤ f.base + 0 * f.stride) :
        (hostEvent (mboxDone u.dev .host code)).fld f = (mboxDone u.dev .host code).fld f := Dev.fld_congr_word hw (hostEvent_word _ hb)
    have hhigh (o : Nat) (hpba : rMsixPba + 8 ≤ o) (ho : o ≠ rMboxStatus) :
        bankWord (hostEvent (mboxDone u.dev .host code)).regs o = bankWord u.dev.regs o := (hostEvent_word _ hpba).trans (hword o ho)
    obtain ⟨b, l, hevent⟩ := hostEvent_regsAndOut (mboxDone u.dev .host code)
    have hmgmt : (hostEvent (mboxDone u.dev .host code)).mgmt = (mboxDone u.dev .host code).mgmt := by rw [hevent]
    have hboot : (hostEvent (mboxDone u.dev .host code)).boot = (mboxDone u.dev .host code).boot := by rw [hevent]
    have hnet : (hostEvent (mboxDone u.dev .host code)).net = (mboxDone u.dev .host code).net := by rw [hevent]
    exact ⟨⟨(hsame rfl (by decide)).trans hgo, (hsame rfl (by decide)).trans hbusy, (hsame rfl (by decide)).trans hdone,
      (hsame rfl (by decide)).trans hresult, (hsame rfl (by decide)).trans hlen, rfl, (congrArg Mgmt.mbox hmgmt).trans hmbox⟩,
      rfl, hmgmt.trans hwritten.mgmt, hboot.trans hwritten.boot, hnet.trans hwritten.net, hhigh⟩

/-! ### A command runs (R513) -/

section
variable {s u : State} {p : Port} {op : Nat}

/-- The state on which port `p`'s command runs. -/
def mboxState (p : Port) (s : State) : State := { s with dev := mboxTaken s.dev p }

theorem mboxState_mgmt : (mboxState p s).dev.mgmt = s.dev.mgmt := (mboxTaken_portWritten s.dev p).mgmt

/-- The one command that waits is taken, and runs. -/
theorem mboxStep_of_one {e : Bool} {r : Nat × List Byte} {t : State} (hmbox : s.dev.mgmt.mbox = [(p, e)]) (hfw : fwReady s.dev = true)
    (hop : mboxOp s.dev p = op) (hguard : guardHeld ((s.dev.setPfld p mboxCtrlGo 0).setPfld p mboxStatusBusy 1) = false)
    (ht : t = { s with dev := { (s.dev.setPfld p mboxCtrlGo 0).setPfld p mboxStatusBusy 1 with
      mgmt := { ((s.dev.setPfld p mboxCtrlGo 0).setPfld p mboxStatusBusy 1).mgmt with mbox := [] } } })
    (hrun : runMbox op (mboxRequest t.dev p) e t = (u, some r)) : mboxStep s = finishMbox p r u := by
  subst ht
  simp only [mboxStep, hmbox, hfw, hop, hguard, hrun, Bool.not_true, Bool.false_and, Bool.and_false, Bool.false_eq_true, if_false]

/-- A command that the channel holds, and that nothing keeps waiting, runs and finishes at once. -/
theorem mailbox_of_ready {e : Bool} {sel : Dev → Bool} {r : Nat × List Byte} (h : MailboxReady s p op) (hsel : sel s.dev = true)
    (hrun : runMbox op (mboxRequest s.dev p) e (mboxState p s) = (u, some r))
    (hmbox : (finishMbox p r u).dev.mgmt.mbox = []) : mailbox p e sel s = finishMbox p r u := by
  obtain ⟨halive, hawake, havail, hempty, hfw, hrom, hguard, hop⟩ := h
  set d : Dev := { s.dev with mgmt := { s.dev.mgmt with mbox := [(p, e)] } } with hd
  have hgo : mboxGo p e s = pumpMbox { s with dev := d.setPfld p mboxCtrlGo 1 } := by
    simp only [mboxGo, hempty, List.any_nil, Bool.false_eq_true, if_false, List.nil_append, hd]
  have hword {o : Nat} (ho : o ≠ rMboxCtrl) := setPfld_word_ne d p mboxCtrlGo 1 rfl rfl ho
  have hkept : ({ s.dev.mgmt with mbox := [] } : Mgmt) = s.dev.mgmt := by rw [← hempty]
  have hstate : mboxState p s = { s with dev := { mboxTaken d p with mgmt := { (mboxTaken d p).mgmt with mbox := [] } } } := by
    have hmgmt : (mboxTaken d p).mgmt = d.mgmt := (mboxTaken_portWritten d p).mgmt
    rw [mboxState, hmgmt, hd, hkept]
    cases p <;> rfl
  have hfirst : mboxStep { s with dev := d.setPfld p mboxCtrlGo 1 } = finishMbox p r u := by
    refine mboxStep_of_one (op := op) (t := mboxState p s) (congrArg Mgmt.mbox (setPfld_portWritten d p _ _).mgmt) ?_ ?_ ?_ hstate ?_
    · rw [fwReady, Dev.flag, Dev.fld_congr_word (d := d) rfl (hword (by decide)).2]
      exact hfw
    · have hopcode : (d.setPfld p mboxCtrlGo 1).pfld p mboxCmdOpcode = d.pfld p mboxCmdOpcode := Dev.fld_congr_word
        (d := { d with regs := portBank d p }) (e := { d with regs := portBank (d.setPfld p mboxCtrlGo 1) p }) rfl
        (hword (o := rMboxCmd) (by decide)).1
      exact hopcode.trans (by cases p <;> exact hop)
    · rw [guardHeld, Dev.flag]
      exact (congrArg (fun n => decide (n ≠ 0)) (mboxTaken_fld d p (f := clrGuardHeld) rfl (by decide) (by decide))).trans hguard
    · rw [mboxState, mboxTaken_request]
      exact hrun
  have hsecond : mboxStep (finishMbox p r u) = finishMbox p r u := by rw [mboxStep, hmbox]
  rw [mailbox, halive, hawake, havail, hsel, if_pos (by rfl), hgo, pumpMbox, hfirst, hsecond]

/-- The port's channel is as it was: GO, and the commands that wait. -/
def ChannelKept (p : Port) (d e : Dev) : Prop :=
  bankWord (portBank e p) rMboxCtrl = bankWord (portBank d p) rMboxCtrl ∧ e.mgmt.mbox = d.mgmt.mbox

/-- A command that the channel holds runs at once, and its answer stands. -/
theorem mailbox_answers {e : Bool} {sel : Dev → Bool} {code : Nat} (h : MailboxReady s p op) (hsel : sel s.dev = true)
    (hcode : code < 256) (hrun : runMbox op (mboxRequest s.dev p) e (mboxState p s) = answer u code)
    (hkept : ChannelKept p (mboxState p s).dev u.dev) : MboxFinished p code u (mailbox p e sel s) := by
  obtain ⟨-, -, -, hempty, -⟩ := id h
  have hgo : u.dev.pfld p mboxCtrlGo = (mboxState p s).dev.pfld p mboxCtrlGo := Dev.fld_congr_word
    (d := { (mboxState p s).dev with regs := portBank (mboxState p s).dev p }) (e := { u.dev with regs := portBank u.dev p }) rfl hkept.1
  have hmbox : u.dev.mgmt.mbox = [] := hkept.2.trans ((congrArg Mgmt.mbox mboxState_mgmt).trans hempty)
  have hfin := finishMbox_finished hcode (hgo.trans (mboxTaken_go _ _)) hmbox
  obtain ⟨-, -, -, -, -, -, hend⟩ := hfin.answered
  rw [mailbox_of_ready h hsel hrun hend]
  exact hfin

theorem mboxIs_of_ready (h : MailboxReady s p op) : mboxIs p op s.dev = true := by
  obtain ⟨-, -, -, -, -, -, -, hop⟩ := h
  exact decide_eq_true hop

/-- The firmware serves every command. -/
theorem served_of_ready (h : MailboxReady s p op) (c : Bool) : ¬ ((mboxState p s).dev.mgmt.romOnly && c) = true := by
  obtain ⟨-, -, -, -, -, hrom, -⟩ := h
  rw [mboxState_mgmt, hrom]
  exact Bool.false_ne_true

end

/-! ### What the commands leave of the channel -/

section
variable {p : Port} {d e g : Dev}

theorem ChannelKept.refl (p : Port) (d : Dev) : ChannelKept p d d := ⟨rfl, rfl⟩

theorem ChannelKept.trans (h : ChannelKept p d e) (h' : ChannelKept p e g) : ChannelKept p d g := ⟨h'.1.trans h.1, h'.2.trans h.2⟩

theorem ChannelKept.of_regs (hword : bankWord e.regs rMboxCtrl = bankWord d.regs rMboxCtrl) (hsup : e.supRegs = d.supRegs)
    (hmbox : e.mgmt.mbox = d.mgmt.mbox) : ChannelKept p d e := by
  refine ⟨?_, hmbox⟩
  cases p with
  | host => exact hword
  | spadja => exact congrArg (bankWord · rMboxCtrl) hsup

theorem logEvent_mgmt (d : Dev) (code : Nat) (data : List Byte) : ∃ l n, (logEvent d code data).mgmt = { d.mgmt with log := l, lost := n } := by
  unfold logEvent
  dsimp only
  split
  · exact ⟨_, d.mgmt.lost, rfl⟩
  · exact ⟨_, _, rfl⟩

theorem logEvent_updating (d : Dev) (code : Nat) (data : List Byte) : (logEvent d code data).mgmt.updating = d.mgmt.updating := by
  obtain ⟨l, n, hmgmt⟩ := logEvent_mgmt d code data
  rw [hmgmt]

theorem logEvent_runB (d : Dev) (code : Nat) (data : List Byte) : (logEvent d code data).mgmt.runB = d.mgmt.runB := by
  obtain ⟨l, n, hmgmt⟩ := logEvent_mgmt d code data
  rw [hmgmt]

theorem logEvent_ptr (d : Dev) (code : Nat) (data : List Byte) : (logEvent d code data).mgmt.ptr = d.mgmt.ptr := by
  obtain ⟨l, n, hmgmt⟩ := logEvent_mgmt d code data
  rw [hmgmt]

theorem logEvent_channelKept (d : Dev) (code : Nat) (data : List Byte) : ChannelKept p d (logEvent d code data) := by
  obtain ⟨m, b, hlog, -⟩ := logEvent_beside d code data
  obtain ⟨l, n, hmgmt⟩ := logEvent_mgmt d code data
  exact .of_regs (logEvent_word d code data (by decide)) (by rw [hlog]) (by rw [hmgmt])

theorem setFld_channelKept (d : Dev) {f : Fld} {i : Nat} (v : Nat) (hw : f.wide = false) (h : rMboxCtrl ≠ f.base + i * f.stride) :
    ChannelKept p d (d.setFld f v i) :=
  .of_regs (Dev.setFld_word_ne d f i v h fun hwide => absurd (hw.symm.trans hwide) nofun) rfl rfl

end

/-! ### Slots of the flash (R491) -/

section
variable {s t : State} {p : Port} {k : Nat}

theorem mboxState_slot (k : Nat) (b : Bool) : (mboxState p s).slot k b = s.slot k b := rfl

theorem mboxState_bootPtr (k : Nat) : (mboxState p s).bootPtr k = s.bootPtr k := by rw [State.bootPtr, State.ptrs, mboxState_mgmt]; rfl

theorem mboxState_activeImg (k : Nat) : (mboxState p s).activeImg k = s.activeImg k := by rw [State.activeImg, mboxState_bootPtr]; rfl

theorem mboxState_updateSlot (k : Nat) : updateSlot (mboxState p s) k = !(s.bootPtr k).slotB := by rw [updateSlot, mboxState_bootPtr]

theorem slot_congr (h : t.nv = s.nv) (k : Nat) (b : Bool) : t.slot k b = s.slot k b := by rw [State.slot, State.slot, h]

theorem slot_setSlot_self (s : State) (k : Nat) (b : Bool) (x : FlashSlot) : (s.setSlot k b x).slot k b = x := mapGet_set_self _ _ _ _

/-- Each slot has a number of its own. -/
theorem slotNumber_inj {j k : Nat} {c b : Bool} (h : 2 * j + b2n c = 2 * k + b2n b) : (j, c) = (k, b) := by
  have hbit (x : Bool) : b2n x < 2 := by cases x <;> decide
  have hc := hbit c
  have hb := hbit b
  have hsame : b2n c = b2n b := by omega
  have hinj : b2n c = b2n b → c = b := by cases c <;> cases b <;> decide
  rw [show j = k by omega, hinj hsame]

theorem slot_setSlot_ne (s : State) {k j : Nat} {b c : Bool} (x : FlashSlot) (h : (j, c) ≠ (k, b)) :
    (s.setSlot k b x).slot j c = s.slot j c :=
  mapGet_set_ne _ _ _ _ fun heq => h (slotNumber_inj heq)

/-- A byte of a slot after a write. -/
theorem byte_write (x : FlashSlot) (o : Nat) (l : List Byte) (a : Nat) : mapGet 0xFF (x.write o l).bytes a =
    if o ≤ a ∧ a < o + l.length then l.getD (a - o) 0 else mapGet 0xFF x.bytes a := by
  have hwrite : (x.write o l).bytes = l.zipIdx.foldl (fun m e => mapSet 0xFF m (o + e.2) e.1) x.bytes := by
    rw [List.zipIdx_eq_zip_range', ← List.range_eq_range']
    rfl
  rw [hwrite]
  clear hwrite
  induction l using List.reverseRecOn with
  | nil => rw [if_neg (by simp only [List.length_nil]; omega)]; rfl
  | append_singleton l b ih =>
    rw [List.zipIdx_append, List.foldl_append]
    change mapGet 0xFF (mapSet 0xFF _ (o + (0 + l.length)) b) a = _
    rw [mapGet_set, ih, List.length_append, List.length_singleton, Nat.zero_add]
    by_cases ha : a = o + l.length
    · subst ha
      rw [if_pos rfl, if_pos (by omega), Nat.add_sub_cancel_left, List.getD_append_right _ _ _ _ le_rfl, Nat.sub_self]
      rfl
    · rw [if_neg ha]
      by_cases hin : o ≤ a ∧ a < o + l.length
      · rw [if_pos hin, if_pos (by omega), List.getD_append _ _ _ _ (by omega)]
      · rw [if_neg hin, if_neg (by omega)]

/-- What is written to a slot is read back. -/
theorem read_write (x : FlashSlot) (o : Nat) (l : List Byte) : (x.write o l).read o l.length = l := by
  refine List.ext_getElem (by rw [FlashSlot.read, List.length_map, upto, List.length_range]) fun i hi hl => ?_
  simp only [FlashSlot.read, List.getElem_map, upto, List.getElem_range]
  rw [byte_write, if_pos (by omega), Nat.add_sub_cancel_left,
    List.getD_eq_getElem _ _ hl]

/-- Bytes beside the write are as before. -/
theorem read_write_beside (x : FlashSlot) {o a : Nat} (l : List Byte) (h : a < o ∨ o + l.length ≤ a) :
    (x.write o l).read a 1 = x.read a 1 := by
  change [mapGet 0xFF (x.write o l).bytes a] = [mapGet 0xFF x.bytes a]
  rw [byte_write, if_neg (by omega)]

/-! ### UPDATE_BEGIN, UPDATE_DATA and UPDATE_END (R499) -/

theorem recZero_of_zeros {req : List Byte} (h : (req.drop 1).take 3 = [0, 0, 0]) : recZero req 1 3 = true := by rw [recZero, h]; rfl

theorem mboxUpdateBegin_of_formed {req : List Byte} {e : Bool} (hlen : req.length = 8) (hk : recLe req 0 1 ∈ imageKinds)
    (hzero : (req.drop 1).take 3 = [0, 0, 0]) (hsize : recLe req 4 4 ≤ slotSize (recLe req 0 1)) :
    mboxUpdateBegin req e s =
      if s.dev.mgmt.updating.contains (recLe req 0 1) || s.dev.mgmt.switching.contains (recLe req 0 1) then answer s mrBusy
      else if e then answer s mrFlashErr
      else answer (setUpdating (s.dev.mgmt.updating ++ [recLe req 0 1]) (s.setSlot (recLe req 0 1) (updateSlot s (recLe req 0 1)) {})) mrOk :=
  if_neg (by
    rw [recZero_of_zeros hzero, List.contains_iff_mem.mpr hk, decide_eq_false (Nat.not_lt.mpr hsize), hlen]
    decide)

theorem mboxUpdateData_of_formed {req : List Byte} (hleast : 8 ≤ req.length) (hmost : req.length ≤ 8200)
    (hk : recLe req 0 1 ∈ s.dev.mgmt.updating) (hzero : (req.drop 1).take 3 = [0, 0, 0])
    (hsize : recLe req 4 4 + (req.length - 8) ≤ slotSize (recLe req 0 1)) :
    mboxUpdateData req false s = answer (s.setSlot (recLe req 0 1) (updateSlot s (recLe req 0 1))
      ((s.slot (recLe req 0 1) (updateSlot s (recLe req 0 1))).write (recLe req 4 4) (req.drop 8))) mrOk := by
  refine if_neg ?_
  rw [recZero_of_zeros hzero, List.contains_iff_mem.mpr hk, List.length_drop, decide_eq_false (Nat.not_lt.mpr hleast),
    decide_eq_false (Nat.not_lt.mpr hsize), decide_eq_false (by omega)]
  decide

/-- The slot of kind `k` that an update writes is found valid: it is staged. -/
def stagedState (k : Nat) (s : State) : State :=
  let x := s.slot k (updateSlot s k)
  let i := readImage s.nv.fuses k x
  let t := (setUpdating (s.dev.mgmt.updating.filter (· ≠ k)) s).setSlot k (updateSlot s k) { x with img := some i, staged := true }
  { t with dev := logEvent t.dev lgStaged (updateData k (updateSlot s k) (some i)) }

/-- The slot of kind `k` that an update writes is found invalid: it is left erased. -/
def erasedState (k : Nat) (s : State) : State :=
  (setUpdating (s.dev.mgmt.updating.filter (· ≠ k)) s).setSlot k (updateSlot s k) {}

theorem stagedState_facts (k : Nat) (p : Port) (s : State) :
    (stagedState k s).dev.mgmt.updating = s.dev.mgmt.updating.filter (· ≠ k) ∧
    (stagedState k s).slot k (updateSlot s k) =
      { s.slot k (updateSlot s k) with img := some (readImage s.nv.fuses k (s.slot k (updateSlot s k))), staged := true } ∧
    ChannelKept p s.dev (stagedState k s).dev :=
  ⟨logEvent_updating _ _ _, slot_setSlot_self _ _ _ _, (ChannelKept.of_regs rfl rfl rfl).trans (logEvent_channelKept _ _ _)⟩

theorem erasedState_facts (k : Nat) (p : Port) (s : State) :
    (erasedState k s).dev.mgmt.updating = s.dev.mgmt.updating.filter (· ≠ k) ∧ (erasedState k s).slot k (updateSlot s k) = {} ∧
    ChannelKept p s.dev (erasedState k s).dev :=
  ⟨rfl, slot_setSlot_self _ _ _ _, .of_regs rfl rfl rfl⟩

theorem mboxUpdateEnd_of_formed {req : List Byte} (hreq : recLe req 0 1 = k) (hlen : req.length = 1) (hk : k ∈ s.dev.mgmt.updating) :
    mboxUpdateEnd req false s =
      let i := readImage s.nv.fuses k (s.slot k (updateSlot s k))
      if imgValid s.nv.fuses k i then answer (stagedState k s) mrOk else answer (erasedState k s) (imageRefusal s.nv.fuses k i) := by
  have hformed : ¬ (decide (req.length ≠ 1) || !s.dev.mgmt.updating.contains k) = true := by
    rw [List.contains_iff_mem.mpr hk, hlen]
    decide
  unfold mboxUpdateEnd
  dsimp only
  rw [hreq, if_neg hformed, if_neg Bool.false_ne_true]
  rfl

theorem imageRefusal_mem (f : Fuses) (k : Nat) (i : FlashImg) : imageRefusal f k i ∈ [2, 3, 4] := by
  unfold imageRefusal
  split
  · decide
  · split
    · decide
    · split <;> decide

end

end Sys2Proof.Machine
end

section
/-! PROOFS. The mailbox's commands: image updates, CAN and the bridge tables (R403, R414, R499 to R501): O44. -/

namespace Sys2Proof.Machine

/-! ### The boot pointer (R491, R501) -/

section
variable {s t : State} {p : Port} {k : Nat}

theorem bootPtr_congr (hmgmt : t.dev.mgmt = s.dev.mgmt) (hnv : t.nv = s.nv) (k : Nat) : t.bootPtr k = s.bootPtr k := by
  rw [State.bootPtr, State.ptrs, hmgmt, hnv]
  rfl

theorem trialStatus_channelKept : ChannelKept p s.dev (trialStatus s).dev := setFld_channelKept _ _ rfl (by decide)

/-- The boot pointer is written at once where nothing holds it back. -/
theorem setBootPtr_of_free (x : BootPtr) (h : guardHeld s.dev = false) : setBootPtr k x s =
    trialStatus { s with nv := { s.nv with boot := mapSet {} s.ptrs k x, gen := s.nv.gen + 1 } } := by
  rw [setBootPtr, h, if_neg Bool.false_ne_true]

/-- The staged slot becomes active, in trial, with three tries. -/
theorem makeActive_facts (hptr : s.dev.mgmt.ptr = none) (hguard : guardHeld s.dev = false) (p : Port) :
    (makeActive k s).bootPtr k = ⟨!(s.bootPtr k).slotB, true, 3⟩ ∧ (makeActive k s).dev.mgmt.runB = s.dev.mgmt.runB ∧
      ChannelKept p s.dev (makeActive k s).dev := by
  set b := !(s.bootPtr k).slotB with hb
  set d : Dev := { s.dev with mgmt := { s.dev.mgmt with switching := s.dev.mgmt.switching.filter (· ≠ k) } } with hd
  set e := logEvent d lgSwitched (updateData k b (s.slot k b).img) with he
  set t : State := { s.setSlot k b { s.slot k b with staged := false } with dev := e } with ht
  have hmake : makeActive k s = setBootPtr k ⟨b, true, 3⟩ t := rfl
  have hfree : guardHeld t.dev = false := by
    rw [guardHeld, Dev.flag, ht, he, logEvent_fld _ _ _ rfl (by decide)]
    exact hguard
  rw [hmake, setBootPtr_of_free _ hfree]
  refine ⟨?_, ?_, (logEvent_channelKept d _ _).trans trialStatus_channelKept⟩
  · have hnone : e.mgmt.ptr = none := (logEvent_ptr d _ _).trans hptr
    change mapGet {} (e.mgmt.ptr.getD (mapSet {} t.ptrs k _)) k = _
    rw [hnone]
    exact mapGet_set_self _ _ _ _
  · exact logEvent_runB d _ _

theorem runActive_facts (p : Port) : (runActive k s).bootPtr k = s.bootPtr k ∧
    (k ∈ (runActive k s).dev.mgmt.runB ↔ (s.bootPtr k).slotB = true) ∧ ChannelKept p s.dev (runActive k s).dev := by
  refine ⟨rfl, ?_, .of_regs rfl rfl rfl⟩
  change k ∈ (if (s.bootPtr k).slotB then s.dev.mgmt.runB.filter (· ≠ k) ++ [k] else s.dev.mgmt.runB.filter (· ≠ k)) ↔ _
  split
  next hb => simp [hb]
  next hb => simp [hb]

theorem setSwitching_facts (l : List Nat) (p : Port) : (setSwitching l s).nv = s.nv ∧ (setSwitching l s).dev.mgmt.switching = l ∧
    (setSwitching l s).dev.images = s.dev.images ∧ ChannelKept p s.dev (setSwitching l s).dev :=
  ⟨rfl, rfl, rfl, (ChannelKept.of_regs rfl rfl rfl).trans trialStatus_channelKept⟩

/-- A library does not change while an image is loaded (R500). -/
theorem applyLibrary_of_images (h : s.dev.images ≠ []) : applyLibrary s = s := by
  rw [applyLibrary, List.isEmpty_eq_false_iff.mpr h, Bool.and_false, Bool.false_and, Bool.false_and, if_neg Bool.false_ne_true]

end

/-! ### SWITCH (R500) -/

section
variable {s : State} {req : List Byte} {k : Nat} {i : FlashImg}

theorem mboxSwitch_of_unstaged (e : Bool) (hreq : recLe req 0 1 = k) (h : (s.slot k (updateSlot s k)).staged = false) :
    mboxSwitch req e s = answer s mrBadCmd := by
  subst hreq
  refine if_pos ?_
  rw [h, Bool.not_false, Bool.or_true]

/-- A switch to a staged, valid image, by kind. -/
theorem mboxSwitch_of_staged (hreq : recLe req 0 1 = k) (hlen : req.length = 1) (hk : k ∈ imageKinds)
    (hstaged : (s.slot k (updateSlot s k)).staged = true) (hupdating : k ∉ s.dev.mgmt.updating) (hswitching : k ∉ s.dev.mgmt.switching)
    (hgood : s.goodImg k (updateSlot s k) = some i) :
    (k = 2 → ∃ t, mboxSwitch req false s = answer t mrOk ∧
      t = (setSwitching (s.dev.mgmt.switching ++ [2]) s).mapDev fun d => { d with boot := { d.boot with reloading := true } }) ∧
    (k = 3 → (s.activeImg 3).map (·.libEpoch) = some i.libEpoch → mboxSwitch req false s = answer (runActive 3 (makeActive 3 s)) mrOk) ∧
    (k = 3 → (s.activeImg 3).map (·.libEpoch) ≠ some i.libEpoch →
      mboxSwitch req false s = answer (applyLibrary (setSwitching (s.dev.mgmt.switching ++ [3]) s)) mrOk) ∧
    (k = 4 ∨ k = 5 → mboxSwitch req false s = answer (makeActive k s) mrOk) := by
  have hformed : ¬ (decide (req.length ≠ 1) || !imageKinds.contains k || !(s.slot k (updateSlot s k)).staged) = true := by
    rw [List.contains_iff_mem.mpr hk, hlen, hstaged]
    decide
  have hfree : ¬ (s.dev.mgmt.switching.contains k || s.dev.mgmt.updating.contains k) = true := by
    simp only [Bool.or_eq_true, List.contains_iff_mem, hupdating, hswitching, or_self, not_false_eq_true]
  unfold mboxSwitch
  dsimp only
  rw [hreq, if_neg hformed, if_neg hfree, if_neg Bool.false_ne_true, hgood]
  dsimp only
  refine ⟨?_, ?_, ?_, ?_⟩
  · rintro rfl
    exact ⟨_, rfl, rfl⟩
  · rintro rfl hsame
    exact congrArg (answer · mrOk) (if_pos hsame)
  · rintro rfl hother
    exact congrArg (answer · mrOk) (if_neg hother)
  · rintro (rfl | rfl) <;> rfl

end

/-! ### CAN_TX (R414) -/

section
variable {s : State} {p : Port} {req : List Byte} {c b : Nat}

theorem mboxCan_of_write (hlen : req.length = 84) (hc : c < 2) (hb : b < 16) (hreq : recLe req 0 1 = c ∧ recLe req 1 1 = b)
    (habort : bit (recLe req 2 1) 0 = false) :
    mboxCan req s = answer { s with dev := (canQueue c b (req.drop 4) s.dev).1 } (canQueue c b (req.drop 4) s.dev).2 := by
  obtain ⟨rfl, rfl⟩ := hreq
  unfold mboxCan
  dsimp only
  rw [habort, hlen, decide_eq_false (Nat.not_le.mpr hc), decide_eq_false (Nat.not_le.mpr hb), if_neg (by decide)]
  rfl

theorem mboxCan_of_abort (hlen : req.length = 4 ∨ req.length = 84) (hc : c < 2) (hb : b < 16)
    (hreq : recLe req 0 1 = c ∧ recLe req 1 1 = b) (habort : bit (recLe req 2 1) 0 = true) :
    mboxCan req s = answer { s with dev := (canAbort c b s.dev).1 } (canAbort c b s.dev).2 := by
  obtain ⟨rfl, rfl⟩ := hreq
  unfold mboxCan
  dsimp only
  have hformed : (decide (req.length = 84) || (true && decide (req.length = 4))) = true := by
    rcases hlen with hlen | hlen <;> rw [hlen] <;> rfl
  rw [habort, hformed, decide_eq_false (Nat.not_le.mpr hc), decide_eq_false (Nat.not_le.mpr hb), if_neg (by decide)]
  rfl

theorem setCanBuf_channelKept (d : Dev) (l : List Byte) : ChannelKept p d (setCanBuf d c b l) :=
  .of_regs (setCanBuf_word_ne l (by decide)) rfl rfl

/-- The bytes that a request writes to a buffer: all 80. -/
theorem canRequest_take {l : List Byte} (h : l.length = 80) : (l.take 80) ++ List.replicate (80 - l.length) 0 = l := by
  rw [List.take_of_length_le h.le, h]
  exact List.append_nil l

/-- A buffer that is not pending is written, and pends. -/
theorem canQueue_of_free {d : Dev} {l : List Byte} (h : canPending d c b = false) (hlen : l.length = 80) :
    canQueue c b l d = (setCanPending (setCanBuf d c b l) c b true, 0) := by
  rw [canQueue, h, if_neg Bool.false_ne_true, canRequest_take hlen]

theorem bit_or_two_pow {v x : Nat} (hx : x < 16) : bit ((v ||| 2 ^ x) % 2 ^ 16) x = true := by
  rw [bit_eq_testBit, Nat.testBit_mod_two_pow, Nat.testBit_or, Nat.testBit_two_pow_self]
  simp [hx]

end

/-! ### The commands, taken from the channel -/

section
variable {s : State} {p : Port} {k : Nat}

theorem updateBegin_results (h : MailboxReady s p 0x10) (hreq : recLe (mboxRequest s.dev p) 0 1 = k)
    (hlen : (mboxRequest s.dev p).length = 8) (hk : k ∈ imageKinds) (hzero : ((mboxRequest s.dev p).drop 1).take 3 = [0, 0, 0])
    (hsize : recLe (mboxRequest s.dev p) 4 4 ≤ slotSize k) :
    (k ∉ s.dev.mgmt.updating → k ∉ s.dev.mgmt.switching → ∃ u, exec (.updateBegin p false) s = .next u ∧ Answered u.dev p 0 [] ∧
      u.dev.mgmt.updating = s.dev.mgmt.updating ++ [k] ∧ u.slot k (!(s.bootPtr k).slotB) = {} ∧
      ∀ j c, (j, c) ≠ (k, !(s.bootPtr k).slotB) → u.slot j c = s.slot j c) ∧
    (k ∈ s.dev.mgmt.updating → ∃ u, exec (.updateBegin p false) s = .next u ∧ Answered u.dev p 6 [] ∧ u.nv = s.nv) ∧
    (k ∉ s.dev.mgmt.updating → k ∉ s.dev.mgmt.switching →
      ∃ u, exec (.updateBegin p true) s = .next u ∧ Answered u.dev p 7 [] ∧ u.nv = s.nv) := by
  subst hreq
  have hrun (e : Bool) : runMbox 0x10 (mboxRequest s.dev p) e (mboxState p s) = _ := (if_neg (served_of_ready h _)).trans
    (mboxUpdateBegin_of_formed (s := mboxState p s) (e := e) hlen hk hzero hsize)
  rw [mboxState_mgmt, mboxState_updateSlot] at hrun
  have hfree (hup : recLe (mboxRequest s.dev p) 0 1 ∉ s.dev.mgmt.updating) (hsw : recLe (mboxRequest s.dev p) 0 1 ∉ s.dev.mgmt.switching) :
      ¬ (s.dev.mgmt.updating.contains (recLe (mboxRequest s.dev p) 0 1) ||
        s.dev.mgmt.switching.contains (recLe (mboxRequest s.dev p) 0 1)) = true := by
    simp only [Bool.or_eq_true, List.contains_iff_mem, hup, hsw, or_self, not_false_eq_true]
  refine ⟨fun hup hsw => ?_, fun hup => ?_, fun hup hsw => ?_⟩
  · have hfin := mailbox_answers h (mboxIs_of_ready h) (by decide)
      ((hrun false).trans ((if_neg (hfree hup hsw)).trans (if_neg Bool.false_ne_true))) (.of_regs rfl rfl rfl)
    refine ⟨_, rfl, hfin.answered, congrArg Mgmt.updating hfin.mgmt, ?_, fun j c hne => ?_⟩
    · exact (slot_congr hfin.nv _ _).trans (slot_setSlot_self _ _ _ _)
    · exact (slot_congr hfin.nv _ _).trans (slot_setSlot_ne (mboxState p s) _ hne)
  · have hbusy := (hrun false).trans (if_pos (by rw [List.contains_iff_mem.mpr hup, Bool.true_or]))
    have hfin := mailbox_answers h (mboxIs_of_ready h) (by decide) hbusy (.refl _ _)
    exact ⟨_, rfl, hfin.answered, hfin.nv⟩
  · have hfin := mailbox_answers h (mboxIs_of_ready h) (by decide) ((hrun true).trans ((if_neg (hfree hup hsw)).trans (if_pos rfl))) (.refl _ _)
    exact ⟨_, rfl, hfin.answered, hfin.nv⟩

theorem updateData_results (h : MailboxReady s p 0x11) (hreq : recLe (mboxRequest s.dev p) 0 1 = k)
    (hleast : 8 ≤ (mboxRequest s.dev p).length) (hmost : (mboxRequest s.dev p).length ≤ 8200) (hk : k ∈ s.dev.mgmt.updating)
    (hzero : ((mboxRequest s.dev p).drop 1).take 3 = [0, 0, 0])
    (hsize : recLe (mboxRequest s.dev p) 4 4 + ((mboxRequest s.dev p).length - 8) ≤ slotSize k) :
    ∃ u, exec (.updateData p false) s = .next u ∧ Answered u.dev p 0 [] ∧
      u.slot k (!(s.bootPtr k).slotB) =
        (s.slot k (!(s.bootPtr k).slotB)).write (recLe (mboxRequest s.dev p) 4 4) ((mboxRequest s.dev p).drop 8) := by
  subst hreq
  have hrun : runMbox 0x11 (mboxRequest s.dev p) false (mboxState p s) = _ := (if_neg (served_of_ready h _)).trans
    (mboxUpdateData_of_formed (s := mboxState p s) hleast hmost (by rw [mboxState_mgmt]; exact hk) hzero hsize)
  have hfin := mailbox_answers h (mboxIs_of_ready h) (by decide) hrun (.of_regs rfl rfl rfl)
  refine ⟨_, rfl, hfin.answered, ?_⟩
  rw [slot_congr hfin.nv, mboxState_updateSlot]
  exact slot_setSlot_self _ _ _ _

theorem updateEnd_results (h : MailboxReady s p 0x12) (hreq : recLe (mboxRequest s.dev p) 0 1 = k)
    (hlen : (mboxRequest s.dev p).length = 1) (hk : k ∈ s.dev.mgmt.updating) :
    let b := !(s.bootPtr k).slotB
    let i := readImage s.nv.fuses k (s.slot k b)
    ∃ u, exec (.updateEnd p false) s = .next u ∧ k ∉ u.dev.mgmt.updating ∧
      (imgValid s.nv.fuses k i = true → Answered u.dev p 0 [] ∧ u.slot k b = { s.slot k b with img := some i, staged := true }) ∧
      (imgValid s.nv.fuses k i = false → u.slot k b = {} ∧ ∃ code ∈ [2, 3, 4], Answered u.dev p code []) := by
  intro b i
  have hslot : updateSlot (mboxState p s) k = b := mboxState_updateSlot k
  have hrun : runMbox 0x12 (mboxRequest s.dev p) false (mboxState p s) = _ := (if_neg (served_of_ready h _)).trans
    (mboxUpdateEnd_of_formed (s := mboxState p s) hreq hlen (by rw [mboxState_mgmt]; exact hk))
  obtain ⟨hupdating, hstaged, hkept⟩ := stagedState_facts k p (mboxState p s)
  obtain ⟨hupdating', herased, hkept'⟩ := erasedState_facts k p (mboxState p s)
  have hgone : k ∉ (mboxState p s).dev.mgmt.updating.filter (· ≠ k) := by simp
  rw [hslot] at hrun hstaged herased
  cases hvalid : imgValid s.nv.fuses k i with
  | true =>
    have hfin := mailbox_answers h (mboxIs_of_ready h) (by decide) (hrun.trans (if_pos hvalid)) hkept
    refine ⟨_, rfl, ?_, fun _ => ⟨hfin.answered, (slot_congr hfin.nv k b).trans hstaged⟩, nofun⟩
    rwa [hfin.mgmt, hupdating]
  | false =>
    have hcode := imageRefusal_mem s.nv.fuses k i
    have hsmall : ∀ c ∈ [2, 3, 4], c < 256 := by decide
    have hfin := mailbox_answers h (mboxIs_of_ready h) (hsmall _ hcode) (hrun.trans (if_neg (ne_true_of_eq_false hvalid))) hkept'
    refine ⟨_, rfl, ?_, nofun, fun _ => ⟨(slot_congr hfin.nv k b).trans herased, _, hcode, hfin.answered⟩⟩
    rwa [hfin.mgmt, hupdating']

theorem switch_unstaged (h : MailboxReady s p 0x13) (hreq : recLe (mboxRequest s.dev p) 0 1 = k)
    (hstaged : (s.slot k (!(s.bootPtr k).slotB)).staged = false) :
    ∃ u, exec (.switch p false) s = .next u ∧ Answered u.dev p 1 [] ∧ u.nv = s.nv := by
  have hrun : runMbox 0x13 (mboxRequest s.dev p) false (mboxState p s) = _ := (if_neg (served_of_ready h _)).trans
    (mboxSwitch_of_unstaged (s := mboxState p s) false hreq (by rw [mboxState_updateSlot]; exact hstaged))
  have hfin := mailbox_answers h (mboxIs_of_ready h) (by decide) hrun (.refl _ _)
  exact ⟨_, rfl, hfin.answered, hfin.nv⟩

theorem switch_staged {i : FlashImg} (h : MailboxReady s p 0x13) (hreq : recLe (mboxRequest s.dev p) 0 1 = k)
    (hlen : (mboxRequest s.dev p).length = 1) (hk : k ∈ imageKinds) (hupdating : k ∉ s.dev.mgmt.updating)
    (hswitching : k ∉ s.dev.mgmt.switching) (hstaged : (s.slot k (!(s.bootPtr k).slotB)).staged = true)
    (himg : (s.slot k (!(s.bootPtr k).slotB)).img = some i) (hvalid : imgValid s.nv.fuses k i = true) (hptr : s.dev.mgmt.ptr = none) :
    (k = 4 ∨ k = 5 →
      ∃ u, exec (.switch p false) s = .next u ∧ Answered u.dev p 0 [] ∧ u.bootPtr k = ⟨!(s.bootPtr k).slotB, true, 3⟩) ∧
    (k = 2 → ∃ u, exec (.switch p false) s = .next u ∧ Answered u.dev p 0 [] ∧ u.dev.boot.reloading = true ∧
      2 ∈ u.dev.mgmt.switching ∧ u.nv = s.nv) ∧
    (k = 3 → (s.activeImg 3).map (·.libEpoch) = some i.libEpoch →
      ∃ u, exec (.switch p false) s = .next u ∧ Answered u.dev p 0 [] ∧ u.bootPtr 3 = ⟨!(s.bootPtr k).slotB, true, 3⟩ ∧
        (3 ∈ u.dev.mgmt.runB ↔ (!(s.bootPtr k).slotB) = true)) ∧
    (k = 3 → (s.activeImg 3).map (·.libEpoch) ≠ some i.libEpoch → s.dev.images ≠ [] →
      ∃ u, exec (.switch p false) s = .next u ∧ Answered u.dev p 0 [] ∧ 3 ∈ u.dev.mgmt.switching ∧ u.nv = s.nv) := by
  obtain ⟨-, -, -, -, -, -, hguard, -⟩ := id h
  have hgood : (mboxState p s).goodImg k (updateSlot (mboxState p s) k) = some i := by
    rw [mboxState_updateSlot, State.goodImg, mboxState_slot, himg]
    exact if_pos hvalid
  obtain ⟨htwo, hsame, hother, hlate⟩ := mboxSwitch_of_staged (s := mboxState p s) hreq hlen hk
    (by rw [mboxState_updateSlot]; exact hstaged) (by rw [mboxState_mgmt]; exact hupdating) (by rw [mboxState_mgmt]; exact hswitching) hgood
  have hfree : guardHeld (mboxState p s).dev = false :=
    (congrArg (fun n => decide (n ≠ 0)) (mboxTaken_fld s.dev p (f := clrGuardHeld) rfl (by decide) (by decide))).trans hguard
  obtain ⟨hactive, -, hmade⟩ := makeActive_facts (s := mboxState p s) (k := k) (by rw [mboxState_mgmt]; exact hptr) hfree p
  rw [mboxState_bootPtr] at hactive
  have hrun {r : MboxEnd} (hr : mboxSwitch (mboxRequest s.dev p) false (mboxState p s) = r) :
      runMbox 0x13 (mboxRequest s.dev p) false (mboxState p s) = r := (if_neg (served_of_ready h _)).trans hr
  refine ⟨fun hkind => ?_, fun hkind => ?_, ?_, fun hkind hepoch himages => ?_⟩
  · have hfin := mailbox_answers h (mboxIs_of_ready h) (by decide) (hrun (hlate hkind)) hmade
    exact ⟨_, rfl, hfin.answered, (bootPtr_congr hfin.mgmt hfin.nv k).trans hactive⟩
  · obtain ⟨t, hswitch, rfl⟩ := htwo hkind
    obtain ⟨hnv, hlist, -, hset⟩ := setSwitching_facts (s := mboxState p s) ((mboxState p s).dev.mgmt.switching ++ [2]) p
    have hfin := mailbox_answers h (mboxIs_of_ready h) (by decide) (hrun hswitch) (hset.trans (.of_regs rfl rfl rfl))
    refine ⟨_, rfl, hfin.answered, congrArg Boot.reloading hfin.boot, ?_, hfin.nv.trans hnv⟩
    rw [hfin.mgmt]
    exact List.mem_append_right _ (List.mem_singleton_self 2)
  · rintro rfl hepoch
    obtain ⟨hptr', hrunB, hran⟩ := runActive_facts (s := makeActive 3 (mboxState p s)) (k := 3) p
    have hfin := mailbox_answers h (mboxIs_of_ready h) (by decide) (hrun (hsame rfl (by rw [mboxState_activeImg]; exact hepoch)))
      (hmade.trans hran)
    rw [hactive] at hrunB
    refine ⟨_, rfl, hfin.answered, (bootPtr_congr hfin.mgmt hfin.nv 3).trans (hptr'.trans hactive), ?_⟩
    rw [hfin.mgmt]
    exact hrunB
  · obtain ⟨hnv, hlist, himg', hset⟩ := setSwitching_facts (s := mboxState p s) ((mboxState p s).dev.mgmt.switching ++ [3]) p
    have hloaded : (mboxState p s).dev.images = s.dev.images := (mboxTaken_portWritten s.dev p).images
    have hswitch := hother hkind (by rw [mboxState_activeImg]; exact hepoch)
    rw [applyLibrary_of_images (by rw [himg', hloaded]; exact himages)] at hswitch
    have hfin := mailbox_answers h (mboxIs_of_ready h) (by decide) (hrun hswitch) hset
    refine ⟨_, rfl, hfin.answered, ?_, hfin.nv.trans hnv⟩
    rw [hfin.mgmt, hlist]
    exact List.mem_append_right _ (List.mem_singleton_self 3)

end

section
variable {s : State} {p : Port} {c b : Nat}

theorem mboxState_canBuf (c b : Nat) : canBufBytes (mboxState p s).dev c b = canBufBytes s.dev c b :=
  canBufBytes_congr fun _ ho => (mboxTaken_word s.dev p (Nat.ne_of_gt (lt_of_lt_of_le (by decide) ho))
    (Nat.ne_of_gt (lt_of_lt_of_le (by decide) ho))).2

theorem MboxFinished.canBuf {code : Nat} {u w : State} (h : MboxFinished p code u w) (c b : Nat) :
    canBufBytes w.dev c b = canBufBytes u.dev c b :=
  canBufBytes_congr fun o ho => h.word o (Nat.le_trans (by decide) ho) (Nat.ne_of_gt (lt_of_lt_of_le (by decide) ho))

theorem canTx_results (h : MailboxReady s p 0x30) (hc : c < 2) (hb : b < 16)
    (hreq : recLe (mboxRequest s.dev p) 0 1 = c ∧ recLe (mboxRequest s.dev p) 1 1 = b) (hlen : (mboxRequest s.dev p).length = 84)
    (habort : mboxAborts p s.dev = false) :
    (canPending s.dev c b = false → ∃ u, exec (.canTx p false) s = .next u ∧ Answered u.dev p 0 [] ∧ canPending u.dev c b = true ∧
      ∀ i < 80, i ≠ 5 → (canBufBytes u.dev c b)[i]? = (mboxRequest s.dev p)[4 + i]?) ∧
    (canPending s.dev c b = true → ∃ u, exec (.canTx p false) s = .next u ∧ Answered u.dev p 6 [] ∧
      canBufBytes u.dev c b = canBufBytes s.dev c b) := by
  have hsel : (mboxIs p 0x30 s.dev && !mboxAborts p s.dev) = true := by rw [mboxIs_of_ready h, habort]; rfl
  have hpending : canPending (mboxState p s).dev c b = canPending s.dev c b := canPending_congr (mboxState_canBuf c b)
  have hrun : runMbox 0x30 (mboxRequest s.dev p) false (mboxState p s) = _ :=
    (if_neg (served_of_ready h _)).trans (mboxCan_of_write (s := mboxState p s) hlen hc hb hreq habort)
  have hdrop : ((mboxRequest s.dev p).drop 4).length = 80 := by rw [List.length_drop, hlen]
  refine ⟨fun hfree => ?_, fun hbusy => ?_⟩
  · rw [canQueue_of_free (hpending.trans hfree) hdrop] at hrun
    have hfin := mailbox_answers (code := 0) (sel := fun d => mboxIs p 0x30 d && !mboxAborts p d) h hsel (by decide) hrun
      ((setCanBuf_channelKept _ _).trans (setCanBuf_channelKept _ _))
    have hbytes := hfin.canBuf c b
    refine ⟨_, rfl, hfin.answered, (canPending_congr hbytes).trans (canPending_setCanPending true), fun i _ hi => ?_⟩
    rw [hbytes, canBufBytes_setCanPending, canBufBytes_setCanBuf hdrop, withPending_getElem? _ _ hi, List.getElem?_drop]
  · have hkeeps : canQueue c b ((mboxRequest s.dev p).drop 4) (mboxState p s).dev = ((mboxState p s).dev, 6) :=
      if_pos (hpending.trans hbusy)
    rw [hkeeps] at hrun
    have hfin := mailbox_answers (code := 6) (sel := fun d => mboxIs p 0x30 d && !mboxAborts p d) h hsel (by decide) hrun (.refl _ _)
    exact ⟨_, rfl, hfin.answered, (hfin.canBuf c b).trans (mboxState_canBuf c b)⟩

theorem canTxAbort_results (h : MailboxReady s p 0x30) (hc : c < 2) (hb : b < 16)
    (hreq : recLe (mboxRequest s.dev p) 0 1 = c ∧ recLe (mboxRequest s.dev p) 1 1 = b)
    (hlen : (mboxRequest s.dev p).length = 4 ∨ (mboxRequest s.dev p).length = 84) (habort : mboxAborts p s.dev = true) :
    (canPending s.dev c b = true → ∃ u, exec (.canTxAbort p false) s = .next u ∧ Answered u.dev p 0 [] ∧ canPending u.dev c b = false) ∧
    (canPending s.dev c b = false → ∃ u, exec (.canTxAbort p false) s = .next u ∧ Answered u.dev p 6 [] ∧
      bit (u.dev.fld netCanTxstatAbortFail c) b = true) := by
  have hsel : (mboxIs p 0x30 s.dev && mboxAborts p s.dev) = true := by rw [mboxIs_of_ready h, habort]; rfl
  have hpending : canPending (mboxState p s).dev c b = canPending s.dev c b := canPending_congr (mboxState_canBuf c b)
  have hrun : runMbox 0x30 (mboxRequest s.dev p) false (mboxState p s) = _ :=
    (if_neg (served_of_ready h _)).trans (mboxCan_of_abort (s := mboxState p s) hlen hc hb hreq habort)
  refine ⟨fun hbusy => ?_, fun hfree => ?_⟩
  · have hdone : canAbort c b (mboxState p s).dev = (setCanPending (mboxState p s).dev c b false, 0) := if_pos (hpending.trans hbusy)
    rw [hdone] at hrun
    have hfin := mailbox_answers (code := 0) (sel := fun d => mboxIs p 0x30 d && mboxAborts p d) h hsel (by decide) hrun (setCanBuf_channelKept _ _)
    exact ⟨_, rfl, hfin.answered, (canPending_congr (hfin.canBuf c b)).trans (canPending_setCanPending false)⟩
  · have hfail : canAbort c b (mboxState p s).dev = ((mboxState p s).dev.setFld netCanTxstatAbortFail
        ((mboxState p s).dev.fld netCanTxstatAbortFail c ||| 2 ^ b) c, 6) := if_neg (ne_true_of_eq_false (hpending.trans hfree))
    rw [hfail] at hrun
    have hbase : netCanTxstatAbortFail.base + c * netCanTxstatAbortFail.stride = 0xAE0C + c * 0x100 := rfl
    have hfin := mailbox_answers (code := 6) (sel := fun d => mboxIs p 0x30 d && mboxAborts p d) h hsel (by decide) hrun
      (setFld_channelKept _ _ rfl (by rw [hbase, rMboxCtrl]; omega))
    refine ⟨_, rfl, hfin.answered, ?_⟩
    rw [Dev.fld_congr_word rfl (hfin.word _ (by rw [hbase, rMsixPba]; omega) (by rw [hbase, rMboxStatus]; omega)),
      Dev.fld_setFld _ _ _ _ (by decide) (by decide)]
    exact bit_or_two_pow hb

/-! ### NET_REQ (R403) -/

/-- A change of the tables reads and writes the network's state alone. -/
theorem applyChange_net (q : TableChange) (d : Dev) : ∃ n, ∀ e : Dev, e.net = d.net →
    applyChange q e = ({ e with net := n }, (applyChange q d).2) := by
  cases q with
  | setStatic mac vid ports =>
    refine ⟨(applyChange (.setStatic mac vid ports) d).1.net, fun e he => ?_⟩
    simp only [applyChange, he]
    split
    · rw [← he]
    · rfl
  | removeStatic mac vid =>
    refine ⟨(applyChange (.removeStatic mac vid) d).1.net, fun e he => ?_⟩
    simp only [applyChange, he]
  | setVlan vid ports =>
    refine ⟨(applyChange (.setVlan vid ports) d).1.net, fun e he => ?_⟩
    simp only [applyChange, he]
    split
    · rw [← he]
    · rfl
  | removeVlan vid =>
    refine ⟨(applyChange (.removeVlan vid) d).1.net, fun e he => ?_⟩
    simp only [applyChange, he]

theorem mboxNet_of_change {q : TableChange} {req : List Byte} (hq : tableChange req = some q) :
    mboxNet req s = answer { s with dev := (applyChange q s.dev).1 } (if (applyChange q s.dev).2 then mrOk else mrBadCmd) := by
  unfold mboxNet
  rw [hq]

theorem netReq_results {q : TableChange} (h : MailboxReady s p 0x31) (hq : tableChange (mboxRequest s.dev p) = some q) :
    ∃ u, exec (.netReq p q) s = .next u ∧ u.dev.net = (applyChange q s.dev).1.net ∧
      Answered u.dev p (if (applyChange q s.dev).2 then 0 else 1) [] := by
  have hsel : (mboxIs p 0x31 s.dev && tableChange (mboxRequest s.dev p) = some q) = true := by
    rw [mboxIs_of_ready h, hq, Bool.true_and, decide_eq_true rfl]
  obtain ⟨n, hchange⟩ := applyChange_net q s.dev
  have hrun : runMbox 0x31 (mboxRequest s.dev p) false (mboxState p s) =
      answer { mboxState p s with dev := (applyChange q (mboxState p s).dev).1 }
        (if (applyChange q (mboxState p s).dev).2 then mrOk else mrBadCmd) := by
    have hnet : mboxNet (mboxRequest s.dev p) (mboxState p s) = _ := mboxNet_of_change hq
    exact (if_neg (served_of_ready h _)).trans hnet
  rw [hchange (mboxState p s).dev (mboxTaken_portWritten s.dev p).net] at hrun
  have hfin := mailbox_answers (sel := fun d => mboxIs p 0x31 d && tableChange (mboxRequest d p) = some q) h hsel
    (by split <;> decide) hrun (.of_regs rfl rfl rfl)
  refine ⟨_, rfl, ?_, hfin.answered⟩
  rw [hfin.net, hchange s.dev rfl]

end

/-- Settles O44: the channel's command is taken and runs, and its answer stands. -/
theorem mailboxUpdateResults : Obligations.MailboxUpdateResults := by
  unfold Obligations.MailboxUpdateResults
  intro s p d req k b
  refine ⟨fun h hlen hk hzero hsize => updateBegin_results h rfl hlen hk hzero hsize, fun h hleast hmost hk hzero hsize => ?_,
    fun h hlen hk => updateEnd_results h rfl hlen hk, fun h hlen hk hupdating hswitching => ⟨fun hstaged => switch_unstaged h rfl hstaged,
      fun hstaged i himg hvalid hptr => switch_staged h rfl hlen hk hupdating hswitching hstaged himg hvalid hptr⟩,
    fun h hc hb => ⟨fun hlen habort => canTx_results h hc hb ⟨rfl, rfl⟩ hlen habort,
      fun hlen habort => canTxAbort_results h hc hb ⟨rfl, rfl⟩ hlen habort⟩, fun q h hq => ?_⟩
  · obtain ⟨u, hexec, hanswered, hslot⟩ := updateData_results h rfl hleast hmost hk hzero hsize
    have hlen : (req.drop 8).length = req.length - 8 := List.length_drop
    refine ⟨u, hexec, hanswered, ?_, fun o ho => ?_⟩
    · rw [hslot, ← hlen]
      exact read_write _ _ _
    · rw [hslot]
      exact read_write_beside _ _ (by rwa [hlen])
  · obtain ⟨u, hexec, hnet, hanswered⟩ := netReq_results h hq
    exact ⟨u, hexec, congrArg Net.fdb hnet, congrArg Net.vlans hnet, hanswered⟩

end Sys2Proof.Machine
end

section
/-! PROOFS. Ethernet frames (R402, R404, R405, R408, R410, R411): the bridge of O47. -/

namespace Sys2Proof.Machine

/-! ### A frame comes in (R402 to R405) -/

section
variable {d : Dev} {n : Nat} {b : List Byte} {stamp : Nat}

/-- A frame of an enabled external port that comes in whole. -/
def enteredFrame (d : Dev) (n : Nat) (b : List Byte) (stamp : Nat) : EFrame :=
  { bytes := b, tc := bits (d.fld netPcpmapMap) (3 * (frameHead b).pcp + 2) (3 * (frameHead b).pcp),
    instant := ingressStamp d n stamp / 32 }

/-- The bridge when it forwards: it may have learned the source address (R403). -/
def learned (d : Dev) (n : Nat) (b : List Byte) : Dev := if bit (vlanPorts d (frameHead b).vid) n then learn d (frameHead b) n else d

theorem frameIngress_of_bad (stamp : Nat) : frameIngress n b false stamp d = d :=
  if_pos (by rw [Bool.not_false, Bool.or_true])

theorem open_of_enabled (hn : n < 4) (hon : d.flag netCtrlEnable = true) (hport : d.flag netPortCfgEnable n = true) :
    ¬ (!(decide (n < 4) || decide (n = 5)) || !d.flag netCtrlEnable || (decide (n < 4) && !d.flag netPortCfgEnable n) || !true) = true := by
  rw [hon, hport, decide_eq_true hn]
  exact Bool.false_ne_true

theorem frameIngress_of_long (hn : n < 4) (hon : d.flag netCtrlEnable = true) (hport : d.flag netPortCfgEnable n = true)
    (h : 2048 < b.length) : frameIngress n b true stamp d = d.incFld netPortDropFrame n :=
  (if_neg (open_of_enabled hn hon hport)).trans (if_pos h)

theorem egressPorts_of_external (hn : n < 4) (h : FrameHead) (named : Nat) : egressPorts d h n named = egressPorts d h n 0 := by
  rw [egressPorts, egressPorts, if_neg (c := n = 5) (by omega), if_neg (c := n = 5) (by omega)]

theorem carriedStamp_of_external (hn : n < 4) : carriedStamp d n = none := by
  rw [carriedStamp, decide_eq_false (by omega), Bool.false_and, if_neg Bool.false_ne_true]

/-- A frame of an allowed length goes to each of its ports in turn. -/
theorem frameIngress_of_whole (hn : n < 4) (hon : d.flag netCtrlEnable = true) (hport : d.flag netPortCfgEnable n = true)
    (hleast : 18 ≤ b.length) (hmost : b.length ≤ 2048) : frameIngress n b true stamp d =
      (egressPorts d (frameHead b) n 0).foldl (forward (frameHead b) (enteredFrame d n b stamp) n) (learned d n b) := by
  refine (if_neg (open_of_enabled hn hon hport)).trans ((if_neg (Nat.not_lt.mpr hmost)).trans ((if_neg (Nat.not_lt.mpr hleast)).trans ?_))
  dsimp only
  rw [egressPorts_of_external hn, carriedStamp_of_external hn, if_neg (c := n = 5) (by omega)]
  rfl

section
variable {h : FrameHead} {f : EFrame} {p : Nat}

/-- A frame for port 4 passes where no frame of its class or a higher one waits and its gate is open. -/
theorem forward_through (hf : f.stamp = none)
    (hthrough : ((d.port 4).queue.all (fun g => decide (g.tc < f.tc)) && gateOpen d 4 f.tc f.bytes.length) = true) :
    forward h f n d 4 = toPort4 d h f.instant := by
  have hpass : throughPort4 d f = true := by rw [throughPort4, hf, Option.isNone_none, Bool.true_and]; exact hthrough
  refine (if_neg (by decide)).trans (if_pos ?_)
  rw [hpass]
  rfl

/-- Any other frame waits at its port, or is dropped. -/
theorem forward_waits (hp : p ≤ 4) (hf : f.stamp = none)
    (hwaits : p = 4 → ((d.port 4).queue.all (fun g => decide (g.tc < f.tc)) && gateOpen d 4 f.tc f.bytes.length) = false) :
    forward h f n d p = if !bufferRoom d f.tc f.bytes.length then bufferDrop d n
      else d.updPort p fun q => { q with queue := q.queue ++ [f] } := by
  refine (if_neg (by omega)).trans (if_neg ?_)
  rw [Bool.and_eq_true, decide_eq_true_eq]
  rintro ⟨h4, hpass⟩
  rw [throughPort4, hf, Option.isNone_none, Bool.true_and, hwaits h4] at hpass
  exact Bool.false_ne_true hpass

end

/-- Without a filter that matches, a frame to port 4 is discarded and counted. -/
theorem toPort4_of_unmatched {h : FrameHead} (instant : Nat)
    (hnone : ((upto 16).all fun f => !filterMatches (streamFilter d f) h) = true) : toPort4 d h instant = d.incFld netPortDropFrame 4 := by
  have hfind : ((upto 16).find? fun f => filterMatches (streamFilter d f) h) = none :=
    List.find?_eq_none.mpr fun f hf => by simpa using List.all_eq_true.mp hnone f hf
  rw [toPort4, hfind]

/-- The first filter that matches delivers to its stream FIFO. -/
theorem toPort4_of_matched {h : FrameHead} {f : Nat} (instant : Nat)
    (hfind : ((upto 16).find? fun f => filterMatches (streamFilter d f) h) = some f)
    (hplain : bit (recLe (streamFilter d f) 10 1) 4 = false) (hfifo : fifoOn d (bits (recLe (streamFilter d f) 10 1) 2 0) = true)
    (hsrc : d.fld streamCfgSrc (bits (recLe (streamFilter d f) 10 1) 2 0) = 0) : toPort4 d h instant =
      fifoFrame d (bits (recLe (streamFilter d f) 10 1) 2 0) f instant false (h.rest.drop (recLe (streamFilter d f) 12 2)) h.bytes := by
  rw [toPort4, hfind]
  dsimp only
  rw [hplain, if_pos (by rfl), if_pos]
  rw [hfifo, hsrc]
  rfl

end

/-! ### Gate control (R404) -/

def netPortGclReg : RDef := ⟨rNetPortGcl, 0x20, 6, false, false, .network, [⟨6, 0, .rw, 0⟩, ⟨7, 7, .w1s, 0⟩]⟩

theorem findReg_netPortGcl : ∀ n < 5, findReg (rNetPortGcl + 0x20 * n) = some netPortGclReg := by decide +kernel

theorem netPortGclReg_wordByCodes : netPortGclReg.WordByCodes := ⟨rfl, rfl, by decide, by decide, by simp [netPortGclReg, FDef.apart]⟩

theorem bit_or_change (v : U32) : bit ((v.toNat ||| 0x80) % 2 ^ 32) 7 = true := by
  rw [bit_eq_testBit, Nat.testBit_mod_two_pow, Nat.testBit_or]
  simp [Nat.testBit]

/-- CHANGE is no part of the admin list. -/
theorem adminList_setFld_change {d : Dev} {n : Nat} (hn : n < 5) : adminList (d.setFld netPortGclChange 1 n) n = adminList d n := by
  have hbeside {f : Fld} (hf : netPortGclChange.beside f = true) : (d.setFld netPortGclChange 1 n).fld f n = d.fld f n :=
    Dev.fld_setFld_of_beside _ _ _ _ _ hf
  have hentry {f : Fld} (i : Nat) (hf : f.base = 0xA400) : (d.setFld netPortGclChange 1 n).fld f i = d.fld f i :=
    Dev.fld_setFld_ne _ _ _ _ _ _ (.inr (by simp only [hf, netPortGclChange, b2n, Bool.false_eq_true, if_false]; omega))
  have hnow : (d.setFld netPortGclChange 1 n).now = d.now := rfl
  simp only [adminList, hnow, hentry _ (show netGclEntryGates.base = 0xA400 from rfl), hentry _ (show netGclEntryInterval.base = 0xA400 from rfl),
    hbeside (f := netPortGclLen) (by decide), hbeside (f := netPortCycleNs) (by decide), hbeside (f := netPortBaseNs) (by decide)]

/-- CHANGE is written: the admin list stands as the registers have it. -/
theorem gclChangeBit_facts {d : Dev} {n : Nat} (hn : n < 5) : (gclChangeBit n d).fld netPortGclChange n = 1 ∧
    ((gclChangeBit n d).port n).admin = some (adminList (gclChangeBit n d) n) ∧ ((gclChangeBit n d).port n).gates = (d.port n).gates := by
  have hset : gclChangeBit n d = (d.setFld netPortGclChange 1 n).updPort n fun p => { p with admin := some (adminList d n) } := if_pos hn
  have hlist : adminList (gclChangeBit n d) n = adminList d n := by
    rw [hset]
    exact adminList_setFld_change hn
  rw [hlist, hset]
  refine ⟨?_, ?_, ?_⟩
  · exact (Dev.fld_setFld _ _ _ _ (by decide) (by decide) : (d.setFld netPortGclChange 1 n).fld netPortGclChange n = 1)
  · rw [Dev.port_updPort_self]
  · rw [Dev.port_updPort_self]
    rfl

theorem gclChange_of_reached {s : State} {p : Port} {n : Nat} {r : RDef} (v : U32) (hn : n < 5)
    (h : Reached s.dev p (rNetPortGcl + 0x20 * n) 4 true r n) :
    ∃ e, exec (.gclChange p n v) s = leaves s (gclChangeBit n e) ∧ e.net = s.dev.net := by
  refine ⟨writeByCodes p netPortGclReg n ((v.toNat ||| 0x80) % 2 ^ 32) s.dev, ?_, (netPortGclReg_wordByCodes.regsWritten _ _ _ _).net⟩
  rw [exec_gclChange, execGclChange, arrayWrite, if_pos hn,
    cmdWrite_command _ h (findReg_netPortGcl n hn) netPortGclReg_wordByCodes (by decide)]
  exact congrArg (leaves s) (if_pos (bit_or_change v))

/-- The admin list takes effect at its cycle start. -/
theorem gclInstall_of_due {d : Dev} {n : Nat} {g : GateList} (hg : (d.port n).admin = some g) (hdue : g.due ≤ d.now) :
    ((gclInstall n d).port n).admin = none ∧ ((gclInstall n d).port n).gates = some { g with idx := (gateAt g d.now).1 } ∧
      (gclInstall n d).fld netPortGclChange n = 0 := by
  have hset : gclInstall n d =
      (d.updPort n fun p => { p with gates := some { g with idx := (gateAt g d.now).1 }, admin := none }).setFld netPortGclChange 0 n := by
    rw [gclInstall, hg]
    exact if_neg (Nat.not_lt.mpr hdue)
  have hport (e : Dev) : (e.setFld netPortGclChange 0 n).port n = e.port n := rfl
  rw [hset, hport, Dev.port_updPort_self]
  exact ⟨rfl, rfl, Dev.fld_setFld _ _ _ _ (by decide) (by decide)⟩

theorem gclInstall_of_early {d : Dev} {n : Nat} {g : GateList} (hg : (d.port n).admin = some g) (hdue : d.now < g.due) :
    gclInstall n d = d := by
  rw [gclInstall, hg]
  exact if_pos hdue

/-- The gate states of the entry in force. -/
def gatesNow (n : Nat) (d : Dev) : Dev := match (d.port n).gates with
  | none => d
  | some g => d.updPort n fun p => { p with gates := some { g with idx := (gateAt g d.now).1 } }

theorem exec_gateIntervalEnd_eq (s : State) (n : Nat) : exec (.gateIntervalEnd n) s = leaves s (gatesNow n s.dev) := rfl

theorem gatesNow_of_list {d : Dev} {n : Nat} {g : GateList} (hg : (d.port n).gates = some g) :
    gatesNow n d = d.updPort n fun p => { p with gates := some { g with idx := (gateAt g d.now).1 } } := by
  rw [gatesNow, hg]

/-! ### Launches (R410, R411) -/

section
variable {d : Dev} {n : Nat} {f : EFrame}

theorem frameLaunch_of_eligible (hn : n < 4) (hport : d.flag netPortCfgEnable n = true) (hidle : (d.port n).sending = none)
    (hf : earliest (launchable d n) = some f) :
    frameLaunch n d = d.updPort n fun p => { p with launches := p.launches.erase f, sending := some f } := by
  rw [frameLaunch, hport, hidle, decide_eq_false (Nat.not_le.mpr hn), if_neg (by decide), hf]

/-- The port's one launch is late: it is counted, and dropped or kept. -/
theorem launchLate_of_single {t late : Nat} {again : Bool} (hone : (d.port n).launches = [f]) (hlaunch : f.launch = some (t, late, again))
    (hlate : t + late < d.now) :
    (d.fld netPortDropLate n < 65535 → (launchLate n d).fld netPortDropLate n = d.fld netPortDropLate n + 1) ∧
    (again = false → ((launchLate n d).port n).launches = []) ∧ (again = true → ((launchLate n d).port n).launches.length = 1) := by
  have hcount (e : Dev) (he : e.regs = (d.incFld netPortDropLate n).regs) (hlt : d.fld netPortDropLate n < 65535) :
      e.fld netPortDropLate n = d.fld netPortDropLate n + 1 := by
    rw [Dev.fld, he]
    refine (Dev.fld_setFld _ _ _ _ (by decide) (by decide)).trans ?_
    simp only [satInc, netPortDropLate] at hlt ⊢
    omega
  have hport : (d.incFld netPortDropLate n).port n = d.port n := rfl
  unfold launchLate
  rw [hone, List.filter_cons_of_pos (by rw [hlaunch]; exact decide_eq_true hlate), List.filter_nil]
  simp only [earliest, hlaunch]
  cases again with
  | false =>
    refine ⟨hcount _ rfl, fun _ => ?_, nofun⟩
    rw [Dev.port_updPort_self, hport, hone]
    exact List.erase_cons_head (a := f) (l := [])
  | true =>
    refine ⟨hcount _ rfl, nofun, fun _ => ?_⟩
    rw [Dev.port_updPort_self, hport, hone]
    rfl

/-! ### A frame leaves (R408) -/

/-- The stamp of a frame that leaves: it enters the port's queue while there is room. -/
theorem putStamp_facts (id : Option Nat) (t : Nat) : (putStamp d n id t).out = d.out ∧ ((putStamp d n id t).port n).sending = (d.port n).sending ∧
    (id = none → putStamp d n id t = d) ∧
    (∀ i, id = some i → (d.port n).stamps.length < 16 → ((putStamp d n id t).port n).stamps = (d.port n).stamps ++ [(t * 2 ^ 27, i)]) ∧
    (∀ i, id = some i → 16 ≤ (d.port n).stamps.length → ((putStamp d n id t).port n).stamps = (d.port n).stamps) := by
  cases id with
  | none => exact ⟨rfl, rfl, fun _ => rfl, nofun, nofun⟩
  | some j =>
    by_cases hfull : 16 ≤ (d.port n).stamps.length
    · have hput : putStamp d n (some j) t =
          (d.setFld timeStatusTsOverflow (d.fld timeStatusTsOverflow ||| 2 ^ n)).incFld timeTsqOvfCount n := if_pos hfull
      rw [hput]
      exact ⟨rfl, rfl, nofun, fun _ _ hlt => absurd hfull (Nat.not_le.mpr hlt), fun _ _ _ => rfl⟩
    · have hput : putStamp d n (some j) t = d.updPort n fun p => { p with stamps := p.stamps ++ [(t * 2 ^ 27, j)] } := if_neg hfull
      rw [hput]
      refine ⟨rfl, by rw [Dev.port_updPort_self], nofun, fun i hi _ => ?_, fun _ _ hge => absurd hge hfull⟩
      cases hi
      rw [Dev.port_updPort_self]

/-- A frame leaves an external port: on the wire, with its stamp. -/
theorem sendFrame_facts {e : Dev} {stamp : Nat} (hn : n < 4) (hout : e.out = d.out) (hregs : e.regs = d.regs)
    (hsending : (e.port n).sending = none) (hstamps : (e.port n).stamps = (d.port n).stamps) :
    (sendFrame n stamp e f).out = d.out ++ [.frame n f.bytes] ∧ ((sendFrame n stamp e f).port n).sending = none ∧
    (f.stamp = none → ((sendFrame n stamp e f).port n).stamps = (d.port n).stamps) ∧
    (∀ id, f.stamp = some id → (d.port n).stamps.length < 16 →
      ((sendFrame n stamp e f).port n).stamps = (d.port n).stamps ++ [(egressStamp d n stamp * 2 ^ 27, id)]) ∧
    (∀ id, f.stamp = some id → 16 ≤ (d.port n).stamps.length → ((sendFrame n stamp e f).port n).stamps = (d.port n).stamps) := by
  have hsend : sendFrame n stamp e f = putStamp (e.emit (.frame n f.bytes)) n f.stamp (egressStamp e n stamp) := by
    rw [sendFrame, if_neg (Nat.ne_of_lt hn)]
  have hport : (e.emit (.frame n f.bytes)).port n = e.port n := rfl
  have hstamp : egressStamp e n stamp = egressStamp d n stamp := by simp only [egressStamp, macCorrection, Dev.fld, hregs]
  obtain ⟨hout', hsending', hnone, hroom, hfull⟩ := putStamp_facts (d := e.emit (.frame n f.bytes)) (n := n) f.stamp (egressStamp e n stamp)
  rw [hport, hstamps] at hroom hfull
  rw [hsend]
  refine ⟨hout'.trans (congrArg (· ++ [OutItem.frame n f.bytes]) hout), hsending'.trans hsending, fun hf => ?_, ?_, hfull⟩
  · rw [hnone hf, hport, hstamps]
  · rwa [hstamp] at hroom ⊢

theorem frameEgress_of_external {stamp : Nat} (hn : n < 4) (hport : d.flag netPortCfgEnable n = true) (hon : d.flag netCtrlEnable = true) :
    frameEgress n stamp d = match (d.port n).sending with
      | some f => sendFrame n stamp (d.updPort n fun p => { p with sending := none }) f
      | none => if launchable d n ≠ [] then d else match selectFrame d n with
        | none => d
        | some f => sendFrame n stamp (d.updPort n fun p => { p with queue := p.queue.erase f }) f := by
  refine if_neg ?_
  rw [hport, hon, decide_eq_false (by omega)]
  simp

/-- What leaves an external port: the frame in transmission, or the one selected. -/
theorem frameEgress_facts {stamp : Nat} (hn : n < 4) (hport : d.flag netPortCfgEnable n = true) (hon : d.flag netCtrlEnable = true)
    (hf : (d.port n).sending = some f ∨ ((d.port n).sending = none ∧ launchable d n = [] ∧ selectFrame d n = some f)) :
    ∃ e, frameEgress n stamp d = sendFrame n stamp e f ∧ e.out = d.out ∧ e.regs = d.regs ∧ (e.port n).sending = none ∧
      (e.port n).stamps = (d.port n).stamps := by
  have hframe := frameEgress_of_external (stamp := stamp) hn hport hon
  rcases hf with hsending | ⟨hidle, hnone, hselect⟩
  · rw [hsending] at hframe
    exact ⟨_, hframe, rfl, rfl, by rw [Dev.port_updPort_self], by rw [Dev.port_updPort_self]⟩
  · rw [hidle, hnone, hselect] at hframe
    exact ⟨_, hframe.trans (if_neg (not_not_intro rfl)), rfl, rfl, by rw [Dev.port_updPort_self]; exact hidle, by rw [Dev.port_updPort_self]⟩

theorem sendFrame_of_fabric (stamp : Nat) (hf : f.stamp = none) : sendFrame 4 stamp d f = toPort4 d (frameHead f.bytes) f.instant := by
  unfold sendFrame
  rw [hf]
  rfl

/-- A frame that port 4 selects passes through the stream filters. -/
theorem frameEgress_of_fabric (stamp : Nat) (hon : d.flag netCtrlEnable = true) (hidle : (d.port 4).sending = none)
    (hnone : launchable d 4 = []) (hselect : selectFrame d 4 = some f) (hf : f.stamp = none) : frameEgress 4 stamp d =
      toPort4 (d.updPort 4 fun q => { q with queue := q.queue.erase f }) (frameHead f.bytes) f.instant := by
  unfold frameEgress
  have hopen : ¬ (decide (5 ≤ 4) || (decide (4 ≠ 4) && !d.flag netPortCfgEnable 4) || !true) = true := Bool.false_ne_true
  rw [hon, if_neg hopen, hidle, hnone, hselect]
  exact (if_neg (not_not_intro rfl)).trans (sendFrame_of_fabric stamp hf)

end

end Sys2Proof.Machine
end

section
/-! PROOFS. CAN frames (R412 to R414, R424), and with them O47. -/

namespace Sys2Proof.Machine

/-! ### Error counts (R412) -/

section
variable {d e g : Dev} {c : Nat}

/-- Nothing but controller `c`'s error counts and the free choices made so far has changed. -/
def CountsWritten (c : Nat) (d e : Dev) : Prop := ∃ b n, e = { d with regs := b, freeCtr := n } ∧
  ∀ o, o ≠ netCanStatusState.base + c * netCanStatusState.stride → bankWord b o = bankWord d.regs o

theorem CountsWritten.refl (c : Nat) (d : Dev) : CountsWritten c d d := ⟨_, _, rfl, fun _ _ => rfl⟩

theorem CountsWritten.trans (h : CountsWritten c d e) (h' : CountsWritten c e g) : CountsWritten c d g := by
  obtain ⟨b, n, rfl, hb⟩ := h
  obtain ⟨b', n', rfl, hb'⟩ := h'
  exact ⟨b', n', rfl, fun o ho => (hb' o ho).trans (hb o ho)⟩

theorem CountsWritten.bump (h : CountsWritten c d e) : CountsWritten c d e.bump := by
  obtain ⟨b, n, rfl, hb⟩ := h
  exact ⟨b, _, rfl, hb⟩

theorem CountsWritten.word (h : CountsWritten c d e) {o : Nat} (ho : o ≠ netCanStatusState.base + c * netCanStatusState.stride) :
    bankWord e.regs o = bankWord d.regs o := by
  obtain ⟨b, n, rfl, hb⟩ := h
  exact hb o ho

theorem CountsWritten.fld (h : CountsWritten c d e) {f : Fld} {i : Nat} (hw : f.wide = false)
    (hf : f.base + i * f.stride ≠ netCanStatusState.base + c * netCanStatusState.stride) : e.fld f i = d.fld f i :=
  Dev.fld_congr_word hw (h.word hf)

theorem CountsWritten.fifos (h : CountsWritten c d e) : e.fifos = d.fifos := by obtain ⟨b, n, rfl, -⟩ := h; rfl
theorem CountsWritten.out (h : CountsWritten c d e) : e.out = d.out := by obtain ⟨b, n, rfl, -⟩ := h; rfl
theorem CountsWritten.now (h : CountsWritten c d e) : e.now = d.now := by obtain ⟨b, n, rfl, -⟩ := h; rfl

/-- The transmit buffers stand elsewhere. -/
theorem CountsWritten.canBuf (h : CountsWritten c d e) (hc : c < 2) (i k : Nat) : canBufBytes e i k = canBufBytes d i k :=
  canBufBytes_congr fun o ho => h.word (by simp only [netCanStatusState, rCanTxbuf0] at ho ⊢; omega)

/-- So do the acceptance filters. -/
theorem CountsWritten.canFilter (h : CountsWritten c d e) (hc : c < 2) (k f : Nat) : canFilter e k f = canFilter d k f := by
  have hword (o : Nat) (ho : rCanFilter ≤ o) : bankWord e.regs o = bankWord d.regs o :=
    h.word (by simp only [netCanStatusState, rCanFilter] at ho ⊢; omega)
  rw [Machine.canFilter, Machine.canFilter, hword _ (by omega), hword _ (by omega)]

theorem setCanCounts_written (d : Dev) (c tec rec_ : Nat) : CountsWritten c d (setCanCounts d c tec rec_) :=
  ⟨_, d.freeCtr, rfl, fun _ ho => (Dev.setFld_word_ne _ netCanStatusState c _ ho nofun).trans
    ((Dev.setFld_word_ne _ netCanStatusRec c _ ho nofun).trans (Dev.setFld_word_ne d netCanStatusTec c _ ho nofun))⟩

theorem setCanCounts_tec (d : Dev) (c tec rec_ : Nat) : (setCanCounts d c tec rec_).fld netCanStatusTec c = min 255 tec := by
  refine (Dev.fld_setFld_of_beside _ netCanStatusState _ _ _ (by decide)).trans
    ((Dev.fld_setFld_of_beside _ netCanStatusRec _ _ _ (by decide)).trans ((Dev.fld_setFld _ _ _ _ (by decide) (by decide)).trans ?_))
  simp only [netCanStatusTec]
  omega

theorem canErrors_written (c : Nat) (tx : Bool) (d : Dev) : CountsWritten c d (canErrors c tx d) := by
  unfold canErrors
  split
  · exact .refl c d
  · exact ((CountsWritten.refl c d).bump.bump).trans (setCanCounts_written _ _ _ _)

theorem tec_lt (d : Dev) (c : Nat) : d.fld netCanStatusTec c < 256 := bits_lt _ 9 2

/-! ### A received frame becomes an entry (R413) -/

/-- An event of a FIFO changes rings and counts, not the FIFOs. -/
theorem raiseTrigger_fifos (d : Dev) (k instant : Nat) : (raiseTrigger d k instant).fifos = d.fifos := by
  unfold raiseTrigger
  split
  · rfl
  · dsimp only
    split <;> rfl

theorem fifoEvent_fifos (d : Dev) (n instant : Nat) : (fifoEvent d n instant).fifos = d.fifos := by
  refine foldl_keeps Dev.fifos _ (fun e k => ?_) _ d
  split
  · exact raiseTrigger_fifos e k instant
  · rfl

/-- A good frame takes a free entry. -/
theorem fifoFrame_of_free {n : Nat} (src instant : Nat) {payload : List Byte} (hfree : fifoFree d n = true)
    (hfits : payload.length ≤ fifoPayload d n) : fifoFrame d n src instant false payload = fifoPut d n src instant payload :=
  (if_pos hfree).trans (if_neg (by rw [Bool.false_or, decide_eq_true_eq]; omega))

theorem fifoPut_entries (d : Dev) (n src instant : Nat) (payload : List Byte) : ((fifoPut d n src instant payload).fifo n).entries =
    (d.fifo n).entries ++ [{ seq := (d.fifo n).nextSeq % 2 ^ 32, bad := false, src := src, tIngress := instant, payload := payload }] := by
  rw [fifoPut, Dev.fifo, fifoEvent_fifos]
  exact congrArg Fifo.entries (Dev.fifo_updFifo_self d n _)

theorem canData_length {id : Nat} (dlc : Nat) (data : List Byte) (hclassic : bit id 30 = false) : (canData id dlc data).length = 64 := by
  have hdlc : dlcBytes (bit id 30) (dlc % 16) ≤ 8 := by
    rw [hclassic, dlcBytes]
    split
    · assumption
    · rw [if_neg Bool.false_ne_true]
  rw [canData, List.length_append, List.length_replicate, List.length_take]
  omega

/-- The device when a frame that controller `c` received has been counted. -/
def canCounted (c : Nat) (d : Dev) : Dev :=
  let e := canErrors c false d
  let rec_ := e.fld netCanStatusRec c
  setCanCounts e c (e.fld netCanStatusTec c) (if 127 < rec_ then 127 else rec_ - 1)

theorem canCounted_written (c : Nat) (d : Dev) : CountsWritten c d (canCounted c d) :=
  (canErrors_written c false d).trans (setCanCounts_written _ _ _ _)

/-- The bytes of a received frame's entry. -/
def canPayload (c id dlc : Nat) (data : List Byte) : List Byte :=
  leBytes 4 id ++ leBytes 1 dlc ++ leBytes 1 c ++ leBytes 2 0 ++ canData id dlc data

theorem canRx_of_classic {id : Nat} (dlc : Nat) (data : List Byte) (hon : canOn d c = true) (hclassic : bit id 30 = false) :
    canRx c id dlc data d = match (upto 32).find? fun f => canMatches (canFilter (canCounted c d) c f) id with
      | none => canCounted c d
      | some f =>
        let e := canCounted c d
        let n := bits (canFilter e c f) 63 61
        if fifoOn e n && e.fld streamCfgSrc n = 0 then
          fifoFrame e.bump n ((Config.freeU64 e.freeCtr).toNat % 256) (canInstant e) false (canPayload c id dlc data)
        else e := by
  refine if_neg ?_
  rw [hon, hclassic]
  exact Bool.false_ne_true

theorem canRx_of_unmatched {id : Nat} (dlc : Nat) (data : List Byte) (hc : c < 2) (hon : canOn d c = true) (hclassic : bit id 30 = false)
    (hnone : ((upto 32).all fun f => !canMatches (canFilter d c f) id) = true) : canRx c id dlc data d = canCounted c d := by
  have hfind : ((upto 32).find? fun f => canMatches (canFilter d c f) id) = none :=
    List.find?_eq_none.mpr fun f hf => by simpa using List.all_eq_true.mp hnone f hf
  rw [canRx_of_classic dlc data hon hclassic]
  simp only [(canCounted_written c d).canFilter hc, hfind]

theorem canRx_of_matched {id f : Nat} (dlc : Nat) (data : List Byte) (hc : c < 2) (hon : canOn d c = true) (hclassic : bit id 30 = false)
    (hfind : ((upto 32).find? fun f => canMatches (canFilter d c f) id) = some f)
    (hfifo : fifoOn d (bits (canFilter d c f) 63 61) = true) (hsrc : d.fld streamCfgSrc (bits (canFilter d c f) 63 61) = 0)
    (hfree : fifoFree d (bits (canFilter d c f) 63 61) = true) (hroom : 72 ≤ fifoPayload d (bits (canFilter d c f) 63 61)) :
    ∃ src t, t ≤ d.now ∧ ((canRx c id dlc data d).fifo (bits (canFilter d c f) 63 61)).entries =
      (d.fifo (bits (canFilter d c f) 63 61)).entries ++
        [⟨(d.fifo (bits (canFilter d c f) 63 61)).nextSeq % 2 ^ 32, false, src, t, canPayload c id dlc data, false, []⟩] := by
  have hw := canCounted_written c d
  set e := canCounted c d with he
  set n := bits (canFilter d c f) 63 61 with hn
  have hn8 : n < 8 := bits_lt _ 63 61
  have hfld (g : Fld) (hwide : g.wide = false) (hb : g.base + 7 * g.stride < netCanStatusState.base) : e.fld g n = d.fld g n := by
    have hmul := Nat.mul_le_mul_right g.stride (Nat.le_of_lt_succ hn8)
    exact hw.fld hwide (by omega)
  have hcfg : fifoOn e n = fifoOn d n := by
    rw [fifoOn, fifoOn, Dev.flag, Dev.flag, Dev.flag, Dev.flag, hfld streamCfgEnable rfl (by decide),
      hw.fld (f := hostqStatusFifoCfgErr) rfl (by simp only [hostqStatusFifoCfgErr, netCanStatusState]; omega)]
  have hfifos (i : Nat) : e.fifo i = d.fifo i := by rw [Dev.fifo, hw.fifos, Dev.fifo]
  have hfree' : fifoFree e n = true := by rw [fifoFree, fifoDepth, hfifos, hfld streamCfgDepth rfl (by decide)]; exact hfree
  have hfits : (canPayload c id dlc data).length ≤ fifoPayload e n := by
    rw [fifoPayload, hfld streamCfgEntry64 rfl (by decide), canPayload]
    simp only [List.length_append, leBytes_length, canData_length dlc data hclassic]
    exact hroom
  have htake : (fifoOn e n && e.fld streamCfgSrc n = 0) = true := by rw [hcfg, hfifo, hfld streamCfgSrc rfl (by decide), hsrc]; rfl
  have hrx : canRx c id dlc data d = fifoPut e.bump n ((Config.freeU64 e.freeCtr).toNat % 256) (canInstant e) (canPayload c id dlc data) := by
    rw [canRx_of_classic dlc data hon hclassic, ← he]
    simp only [hw.canFilter hc, hfind, ← hn]
    rw [if_pos htake]
    exact fifoFrame_of_free _ _ hfree' hfits
  refine ⟨(Config.freeU64 e.freeCtr).toNat % 256, canInstant e, ?_, ?_⟩
  · rw [canInstant, hw.now]
    exact Nat.le_of_lt_succ (Nat.mod_lt _ (Nat.succ_pos _))
  · rw [hrx, fifoPut_entries, ← hfifos n]
    rfl

end

/-! ### A frame is sent (R412, R414) -/

section
variable {d : Dev} {c b : Nat}

theorem canTxFrame_of_offered (hb : b < 16) (hon : canOn d c = true) (hlisten : d.flag netCanCfgListen c = false)
    (hoffered : canOffered d c b = true) (hfirst : canFirst d c b = true) :
    canTxFrame c b d = if !canOn (canErrors c true d) c then canErrors c true d
      else
        let e := canErrors c true d
        let l := canBufBytes e c b
        let id := recLe l 0 4
        let dlc := recLe l 4 1
        let g := e.emit (.can c (BitVec.ofNat 32 id) (BitVec.ofNat 8 dlc) ((l.drop 16).take (dlcBytes (bit id 30) (dlc % 16))))
        setCanCounts (setCanPending g c b false) c (g.fld netCanStatusTec c - 1) (g.fld netCanStatusRec c) := by
  refine if_neg ?_
  rw [hon, hlisten, hoffered, hfirst, decide_eq_false (Nat.not_le.mpr hb)]
  exact Bool.false_ne_true

/-- A frame sent: its buffer no longer pends, and the transmit count falls. -/
theorem canTxFrame_facts (hc : c < 2) (hb : b < 16) (hon : canOn d c = true) (hlisten : d.flag netCanCfgListen c = false)
    (hoffered : canOffered d c b = true) (hfirst : canFirst d c b = true) :
    let l := canBufBytes d c b
    let met := canErrors c true d
    let id := recLe l 0 4
    let dlc := recLe l 4 1
    (canOn met c = false → canTxFrame c b d = met) ∧
    (canOn met c = true → canPending (canTxFrame c b d) c b = false ∧
      (canTxFrame c b d).out = d.out ++ [.can c (BitVec.ofNat 32 id) (BitVec.ofNat 8 dlc) ((l.drop 16).take (dlcBytes (bit id 30) (dlc % 16)))] ∧
      (canTxFrame c b d).fld netCanStatusTec c = met.fld netCanStatusTec c - 1 ∧
      ∀ k < 16, k ≠ b → canPending (canTxFrame c b d) c k = canPending d c k ∧ canBufBytes (canTxFrame c b d) c k = canBufBytes d c k) := by
  intro l met id dlc
  have htx := canTxFrame_of_offered hb hon hlisten hoffered hfirst
  have hmet : CountsWritten c d met := canErrors_written c true d
  refine ⟨fun hoff => htx.trans (if_pos (by rw [show canOn (canErrors c true d) c = false from hoff]; rfl)), fun hstill => ?_⟩
  have hsent := htx.trans (if_neg (by rw [show canOn (canErrors c true d) c = true from hstill]; exact Bool.false_ne_true))
  dsimp only at hsent
  rw [hmet.canBuf hc] at hsent
  set item : OutItem := .can c (BitVec.ofNat 32 id) (BitVec.ofNat 8 dlc) ((l.drop 16).take (dlcBytes (bit id 30) (dlc % 16)))
  have hbuf (k : Nat) : canBufBytes (canTxFrame c b d) c k = canBufBytes (setCanPending (met.emit item) c b false) c k := by
    rw [hsent]
    exact (setCanCounts_written _ _ _ _).canBuf hc c k
  refine ⟨(canPending_congr (hbuf b)).trans (canPending_setCanPending false), ?_, ?_, fun k _ hk => ?_⟩
  · rw [hsent, (setCanCounts_written _ _ _ _).out]
    exact congrArg (· ++ [item]) hmet.out
  · rw [hsent, setCanCounts_tec]
    have := tec_lt (canErrors c true d) c
    exact Nat.min_eq_right (by rw [Dev.emit_fld]; omega)
  · have hother : canBufBytes (canTxFrame c b d) c k = canBufBytes d c k :=
      (hbuf k).trans ((canBufBytes_setCanBuf_ne _ hk).trans (hmet.canBuf hc c k))
    exact ⟨canPending_congr hother, hother⟩

/-- The controller is back on the bus, with no errors counted. -/
theorem canBack_facts (d : Dev) (c : Nat) :
    let e := ((d.setFld netCanStatusState 0 c).setFld netCanStatusTec 0 c).setFld netCanStatusRec 0 c
    e.fld netCanStatusState c = 0 ∧ e.fld netCanStatusTec c = 0 ∧ e.fld netCanStatusRec c = 0 :=
  ⟨(Dev.fld_setFld_of_beside _ netCanStatusRec _ _ _ (by decide)).trans
      ((Dev.fld_setFld_of_beside _ netCanStatusTec _ _ _ (by decide)).trans (Dev.fld_setFld _ _ _ _ (by decide) (by decide))),
    (Dev.fld_setFld_of_beside _ netCanStatusRec _ _ _ (by decide)).trans (Dev.fld_setFld _ _ _ _ (by decide) (by decide)),
    Dev.fld_setFld _ _ _ _ (by decide) (by decide)⟩

end

/-- Settles O47: a frame that comes in takes the first of the ways that its head and the bridge leave open; one that leaves takes its
stamp with it; the CAN controllers' error counts stand in a register of their own. -/
theorem frameResults : Obligations.FrameResults := by
  unfold Obligations.FrameResults
  refine ⟨fun s n => ?bridge, fun s c hc => ?can⟩
  case bridge =>
    intro d
    refine ⟨fun b stamp hn hon hport => ⟨?_, ?_, ?_⟩, fun f => rfl, fun p v hn ⟨r, hr⟩ => ?_, fun g hg => ⟨fun hdue => ?_, fun hearly => ?_⟩,
      fun g hg => ?_, fun f hn hport hidle hf => ?_, fun f t late again hone hlaunch hlate => ?_, fun f stamp hn hport hon hf => ?_,
      fun f stamp hon hidle hnone hselect hf => ?_⟩
    · exact congrArg (leaves s) (frameIngress_of_bad stamp)
    · exact fun hlong => congrArg (leaves s) (frameIngress_of_long hn hon hport hlong)
    · intro hleast hmost h e tc x fabric
      have hwhole := frameIngress_of_whole (stamp := stamp) hn hon hport hleast hmost
      have hingress {u : Dev} (hu : (egressPorts d h n 0).foldl (forward h x n) e = u) : exec (.frameIngress n b true stamp) s = leaves s u :=
        congrArg (leaves s) (hwhole.trans hu)
      refine ⟨fun p hp hto hwaits => ⟨fun hroom => hingress ?_, fun hfull => hingress ?_⟩, fun hto => hingress (by rw [hto]; rfl),
        fun hto hthrough hnone => hingress ?_, fun f hto hthrough hfind hplain hfifo hsrc => hingress ?_⟩
      · rw [hto]
        refine (forward_waits hp rfl hwaits).trans (if_neg ?_)
        rw [hroom]
        exact Bool.false_ne_true
      · rw [hto]
        refine (forward_waits hp rfl hwaits).trans (if_pos ?_)
        rw [hfull, Bool.not_false]
      · rw [hto]
        exact (forward_through rfl hthrough).trans (toPort4_of_unmatched _ hnone)
      · rw [hto]
        exact (forward_through rfl hthrough).trans (toPort4_of_matched _ hfind hplain hfifo hsrc)
    · obtain ⟨e, hexec, hnet⟩ := gclChange_of_reached v hn hr
      obtain ⟨hchange, hadmin, hgates⟩ := gclChangeBit_facts (d := e) hn
      exact ⟨_, hexec, hchange, hadmin, hgates.trans (by rw [Dev.port, hnet, Dev.port])⟩
    · obtain ⟨hadmin, hgates, hchange⟩ := gclInstall_of_due hg hdue
      exact ⟨_, _, rfl, hadmin, hgates, rfl, rfl, rfl, hchange⟩
    · exact congrArg (leaves s) (gclInstall_of_early hg hearly)
    · exact (exec_gateIntervalEnd_eq s n).trans (congrArg (leaves s) (gatesNow_of_list hg))
    · exact congrArg (leaves s) (frameLaunch_of_eligible hn hport hidle hf)
    · exact ⟨_, rfl, launchLate_of_single hone hlaunch hlate⟩
    · obtain ⟨e, hegress, hout, hregs, hsending, hstamps⟩ := frameEgress_facts (stamp := stamp) hn hport hon hf
      exact ⟨_, congrArg (leaves s) hegress, sendFrame_facts hn hout hregs hsending hstamps⟩
    · exact congrArg (leaves s) (frameEgress_of_fabric stamp hon hidle hnone hselect hf)
  case can =>
    intro d
    refine ⟨fun id dlc data hon hclassic => ⟨fun hnone => ?_, fun f hfind hfifo hsrc hfree hroom => ?_⟩,
      fun b hb hon hlisten hoffered hfirst => ?_, fun hoff hauto => ?_⟩
    · exact ⟨_, congrArg (leaves s) (canRx_of_unmatched dlc.toNat data hc hon hclassic hnone), (canCounted_written c d).fifos⟩
    · obtain ⟨src, t, ht, hentries⟩ := canRx_of_matched dlc.toNat data hc hon hclassic hfind hfifo hsrc hfree hroom
      exact ⟨_, src, t, rfl, ht, hentries⟩
    · obtain ⟨hlost, hsent⟩ := canTxFrame_facts hc hb hon hlisten hoffered hfirst
      exact ⟨_, rfl, fun hoff => congrArg (fun e => { s with dev := e }) (hlost hoff), hsent⟩
    · have hback : (decide (c < 2) && d.fld netCanStatusState c = 2 && d.flag netCanCfgAutoRecover c) = true := by
        rw [decide_eq_true hc, hoff, hauto]
        rfl
      exact ⟨_, congrArg (leaves s) (if_pos hback), canBack_facts d c⟩

end Sys2Proof.Machine
end

section
/-! PROOFS. Plaong links (R415 to R417, R422): flits, and a link that goes down. -/

namespace Sys2Proof.Machine

/-! ### The links' state -/

section
variable {d e : Dev} {l : Nat}

@[simp] theorem Dev.link_updLink_self (d : Dev) (l : Nat) (f : Link → Link) : (d.updLink l f).link l = f (d.link l) :=
  mapGet_set_self _ _ _ _

theorem Dev.link_updLink_ne (d : Dev) {l m : Nat} (f : Link → Link) (h : m ≠ l) : (d.updLink l f).link m = d.link m :=
  mapGet_set_ne _ _ _ _ h

/-- A field of another 32-bit register. -/
theorem fld_setFld_other (d : Dev) {f g : Fld} {i j : Nat} (v : Nat) (hf : f.wide = false) (hg : g.wide = false)
    (h : g.base + j * g.stride ≠ f.base + i * f.stride) : (d.setFld f v i).fld g j = d.fld g j :=
  Dev.fld_congr_word hg (Dev.setFld_word_ne d f i v h fun hw => absurd (hf.symm.trans hw) nofun)

theorem logEvent_links (d : Dev) (code : Nat) (data : List Byte) : (logEvent d code data).links = d.links := by
  obtain ⟨m, b, hlog, -⟩ := logEvent_beside d code data
  rw [hlog]

theorem logEvent_net (d : Dev) (code : Nat) (data : List Byte) : (logEvent d code data).net = d.net := by
  obtain ⟨m, b, hlog, -⟩ := logEvent_beside d code data
  rw [hlog]

/-- A field of the links' registers is none of the log's. -/
theorem logEvent_plk (d : Dev) (code : Nat) (data : List Byte) {f : Fld} {i : Nat} (hw : f.wide = false)
    (h : f.base + i * f.stride < 0xE000) : (logEvent d code data).fld f i = d.fld f i :=
  logEvent_fld d code data hw (by simp only [mgmtCntLogLost]; omega)

/-- Ring control leaves by a link that is up, and changes nothing else. -/
theorem ringControl_beside (d : Dev) (l what dst src : Nat) : ∃ o, ringControl d l what dst src = { d with out := o } := by
  unfold ringControl
  split
  · exact ⟨_, rfl⟩
  · exact ⟨d.out, rfl⟩

end

/-! ### Flits that arrive (R415, R416) -/

section
variable {d : Dev} {l : Nat} {f : Flit}

theorem sendNack_of_open (h : (d.link l).nacked = false) : sendNack l d =
    controlFlit (d.updLink l fun k => { k with nacked := true }) l .nack (d.link l).expect 0 0 0 0 := if_neg (by rw [h]; exact Bool.false_ne_true)

theorem sendNack_link (h : (d.link l).nacked = false) : (sendNack l d).link l = { d.link l with nacked := true } := by
  rw [sendNack_of_open h]
  exact Dev.link_updLink_self d l fun k => { k with nacked := true }

theorem flitReceive_of_bad {ok : Bool} (hup : linkIsUp d l = true)
    (h : ok = false ∨ f.crc ≠ flitCrc f ∨ (f.type = .data ∧ f.seq.toNat ≠ (d.link l).expect)) : flitReceive l f ok d = sendNack l d := by
  unfold flitReceive
  rw [hup, if_neg (by decide)]
  by_cases hbad : ok = false ∨ f.crc ≠ flitCrc f
  · refine if_pos ?_
    simpa only [Bool.or_eq_true, Bool.not_eq_true', decide_eq_true_eq] using hbad
  · have hdata : f.type = .data ∧ f.seq.toNat ≠ (d.link l).expect := by tauto
    rw [if_neg (by simpa only [Bool.or_eq_true, Bool.not_eq_true', decide_eq_true_eq] using hbad), hdata.1]
    exact if_pos hdata.2

/-- A good flit is taken by its type. -/
theorem flitReceive_of_good (hup : linkIsUp d l = true) (hcrc : f.crc = flitCrc f) : flitReceive l f true d = match f.type with
    | .ack => takeAck l f.ackSeq.toNat d
    | .nack => takeNack l f.seq.toNat d
    | .delay => d
    | .ringControl => takeControl l f d
    | .data =>
      if f.seq.toNat ≠ (d.link l).expect then sendNack l d
      else routeFlit f (controlFlit ((takeAck l f.ackSeq.toNat d).updLink l fun k => { k with expect := (k.expect + 1) % 4096, nacked := false })
        l .ack 0 f.seq.toNat 0 0 0) := by
  have hgood : ¬ (!true || decide (f.crc ≠ flitCrc f)) = true := by simp [hcrc]
  exact (if_neg (by rw [hup]; exact Bool.false_ne_true)).trans (if_neg hgood)

theorem takeAck_of_empty (ack : Nat) (h : (d.link l).replay = []) : takeAck l ack d = d := by
  unfold takeAck
  dsimp only
  rw [h]
  rfl

/-- The data flit expected next: it is acknowledged and goes on. -/
theorem flitReceive_data (hup : linkIsUp d l = true) (hcrc : f.crc = flitCrc f) (htype : f.type = .data)
    (hseq : f.seq.toNat = (d.link l).expect) (hreplay : (d.link l).replay = []) : flitReceive l f true d =
      routeFlit f (controlFlit (d.updLink l fun k => { k with expect := (k.expect + 1) % 4096, nacked := false }) l .ack 0 f.seq.toNat 0 0 0) := by
  rw [flitReceive_of_good hup hcrc, htype]
  dsimp only
  rw [if_neg (not_not_intro hseq), takeAck_of_empty _ hreplay]

/-- A flit's CRC does not cover itself. -/
theorem flitCrc_crc (g : Flit) (c : U32) : flitCrc { g with crc := c } = flitCrc g := rfl

/-- A data flit as link `k` sends it. -/
def queuedFlit (k : Link) (f : Flit) : Flit := { f with seq := BitVec.ofNat 12 k.nextSeq, ackSeq := BitVec.ofNat 12 (k.expect + 4095) }

/-- A data flit leaves at once by a link that waits for none. -/
theorem queueFlit_facts {m : Nat} (f : Flit) (h : (d.link m).replay = []) :
    (queueFlit d m f).out = d.out ++ [.flit m { queuedFlit (d.link m) f with crc := flitCrc (queuedFlit (d.link m) f) }] ∧
    ((queueFlit d m f).link m).replay = [(queuedFlit (d.link m) f, 0)] ∧ ∀ l, l ≠ m → (queueFlit d m f).link l = d.link l := by
  have hqueue : queueFlit d m f = emitFlit (d.updLink m fun k =>
      { k with nextSeq := (k.nextSeq + 1) % 4096, replay := k.replay ++ [(queuedFlit (d.link m) f, 0)] }) m (queuedFlit (d.link m) f) :=
    if_pos (by rw [h]; decide)
  have hlink (e : Dev) (g : Flit) (i : Nat) : (emitFlit e m g).link i = e.link i := rfl
  rw [hqueue]
  refine ⟨rfl, ?_, fun i hi => ?_⟩
  · rw [hlink, Dev.link_updLink_self, h]
    rfl
  · rw [hlink, Dev.link_updLink_ne _ _ hi]

/-- The acknowledgement of flit `f`. -/
def ackFlit (f : Flit) : Flit :=
  { type := .ack, seq := BitVec.ofNat 12 0, ackSeq := BitVec.ofNat 12 f.seq.toNat, cls := 2, dst := BitVec.ofNat 8 0, src := BitVec.ofNat 8 0,
    msgSeq := BitVec.ofNat 32 0 }

/-- The device once flit `f` has been taken from link `l` and acknowledged. -/
def flitTaken (l : Nat) (f : Flit) (d : Dev) : Dev :=
  emitFlit (d.updLink l fun k => { k with expect := (k.expect + 1) % 4096, nacked := false }) l (ackFlit f)

theorem flitTaken_link (l : Nat) (f : Flit) (d : Dev) :
    (flitTaken l f d).link l = { d.link l with expect := ((d.link l).expect + 1) % 4096, nacked := false } :=
  Dev.link_updLink_self d l fun k => { k with expect := (k.expect + 1) % 4096, nacked := false }

theorem flitTaken_link_ne {m : Nat} (f : Flit) (h : m ≠ l) : (flitTaken l f d).link m = d.link m :=
  Dev.link_updLink_ne d (fun k => { k with expect := (k.expect + 1) % 4096, nacked := false }) h

theorem routeFlit_forward {m : Nat} (hdst : f.dst.toNat ≠ d.position) (hmodules : 2 ≤ d.modules) (hroute : route d f.dst.toNat = some m) :
    routeFlit f d = queueFlit d m f := by
  have haway : ¬ (decide (f.dst.toNat = d.position) || decide (d.modules < 2)) = true := by
    simp only [Bool.or_eq_true, decide_eq_true_eq, hdst, false_or]
    omega
  rw [routeFlit, if_neg haway, hroute]

theorem routeFlit_applied (hdst : f.dst.toNat = d.position) (happlied : f.msgSeq.toNat ≤ mapGet 0 d.links.applied f.src.toNat) :
    routeFlit f d = d := by
  refine (if_pos ?_).trans (if_pos happlied)
  rw [hdst, decide_eq_true rfl, Bool.true_or]

/-- A flit for another module leaves by its link under that link's own numbers. -/
theorem flitForwarded {m : Nat} (hup : linkIsUp d l = true) (hcrc : f.crc = flitCrc f) (htype : f.type = .data)
    (hseq : f.seq.toNat = (d.link l).expect) (hreplay : (d.link l).replay = []) (hmodules : 2 ≤ d.modules)
    (hdst : f.dst.toNat ≠ d.position) (hroute : route d f.dst.toNat = some m) (hne : m ≠ l) (hfree : (d.link m).replay = []) :
    ∃ g h, (flitReceive l f true d).out = d.out ++ [.flit l g, .flit m h] ∧ g.type = .ack ∧ g.ackSeq = f.seq ∧ h.payload = f.payload ∧
      h.dst = f.dst ∧ h.msgSeq = f.msgSeq ∧ g.crc = flitCrc g ∧ h.crc = flitCrc h ∧
      ((flitReceive l f true d).link l).expect = ((d.link l).expect + 1) % 4096 ∧ ((flitReceive l f true d).link l).nacked = false ∧
      ((flitReceive l f true d).link m).replay = [({ h with crc := f.crc }, 0)] := by
  have hreceive : flitReceive l f true d = queueFlit (flitTaken l f d) m f :=
    (flitReceive_data hup hcrc htype hseq hreplay).trans (routeFlit_forward hdst hmodules hroute)
  have hlink : (flitTaken l f d).link m = d.link m := flitTaken_link_ne f hne
  obtain ⟨hout, hqueued, hother⟩ := queueFlit_facts (d := flitTaken l f d) (m := m) f (by rw [hlink, hfree])
  rw [hreceive]
  refine ⟨{ ackFlit f with crc := flitCrc (ackFlit f) }, { queuedFlit (d.link m) f with crc := flitCrc (queuedFlit (d.link m) f) },
    ?_, rfl, BitVec.ofNat_toNat 12 f.seq, rfl, rfl, rfl, (flitCrc_crc _ _).symm, (flitCrc_crc _ _).symm, ?_, ?_, ?_⟩
  · rw [hout, hlink]
    exact List.append_assoc d.out _ _
  · rw [hother l hne.symm, flitTaken_link]
  · rw [hother l hne.symm, flitTaken_link]
  · rw [hqueued, hlink]
    rfl

/-- A flit of a message already applied is acknowledged, and that is all. -/
theorem flitDiscarded (hup : linkIsUp d l = true) (hcrc : f.crc = flitCrc f) (htype : f.type = .data)
    (hseq : f.seq.toNat = (d.link l).expect) (hreplay : (d.link l).replay = []) (hdst : f.dst.toNat = d.position)
    (happlied : f.msgSeq.toNat ≤ mapGet 0 d.links.applied f.src.toNat) : flitReceive l f true d = flitTaken l f d :=
  (flitReceive_data hup hcrc htype hseq hreplay).trans (routeFlit_applied hdst happlied)

/-- The one flit not acknowledged is. -/
theorem takeAck_of_single {x : Flit} {n ack : Nat} (h : (d.link l).replay = [(x, n)]) (hseq : x.seq.toNat = ack) :
    takeAck l ack d = d.updLink l fun k => { k with replay := [] } := by
  simp [takeAck, h, upto, hseq]

theorem takeAck_of_other {x : Flit} {n ack : Nat} (h : (d.link l).replay = [(x, n)]) (hseq : x.seq.toNat ≠ ack) : takeAck l ack d = d := by
  simp [takeAck, h, upto, hseq]

/-- The one flit not acknowledged is sent again. -/
theorem takeNack_of_single {x : Flit} {n want : Nat} (h : (d.link l).replay = [(x, n)]) (hseq : x.seq.toNat = want) (hn : n < 7) :
    ((takeNack l want d).link l).replay = [(x, n + 1)] ∧ (takeNack l want d).out = d.out ++ [.flit l { x with crc := flitCrc x }] := by
  have hlt := x.seq.isLt
  have hack : takeAck l ((want + 4095) % 4096) d = d := takeAck_of_other h (by omega)
  have hfew : ¬ 8 ≤ n + 1 := by omega
  have hagain : takeNack l want d =
      emitFlit ((d.updLink l fun k => { k with replay := (x, n + 1) :: k.replay.tail }).incFld plkLinkRetryCount l) l x := by
    unfold takeNack
    rw [hack]
    simp [h, hseq, hfew]
  have hlink (e : Dev) : (emitFlit (e.incFld plkLinkRetryCount l) l x).link l = e.link l := rfl
  rw [hagain]
  refine ⟨?_, rfl⟩
  rw [hlink, Dev.link_updLink_self, h]
  rfl

end

/-! ### A link goes down (R415, R417, R422) -/

/-- REFORM and the link meet. -/
def reformMet (d : Dev) : Dev := if d.net.forming && d.links.reformAt = some d.time then reformLost d else d

/-- Link `l` goes down, and holds nothing. -/
def linkGone (l : Nat) (d : Dev) : Dev :=
  (logEvent ((({ d with links := { d.links with downAt := some d.time } } : Dev).setFld plkLinkStatusUp 0 l).setFld plkLinkStatusDownSeen 1 l)
    lgLinkDown (leBytes 1 l)).updLink l fun _ => {}

/-- Link `l` is down. -/
def linkLost (l : Nat) (d : Dev) : Dev := linkGone l (reformMet d)

section
variable {d : Dev} {l : Nat}

/-- REFORM falls, and formation with it: no other register is written. -/
theorem reformCleared_word (e : Dev) (n : Net) {o : Nat} (ho : o ≠ plkCtrlReform.base + 0 * plkCtrlReform.stride) :
    bankWord (({ e with net := n } : Dev).setFld plkCtrlReform 0).regs o = bankWord e.regs o :=
  Dev.setFld_word_ne { e with net := n } plkCtrlReform 0 0 ho nofun

theorem reformLost_links (d : Dev) : (reformLost d).links = d.links := by simp only [reformLost, Dev.setFld]
theorem reformLost_jobs (d : Dev) : (reformLost d).jobs = d.jobs := by simp only [reformLost, Dev.setFld]

theorem reformLost_fld (d : Dev) {f : Fld} (hw : f.wide = false)
    (h : f.base + 0 * f.stride ≠ plkCtrlReform.base + 0 * plkCtrlReform.stride) :
    (reformLost d).fld f = (d.setFld plkStatusReformErr 1).fld f :=
  Dev.fld_congr_word hw (reformCleared_word (d.setFld plkStatusReformErr 1) { d.net with forming := false } h)

/-- What a link that goes down leaves as it is, REFORM or not. -/
theorem reformMet_facts (d : Dev) : (reformMet d).links = d.links ∧ (reformMet d).jobs = d.jobs ∧
    (reformMet d).fld plkStatusCount = d.fld plkStatusCount ∧ (reformMet d).fld plkStatusPosition = d.fld plkStatusPosition ∧
    (d.net.forming = true → d.links.reformAt = some d.time →
      (reformMet d).fld plkStatusReformErr = 1 ∧ (reformMet d).net.forming = false) := by
  unfold reformMet
  split
  next hmet =>
    exact ⟨reformLost_links d, reformLost_jobs d,
      (reformLost_fld d (f := plkStatusCount) rfl (by decide)).trans (Dev.fld_setFld_of_beside _ _ _ _ _ (by decide)),
      (reformLost_fld d (f := plkStatusPosition) rfl (by decide)).trans (Dev.fld_setFld_of_beside _ _ _ _ _ (by decide)), fun _ _ =>
      ⟨(reformLost_fld d (f := plkStatusReformErr) rfl (by decide)).trans (Dev.fld_setFld _ _ _ _ (by decide) (by decide)), rfl⟩⟩
  next hapart =>
    refine ⟨rfl, rfl, rfl, rfl, fun hforming hat => absurd ?_ hapart⟩
    rw [hforming, hat, decide_eq_true rfl]
    rfl

theorem linkGone_reg (l : Nat) (d : Dev) {f : Fld} {i : Nat} (hw : f.wide = false) (hb : f.base + i * f.stride < 0xE000) :
    (linkGone l d).fld f i = ((d.setFld plkLinkStatusUp 0 l).setFld plkLinkStatusDownSeen 1 l).fld f i :=
  logEvent_plk _ lgLinkDown (leBytes 1 l) hw hb

/-- A field of PLK_CTRL or PLK_STATUS. -/
theorem linkGone_fld (l : Nat) (d : Dev) {f : Fld} (hw : f.wide = false) (hs : f.stride = 0) (hb : f.base < 0xD010) :
    (linkGone l d).fld f = d.fld f := by
  have hother (e : Dev) (g : Fld) (v : Nat) (hg : g.wide = false) (hgs : g.base = 0xD010) : (e.setFld g v l).fld f = e.fld f :=
    fld_setFld_other e v hg hw (by rw [hs, hgs]; omega)
  rw [linkGone_reg l d hw (by rw [hs]; omega), hother _ _ _ rfl rfl, hother _ _ _ rfl rfl]

theorem linkGone_links (l : Nat) (d : Dev) : ∃ m, (linkGone l d).links = { d.links with link := m, downAt := some d.time } := by
  refine ⟨(linkGone l d).links.link, ?_⟩
  unfold linkGone
  rw [Dev.updLink, logEvent_links, Dev.setFld_links, Dev.setFld_links]

theorem linkGone_down (hl : l < 2) (d : Dev) : (linkGone l d).fld plkLinkStatusUp l = 0 ∧ (linkGone l d).fld plkLinkStatusDownSeen l = 1 ∧
    (linkGone l d).link l = {} ∧ (linkGone l d).jobs = d.jobs ∧ (linkGone l d).net = d.net := by
  have hlow (f : Fld) (hf : f.base + l * f.stride = 0xD010 + l * 0x10) : f.base + l * f.stride < 0xE000 := by omega
  refine ⟨?_, ?_, Dev.link_updLink_self _ _ _, ?_, ?_⟩
  · rw [linkGone_reg l d rfl (hlow _ rfl), Dev.fld_setFld_of_beside _ _ _ _ _ (by decide), Dev.fld_setFld _ _ _ _ (by decide) (by decide)]
    rfl
  · rw [linkGone_reg l d rfl (hlow _ rfl), Dev.fld_setFld _ _ _ _ (by decide) (by decide)]
    rfl
  · unfold linkGone
    rw [Dev.updLink, logEvent_jobs, Dev.setFld_jobs, Dev.setFld_jobs]
  · unfold linkGone
    rw [Dev.updLink, logEvent_net, Dev.setFld_net, Dev.setFld_net]

theorem linkLost_facts (hl : l < 2) (d : Dev) : (linkLost l d).fld plkLinkStatusUp l = 0 ∧ (linkLost l d).fld plkLinkStatusDownSeen l = 1 ∧
    (linkLost l d).link l = {} ∧ (linkLost l d).links.breaks = d.links.breaks ∧ (linkLost l d).jobs = d.jobs ∧
    (linkLost l d).modules = d.modules ∧ (linkLost l d).position = d.position := by
  obtain ⟨hlinks, hjobs, hcount, hposition, -⟩ := reformMet_facts d
  obtain ⟨hdown, hseen, hlink, hjobs', -⟩ := linkGone_down hl (reformMet d)
  obtain ⟨m, hlinks'⟩ := linkGone_links l (reformMet d)
  unfold linkLost
  refine ⟨hdown, hseen, hlink, by rw [hlinks', hlinks], hjobs'.trans hjobs, ?_, ?_⟩
  · rw [Dev.modules, linkGone_fld l _ rfl rfl (by decide), hcount, Dev.modules]
  · rw [Dev.position, linkGone_fld l _ rfl rfl (by decide), hposition, Dev.position]

theorem linkLost_reform (hl : l < 2) (hforming : d.net.forming = true) (hat : d.links.reformAt = some d.time) :
    (linkLost l d).fld plkStatusReformErr = 1 ∧ (linkLost l d).net.forming = false := by
  obtain ⟨-, -, -, -, hmet⟩ := reformMet_facts d
  obtain ⟨herr, hend⟩ := hmet hforming hat
  obtain ⟨-, -, -, -, hnet⟩ := linkGone_down hl (reformMet d)
  exact ⟨(linkGone_fld l _ rfl rfl (by decide)).trans herr, (congrArg Net.forming hnet).trans hend⟩

/-- The position that link `l` leads to. -/
def neighbour (l : Nat) (d : Dev) : Nat := if l = 0 then (d.position + 1) % d.modules else (d.position + d.modules - 1) % d.modules

/-- The place between this module and the one that link `l` leads to is broken. -/
def ringBroken (l : Nat) (d : Dev) : Dev := if l = 0 then breakAt d.position (neighbour l d) d else breakAt (neighbour l d) d.position d

theorem linkDown_of_up (hup : linkIsUp d l = true) : linkDown l d = if (linkLost l d).modules < 2 then linkLost l d
    else settleRing false (resend l ((reformMet d).link l).replay
      (ringControl (ringBroken l (linkLost l d)) (1 - l) rcBreak (neighbour l (linkLost l d)) (linkLost l d).position)) := by
  unfold linkDown linkLost reformMet
  rw [hup, if_neg (by decide)]
  generalize (if d.net.forming && d.links.reformAt = some d.time then reformLost d else d) = e
  rfl

/-- A module alone knows of no other. -/
theorem linkDown_of_alone (hl : l < 2) (hup : linkIsUp d l = true) (h : d.modules < 2) : linkDown l d = linkLost l d := by
  obtain ⟨-, -, -, -, -, hmodules, -⟩ := linkLost_facts hl d
  rw [linkDown_of_up hup, if_pos (by rwa [hmodules])]

/-! ### One break leaves a line (R422) -/

/-- Steps downward, and upward, round a ring of `m`. -/
def stepsDown (m p t : Nat) : Nat := if t ≤ p then p - t else p + m - t
def stepsUp (m p t : Nat) : Nat := if p ≤ t then t - p else t + m - p

theorem pred_mod {m p : Nat} (hp : p < m) : (p + m - 1) % m = if p = 0 then m - 1 else p - 1 := by
  split
  next hzero => rw [hzero, Nat.zero_add, Nat.mod_eq_of_lt (by omega)]
  next hpos => rw [show p + m - 1 = p - 1 + m by omega, Nat.add_mod_right, Nat.mod_eq_of_lt (by omega)]

theorem succ_mod {m p : Nat} (hp : p < m) : (p + 1) % m = if p + 1 = m then 0 else p + 1 := by
  split
  next heq => rw [heq, Nat.mod_self]
  next hne => rw [Nat.mod_eq_of_lt (by omega)]

/-- Downward, a position that comes before the one at which the run ends is on the run. -/
theorem mem_runDown {m e t : Nat} (ht : t < m) (he : e < m) (n p : Nat) (hp : p < m) (hn : stepsDown m p t < n)
    (hbefore : e = p ∨ stepsDown m p t < stepsDown m p e) : t ∈ runDown m [e] p n := by
  induction n generalizing p with
  | zero => omega
  | succ n ih =>
    rw [runDown]
    by_cases htp : t = p
    · exact htp ▸ List.mem_cons_self
    · refine List.mem_cons_of_mem _ ?_
      have hq := pred_mod hp
      dsimp only
      rw [hq]
      have hne : ¬ [e].contains (if p = 0 then m - 1 else p - 1) = true := by
        simp only [List.contains_cons, List.contains_nil, Bool.or_false, beq_iff_eq]
        simp only [stepsDown] at hn hbefore
        split_ifs at * <;> omega
      rw [if_neg hne]
      refine ih _ (by split <;> omega) ?_ (.inr ?_)
      · simp only [stepsDown] at hn ⊢
        split_ifs at * <;> omega
      · simp only [stepsDown] at hbefore ⊢
        split_ifs at * <;> omega

/-- Upward, the same, the position before the break included. -/
theorem mem_runUp {m e t : Nat} (ht : t < m) (he : e < m) (n p : Nat) (hp : p < m) (hn : stepsUp m p t < n)
    (hbefore : stepsUp m p t ≤ stepsUp m p e) : t ∈ runUp m [e] p n := by
  induction n generalizing p with
  | zero => omega
  | succ n ih =>
    rw [runUp]
    by_cases htp : t = p
    · exact htp ▸ List.mem_cons_self
    · refine List.mem_cons_of_mem _ ?_
      have hne : ¬ [e].contains p = true := by
        simp only [List.contains_cons, List.contains_nil, Bool.or_false, beq_iff_eq]
        simp only [stepsUp] at hbefore
        split_ifs at * <;> omega
      rw [if_neg hne, succ_mod hp]
      refine ih _ (by split <;> omega) ?_ ?_
      · simp only [stepsUp] at hn ⊢
        split_ifs at * <;> omega
      · simp only [stepsUp] at hbefore ⊢
        split_ifs at * <;> omega

end

end Sys2Proof.Machine
end

section
/-! PROOFS. The Plaong ring (R417, R418, R420 to R423), and with it O51. -/

namespace Sys2Proof.Machine

/-! ### A ring that loses a link becomes a line (R422) -/

section
variable {d : Dev} {l : Nat}

/-- Every module is reached where one place is broken, right below or right above this module. -/
theorem reachable_of_one {e : Nat} (hm : 2 ≤ d.modules) (hp : d.position < d.modules) (hbreaks : d.links.breaks = [e])
    (hplace : e = d.position ∨ e = (d.position + d.modules - 1) % d.modules) : reachable d = upto d.modules := by
  have he : e < d.modules := by
    rcases hplace with rfl | rfl
    · exact hp
    · exact Nat.mod_lt _ (by omega)
  refine List.filter_eq_self.mpr fun t ht => ?_
  have ht := List.mem_range.mp ht
  rw [List.contains_iff_mem, hbreaks, List.mem_append]
  rcases hplace with heq | heq
  · refine .inr (mem_runDown ht he _ _ hp ?_ (.inl heq))
    simp only [stepsDown]
    split <;> omega
  · rw [pred_mod hp] at heq
    refine .inl (mem_runUp ht he _ _ hp ?_ ?_)
    · simp only [stepsUp]
      split <;> omega
    · simp only [stepsUp]
      split_ifs at * <;> omega

theorem breakAt_of_whole {a b : Nat} (h : d.links.breaks = []) : breakAt a b d =
    { d with links := { d.links with breaks := [if (a + 1) % d.modules = b then a else b] } } := by
  unfold breakAt
  dsimp only
  rw [h]
  rfl

/-- No module is lost: the ring is a line. -/
theorem settleRing_of_whole (leaving : Bool) (h : (reachable d).length = d.modules) : settleRing leaving d =
    logEvent ((d.setFld plkStatusClosed 0).setFld plkStatusHealed 1) lgHealed
      (leBytes 1 ((d.setFld plkStatusClosed 0).setFld plkStatusHealed 1).position ++
        leBytes 1 ((d.setFld plkStatusClosed 0).setFld plkStatusHealed 1).modules) := by
  unfold settleRing
  dsimp only
  rw [if_neg (not_not_intro h)]

theorem settleRing_facts (leaving : Bool) (h : (reachable d).length = d.modules) :
    (settleRing leaving d).fld plkStatusClosed = 0 ∧ (settleRing leaving d).fld plkStatusHealed = 1 ∧
    (settleRing leaving d).modules = d.modules ∧ (settleRing leaving d).position = d.position ∧ (settleRing leaving d).links = d.links ∧
    (settleRing leaving d).jobs = d.jobs ∧ ∀ f : Fld, f.wide = false → f.base + l * f.stride = 0xD010 + l * 0x10 → l < 2 →
      (settleRing leaving d).fld f l = d.fld f l := by
  rw [settleRing_of_whole leaving h]
  generalize leBytes 1 _ ++ leBytes 1 _ = data
  have hkept {f : Fld} (hw : f.wide = false) (hb : f.base + 0 * f.stride < 0xE000) (hhealed : plkStatusHealed.beside f = true)
      (hclosed : plkStatusClosed.beside f = true) :
      (logEvent ((d.setFld plkStatusClosed 0).setFld plkStatusHealed 1) lgHealed data).fld f = d.fld f := by
    rw [logEvent_plk _ _ _ hw hb, Dev.fld_setFld_of_beside _ _ _ _ _ hhealed, Dev.fld_setFld_of_beside _ _ _ _ _ hclosed]
  refine ⟨?_, ?_, ?_, ?_, by rw [logEvent_links, Dev.setFld_links, Dev.setFld_links],
    by rw [logEvent_jobs, Dev.setFld_jobs, Dev.setFld_jobs], fun f hw hb hl => ?_⟩
  · rw [logEvent_plk _ _ _ rfl (by decide), Dev.fld_setFld_of_beside _ _ _ _ _ (by decide), Dev.fld_setFld _ _ _ _ (by decide) (by decide)]
    rfl
  · rw [logEvent_plk _ _ _ rfl (by decide), Dev.fld_setFld _ _ _ _ (by decide) (by decide)]
    rfl
  · rw [Dev.modules, hkept rfl (by decide) (by decide) (by decide), Dev.modules]
  · rw [Dev.position, hkept rfl (by decide) (by decide) (by decide), Dev.position]
  · have hfar (g : Fld) (hg : g.base + 0 * g.stride < 0xD010) : f.base + l * f.stride ≠ g.base + 0 * g.stride := by omega
    rw [logEvent_plk _ _ _ hw (by omega), fld_setFld_other _ _ rfl hw (hfar _ (by decide)), fld_setFld_other _ _ rfl hw (hfar _ (by decide))]

/-- The place that the loss of link `l` breaks. -/
def brokenPlace (l : Nat) (d : Dev) : Nat := if l = 0 then d.position else (d.position + d.modules - 1) % d.modules

theorem ringBroken_of_whole (hm : 2 ≤ d.modules) (hp : d.position < d.modules) (hbreaks : d.links.breaks = []) :
    ringBroken l d = { d with links := { d.links with breaks := [brokenPlace l d] } } := by
  rw [ringBroken, neighbour, brokenPlace]
  split
  next => rw [breakAt_of_whole hbreaks, if_pos rfl]
  next =>
    have hback : ((d.position + d.modules - 1) % d.modules + 1) % d.modules = d.position := by
      rw [pred_mod hp, succ_mod (by split <;> omega)]
      split_ifs <;> omega
    rw [breakAt_of_whole hbreaks, if_pos hback]

/-- The ring is broken at place `b`, and `o` has left. -/
def withBreak (d : Dev) (b : Nat) (o : List OutItem) : Dev := { d with links := { d.links with breaks := [b] }, out := o }

theorem withBreak_fld (d : Dev) (b : Nat) (o : List OutItem) (f : Fld) (i : Nat) : (withBreak d b o).fld f i = d.fld f i := rfl
theorem withBreak_modules (d : Dev) (b : Nat) (o : List OutItem) : (withBreak d b o).modules = d.modules := rfl
theorem withBreak_position (d : Dev) (b : Nat) (o : List OutItem) : (withBreak d b o).position = d.position := rfl
theorem withBreak_jobs (d : Dev) (b : Nat) (o : List OutItem) : (withBreak d b o).jobs = d.jobs := rfl
theorem withBreak_link (d : Dev) (b : Nat) (o : List OutItem) (l : Nat) : (withBreak d b o).link l = d.link l := rfl

/-- A break of a whole ring is told by the other link. -/
theorem ringControl_broken (hm : 2 ≤ d.modules) (hp : d.position < d.modules) (hbreaks : d.links.breaks = []) (k what dst src : Nat) :
    ∃ o, ringControl (ringBroken l d) k what dst src = withBreak d (brokenPlace l d) o := by
  rw [ringBroken_of_whole hm hp hbreaks]
  exact ringControl_beside _ _ _ _ _

theorem linkDown_of_ring (hl : l < 2) (hup : linkIsUp d l = true) (hm : 2 ≤ d.modules) (hp : d.position < d.modules)
    (hbreaks : d.links.breaks = []) (hreplay : (d.link l).replay = []) : ∃ o, linkDown l d = settleRing false
      (withBreak (linkLost l d) (brokenPlace l (linkLost l d)) o) := by
  obtain ⟨-, -, -, hnone, -, hmodules, hposition⟩ := linkLost_facts hl d
  obtain ⟨hlinks, -⟩ := reformMet_facts d
  have hheld : ((reformMet d).link l).replay = [] := by rw [Dev.link, hlinks]; exact hreplay
  have hdown := linkDown_of_up hup
  obtain ⟨o, hcontrol⟩ := ringControl_broken (d := linkLost l d) (l := l) (by omega) (by omega) (hnone.trans hbreaks) (1 - l) rcBreak
    (neighbour l (linkLost l d)) (linkLost l d).position
  rw [if_neg (by omega), hheld, hcontrol] at hdown
  exact ⟨o, hdown⟩

theorem linkDown_ring_facts (hl : l < 2) (hup : linkIsUp d l = true) (hm : 2 ≤ d.modules) (hp : d.position < d.modules)
    (hbreaks : d.links.breaks = []) (hreplay : (d.link l).replay = []) :
    (linkDown l d).fld plkLinkStatusUp l = 0 ∧ (linkDown l d).fld plkLinkStatusDownSeen l = 1 ∧ (linkDown l d).link l = {} ∧
    (linkDown l d).fld plkStatusClosed = 0 ∧ (linkDown l d).fld plkStatusHealed = 1 ∧ (linkDown l d).modules = d.modules ∧
    (linkDown l d).position = d.position ∧ (linkDown l d).links.breaks.length = 1 ∧ (linkDown l d).jobs = d.jobs := by
  obtain ⟨hdown, hseen, hlink, -, hjobs, hmodules, hposition⟩ := linkLost_facts hl d
  obtain ⟨o, heq⟩ := linkDown_of_ring hl hup hm hp hbreaks hreplay
  set g := withBreak (linkLost l d) (brokenPlace l (linkLost l d)) o with hg
  have hgm : g.modules = d.modules := (withBreak_modules _ _ _).trans hmodules
  have hgp : g.position = d.position := (withBreak_position _ _ _).trans hposition
  have hreach : reachable g = upto g.modules := by
    refine reachable_of_one (e := brokenPlace l (linkLost l d)) (by omega) (by omega) rfl ?_
    rw [hgm, hgp, brokenPlace, hmodules, hposition]
    split
    · exact .inl rfl
    · exact .inr rfl
  obtain ⟨hclosed, hhealed, hsameModules, hsamePosition, hlinks, hsameJobs, hstatus⟩ :=
    settleRing_facts (l := l) false (show (reachable g).length = g.modules by rw [hreach, upto, List.length_range])
  rw [heq]
  refine ⟨?_, ?_, ?_, hclosed, hhealed, hsameModules.trans hgm, hsamePosition.trans hgp, ?_, ?_⟩
  · rw [hstatus _ rfl rfl hl, withBreak_fld, hdown]
  · rw [hstatus _ rfl rfl hl, withBreak_fld, hseen]
  · rw [Dev.link, hlinks, ← Dev.link, withBreak_link, hlink]
  · rw [hlinks]
    rfl
  · rw [hsameJobs, withBreak_jobs, hjobs]

/-! ### Retry windows (R417) -/

theorem linkIsUp_congr {e : Dev} (h : e.fld plkLinkStatusUp l = d.fld plkLinkStatusUp l) : linkIsUp e l = linkIsUp d l := by
  rw [linkIsUp, linkIsUp, Dev.flag, Dev.flag, h]

theorem retryWindow_of_good (hup : linkIsUp d l = true) : retryWindow l false d = d.updLink l fun k => { k with badWindows := 0 } :=
  (if_neg (by rw [hup]; exact Bool.false_ne_true)).trans (if_pos rfl)

/-- A window with too many retries. -/
def windowOver (l : Nat) (d : Dev) : Dev :=
  (d.setFld plkLinkStatusDegraded 1 l).updLink l fun k => { k with badWindows := k.badWindows + 1 }

theorem retryWindow_of_over (hup : linkIsUp d l = true) : retryWindow l true d =
    if 10 ≤ (d.link l).badWindows + 1 then linkDown l (windowOver l d) else windowOver l d := by
  have hbad : ((windowOver l d).link l).badWindows = (d.link l).badWindows + 1 := by
    rw [windowOver, Dev.link_updLink_self]
    rfl
  rw [← hbad]
  unfold retryWindow
  rw [hup]
  rfl

theorem windowOver_facts (l : Nat) (d : Dev) : ((windowOver l d).link l).badWindows = (d.link l).badWindows + 1 ∧
    (windowOver l d).fld plkLinkStatusDegraded l = 1 ∧ linkIsUp (windowOver l d) l = linkIsUp d l ∧ (windowOver l d).modules = d.modules := by
  have hregs (f : Fld) (i : Nat) : (windowOver l d).fld f i = (d.setFld plkLinkStatusDegraded 1 l).fld f i := rfl
  refine ⟨?_, ?_, linkIsUp_congr ?_, ?_⟩
  · rw [windowOver, Dev.link_updLink_self]
    rfl
  · rw [hregs, Dev.fld_setFld _ _ _ _ (by decide) (by decide)]
    rfl
  · rw [hregs, Dev.fld_setFld_of_beside _ _ _ _ _ (by decide)]
  · rw [Dev.modules, hregs, fld_setFld_other _ _ rfl rfl (by simp only [plkStatusCount, plkLinkStatusDegraded]; omega), Dev.modules]

end

end Sys2Proof.Machine
end

section
/-! PROOFS. The ring's formation, its delays and its commands (R418, R420, R421, R423). -/

namespace Sys2Proof.Machine

section
variable {d : Dev} {l : Nat}

/-! ### Ring control that leaves (R415) -/

/-- A ring control flit as it leaves. -/
def controlSent (what dst src : Nat) : Flit :=
  let f : Flit := { type := .ringControl, seq := BitVec.ofNat 12 0, ackSeq := BitVec.ofNat 12 0, cls := 2, dst := BitVec.ofNat 8 dst,
                    src := BitVec.ofNat 8 src, msgSeq := BitVec.ofNat 32 what }
  { f with crc := flitCrc f }

theorem ringControl_of_up (what dst src : Nat) (hup : linkIsUp d l = true) :
    ringControl d l what dst src = d.emit (.flit l (controlSent what dst src)) := if_pos hup

theorem ringControl_fld (d : Dev) (l what dst src : Nat) (f : Fld) (i : Nat) : (ringControl d l what dst src).fld f i = d.fld f i := by
  obtain ⟨o, hsent⟩ := ringControl_beside d l what dst src
  rw [hsent]
  rfl

theorem ringControl_net (d : Dev) (l what dst src : Nat) : (ringControl d l what dst src).net = d.net := by
  obtain ⟨o, hsent⟩ := ringControl_beside d l what dst src
  rw [hsent]

theorem modules_of_count {e : Dev} {n : Nat} (h : e.fld plkStatusCount = n) (hn : 1 ≤ n) : e.modules = n := by
  rw [Dev.modules, h]
  exact Nat.max_eq_right hn

/-! ### Training and formation (R418) -/

theorem linkTrained_of_plain (hl : l < 2) (hpow : d.boot.powered = true) (hon : d.flag plkCtrlEnable = true) (hup : linkIsUp d l = false)
    (hhead : d.flag plkCtrlHead = false) : linkTrained l d = (d.setFld plkLinkStatusUp 1 l).updLink l fun _ => {} := by
  have hplain : (d.setFld plkLinkStatusUp 1 l).fld plkCtrlHead = d.fld plkCtrlHead :=
    fld_setFld_other d 1 rfl rfl (by simp only [plkCtrlHead, plkLinkStatusUp]; omega)
  have hhead' : ((d.setFld plkLinkStatusUp 1 l).updLink l fun _ => {}).flag plkCtrlHead = false :=
    (congrArg (fun n => decide (n ≠ 0)) hplain).trans hhead
  unfold linkTrained
  rw [hpow, hon, hup, decide_eq_false (Nat.not_le.mpr hl), if_neg (by decide)]
  dsimp only
  rw [hhead', Bool.false_and, Bool.false_and, Bool.false_and, if_neg Bool.false_ne_true]

theorem linkIsUp_trained (hl : l < 2) : linkIsUp ((d.setFld plkLinkStatusUp 1 l).updLink l fun _ => {}) l = true := by
  have hset : ((d.setFld plkLinkStatusUp 1 l).updLink l fun _ => {}).fld plkLinkStatusUp l = 1 :=
    Dev.fld_setFld d plkLinkStatusUp l 1 (by decide) (by decide)
  rw [linkIsUp, Dev.flag, hset, decide_eq_true hl]
  rfl

/-- What is written beside the registers when formation ends. -/
def withNetLinks (d : Dev) (n : Net) (k : Links) : Dev := { d with net := n, links := k }

theorem withNetLinks_fld (d : Dev) (n : Net) (k : Links) (f : Fld) (i : Nat) : (withNetLinks d n k).fld f i = d.fld f i := rfl

theorem withNetLinks_net (d : Dev) (n : Net) (k : Links) : (withNetLinks d n k).net = n := rfl
theorem withNetLinks_time (d : Dev) (n : Net) (k : Links) : (withNetLinks d n k).time = d.time := rfl

theorem ringError_facts (d : Dev) : (ringError d).fld plkStatusRingErr = 1 ∧ (ringError d).fld plkStatusCount = 1 ∧
    (ringError d).fld plkStatusPosition = 0 := by
  have herror : ringError d = withNetLinks ((((((d.setFld plkStatusRingErr 1).setFld plkStatusCount 1).setFld plkStatusPosition 0).setFld
      plkStatusClosed 0).setFld plkCtrlReform 0).setFld plkStatusAligning 0)
      { d.net with forming := false, stepDue := false } { d.links with breaks := [], aligning := [] } := rfl
  have hafter (e : Dev) (f : Fld) (hclosed : plkStatusClosed.beside f = true) (hreform : plkCtrlReform.beside f = true)
      (haligning : plkStatusAligning.beside f = true) :
      (((e.setFld plkStatusClosed 0).setFld plkCtrlReform 0).setFld plkStatusAligning 0).fld f = e.fld f := by
    rw [Dev.fld_setFld_of_beside _ _ _ _ _ haligning, Dev.fld_setFld_of_beside _ _ _ _ _ hreform, Dev.fld_setFld_of_beside _ _ _ _ _ hclosed]
  rw [herror]
  simp only [withNetLinks_fld]
  refine ⟨?_, ?_, ?_⟩
  · rw [hafter _ _ (by decide) (by decide) (by decide), Dev.fld_setFld_of_beside _ _ _ _ _ (by decide),
      Dev.fld_setFld_of_beside _ _ _ _ _ (by decide), Dev.fld_setFld _ _ _ _ (by decide) (by decide)]
    rfl
  · rw [hafter _ _ (by decide) (by decide) (by decide), Dev.fld_setFld_of_beside _ _ _ _ _ (by decide),
      Dev.fld_setFld _ _ _ _ (by decide) (by decide)]
    rfl
  · rw [hafter _ _ (by decide) (by decide) (by decide), Dev.fld_setFld _ _ _ _ (by decide) (by decide)]
    rfl

/-- Module 0 ends the formation of a closed ring. -/
theorem formed_head_facts {m : Nat} (hm : m < 16) (d : Dev) : (formed m 0 true d).fld plkStatusCount = m ∧
    (formed m 0 true d).fld plkStatusPosition = 0 ∧ (formed m 0 true d).fld plkStatusClosed = 1 ∧ (formed m 0 true d).net.forming = false := by
  have hformed : formed m 0 true d = withNetLinks ((((d.setFld plkStatusCount m).setFld plkStatusPosition 0).setFld plkStatusClosed 1).setFld
      plkCtrlReform 0) { d.net with forming := false } { d.links with formed := true, breaks := [], aligned := 0, parts := [] } := rfl
  rw [hformed]
  simp only [withNetLinks_fld]
  refine ⟨?_, ?_, ?_, rfl⟩
  · rw [Dev.fld_setFld_of_beside _ _ _ _ _ (by decide), Dev.fld_setFld_of_beside _ _ _ _ _ (by decide),
      Dev.fld_setFld_of_beside _ _ _ _ _ (by decide), Dev.fld_setFld _ _ _ _ (by decide) (by decide)]
    exact Nat.mod_eq_of_lt hm
  · rw [Dev.fld_setFld_of_beside _ _ _ _ _ (by decide), Dev.fld_setFld_of_beside _ _ _ _ _ (by decide),
      Dev.fld_setFld _ _ _ _ (by decide) (by decide)]
    rfl
  · rw [Dev.fld_setFld_of_beside _ _ _ _ _ (by decide), Dev.fld_setFld _ _ _ _ (by decide) (by decide)]
    rfl

theorem ringDiscover_of_on (pos : Nat) (own : Bool) (hon : d.flag plkCtrlEnable = true) (hup : linkIsUp d 0 = true) :
    ringDiscover pos own d = if d.flag plkCtrlHead then
        if !own then ringControl (ringError d) 0 rcError 0 0
        else if !d.net.forming then d
        else ringControl (formed (pos + 1) 0 true d) 0 rcFormed (pos + 1) 1
      else if 8 ≤ pos + 1 then ringControl (ringControl (ringError d) 0 rcError 0 0) 1 rcError 0 0
      else
        let e : Dev := { d.setFld plkStatusPosition (pos + 1) with net := { d.net with forming := true } }
        if linkIsUp e 0 then ringControl e 0 rcDiscover 0 (pos + 1)
        else ringControl (formed (pos + 2) (pos + 1) false e) 1 rcFormed (pos + 2) 0 := by
  unfold ringDiscover
  rw [hon, hup, Bool.true_or, if_neg (by decide)]

/-- A module that is not the head takes its position and passes the discovery on. -/
theorem ringDiscover_passes {pos : Nat} (hon : d.flag plkCtrlEnable = true) (hup : linkIsUp d 0 = true) (hhead : d.flag plkCtrlHead = false)
    (hpos : pos < 7) : (ringDiscover pos false d).position = pos + 1 ∧
      (ringDiscover pos false d).out = d.out ++ [.flit 0 (controlSent rcDiscover 0 (pos + 1))] ∧ (ringDiscover pos false d).net.forming = true := by
  have hon' := ringDiscover_of_on pos false hon hup
  set e := withNetLinks (d.setFld plkStatusPosition (pos + 1)) { d.net with forming := true } d.links with he
  have hup' : linkIsUp e 0 = true := by
    rw [linkIsUp_congr (d := d) (by rw [he, withNetLinks_fld, fld_setFld_other _ _ rfl rfl (by decide)]), hup]
  have hpass : ringDiscover pos false d = e.emit (.flit 0 (controlSent rcDiscover 0 (pos + 1))) := by
    rw [hhead, if_neg Bool.false_ne_true, if_neg (by omega)] at hon'
    exact hon'.trans ((if_pos hup').trans (ringControl_of_up _ _ _ hup'))
  rw [hpass]
  refine ⟨?_, rfl, rfl⟩
  rw [Dev.position, Dev.emit_fld, he, withNetLinks_fld, Dev.fld_setFld _ _ _ _ (by decide) (by decide)]
  exact Nat.mod_eq_of_lt (by simp only [plkStatusPosition]; omega)

/-- A ninth position is an error: this module runs alone. -/
theorem ringDiscover_ninth {pos : Nat} (hon : d.flag plkCtrlEnable = true) (hup : linkIsUp d 0 = true) (hhead : d.flag plkCtrlHead = false)
    (hpos : 7 ≤ pos) : (ringDiscover pos false d).fld plkStatusRingErr = 1 ∧ (ringDiscover pos false d).modules = 1 ∧
      (ringDiscover pos false d).position = 0 := by
  obtain ⟨herr, hcount, hposition⟩ := ringError_facts d
  rw [ringDiscover_of_on pos false hon hup, hhead, if_neg Bool.false_ne_true, if_pos (by omega)]
  refine ⟨?_, modules_of_count ?_ le_rfl, ?_⟩
  · rw [ringControl_fld, ringControl_fld, herr]
  · rw [ringControl_fld, ringControl_fld, hcount]
  · rw [Dev.position, ringControl_fld, ringControl_fld, hposition]

/-- The discovery comes back to module 0: the ring is closed. -/
theorem ringDiscover_closes {pos : Nat} (hon : d.flag plkCtrlEnable = true) (hup : linkIsUp d 0 = true) (hhead : d.flag plkCtrlHead = true)
    (hforming : d.net.forming = true) (hpos : pos < 8) : (ringDiscover pos true d).modules = pos + 1 ∧
      (ringDiscover pos true d).position = 0 ∧ (ringDiscover pos true d).fld plkStatusClosed = 1 ∧
      (ringDiscover pos true d).net.forming = false := by
  obtain ⟨hcount, hposition, hclosed, hend⟩ := formed_head_facts (m := pos + 1) (by omega) d
  rw [ringDiscover_of_on pos true hon hup, hhead, if_pos rfl, hforming, if_neg (by decide), if_neg (by decide)]
  refine ⟨modules_of_count ?_ (by omega), ?_, ?_, ?_⟩
  · rw [ringControl_fld, hcount]
  · rw [Dev.position, ringControl_fld, hposition]
  · rw [ringControl_fld, hclosed]
  · rw [ringControl_net, hend]

/-- Another head's discovery is an error. -/
theorem ringDiscover_second (pos : Nat) (hon : d.flag plkCtrlEnable = true) (hup : linkIsUp d 0 = true) (hhead : d.flag plkCtrlHead = true) :
    (ringDiscover pos false d).fld plkStatusRingErr = 1 ∧ (ringDiscover pos false d).modules = 1 := by
  obtain ⟨herr, hcount, -⟩ := ringError_facts d
  rw [ringDiscover_of_on pos false hon hup, hhead, if_pos rfl, if_pos (by decide)]
  refine ⟨?_, modules_of_count ?_ le_rfl⟩
  · rw [ringControl_fld, herr]
  · rw [ringControl_fld, hcount]

/-! ### Delay measurement (R420, R421) -/

/-- The delay that has been measured, in its register: no other field of the links' changes. -/
theorem delaySet_fld (hl : l < 2) (v : Nat) {f : Fld} (hw : f.wide = false) (hs : f.stride = 0) (hb : f.base < 0xD010) :
    (d.setFld plkLinkDelayDelay v l).fld f = d.fld f :=
  fld_setFld_other d v rfl hw (by rw [hs]; simp only [plkLinkDelayDelay]; omega)

theorem delayMeasured_of_alone (hl : l < 2) (delay : Nat) (offset : Int) (hup : linkIsUp d l = true) (hm : d.modules < 2) :
    delayMeasured l delay offset d = d.setFld plkLinkDelayDelay (delay % 2 ^ 24) l := by
  have hcount : (d.setFld plkLinkDelayDelay (delay % 2 ^ 24) l).modules = d.modules := by
    rw [Dev.modules, delaySet_fld hl _ rfl rfl (by decide), Dev.modules]
  unfold delayMeasured
  rw [hup, if_neg (by decide)]
  dsimp only
  rw [hcount, decide_eq_true hm, Bool.true_or, if_pos rfl]

/-- The first offset beyond 1 µs while this module aligns: its time is to step forward. -/
theorem delayMeasured_steps (hl : l < 2) (delay : Nat) {offset : Int} (hup : linkIsUp d l = true) (hm : 2 ≤ d.modules)
    (hpos : d.position ≠ 0) (haligning : d.flag plkStatusAligning = true) (hdue : d.net.stepDue = false) (hfirst : d.links.aligned = 0)
    (hfar : 1000 < offset) : delayMeasured l delay offset d =
      withNetLinks (d.setFld plkLinkDelayDelay (delay % 2 ^ 24) l) { d.net with stepDue := true } d.links := by
  set e := d.setFld plkLinkDelayDelay (delay % 2 ^ 24) l with he
  have hkept {f : Fld} (hw : f.wide = false) (hs : f.stride = 0) (hb : f.base < 0xD010) : e.fld f = d.fld f := delaySet_fld hl _ hw hs hb
  have hmany : ¬ (decide (e.modules < 2) || decide (e.position = 0)) = true := by
    rw [Dev.modules, Dev.position, hkept rfl rfl (by decide), hkept rfl rfl (by decide), ← Dev.modules, ← Dev.position]
    simp only [Bool.or_eq_true, decide_eq_true_eq, hpos, or_false]
    omega
  have hsteps : (e.flag plkStatusAligning && decide (1000 < offset) && !e.net.stepDue && decide (e.links.aligned = 0)) = true := by
    have haligning' : e.flag plkStatusAligning = true := by rw [Dev.flag, hkept rfl rfl (by decide), ← Dev.flag, haligning]
    have hdue' : e.net.stepDue = false := hdue
    have hfirst' : e.links.aligned = 0 := hfirst
    rw [haligning', decide_eq_true hfar, hdue', hfirst']
    rfl
  unfold delayMeasured
  rw [hup, if_neg (by decide)]
  dsimp only
  rw [← he, if_neg hmany, if_pos hsteps]
  rfl

end

end Sys2Proof.Machine
end

section
/-! PROOFS. PLK_CTRL's commands (R423, R528), and O51. -/

namespace Sys2Proof.Machine

/-! ### A write of PLK_CTRL -/

def plkCtrlReg : RDef :=
  ⟨rPlkCtrl, 0x0, 1, false, false, .network, [⟨0, 0, .rwl, 0⟩, ⟨1, 1, .rwl, 0⟩, ⟨2, 2, .w1s, 0⟩, ⟨3, 3, .w1s, 0⟩]⟩

theorem findReg_plkCtrl : findReg rPlkCtrl = some plkCtrlReg := by decide +kernel

theorem plkCtrlReg_wordByCodes : plkCtrlReg.WordByCodes := ⟨rfl, rfl, by decide, by decide, by simp [plkCtrlReg, FDef.apart]⟩

/-- The device with PLK_CTRL written. -/
def plkWritten (p : Port) (v : Nat) (d : Dev) : Dev := writeByCodes p plkCtrlReg 0 v d

/-- A command bit is written over the settings as they stand: what the bits command follows. -/
theorem commandBit_plkCtrl {s : State} {p : Port} {r : RDef} {mask : Nat} (hmask : mask < 2 ^ 32) (h : Reached s.dev p rPlkCtrl 4 true r 0) :
    commandBit p rPlkCtrl mask s = s.mapDev fun d =>
      plkCommands ((bankWord s.dev.regs rPlkCtrl).toNat ||| mask) (plkWritten p ((bankWord s.dev.regs rPlkCtrl).toNat ||| mask) d) := by
  have hmod : ((bankWord s.dev.regs rPlkCtrl).toNat ||| mask) % 2 ^ 32 = (bankWord s.dev.regs rPlkCtrl).toNat ||| mask :=
    Nat.mod_eq_of_lt (Nat.or_lt_two_pow (bankWord s.dev.regs rPlkCtrl).isLt hmask)
  rw [commandBit, cmdWrite_command _ h findReg_plkCtrl plkCtrlReg_wordByCodes (by decide), hmod]
  rfl

section
variable {d : Dev} {p : Port} {v : Nat}

theorem plkWritten_regs (p : Port) (v : Nat) (d : Dev) : RegsWritten d (plkWritten p v d) := plkCtrlReg_wordByCodes.regsWritten p 0 v d

theorem plkWritten_fld_ne {f : Fld} {i : Nat} (hw : f.wide = false) (h : f.base + i * f.stride ≠ plkCtrlReg.at 0)
    (he : f.base + i * f.stride ≠ rDevErrStatus) : (plkWritten p v d).fld f i = d.fld f i :=
  plkCtrlReg_wordByCodes.fld_ne p 0 v d hw h he

/-- HEAD is written back as it stands. -/
theorem plkWritten_head {mask : Nat} (hmask : mask.testBit 1 = false) :
    (plkWritten p ((bankWord d.regs rPlkCtrl).toNat ||| mask) d).fld plkCtrlHead = d.fld plkCtrlHead := by
  have hsame : bits ((bankWord d.regs rPlkCtrl).toNat ||| mask) 1 1 = bits (bankWord d.regs rPlkCtrl).toNat 1 1 := by
    rw [bits_single, bits_single, bit_eq_testBit, bit_eq_testBit, Nat.testBit_or, hmask, Bool.or_false]
  have hfield := plkCtrlReg_wordByCodes.fld_written p 0 ((bankWord d.regs rPlkCtrl).toNat ||| mask) d (f := plkCtrlHead) rfl rfl (by decide)
    (g := ⟨1, 1, .rwl, 0⟩) (by decide) ⟨rfl, rfl⟩
  have hold : d.fld plkCtrlHead = bits (bankWord d.regs rPlkCtrl).toNat 1 1 := rfl
  refine hfield.trans ?_
  have hat : plkCtrlReg.at 0 = rPlkCtrl := by decide
  rw [hat]
  simp only [writeField, hsame, ite_self]
  exact hold.symm

theorem bit_of_idle {w : Nat} (h : bits w 3 2 = 0) {i : Nat} (hi : i = 2 ∨ i = 3) : bit w i = false := by
  have hbit := testBit_bits w 3 2 (i - 2)
  rw [h, Nat.zero_testBit] at hbit
  rw [bit_eq_testBit]
  rcases hi with rfl | rfl <;> simpa using hbit.symm

theorem bit_or_mask {w mask i : Nat} : bit (w ||| mask) i = (bit w i || bit mask i) := by
  rw [bit_eq_testBit, bit_eq_testBit, bit_eq_testBit, Nat.testBit_or]

/-! ### REFORM (R423) -/

theorem plkCommands_reform {w : Nat} (h : bits w 3 2 = 0) (d : Dev) : plkCommands (w ||| 4) d = reform d := by
  unfold plkCommands
  rw [bit_or_mask, bit_or_mask, bit_of_idle h (.inl rfl), bit_of_idle h (.inr rfl), if_neg (by decide), if_pos (by decide)]

theorem plkCommands_leave {w : Nat} (h : bits w 3 2 = 0) (d : Dev) : plkCommands (w ||| 8) d = beginRemoval (d.setFld plkCtrlLeave 1) := by
  unfold plkCommands
  rw [bit_or_mask, bit_or_mask, bit_of_idle h (.inl rfl), bit_of_idle h (.inr rfl), if_pos (by decide), if_neg (by decide)]

theorem reform_of_head (hhead : d.flag plkCtrlHead = true) (hlink : d.links.downAt ≠ some d.time) :
    (reform d).net.forming = true ∧ (reform d).fld plkCtrlReform = 1 := by
  have hreform : reform d = ringControl (withNetLinks (d.setFld plkCtrlReform 1) { d.net with forming := true }
      { d.links with reformAt := some d.time }) 0 rcDiscover 0 0 := by
    unfold reform
    rw [hhead, if_neg (by decide), if_neg hlink]
    rfl
  rw [hreform]
  refine ⟨by rw [ringControl_net]; rfl, ?_⟩
  rw [ringControl_fld, withNetLinks_fld, Dev.fld_setFld _ _ _ _ (by decide) (by decide)]
  rfl

theorem reform_of_met (hhead : d.flag plkCtrlHead = true) (hlink : d.links.downAt = some d.time) :
    reform d = d.setFld plkStatusReformErr 1 := by
  unfold reform
  rw [hhead, if_neg (by decide), if_pos hlink]

theorem reform_of_other (hhead : d.flag plkCtrlHead = false) : reform d = d := by
  unfold reform
  rw [hhead, if_pos (by decide)]

/-! ### LEAVE (R423, R528) -/

/-- What a ring's disabling leaves: the network, and every register above the submission rings'. -/
structure KeepsAbove (d e : Dev) : Prop where
  net : e.net = d.net
  word : ∀ o, 0x2800 ≤ o → bankWord e.regs o = bankWord d.regs o

namespace KeepsAbove
variable {e g : Dev}

theorem refl (d : Dev) : KeepsAbove d d := ⟨rfl, fun _ _ => rfl⟩

theorem trans (h : KeepsAbove d e) (h' : KeepsAbove e g) : KeepsAbove d g :=
  ⟨h'.net.trans h.net, fun o ho => (h'.word o ho).trans (h.word o ho)⟩

/-- The last step first. -/
theorem after (h' : KeepsAbove e g) (h : KeepsAbove d e) : KeepsAbove d g := h.trans h'

theorem updSq (d : Dev) (k : Nat) (f : SqState → SqState) : KeepsAbove d (d.updSq k f) := ⟨rfl, fun _ _ => rfl⟩
theorem updCq (d : Dev) (k : Nat) (f : CqState → CqState) : KeepsAbove d (d.updCq k f) := ⟨rfl, fun _ _ => rfl⟩

theorem ite {c : Prop} [Decidable c] (he : KeepsAbove d e) (hg : KeepsAbove d g) : KeepsAbove d (if c then e else g) := by
  split
  · exact he
  · exact hg

end KeepsAbove

section
variable {k : Nat} (hk : k < 64) (d : Dev)
include hk

theorem setFld_keepsAbove (f : Fld) (v : Nat) (hf : f.ofSqBlock = true) : KeepsAbove d (d.setFld f v k) where
  net := rfl
  word o ho := by
    simp only [Fld.ofSqBlock, Bool.and_eq_true, Bool.not_eq_true', decide_eq_true_eq] at hf
    obtain ⟨hw, hs, hlow, hhigh⟩ := hf
    refine Dev.setFld_word_ne _ _ _ _ ?_ (by simp [hw])
    rw [hs]
    omega

omit hk in
theorem endPass_keepsAbove : KeepsAbove d (endPass d k) := by
  unfold endPass
  split
  · exact .ite (.updSq d k _) (.refl d)
  · exact .refl d

theorem discardRing_keepsAbove : KeepsAbove d (discardRing d k) := by
  unfold discardRing
  split
  · exact (endPass_keepsAbove _).after ((KeepsAbove.updCq _ _ _).after (.updSq d k _))
  · exact .ite (.refl d) (setFld_keepsAbove hk d _ _ (by decide))

theorem disableRing_keepsAbove : KeepsAbove d (disableRing d k) := by
  have hstopped (e : Dev) : KeepsAbove e (updStopped e k) := .ite (.refl e) (setFld_keepsAbove hk e _ _ (by decide))
  exact (hstopped _).after ((KeepsAbove.updSq _ _ _).after ((setFld_keepsAbove hk _ sqCfgEnable 0 (by decide)).after
    (.ite (discardRing_keepsAbove hk d) (.refl d))))

end

/-- The triggered rings are disabled. -/
def triggeredDisabled (d : Dev) : Dev := ((upto 64).filter fun k => d.flag sqCfgTriggered k && d.flag sqCfgEnable k).foldl disableRing d

theorem triggeredDisabled_keepsAbove (d : Dev) : KeepsAbove d (triggeredDisabled d) :=
  foldl_keeps_of_mem (P := KeepsAbove d) _ (.refl d) fun e _ hk he =>
    he.trans (disableRing_keepsAbove (List.mem_range.mp (List.mem_filter.mp hk).1) e)

/-- A ring that is disabled stays so while others are. -/
theorem disableRing_keepsDisabled {k j : Nat} (hj : j < 64) {e : Dev} (he : e.flag sqCfgEnable k = false) :
    (disableRing e j).flag sqCfgEnable k = false := by
  rcases eq_or_ne j k with rfl | hne
  · exact disableRing_disabled e j
  · have hword := (disableRing_keepsRing hj hne e).word (rSqCfg + k * 0x20) (by simp only [rSqCfg, rSqBase]; omega)
    rw [Dev.flag, Dev.fld_congr_word (f := sqCfgEnable) rfl hword]
    exact he

theorem triggeredDisabled_disabled {k : Nat} (hk : k < 64) (htrig : d.flag sqCfgTriggered k = true) :
    (triggeredDisabled d).flag sqCfgEnable k = false := by
  have hkeep (e : Dev) (j : Nat) (hj : j ∈ (upto 64).filter fun k => d.flag sqCfgTriggered k && d.flag sqCfgEnable k)
      (he : e.flag sqCfgEnable k = false) : (disableRing e j).flag sqCfgEnable k = false :=
    disableRing_keepsDisabled (List.mem_range.mp (List.mem_filter.mp hj).1) he
  cases hen : d.flag sqCfgEnable k with
  | false => exact foldl_keeps_of_mem (P := fun e => e.flag sqCfgEnable k = false) _ hen hkeep
  | true =>
    have hmem : k ∈ (upto 64).filter fun k => d.flag sqCfgTriggered k && d.flag sqCfgEnable k :=
      List.mem_filter.mpr ⟨List.mem_range.mpr hk, by rw [htrig, hen]; rfl⟩
    exact foldl_reaches (P := fun e => e.flag sqCfgEnable k = false) hmem (disableRing_disabled · k) hkeep _

theorem beginRemoval_of_powered (hpow : d.boot.powered = true) (hdraining : d.flag devPwrDraining = false) : beginRemoval d =
    (withNetLinks (triggeredDisabled d) { (triggeredDisabled d).net with leaving := true } (triggeredDisabled d).links).setFld devPwrDraining 1 := by
  unfold beginRemoval
  rw [hpow, hdraining, if_neg (by decide)]
  rfl

/-- An announced removal begins. -/
theorem beginRemoval_facts (hpow : d.boot.powered = true) (hdraining : d.flag devPwrDraining = false) :
    (beginRemoval d).flag devPwrDraining = true ∧ (beginRemoval d).net.leaving = true ∧
    (beginRemoval d).fld plkCtrlLeave = d.fld plkCtrlLeave ∧
    ∀ k < 64, d.flag sqCfgTriggered k = true → (beginRemoval d).flag sqCfgEnable k = false := by
  rw [beginRemoval_of_powered hpow hdraining]
  refine ⟨?_, rfl, ?_, fun k hk htrig => ?_⟩
  · rw [Dev.flag, Dev.fld_setFld _ _ _ _ (by decide) (by decide)]
    rfl
  · rw [Dev.fld_setFld_of_beside _ _ _ _ _ (by decide), withNetLinks_fld]
    exact Dev.fld_congr_word rfl ((triggeredDisabled_keepsAbove d).word _ (by decide))
  · rw [Dev.flag, fld_setFld_other _ _ rfl rfl (by simp only [sqCfgEnable, devPwrDraining]; omega), withNetLinks_fld]
    exact triggeredDisabled_disabled hk htrig

end

/-- REFORM, as a command. -/
theorem exec_plkReform_of_reached {s : State} {p : Port} {r : RDef} (h : Reached s.dev p rPlkCtrl 4 true r 0)
    (hidle : bits (bankWord s.dev.regs rPlkCtrl).toNat 3 2 = 0) : ∃ e, exec (.plkReform p) s = leaves s (reform e) ∧ RegsWritten s.dev e ∧
      e.fld plkCtrlHead = s.dev.fld plkCtrlHead := by
  refine ⟨plkWritten p ((bankWord s.dev.regs rPlkCtrl).toNat ||| 4) s.dev, ?_, plkWritten_regs _ _ _, plkWritten_head (by decide)⟩
  rw [exec_plkReform, execPlkReform, commandBit_plkCtrl (by decide) h, State.mapDev, plkCommands_reform hidle]
  rfl

/-- LEAVE, as a command. -/
theorem exec_plkLeave_of_reached {s : State} {p : Port} {r : RDef} (h : Reached s.dev p rPlkCtrl 4 true r 0)
    (hidle : bits (bankWord s.dev.regs rPlkCtrl).toNat 3 2 = 0) (hpow : s.dev.boot.powered = true)
    (hdraining : s.dev.flag devPwrDraining = false) : ∃ u, exec (.plkLeave p) s = .next u ∧ u.dev.flag devPwrDraining = true ∧
      u.dev.net.leaving = true ∧ u.dev.fld plkCtrlLeave = 1 ∧
      ∀ k < 64, s.dev.flag sqCfgTriggered k = true → u.dev.flag sqCfgEnable k = false := by
  set e := plkWritten p ((bankWord s.dev.regs rPlkCtrl).toNat ||| 8) s.dev with he
  have hexec : exec (.plkLeave p) s = leaves s (beginRemoval (e.setFld plkCtrlLeave 1)) := by
    rw [exec_plkLeave, execPlkLeave, commandBit_plkCtrl (by decide) h, State.mapDev, plkCommands_leave hidle]
    rfl
  have hpow' : (e.setFld plkCtrlLeave 1).boot.powered = true := by rw [Dev.setFld_boot, (plkWritten_regs _ _ _).boot, hpow]
  have hdraining' : (e.setFld plkCtrlLeave 1).flag devPwrDraining = false := by
    rw [Dev.flag, Dev.fld_setFld_of_beside _ _ _ _ _ (by decide), plkWritten_fld_ne rfl (by decide) (by decide), ← Dev.flag, hdraining]
  have htrig (k : Nat) (hk : k < 64) : (e.setFld plkCtrlLeave 1).flag sqCfgTriggered k = s.dev.flag sqCfgTriggered k := by
    have hat : plkCtrlReg.at 0 = 0xD000 := by decide
    rw [Dev.flag, fld_setFld_other _ _ rfl rfl (by simp only [sqCfgTriggered, plkCtrlLeave]; omega),
      plkWritten_fld_ne rfl (by rw [hat]; simp only [sqCfgTriggered]; omega) (by simp only [sqCfgTriggered, rDevErrStatus]; omega), Dev.flag]
  obtain ⟨hdrains, hleaving, hleave, hdisabled⟩ := beginRemoval_facts hpow' hdraining'
  refine ⟨_, hexec, hdrains, hleaving, hleave.trans (Dev.fld_setFld _ _ _ _ (by decide) (by decide)), fun k hk ht => ?_⟩
  exact hdisabled k hk ((htrig k hk).trans ht)

/-- Settles O51: a flit is taken by its kind; a link that goes down leaves a line or a module alone; formation, delays and the commands of
PLK_CTRL follow the branches of their rules. -/
theorem linkAndRingResults : Obligations.LinkAndRingResults := by
  unfold Obligations.LinkAndRingResults
  refine ⟨fun s l hl => ?links, fun s l hl => ?ring⟩
  case links =>
    intro d k down hup
    have halone (e : Dev) (hup' : linkIsUp e l = true) (hm : e.modules < 2) : down { s with dev := linkDown l e } := by
      obtain ⟨hdown, hseen, hlink, -⟩ := linkLost_facts hl e
      rw [linkDown_of_alone hl hup' hm]
      exact ⟨hdown, hseen, hlink⟩
    refine ⟨fun f ok hbad => ⟨fun hopen => ?_, fun hnacked => ?_⟩, fun f hcrc htype hseq hreplay hmodules =>
      ⟨fun m hdst hroute hne hfree => ?_, fun hdst happlied => ?_⟩, fun f x n hcrc htype hreplay hseq => ?_,
      fun f x n hcrc htype hreplay hseq hn => ?_, fun hm => ⟨?_, fun hreplay => ?_⟩, fun hreplay => ?_,
      fun hm hp hbreaks hreplay => ?_, ?_, fun hfew => ?_, fun hmany hm => ?_⟩
    · have hreceive := (flitReceive_of_bad hup hbad).trans (sendNack_of_open hopen)
      have hlink := sendNack_link hopen
      rw [sendNack_of_open hopen] at hlink
      have hexpect := congrArg Link.expect hlink
      have hnacked := congrArg Link.nacked hlink
      exact ⟨_, _, congrArg (leaves s) hreceive, rfl, rfl, BitVec.toNat_ofNat _ _, hexpect, hnacked⟩
    · exact congrArg (leaves s) ((flitReceive_of_bad hup hbad).trans (if_pos hnacked))
    · obtain ⟨g, h, hfacts⟩ := flitForwarded hup hcrc htype hseq hreplay hmodules hdst hroute hne hfree
      exact ⟨_, g, h, rfl, hfacts⟩
    · have hreceive := flitDiscarded hup hcrc htype hseq hreplay hdst happlied
      refine ⟨_, _, congrArg (leaves s) hreceive, rfl, rfl, BitVec.ofNat_toNat 12 f.seq, ?_, rfl⟩
      exact congrArg Link.expect (flitTaken_link l f d)
    · have hreceive := flitReceive_of_good hup hcrc
      rw [htype] at hreceive
      have hacked := hreceive.trans (takeAck_of_single hreplay (congrArg BitVec.toNat hseq))
      exact ⟨_, congrArg (leaves s) hacked, congrArg Link.replay (Dev.link_updLink_self d l fun k => { k with replay := [] }), rfl⟩
    · have hreceive := flitReceive_of_good hup hcrc
      rw [htype] at hreceive
      exact ⟨_, congrArg (leaves s) hreceive, takeNack_of_single hreplay (congrArg BitVec.toNat hseq) hn⟩
    · refine ⟨_, rfl, halone d hup hm, fun hforming hat => ?_⟩
      have hlost := linkLost_reform hl hforming hat
      rw [← linkDown_of_alone hl hup hm] at hlost
      exact hlost
    · exact ⟨_, congrArg (leaves s) (if_neg hreplay), halone d hup hm⟩
    · exact congrArg (leaves s) (if_pos hreplay)
    · obtain ⟨hdown, hseen, hlink, hrest⟩ := linkDown_ring_facts hl hup hm hp hbreaks hreplay
      exact ⟨_, rfl, ⟨hdown, hseen, hlink⟩, hrest⟩
    · refine ⟨_, congrArg (leaves s) (retryWindow_of_good hup), ?_, hup⟩
      exact congrArg Link.badWindows (Dev.link_updLink_self d l fun k => { k with badWindows := 0 })
    · obtain ⟨hbad, hdegraded, hstill, -⟩ := windowOver_facts l d
      have hgood : ¬ 10 ≤ (d.link l).badWindows + 1 := Nat.not_le.mpr (Nat.succ_lt_succ hfew)
      exact ⟨_, congrArg (leaves s) ((retryWindow_of_over hup).trans (if_neg hgood)), hbad, hdegraded, hstill.trans hup⟩
    · obtain ⟨-, -, hstill, hmodules⟩ := windowOver_facts l d
      exact ⟨_, congrArg (leaves s) ((retryWindow_of_over hup).trans (if_pos (Nat.succ_le_succ hmany))),
        halone (windowOver l d) (hstill.trans hup) (by rwa [hmodules])⟩
  case ring =>
    intro d
    refine ⟨fun hpow hon hup hhead => ?_, fun hon hup => ⟨fun pos hhead hpos => ?_, fun pos hhead hpos => ?_, fun pos hhead hforming hpos => ?_,
      fun pos hhead => ?_⟩, fun delay offset hup hm => ?_, fun delay offset hup hm hpos haligning hdue hfirst hfar => ?_,
      fun p ⟨r, hr⟩ hidle => ⟨fun hhead hlink => ?_, fun hhead hlink => ?_, fun hhead => ?_, fun hpow hdraining => ?_⟩⟩
    · exact ⟨_, congrArg (leaves s) (linkTrained_of_plain hl hpow hon hup hhead), linkIsUp_trained hl, Dev.link_updLink_self _ l _, rfl⟩
    · obtain ⟨hposition, hout, hforming⟩ := ringDiscover_passes hon hup hhead hpos
      refine ⟨_, _, rfl, hposition, hout, rfl, ?_, hforming⟩
      exact (BitVec.toNat_ofNat _ _).trans (Nat.mod_eq_of_lt (by omega))
    · exact ⟨_, rfl, ringDiscover_ninth hon hup hhead hpos⟩
    · exact ⟨_, rfl, ringDiscover_closes hon hup hhead hforming hpos⟩
    · exact ⟨_, rfl, ringDiscover_second pos hon hup hhead⟩
    · exact congrArg (leaves s) (delayMeasured_of_alone hl delay offset hup hm)
    · refine ⟨_, congrArg (leaves s) (delayMeasured_steps hl delay hup hm hpos haligning hdue hfirst hfar), ?_, ?_, ?_⟩
      · rw [withNetLinks_net]
      · rw [withNetLinks_time, Dev.setFld_time]
      · rw [withNetLinks_fld]
        exact Dev.fld_setFld_ne d plkLinkDelayDelay timeIncInc l 0 _
          (.inl (by simp only [plkLinkDelayDelay, timeIncInc, b2n, if_true]; omega))
    · obtain ⟨e, hexec, hregs, hkept⟩ := exec_plkReform_of_reached hr hidle
      obtain ⟨b, rfl⟩ := hregs
      exact ⟨_, hexec, reform_of_head ((congrArg (fun n => decide (n ≠ 0)) hkept).trans hhead) hlink⟩
    · obtain ⟨e, hexec, hregs, hkept⟩ := exec_plkReform_of_reached hr hidle
      obtain ⟨b, rfl⟩ := hregs
      refine ⟨_, hexec.trans (congrArg (leaves s) (reform_of_met ((congrArg (fun n => decide (n ≠ 0)) hkept).trans hhead) hlink)), ?_, ?_⟩
      · rw [Dev.setFld_net]
      · exact Dev.fld_setFld _ _ _ _ (by decide) (by decide)
    · obtain ⟨e, hexec, hregs, hkept⟩ := exec_plkReform_of_reached hr hidle
      have hother := reform_of_other ((congrArg (fun n => decide (n ≠ 0)) hkept).trans hhead)
      exact ⟨_, hexec.trans (congrArg (leaves s) hother), hregs.net⟩
    · exact exec_plkLeave_of_reached hr hidle hpow hdraining

end Sys2Proof.Machine
end
